-- ==== Sys2Proof/Word.lean ====
section
/-!
DEFINITION. The word types of the Kamys and the association lists its sparse state is kept in.
-/
namespace Sys2Proof

/-- A byte of memory (R4). -/
abbrev Byte := BitVec 8

/-- A 32-bit general register or operand (R12). -/
abbrev Word := BitVec 32

/-- A 64-bit value: a register pair, an address, a 64-bit control register (R5). -/
abbrev DWord := BitVec 64

/-- An operand code (R80). -/
abbrev Code := BitVec 9

/-- The 96 bits of one instruction (R325). -/
abbrev Bits96 := BitVec 96

/-- A sparse table: each key at most once, in any order. -/
abbrev Tbl (α β : Type) := List (α × β)

end Sys2Proof
end

