-- ==== Sys2Proof/Config.lean ====
section
/-!
DEFINITION. The free values: what the manual leaves open. Each is a constant with no body, so no proof sees what it is; the
machine applies it to the operands it depends on or to the counter `free` of its state (R85, R405, R440, R473, R475, R322, R310).
-/
namespace Sys2Proof.Config

/-- The clocks that step number `n` takes, which may be none: the manual gives only upper bounds (R34). (DESIGN CHOICE, log 4) -/
opaque elapsed : Nat → Nat

/-- The skew of a core's count of s.clk, taken modulo 3 (R85). -/
opaque clkSkew : Nat → Nat

/-- The result the device picks for function `fn` of `x`, used only where it lies inside the bound of R440. (DESIGN CHOICE, log 44) -/
opaque transcendental : Nat → Word → Word

/-- Whether a read of an overlapped word sees the new value (R405, R473). (DESIGN CHOICE, log 49) -/
opaque seesNew : Nat → Bool

/-- The outcome of the packed-triangle test, whose stored form R268 does not give: hit or not, and T, U, V of the hit. (DESIGN CHOICE, log 45) -/
opaque packedTest : Nat → Bool × Word × Word × Word

/-- The outcome of a box test one of whose inputs is not a number or not finite (R462 decides on exact values): whether the box is
entered, and its rank among the node's children. (DESIGN CHOICE, log 46) -/
opaque oddBox : Nat → Bool × Nat

/-- Barycentrics u and v of a final record whose hit, accepted by a shader or before the ray passed through a fibre, names no triangle that can be read
(R460, R464). (DESIGN CHOICE, log 47) -/
opaque barycentric : Nat → BitVec 32 × BitVec 32

/-- Byte `k` of the bitstream that frame number `n` gives (R475), and its length. (DESIGN CHOICE, log 48) -/
opaque encodedByte : Nat → Nat → Byte
/-- The length of that bitstream. (DESIGN CHOICE, log 48) -/
opaque encodedLength : Nat → Nat

/-- Byte `k` of the answer to an SPDM request (R322), and the answer's length. -/
opaque spdmByte : Nat → Nat → Byte
/-- The length of that answer. -/
opaque spdmLength : Nat → Nat

/-- Byte `k` of the certificate chain of the part's identity key (R322). (PRESUMED, log 43) -/
opaque certificateByte : Nat → Byte
/-- The length of that chain. (PRESUMED, log 43) -/
opaque certificateLength : Nat
/-- Byte `k` of the digest of that chain (R322). (PRESUMED, log 43) -/
opaque digestByte : Nat → Byte

/-- Byte `k` of the measurement of an index under a firmware image (R322). (PRESUMED, log 43) -/
opaque measurementByte : Nat → Nat → Nat → Byte
/-- The length of that measurement. (PRESUMED, log 43) -/
opaque measurementLength : Nat → Nat → Nat

/-- Byte `k` of a save area's header, records and entries, whose inner layout R310 leaves open. (DESIGN CHOICE, log 31) -/
opaque saveByte : Nat → Nat → Byte

/-- The syndrome of an error (R237). (DESIGN CHOICE, log 50) -/
opaque syndrome : Nat → DWord

/-- Kind-specific DETAIL words of an error-log entry (R237 refers to a chapter that gives none). (DESIGN CHOICE, log 50) -/
opaque errorDetail : Nat → Nat → Word

/-- Word `i` that the `n`-th remote load completed by LINKLOSS writes (R321): the manual gives no value. (DESIGN CHOICE, log 42) -/
opaque lostWord : Nat → Nat → BitVec 32

/-- The channel of its stack that a 256-byte block lies in: the manual says only that blocks are spread across channels (R117).
(DESIGN CHOICE, log 51) -/
opaque channelOf : Nat → Nat

/-- The entry of the outstanding-request table at which the `n`-th search for a free one starts (R424); the manual does not say which
free entry a SENDR takes. (DESIGN CHOICE, log 52) -/
opaque rqStart : Nat → Nat

/-- s.seq of the `n`-th message delivered (R83); the manual does not say how it is counted. (DESIGN CHOICE, log 53) -/
opaque messageSeq : Nat → BitVec 32

/-- The device address of node launch record `index` of a task's queue table (slice, task, index): R214 numbers the records and does not say
where they stand. (DESIGN CHOICE, log 54) -/
opaque nodeRecord : Nat → Nat → Nat → Nat

/-- Word `k` of the `n`-th pixel start record: the manual gives only words 14 and 15 a content (R471). (DESIGN CHOICE, log 55) -/
opaque pixelWord : Nat → Nat → BitVec 32

/-- The place, in units of the page, that the `n`-th migration takes in its target tier: the manual does not say who allots it (R140).
(DESIGN CHOICE, log 56) -/
opaque migrationFrame : Nat → Nat

/-- Whether a router merges the `n`-th pair of packets that it may merge (R32): the manual says only that it may. (DESIGN CHOICE, log 7) -/
opaque merges : Nat → Bool

end Sys2Proof.Config
end

