-- ==== Sys2Proof/Syntax.lean ====
section
/-!
DEFINITION. The instruction set as syntax: the head and the seven bodies of R333 and R335, one constructor of `Instr` per row
of the opcode table. The first 170 constructors are the instructions, each with its head and the body of its format; the
other 120 are the device's own whole steps (95_what_each_step_holds.md), each with the parameters that say what it concerns.
-/
namespace Sys2Proof

/-- The instruction head without its opcode (R333): guard negate, guard predicate, modifier. -/
structure Head where
  gn : Bool
  gp : BitVec 4
  mod : BitVec 8
  deriving DecidableEq, Repr

/-- Format A (R335): destination, three sources, the 32-bit immediate. -/
structure BodyA where
  d : Code
  a : Code
  b : Code
  c : Code
  imm : Word
  deriving DecidableEq, Repr

/-- Format W (R335): destination pair and 64-bit immediate. -/
structure BodyW where
  d : Code
  imm : DWord
  deriving DecidableEq, Repr

/-- Format M (R335): memory. -/
structure BodyM where
  d : Code
  a : Code
  b : Code
  scope : BitVec 4
  ord : BitVec 2
  rem : Bool
  xf : Bool
  ext : BitVec 3
  size : BitVec 3
  off : BitVec 24
  deriving DecidableEq, Repr

/-- Format B (R335): branch. -/
structure BodyB where
  a : Code
  ldisp : BitVec 16
  tslot : BitVec 3
  deriving DecidableEq, Repr

/-- Format K (R335): message and synchronisation. -/
structure BodyK where
  d : Code
  a : Code
  b : Code
  c : Code
  scope : BitVec 4
  cls : BitVec 4
  mlen : BitVec 4
  mask1 : BitVec 7
  mask2 : BitVec 7
  num : BitVec 7
  deriving DecidableEq, Repr

/-- Format X (R335): engine. -/
structure BodyX where
  d : Code
  a : Code
  b : Code
  qa : BitVec 4
  qb : BitVec 4
  tile : BitVec 6
  nt : BitVec 6
  fa : BitVec 4
  fb : BitVec 4
  cidx : BitVec 9
  sub : BitVec 4
  deriving DecidableEq, Repr

/-- Format S (R335): system. -/
structure BodyS where
  d : Code
  a : Code
  b : Code
  imm : BitVec 16
  deriving DecidableEq, Repr

/-- An error that the device's protection finds (R303, R304): the structure code, where it lies, whether the code corrects it.
`addr` is a physical address for HBM4 and the L2, a byte offset for a cistern, and the structure's own index otherwise (a code line, an
accumulator row tile × 128 + row, a queue or table entry, a ray slot); `part` is the partition, the link, the pin, the fibre slot × 32 + lane,
or which of the queues or tables. -/
structure ErrorSpec where
  struct : Nat
  core : Nat
  stack : Nat
  addr : Nat
  part : Nat
  corrected : Bool
  synd : DWord
  deriving DecidableEq, Repr

/-- What a self-test finds (R305). -/
inductive TestResult where
  | pass
  | fail
  deriving DecidableEq, Repr

/-- What a debugger writes into a stopped team (R313). -/
inductive DebugWrite where
  | reg (core slot lane n : Nat) (value : Word)
  | preds (core slot lane : Nat) (value : BitVec 16)
  | fsr (core slot lane : Nat) (value : Word)
  | pc (core slot lane : Nat) (value : Word)
  | codeLine (core line : Nat) (words : List Word)
  deriving DecidableEq, Repr

/-- The algorithms an SPDM requester offers (R322). -/
inductive SpdmAlg where
  | sm2
  | sm3
  | other (code : Nat)
  deriving DecidableEq, Repr

/-- One primitive handed to a raster sequencer: a triangle in sixteenths of a pixel, its own rate code and its sequence number. -/
structure Prim where
  x0 : Int
  y0 : Int
  x1 : Int
  y1 : Int
  x2 : Int
  y2 : Int
  rate : BitVec 4
  seq : Word
  deriving DecidableEq, Repr

/-- A draw as a raster sequencer takes it (R269-R272): the sequencer's die, the slice, the descriptor set, the draw state,
the pixel queue its records go to, the shader entry, the section key of each tile's first word, and the primitives. -/
structure DrawSpec where
  die : Nat
  slice : Nat
  set : Nat
  drawState : Nat
  task : Nat
  queue : Nat
  entry : Word
  keyBase : DWord
  prims : List Prim
  deriving DecidableEq, Repr

/-- One constructor per row of the opcode table. -/
inductive Instr where
  /-- ELECT, opcode 0x00B, format A (R362). -/
  | elect (h : Head) (o : BodyA)
  /-- VOTE, opcode 0x00C, format A (R362). -/
  | vote (h : Head) (o : BodyA)
  /-- SHFL, opcode 0x00D, format A (R362). -/
  | shfl (h : Head) (o : BodyA)
  /-- IADD, opcode 0x080, format A (R374). -/
  | iadd (h : Head) (o : BodyA)
  /-- ISUB, opcode 0x081, format A (R374). -/
  | isub (h : Head) (o : BodyA)
  /-- IMUL, opcode 0x082, format A (R374). -/
  | imul (h : Head) (o : BodyA)
  /-- IMAD, opcode 0x083, format A (R374). -/
  | imad (h : Head) (o : BodyA)
  /-- IDIV, opcode 0x084, format A (R374). -/
  | idiv (h : Head) (o : BodyA)
  /-- IREM, opcode 0x085, format A (R374). -/
  | irem (h : Head) (o : BodyA)
  /-- IMIN, opcode 0x086, format A (R374). -/
  | imin (h : Head) (o : BodyA)
  /-- IMAX, opcode 0x087, format A (R374). -/
  | imax (h : Head) (o : BodyA)
  /-- IABS, opcode 0x088, format A (R374). -/
  | iabs (h : Head) (o : BodyA)
  /-- AND, opcode 0x089, format A (R374). -/
  | and (h : Head) (o : BodyA)
  /-- OR, opcode 0x08A, format A (R374). -/
  | or (h : Head) (o : BodyA)
  /-- XOR, opcode 0x08B, format A (R374). -/
  | xor (h : Head) (o : BodyA)
  /-- ANDN, opcode 0x08C, format A (R374). -/
  | andn (h : Head) (o : BodyA)
  /-- SHL, opcode 0x08D, format A (R374). -/
  | shl (h : Head) (o : BodyA)
  /-- SHR, opcode 0x08E, format A (R374). -/
  | shr (h : Head) (o : BodyA)
  /-- SAR, opcode 0x08F, format A (R374). -/
  | sar (h : Head) (o : BodyA)
  /-- ROL, opcode 0x090, format A (R374). -/
  | rol (h : Head) (o : BodyA)
  /-- BFX, opcode 0x091, format A (R374). -/
  | bfx (h : Head) (o : BodyA)
  /-- BFI, opcode 0x092, format A (R374). -/
  | bfi (h : Head) (o : BodyA)
  /-- POPC, opcode 0x093, format A (R374). -/
  | popc (h : Head) (o : BodyA)
  /-- CLZ, opcode 0x094, format A (R374). -/
  | clz (h : Head) (o : BodyA)
  /-- BREV, opcode 0x095, format A (R374). -/
  | brev (h : Head) (o : BodyA)
  /-- ISET, opcode 0x096, format A (R374). -/
  | iset (h : Head) (o : BodyA)
  /-- PSET, opcode 0x097, format A (R374). -/
  | pset (h : Head) (o : BodyA)
  /-- SEL, opcode 0x098, format A (R374). -/
  | sel (h : Head) (o : BodyA)
  /-- MOV, opcode 0x099, format A (R374). -/
  | mov (h : Head) (o : BodyA)
  /-- MOVI, opcode 0x09A, format A (R374). -/
  | movi (h : Head) (o : BodyA)
  /-- IADD64, opcode 0x09C, format A (R374). -/
  | iadd64 (h : Head) (o : BodyA)
  /-- ISUB64, opcode 0x09D, format A (R374). -/
  | isub64 (h : Head) (o : BodyA)
  /-- IMAD64, opcode 0x09E, format A (R374). -/
  | imad64 (h : Head) (o : BodyA)
  /-- ISET64, opcode 0x09F, format A (R374). -/
  | iset64 (h : Head) (o : BodyA)
  /-- LEA, opcode 0x0A0, format A (R374). -/
  | lea (h : Head) (o : BodyA)
  /-- PMOV, opcode 0x0A1, format A (R374). -/
  | pmov (h : Head) (o : BodyA)
  /-- HMIX, opcode 0x0A2, format A (R374). -/
  | hmix (h : Head) (o : BodyA)
  /-- FADD, opcode 0x100, format A (R434). -/
  | fadd (h : Head) (o : BodyA)
  /-- FSUB, opcode 0x101, format A (R434). -/
  | fsub (h : Head) (o : BodyA)
  /-- FMUL, opcode 0x102, format A (R434). -/
  | fmul (h : Head) (o : BodyA)
  /-- FFMA, opcode 0x103, format A (R434). -/
  | ffma (h : Head) (o : BodyA)
  /-- FMIN, opcode 0x104, format A (R434). -/
  | fmin (h : Head) (o : BodyA)
  /-- FMAX, opcode 0x105, format A (R434). -/
  | fmax (h : Head) (o : BodyA)
  /-- FSET, opcode 0x106, format A (R434). -/
  | fset (h : Head) (o : BodyA)
  /-- FCLASS, opcode 0x107, format A (R434). -/
  | fclass (h : Head) (o : BodyA)
  /-- FRCP, opcode 0x108, format A (R434). -/
  | frcp (h : Head) (o : BodyA)
  /-- FRSQ, opcode 0x109, format A (R434). -/
  | frsq (h : Head) (o : BodyA)
  /-- FSQRT, opcode 0x10A, format A (R434). -/
  | fsqrt (h : Head) (o : BodyA)
  /-- FDIV, opcode 0x10B, format A (R434). -/
  | fdiv (h : Head) (o : BodyA)
  /-- FEX2, opcode 0x10C, format A (R434). -/
  | fex2 (h : Head) (o : BodyA)
  /-- FLG2, opcode 0x10D, format A (R434). -/
  | flg2 (h : Head) (o : BodyA)
  /-- FSIN, opcode 0x10E, format A (R434). -/
  | fsin (h : Head) (o : BodyA)
  /-- FCOS, opcode 0x10F, format A (R434). -/
  | fcos (h : Head) (o : BodyA)
  /-- FTANH, opcode 0x110, format A (R434). -/
  | ftanh (h : Head) (o : BodyA)
  /-- FSIGM, opcode 0x111, format A (R434). -/
  | fsigm (h : Head) (o : BodyA)
  /-- DADD, opcode 0x112, format A (R441). -/
  | dadd (h : Head) (o : BodyA)
  /-- DMUL, opcode 0x113, format A (R441). -/
  | dmul (h : Head) (o : BodyA)
  /-- DFMA, opcode 0x114, format A (R441). -/
  | dfma (h : Head) (o : BodyA)
  /-- PKFMA, opcode 0x115, format A (R442). -/
  | pkfma (h : Head) (o : BodyA)
  /-- PKADD, opcode 0x116, format A (R442). -/
  | pkadd (h : Head) (o : BodyA)
  /-- PKMUL, opcode 0x117, format A (R442). -/
  | pkmul (h : Head) (o : BodyA)
  /-- DOT4, opcode 0x118, format A (R443). -/
  | dot4 (h : Head) (o : BodyA)
  /-- DOT8, opcode 0x119, format A (R443). -/
  | dot8 (h : Head) (o : BodyA)
  /-- BRED, opcode 0x11A, format A (R444). -/
  | bred (h : Head) (o : BodyA)
  /-- CVT, opcode 0x180, format A (R380). -/
  | cvt (h : Head) (o : BodyA)
  /-- CVTN, opcode 0x181, format A (R380). -/
  | cvtn (h : Head) (o : BodyA)
  /-- CVTW, opcode 0x182, format A (R380). -/
  | cvtw (h : Head) (o : BodyA)
  /-- TBLLD, opcode 0x183, format A (R384). -/
  | tblld (h : Head) (o : BodyA)
  /-- I4TX, opcode 0x184, format A (R385). -/
  | i4tx (h : Head) (o : BodyA)
  /-- Q4X, opcode 0x185, format A (R385). -/
  | q4x (h : Head) (o : BodyA)
  /-- QSCL, opcode 0x186, format A (R385). -/
  | qscl (h : Head) (o : BodyA)
  /-- PACK, opcode 0x187, format A (R386). -/
  | pack (h : Head) (o : BodyA)
  /-- UNPK, opcode 0x188, format A (R386). -/
  | unpk (h : Head) (o : BodyA)
  /-- FRND, opcode 0x189, format A (R387). -/
  | frnd (h : Head) (o : BodyA)
  /-- MOVW, opcode 0x09B, format W (R374). -/
  | movw (h : Head) (o : BodyW)
  /-- BRA, opcode 0x001, format B (R354). -/
  | bra (h : Head) (o : BodyB)
  /-- BRX, opcode 0x002, format B (R354). -/
  | brx (h : Head) (o : BodyB)
  /-- CALL, opcode 0x003, format B (R354). -/
  | call (h : Head) (o : BodyB)
  /-- CALLX, opcode 0x004, format B (R354). -/
  | callx (h : Head) (o : BodyB)
  /-- RET, opcode 0x005, format B (R354). -/
  | ret (h : Head) (o : BodyB)
  /-- SPAWN, opcode 0x006, format B (R355). -/
  | spawn (h : Head) (o : BodyB)
  /-- NOP, opcode 0x000, format S (R341). -/
  | nop (h : Head) (o : BodyS)
  /-- FEND, opcode 0x007, format S (R357). -/
  | fend (h : Head) (o : BodyS)
  /-- FWAIT, opcode 0x008, format S (R358). -/
  | fwait (h : Head) (o : BodyS)
  /-- PARK, opcode 0x009, format S (R359). -/
  | park (h : Head) (o : BodyS)
  /-- WAKE, opcode 0x00A, format S (R360). -/
  | wake (h : Head) (o : BodyS)
  /-- WAKE GRP, opcode 0x00A, format S (R360). -/
  | wakeGrp (h : Head) (o : BodyS)
  /-- REGCLM, opcode 0x00E, format S (R363). -/
  | regclm (h : Head) (o : BodyS)
  /-- REGREL, opcode 0x00F, format S (R363). -/
  | regrel (h : Head) (o : BodyS)
  /-- FMTP, opcode 0x010, format S (R364). -/
  | fmtp (h : Head) (o : BodyS)
  /-- TRAP, opcode 0x011, format S (R365). -/
  | trap (h : Head) (o : BodyS)
  /-- TRET, opcode 0x012, format S (R365). -/
  | tret (h : Head) (o : BodyS)
  /-- BKPT, opcode 0x013, format S (R365). -/
  | bkpt (h : Head) (o : BodyS)
  /-- MOVS, opcode 0x014, format S (R367). -/
  | movs (h : Head) (o : BodyS)
  /-- MOVS W, opcode 0x014, format S (R367). -/
  | movsW (h : Head) (o : BodyS)
  /-- CTLRD, opcode 0x015, format S (R368). -/
  | ctlrd (h : Head) (o : BodyS)
  /-- CTLWR, opcode 0x016, format S (R368). -/
  | ctlwr (h : Head) (o : BodyS)
  /-- LAUNCH, opcode 0x017, format S (R370). -/
  | launch (h : Head) (o : BodyS)
  /-- QUIESCE, opcode 0x018, format S (R372). -/
  | quiesce (h : Head) (o : BodyS)
  /-- QUIESCE OPEN, opcode 0x018, format S (R372). -/
  | quiesceOpen (h : Head) (o : BodyS)
  /-- SIGMARK, opcode 0x019, format S (R369). -/
  | sigmark (h : Head) (o : BodyS)
  /-- BASIN, opcode 0x383, format S (R467). -/
  | basin (h : Head) (o : BodyS)
  /-- BASIN ALL, opcode 0x383, format S (R467). -/
  | basinAll (h : Head) (o : BodyS)
  /-- BASIN OWN, opcode 0x383, format S (R467). -/
  | basinOwn (h : Head) (o : BodyS)
  /-- RATE, opcode 0x387, format S (R470). -/
  | rate (h : Head) (o : BodyS)
  /-- DISCARD, opcode 0x388, format S (R471). -/
  | discard (h : Head) (o : BodyS)
  /-- LD, opcode 0x200, format M (R395). -/
  | ld (h : Head) (o : BodyM)
  /-- ST, opcode 0x201, format M (R395). -/
  | st (h : Head) (o : BodyM)
  /-- LDC, opcode 0x202, format M (R395). -/
  | ldc (h : Head) (o : BodyM)
  /-- STC, opcode 0x203, format M (R395). -/
  | stc (h : Head) (o : BodyM)
  /-- LDA, opcode 0x204, format M (R395). -/
  | lda (h : Head) (o : BodyM)
  /-- STA, opcode 0x205, format M (R395). -/
  | sta (h : Head) (o : BodyM)
  /-- PREF, opcode 0x206, format M (R399). -/
  | pref (h : Head) (o : BodyM)
  /-- FLUSH, opcode 0x209, format M (R399). -/
  | flush (h : Head) (o : BodyM)
  /-- INVL, opcode 0x20A, format M (R399). -/
  | invl (h : Head) (o : BodyM)
  /-- PIN, opcode 0x20B, format M (R399). -/
  | pin (h : Head) (o : BodyM)
  /-- UNPIN, opcode 0x20C, format M (R399). -/
  | unpin (h : Head) (o : BodyM)
  /-- EXTQ, opcode 0x210, format M (R406). -/
  | extq (h : Head) (o : BodyM)
  /-- MIGR, opcode 0x211, format M (R399). -/
  | migr (h : Head) (o : BodyM)
  /-- ATOM, opcode 0x280, format M (R407). -/
  | atom (h : Head) (o : BodyM)
  /-- RED, opcode 0x281, format M (R407). -/
  | red (h : Head) (o : BodyM)
  /-- BLEND, opcode 0x386, format M (R468). -/
  | blend (h : Head) (o : BodyM)
  /-- FENCE, opcode 0x207, format K (R402). -/
  | fence (h : Head) (o : BodyK)
  /-- FENCEP, opcode 0x208, format K (R402). -/
  | fencep (h : Head) (o : BodyK)
  /-- COMBINE, opcode 0x282, format K (R411). -/
  | combine (h : Head) (o : BodyK)
  /-- CMBREG, opcode 0x283, format K (R411). -/
  | cmbreg (h : Head) (o : BodyK)
  /-- OSENT, opcode 0x284, format K (R415). -/
  | osent (h : Head) (o : BodyK)
  /-- OSLEAVE, opcode 0x285, format K (R415). -/
  | osleave (h : Head) (o : BodyK)
  /-- OSSKIP, opcode 0x286, format K (R415). -/
  | osskip (h : Head) (o : BodyK)
  /-- BARINIT, opcode 0x287, format K (R418). -/
  | barinit (h : Head) (o : BodyK)
  /-- BARARV, opcode 0x288, format K (R418). -/
  | bararv (h : Head) (o : BodyK)
  /-- BARWT, opcode 0x289, format K (R418). -/
  | barwt (h : Head) (o : BodyK)
  /-- BARAW, opcode 0x28A, format K (R418). -/
  | baraw (h : Head) (o : BodyK)
  /-- SEND, opcode 0x28B, format K (R421). -/
  | send (h : Head) (o : BodyK)
  /-- SENDR, opcode 0x28C, format K (R421). -/
  | sendr (h : Head) (o : BodyK)
  /-- HBIND, opcode 0x28D, format K (R421). -/
  | hbind (h : Head) (o : BodyK)
  /-- HUNBIND, opcode 0x28E, format K (R421). -/
  | hunbind (h : Head) (o : BodyK)
  /-- CMASK, opcode 0x28F, format K (R421). -/
  | cmask (h : Head) (o : BodyK)
  /-- HEND, opcode 0x290, format K (R421). -/
  | hend (h : Head) (o : BodyK)
  /-- MBOX, opcode 0x291, format K (R421). -/
  | mbox (h : Head) (o : BodyK)
  /-- MBOX RP, opcode 0x291, format K (R421). -/
  | mboxRp (h : Head) (o : BodyK)
  /-- EMIT, opcode 0x292, format K (R430). -/
  | emit (h : Head) (o : BodyK)
  /-- NDONE, opcode 0x293, format K (R430). -/
  | ndone (h : Head) (o : BodyK)
  /-- REPLY, opcode 0x294, format K (R421). -/
  | reply (h : Head) (o : BodyK)
  /-- RAYSEND, opcode 0x381, format K (R464). -/
  | raysend (h : Head) (o : BodyK)
  /-- RAYSEND LOCAL, opcode 0x381, format K (R464). -/
  | raysendLocal (h : Head) (o : BodyK)
  /-- HITPUT, opcode 0x382, format K (R464). -/
  | hitput (h : Head) (o : BodyK)
  /-- CPY, opcode 0x20D, format X (R403). -/
  | cpy (h : Head) (o : BodyX)
  /-- CPYW, opcode 0x20E, format X (R403). -/
  | cpyw (h : Head) (o : BodyX)
  /-- GATH, opcode 0x20F, format X (R403). -/
  | gath (h : Head) (o : BodyX)
  /-- MLEASE, opcode 0x300, format X (R447). -/
  | mlease (h : Head) (o : BodyX)
  /-- MREL, opcode 0x301, format X (R448). -/
  | mrel (h : Head) (o : BodyX)
  /-- MMA, opcode 0x302, format X (R452). -/
  | mma (h : Head) (o : BodyX)
  /-- MMAS, opcode 0x303, format X (R452). -/
  | mmas (h : Head) (o : BodyX)
  /-- MZERO, opcode 0x304, format X (R455). -/
  | mzero (h : Head) (o : BodyX)
  /-- MEPI, opcode 0x305, format X (R456). -/
  | mepi (h : Head) (o : BodyX)
  /-- MLDACC, opcode 0x306, format X (R455). -/
  | mldacc (h : Head) (o : BodyX)
  /-- RINGSET, opcode 0x307, format X (R449). -/
  | ringset (h : Head) (o : BodyX)
  /-- RINGADV, opcode 0x308, format X (R450). -/
  | ringadv (h : Head) (o : BodyX)
  /-- RINGQ, opcode 0x309, format X (R450). -/
  | ringq (h : Head) (o : BodyX)
  /-- MWAIT, opcode 0x30A, format X (R457). -/
  | mwait (h : Head) (o : BodyX)
  /-- INFER, opcode 0x30B, format X (R458). -/
  | infer (h : Head) (o : BodyX)
  /-- TRV, opcode 0x380, format X (R463). -/
  | trv (h : Head) (o : BodyX)
  /-- TLOAD, opcode 0x384, format X (R465). -/
  | tload (h : Head) (o : BodyX)
  /-- TLOAD TDS, opcode 0x384, format X (R465). -/
  | tloadTds (h : Head) (o : BodyX)
  /-- TLOAD RDS, opcode 0x384, format X (R465). -/
  | tloadRds (h : Head) (o : BodyX)
  /-- TOWN, opcode 0x385, format X (R466). -/
  | town (h : Head) (o : BodyX)
  /-- PUMP, opcode 0x389, format X (R472). -/
  | pump (h : Head) (o : BodyX)
  /-- PUMPW, opcode 0x38A, format X (R474). -/
  | pumpw (h : Head) (o : BodyX)
  /-- ENCQ, opcode 0x38B, format X (R475). -/
  | encq (h : Head) (o : BodyX)
  /-- BATCH_FORM (R46): At a run start the partition picks the next ready candidate and forms a batch of its ready fibres. -/
  | batchForm (core part : Nat)
  /-- ISSUE_BUFFER_ACCEPT (R53): A unit with room accepts a waiting long-latency issue-buffer entry. -/
  | issueBufferAccept (core part n : Nat)
  /-- LONG_LATENCY_RESULT (R48): A returning reply or result is written to the fibre's registers after its run end. -/
  | longLatencyResult (id : Nat)
  /-- TOKEN_GRANT (R55): The head power-token request is granted when enough tokens are free. -/
  | tokenGrant
  /-- CLAIM_GRANT (R97): The head register claim is granted once the free count covers it. -/
  | claimGrant (core : Nat)
  /-- LAUNCH_MESSAGE (R59): The sequencer checks an arriving launch record and queues, rejects or refuses it. -/
  | launchMessage (id : Nat)
  /-- LAUNCH_PLACEMENT (R61): The sequencer places the eligible head record's clusters first-fit and reserves slots and registers. -/
  | launchPlacement (slice : Nat)
  /-- CODE_LINE (R63): A code line arriving on SYS is written into the code store. -/
  | codeLine (id : Nat)
  /-- SHAPE_STORE (R64): A shape-record store arriving on SYS is written into the cistern. -/
  | shapeStore (id : Nat)
  /-- START_MESSAGE (R65): A start message allots a team's groups and creates its fibres as candidates. -/
  | startMessage (id : Nat)
  /-- GRID_END (R66): Once every fibre, reply and activation of a launch is done, DONE is raised and code holds freed. -/
  | gridEnd (slice task : Nat)
  /-- WORK_GRAPH_RECORD (R67): An arriving work-graph record is delivered to its node task, or pending, logged or dropped. -/
  | workGraphRecord (id : Nat)
  /-- USER_MESSAGE (R220): A UREQ or URSP message arriving at an NI is bound, held, spilled, dropped or taken into the inbox. -/
  | userMessage (id : Nat)
  /-- HANDLER_GROUP_FORM (R68): The NI forms a handler group from waiting messages of one binding when a slot and registers are free. -/
  | handlerGroupForm (core binding : Nat)
  /-- LOOPBACK_TRANSFER (R224): The loop-back port moves one message into the inbox while it holds fewer than 192. -/
  | loopbackTransfer (core : Nat)
  /-- SEND_QUEUE_INJECT (R225): The NI injects a send-queue packet's head flit onto router credit, freeing its place. -/
  | sendQueueInject (core n : Nat)
  /-- PACKET_HOP (R31): A router grants a ready flit with downstream credit to an output port. -/
  | packetHop (id : Nat)
  /-- READ_REQUEST (R128): A read request is served at its home, hitting, filling or bypassing the L2. -/
  | readRequest (id : Nat)
  /-- WRITE_REQUEST (R128): A masked write request is performed at its home, allocating, merging or bypassing. -/
  | writeRequest (id : Nat)
  /-- L2_FILL_COMPLETE (R128): Data fetched from memory is stored in the L2 with its coding, after evictions as needed. -/
  | l2FillComplete (core piece : Nat)
  /-- ATOMIC_REQUEST (R199): An atomic is performed indivisibly at its home or cistern, checking the replay filter for remote ones. -/
  | atomicRequest (id : Nat)
  /-- REDUCTION_REQUEST (R199): A reduction is performed indivisibly at its point of order. -/
  | reductionRequest (id : Nat)
  /-- RANGE_REQUEST (R400): A home performs its part of PREF, PIN, UNPIN, FLUSH or INVL. -/
  | rangeRequest (id : Nat)
  /-- WRITE_ACKNOWLEDGEMENT (R180): A write acknowledgement reaches its requester. -/
  | writeAcknowledgement (id : Nat)
  /-- TLB_WALK_COMPLETE (R258): A hardware page walk finishes and fills the TLB, or reports not present or malformed. -/
  | tlbWalkComplete (core n : Nat)
  /-- CODE_REFETCH_COMPLETE (R142): A refetched line is written, or found bad again and treated as uncorrectable. -/
  | codeRefetchComplete (core line : Nat) (good : Bool)
  /-- COMBINE_REQUEST (R231): A COMBINE request enters its wellhead queue or is answered FAULT at once. -/
  | combineRequest (id : Nat)
  /-- COMBINER_WAVE_CLOSE (R231): A wave closes 16 clocks after its first lane joined. -/
  | combinerWaveClose (core n : Nat)
  /-- COMBINER_WAVE_START (R413): A closed wave starts its method as a handler group once the previous wave of the object is done. -/
  | combinerWaveStart (core n : Nat)
  /-- SECTION_REQUEST (R250): A home processes an enter, leave or skip of a section key, granting waiters as NEXT advances. -/
  | sectionRequest (id : Nat)
  /-- SECTION_GRANT (R416): A grant reaching a waiting fibre sets its predicate, SD and held keys, or is returned as an abandonment. -/
  | sectionGrant (id : Nat)
  /-- SECTION_DEADLOCK_PROBE (R492): A probe arriving at a core or home is forwarded, ended or closes a cycle. -/
  | sectionDeadlockProbe (id : Nat)
  /-- SECTION_WAIT_WITHDRAWAL (R492): A withdrawal arriving at a home withdraws the named waiter and raises its deadlock trap. -/
  | sectionWaitWithdrawal (id : Nat)
  /-- BARRIER_ARRIVAL_PACKET (R278): A cluster-scope arrival packet increments the lead's count and sends completions at the last. -/
  | barrierArrivalPacket (id : Nat)
  /-- BARRIER_COMPLETION (R278): A phase completion inverts the phase and releases waiting fibres with an acquire. -/
  | barrierCompletion (id : Nat)
  /-- LEASE_REQUEST (R228): A lease request or re-entry enters the block's lease request queue. -/
  | leaseRequest (id : Nat)
  /-- LEASE_GRANT (R228): The head lease request is granted when a slot and its tiles are free, zeroing tiles for a new owner. -/
  | leaseGrant (block : Nat)
  /-- MATRIX_COMMAND (R229): A matrix command enters its slot's queue with its token and table copy, counting toward ACC. -/
  | matrixCommand (id : Nat)
  /-- MATRIX_TILE_STEP (R229): The block takes one tile step from alternating slot queues, retiring groups and completing commands. -/
  | matrixTileStep (block : Nat)
  /-- ENGINE_COMPLETION (R446): An engine completion counts its team's completion-table entry and records a nonzero status. -/
  | engineCompletion (id : Nat)
  /-- COPY_COMMAND_RUN (R405): The copy engine takes its next accepted command and copies it on CP. -/
  | copyCommandRun (core : Nat)
  /-- RAY_MESSAGE (R266): An arriving ray enters a traversal pipe, or is forwarded or ended when its treelet is absent. -/
  | rayMessage (id : Nat)
  /-- TRAVERSAL_NODE_VISIT (R462): A traversal pipe visits a node or tests a leaf, accepting hits, pushing pending treelets or ending the ray. -/
  | traversalNodeVisit (core n : Nat)
  /-- HIT_RECORD (R218): An arriving hit or pixel start record enters its basin bin, spills to its ring or forms a wave. -/
  | hitRecord (id : Nat)
  /-- RING_TO_BASIN_MOVE (R219): When a basin place frees, the oldest eligible spilled record moves back in. -/
  | ringToBasinMove (core n : Nat)
  /-- SHADING_WAVE_FORM (R70): A waiting wave takes a group slot and registers once they are free. -/
  | shadingWaveForm (core bin : Nat)
  /-- CREDIT_BATCH_TAKE (R215): A producer NI takes a batch of 8 record-queue credits from the home. -/
  | creditBatchTake (core slice task queue : Nat)
  /-- TREELET_TRANSFER (R264): A treelet transfer block is written to the cistern, filling the table entry at the last. -/
  | treeletTransfer (id : Nat)
  /-- PUMP_COMMAND (R232): A pump command enters its pump's command queue. -/
  | pumpCommand (id : Nat)
  /-- PUMP_COMMAND_START (R232): A queued pump command starts when fewer than 4 run and no earlier command of its fibre runs. -/
  | pumpCommandStart (stack n : Nat)
  /-- PUMP_COMMAND_COMPLETE (R139): A pump command finishes, sends invalidations, awaits acknowledgements and sends its completion. -/
  | pumpCommandComplete (stack n : Nat)
  /-- PUMP_INVALIDATION (R139): A home drops the pieces a pump or migration wrote and acknowledges. -/
  | pumpInvalidation (id : Nat)
  /-- INVALIDATION_ACKNOWLEDGEMENT (R139): An invalidation acknowledgement reaches its pump or migration unit. -/
  | invalidationAcknowledgement (id : Nat)
  /-- MIGRATION_CONTROL (R141): A migration request reaching the migration unit starts or refuses a page move. -/
  | migrationControl (id : Nat)
  /-- MIGRATION_BLOCK (R141): A migration copy block is written at the new location's controller. -/
  | migrationBlock (id : Nat)
  /-- MIGRATION_PASS_END (R141): At the end of a copy pass the homes report filters and the unit switches, recopies or abandons. -/
  | migrationPassEnd (slice : Nat)
  /-- FAULT_BATCH (R233): A fault batch arriving at the fault-service core enters its queue or spills to the sump ring. -/
  | faultBatch (id : Nat)
  /-- FAULT_SERVICE_ACTIVATION (R297): The NI writes a queued batch to memory and starts an activation of binding 1. -/
  | faultServiceActivation (core : Nat)
  /-- FAULT_REPLY (R234): A fault reply releases named parked lanes to replay, trap or kill. -/
  | faultReply (id : Nat)
  /-- SHOOT_DOWN (R235): A shoot-down request enters the mailbox, or triggers a full TLB flush when it is full. -/
  | shootDown (id : Nat)
  /-- SHOOT_DOWN_PROCESS (R235): The core invalidates the named TLB and extent entries and acknowledges one request per 4 clocks. -/
  | shootDownProcess (core : Nat)
  /-- SHOOT_DOWN_ACKNOWLEDGEMENT (R141): A shoot-down acknowledgement reaches its migration unit or requester. -/
  | shootDownAcknowledgement (id : Nat)
  /-- CONTROL_REGISTER_BROADCAST (R102): A shared-register write is serialised at (17, 0) and applied to every copy. -/
  | controlRegisterBroadcast (id core : Nat)
  /-- PROMOTION_REQUEST (R192): A core performs its fibres' earlier writes at package scope and acknowledges. -/
  | promotionRequest (id : Nat)
  /-- PROMOTION_ACKNOWLEDGEMENT (R193): A home clears the promotion tag and performs the waiting acquire or release. -/
  | promotionAcknowledgement (id : Nat)
  /-- ERROR_LOG_ENTRY (R236): The error logger writes an entry into the ring or drops and counts it. -/
  | errorLogEntry (id : Nat)
  /-- CCMD_PREEMPT (R309): A context-control pre-empt command stops a context's batches and starts its save. -/
  | ccmdPreempt (slice : Nat)
  /-- PREEMPTION_SAVE_COMPLETE (R309): Once replies are in, the save area is written and a completion record is sent. -/
  | preemptionSaveComplete (slice : Nat)
  /-- CCMD_RESUME (R311): A resume command restores a saved context on its cores once slots and registers are free. -/
  | ccmdResume (slice : Nat)
  /-- CCMD_DEBUG_STOP (R313): A debug-stop command stops a team with its state kept on chip. -/
  | ccmdDebugStop (slice : Nat)
  /-- CCMD_DEBUG_RESUME (R313): A debug-resume command lets a stopped team run again. -/
  | ccmdDebugResume (slice : Nat)
  /-- CCMD_SINGLE_STEP (R52): A single-step command advances only the focus fibre's batch by one instruction. -/
  | ccmdSingleStep (slice : Nat)
  /-- ENCODER_FRAME_COMPLETE (R475): The encoder writes DONE, counts its entry and posts MSI-X vector 3. -/
  | encoderFrameComplete (encoder : Nat)
  /-- CREDIT_RETURN (R215): A credit returned by the consumption of a record reaches its queue's home and raises the credit count, counted before any request in the same clock. -/
  | creditReturn (id : Nat)
  /-- ERROR_DETECTED (R304): A corrected or uncorrectable error in a protected structure is corrected or marks its data poisoned and is logged. -/
  | errorDetected (e : ErrorSpec)
  /-- FETCH_PARITY_ERROR (R142): A fetch parity error invalidates the line and starts a refetch on MREQ. -/
  | fetchParityError (core line : Nat)
  /-- HBM_PARITY_ALERT (R307): A command or address parity alert makes the controller rewind and replay its history. -/
  | hbmParityAlert (stack channel : Nat) (replayed : Bool)
  /-- PUMP_READ_ERROR (R488): An uncorrectable pump read stops every command reading the transfer, logs it and starts self-test. -/
  | pumpReadError (stack pa : Nat)
  /-- SELF_TEST_START (R305): The device starts testing the implicated structure after a detected error. -/
  | selfTestStart (n : Nat)
  /-- SELF_TEST_COMPLETE (R305): A test ends as transient, spare-mapped or core retirement. -/
  | selfTestComplete (n : Nat) (r : TestResult)
  /-- LANE_REPAIR (R308): A failing HBM4 data pin is swapped to a redundant lane during a pause. -/
  | laneRepair (stack channel pin : Nat)
  /-- LANE_REPAIR_COMPLETE (R308): The paused HBM4 channel resumes after the lane swap, and its waiting requests proceed. -/
  | laneRepairComplete (stack channel : Nat)
  /-- LAUNCH_DOORBELL (R317): A write to a launch window's doorbell sends the record with the window's level to the sequencer. -/
  | launchDoorbell (fn window : Nat)
  /-- DEBUGGER_STATE_WRITE (R313): A debugger writes a stopped team's registers, predicates, FSRs, PCs or code lines. -/
  | debuggerStateWrite (w : DebugWrite)
  /-- DEBUGGER_ATTACH (R313): A debugger attaches to a slice, after which BKPT stops the team instead of raising trap class 12. -/
  | debuggerAttach (slice : Nat)
  /-- DEBUGGER_DETACH (R366): A debugger detaches from a slice, after which BKPT raises trap class 12. -/
  | debuggerDetach (slice : Nat)
  /-- HOST_REGISTER_WRITE (R103): A host write to a register without behaviour of its own is serialised and applied. -/
  | hostRegisterWrite (fn offset size : Nat) (value : BitVec 64)
  /-- CTL_TIMEBASE_WRITE (R321): A write of CTL.TIMEBASE sets s.time on the package or domain, or is ignored. -/
  | ctlTimebaseWrite (value : BitVec 64)
  /-- COMPLETION_COUNTER_WRITE (R280): A host write sets a completion counter and dependences are re-examined. -/
  | completionCounterWrite (slice index : Nat) (value : BitVec 32)
  /-- DESCRIPTOR_IMAGE_WRITE (R267): A host write of a descriptor image loads a traversal or raster set, or is refused. -/
  | descriptorImageWrite (slice offset : Nat) (image : BitVec 256)
  /-- APERTURE_ACCESS (R318): A host access through the device memory aperture is translated and performed at the home. -/
  | apertureAccess (slice offset size : Nat) (data : Option (BitVec 64))
  /-- PHYSICAL_WINDOW_ACCESS (R315): A host read or write through PF0 BAR2 reaches HBM4 at PA WBASE, and during checkpoint it is the only path by which HBM4 accepts writes. -/
  | physicalWindowAccess (offset size : Nat) (data : Option (BitVec 64))
  /-- SLICE_APPLY (R319): Writing APPLY assigns cores, stacks, head and encoder to a slice, or is refused. -/
  | sliceApply (slice : Nat)
  /-- TEAM_END (R295): System software ends a halted or running team, which frees its allotments and lanes under R41 and advances its bindings' generations under R243. -/
  | teamEnd (core team : Nat)
  /-- DRAW (R272): A raster sequencer takes a draw's primitives, computes their shading rate and coverage, and sends pixel-fibre start records, or drops a draw that names an invalid set. -/
  | draw (d : DrawSpec)
  /-- CKPT_START (R323): Writing 1 to CKPT refuses launches, waits for no contexts, writes back the L2 and opens raw HBM4 access. -/
  | ckptStart
  /-- CKPT_END (R323): Writing 0 to CKPT resumes normal operation. -/
  | ckptEnd
  /-- COLD_RESET (R324): PERST#, power-on or thermal trip resets every field and loses HBM4 contents. -/
  | coldReset (imageGood : Bool)
  /-- WARM_RESET (R324): A PF0 function level reset resets as cold but keeps HBM4 and CTL.ERRQ. -/
  | warmReset (imageGood : Bool)
  /-- SLICE_RESET (R324): A VF function level reset ends the slice's contexts and reassigns the slice to itself. -/
  | sliceReset (slice : Nat)
  /-- JUNCTION_TEMPERATURE_105 (R324): At 105 C firmware halves the token pool. -/
  | junctionTemperature105
  /-- THERMAL_TRIP (R324): At 115 C the package enters cold reset. -/
  | thermalTrip (imageGood : Bool)
  /-- SPAN_PORT_TRAINED (R85): A span port towards package 0 trains and the package takes package 0's s.time. -/
  | spanPortTrained (port package : Nat) (time : BitVec 64)
  /-- SPAN_LINK_LOSS (R321): A span link down for 10 µs completes outstanding remote requests with LINKLOSS. -/
  | spanLinkLoss (port : Nat)
  /-- GET_VERSION (R322): SPDM GET_VERSION handled over DOE on PF0. -/
  | getVersion
  /-- GET_CAPABILITIES (R322): SPDM GET_CAPABILITIES handled over DOE on PF0. -/
  | getCapabilities
  /-- NEGOTIATE_ALGORITHMS (R322): SPDM NEGOTIATE_ALGORITHMS, offering SM2 and SM3 only. -/
  | negotiateAlgorithms (offer : List SpdmAlg)
  /-- GET_DIGESTS (R322): SPDM GET_DIGESTS handled over DOE on PF0. -/
  | getDigests
  /-- GET_CERTIFICATE (R322): SPDM GET_CERTIFICATE returns the part's certificate chain. -/
  | getCertificate (offset length : Nat)
  /-- CHALLENGE (R322): SPDM CHALLENGE signed with the part's SM2 identity key. -/
  | challenge (nonce : BitVec 256)
  /-- GET_MEASUREMENTS (R322): SPDM GET_MEASUREMENTS of firmware, boot ROM version and fused configuration. -/
  | getMeasurements (index : Nat)
  /-- BASIN_BIN_TIMEOUT (R70): A bin's oldest record waiting past the timeout forms a shading wave. -/
  | basinBinTimeout (core bin : Nat)
  /-- TEAM_WATCHDOG_EXPIRY (R283): The team watchdog reaching its period traps waiting fibres or faults the team. -/
  | teamWatchdogExpiry (core team : Nat)
  /-- MATRIX_WATCHDOG_EXPIRY (R284): A slot's watchdog reaching its period traps the head command's issuer and discards the slot's commands. -/
  | matrixWatchdogExpiry (block slot : Nat)
  /-- REPLAY_FILTER_EXPIRY (R273): A replay filter entry is freed 64,000 ns after its performance. -/
  | replayFilterExpiry (core n : Nat)
  /-- CREDIT_IDLE_RETURN (R215): An NI idle on a queue for 1,024 clocks returns its credits. -/
  | creditIdleReturn (core slice task queue : Nat)
  /-- SECTION_TIMEOUT_PROBE (R285): A waiter's age reaching the timeout sends a deadlock probe along the holder chain. -/
  | sectionTimeoutProbe (core n : Nat)
  /-- PARK_TIMEOUT (R359): A timed PARK reaches its limit and releases the fibre. -/
  | parkTimeout (core slot lane : Nat)
  /-- BARRIER_WAIT_TIMEOUT (R279): A timed barrier wait reaches its limit and returns not completed. -/
  | barrierWaitTimeout (core slot lane : Nat)
  /-- QUIESCE_TIMEOUT (R372): A QUIESCE wait given n > 0 ends when 1,024 × n clocks have passed, returning the teams remaining on the core. -/
  | quiesceTimeout (core slot lane : Nat)
  deriving DecidableEq, Repr

end Sys2Proof
end

