-- ==== Sys2Proof/Decode.lean ====
section
/-!
DEFINITION. Encoding and decoding (R325, R333-R341, R351, R389, R433, R445): the words of an instruction, the instruction of a word or the
detail of the encoding check it fails, the encoding checks themselves in the order of R338, and the bytes of a fetch line's slot.
-/
namespace Sys2Proof

/-! ## Fields of a word -/

/-- The head of a word (R333). -/
def headOf (w : Bits96) : Head :=
  { gn := w.getLsbD 85, gp := w.extractLsb' 81 4, mod := w.extractLsb' 73 8 }

/-- The format A body of a word (R335). -/
def bodyA (w : Bits96) : BodyA :=
  { d := w.extractLsb' 64 9, a := w.extractLsb' 55 9, b := w.extractLsb' 46 9, c := w.extractLsb' 37 9, imm := w.extractLsb' 5 32 }

/-- The format W body of a word (R335). -/
def bodyW (w : Bits96) : BodyW :=
  { d := w.extractLsb' 64 9, imm := w.extractLsb' 0 64 }

/-- The format M body of a word (R335). -/
def bodyM (w : Bits96) : BodyM :=
  { d := w.extractLsb' 64 9, a := w.extractLsb' 55 9, b := w.extractLsb' 46 9, scope := w.extractLsb' 42 4, ord := w.extractLsb' 40 2,
    rem := w.getLsbD 39, xf := w.getLsbD 38, ext := w.extractLsb' 35 3, size := w.extractLsb' 32 3, off := w.extractLsb' 8 24 }

/-- The format B body of a word (R335). -/
def bodyB (w : Bits96) : BodyB :=
  { a := w.extractLsb' 64 9, ldisp := w.extractLsb' 48 16, tslot := w.extractLsb' 45 3 }

/-- The format K body of a word (R335). -/
def bodyK (w : Bits96) : BodyK :=
  { d := w.extractLsb' 64 9, a := w.extractLsb' 55 9, b := w.extractLsb' 46 9, c := w.extractLsb' 37 9, scope := w.extractLsb' 33 4,
    cls := w.extractLsb' 29 4, mlen := w.extractLsb' 25 4, mask1 := w.extractLsb' 18 7, mask2 := w.extractLsb' 11 7, num := w.extractLsb' 4 7 }

/-- The format X body of a word (R335). -/
def bodyX (w : Bits96) : BodyX :=
  { d := w.extractLsb' 64 9, a := w.extractLsb' 55 9, b := w.extractLsb' 46 9, qa := w.extractLsb' 42 4, qb := w.extractLsb' 38 4,
    tile := w.extractLsb' 32 6, nt := w.extractLsb' 26 6, fa := w.extractLsb' 22 4, fb := w.extractLsb' 18 4, cidx := w.extractLsb' 9 9,
    sub := w.extractLsb' 5 4 }

/-- The format S body of a word (R335). -/
def bodyS (w : Bits96) : BodyS :=
  { d := w.extractLsb' 64 9, a := w.extractLsb' 55 9, b := w.extractLsb' 46 9, imm := w.extractLsb' 30 16 }

/-! ## Words of the formats -/

/-- The opcode and head of a word (R333). -/
def packHead (opc : BitVec 10) (h : Head) : BitVec 23 := opc ++ BitVec.ofBool h.gn ++ h.gp ++ h.mod

/-- The word of a format A instruction. -/
def packA (opc : BitVec 10) (h : Head) (o : BodyA) : Bits96 := packHead opc h ++ o.d ++ o.a ++ o.b ++ o.c ++ o.imm ++ 0#5

/-- The word of a format W instruction. -/
def packW (opc : BitVec 10) (h : Head) (o : BodyW) : Bits96 := packHead opc h ++ o.d ++ o.imm

/-- The word of a format M instruction. -/
def packM (opc : BitVec 10) (h : Head) (o : BodyM) : Bits96 :=
  packHead opc h ++ o.d ++ o.a ++ o.b ++ o.scope ++ o.ord ++ BitVec.ofBool o.rem ++ BitVec.ofBool o.xf ++ o.ext ++ o.size ++ o.off ++ 0#8

/-- The word of a format B instruction. -/
def packB (opc : BitVec 10) (h : Head) (o : BodyB) : Bits96 := packHead opc h ++ o.a ++ o.ldisp ++ o.tslot ++ 0#45

/-- The word of a format K instruction. -/
def packK (opc : BitVec 10) (h : Head) (o : BodyK) : Bits96 :=
  packHead opc h ++ o.d ++ o.a ++ o.b ++ o.c ++ o.scope ++ o.cls ++ o.mlen ++ o.mask1 ++ o.mask2 ++ o.num ++ 0#4

/-- The word of a format X instruction. -/
def packX (opc : BitVec 10) (h : Head) (o : BodyX) : Bits96 :=
  packHead opc h ++ o.d ++ o.a ++ o.b ++ o.qa ++ o.qb ++ o.tile ++ o.nt ++ o.fa ++ o.fb ++ o.cidx ++ o.sub ++ 0#5

/-- The word of a format S instruction. -/
def packS (opc : BitVec 10) (h : Head) (o : BodyS) : Bits96 := packHead opc h ++ o.d ++ o.a ++ o.b ++ o.imm ++ 0#30

/-! ## Encoding -/

/-- The word of an instruction (R333, R335, R340); a device step has none. -/
def encode : Instr → Option Bits96
  | .elect h o => some (packA 0x00B#10 h o)
  | .vote h o => some (packA 0x00C#10 h o)
  | .shfl h o => some (packA 0x00D#10 h o)
  | .iadd h o => some (packA 0x080#10 h o)
  | .isub h o => some (packA 0x081#10 h o)
  | .imul h o => some (packA 0x082#10 h o)
  | .imad h o => some (packA 0x083#10 h o)
  | .idiv h o => some (packA 0x084#10 h o)
  | .irem h o => some (packA 0x085#10 h o)
  | .imin h o => some (packA 0x086#10 h o)
  | .imax h o => some (packA 0x087#10 h o)
  | .iabs h o => some (packA 0x088#10 h o)
  | .and h o => some (packA 0x089#10 h o)
  | .or h o => some (packA 0x08A#10 h o)
  | .xor h o => some (packA 0x08B#10 h o)
  | .andn h o => some (packA 0x08C#10 h o)
  | .shl h o => some (packA 0x08D#10 h o)
  | .shr h o => some (packA 0x08E#10 h o)
  | .sar h o => some (packA 0x08F#10 h o)
  | .rol h o => some (packA 0x090#10 h o)
  | .bfx h o => some (packA 0x091#10 h o)
  | .bfi h o => some (packA 0x092#10 h o)
  | .popc h o => some (packA 0x093#10 h o)
  | .clz h o => some (packA 0x094#10 h o)
  | .brev h o => some (packA 0x095#10 h o)
  | .iset h o => some (packA 0x096#10 h o)
  | .pset h o => some (packA 0x097#10 h o)
  | .sel h o => some (packA 0x098#10 h o)
  | .mov h o => some (packA 0x099#10 h o)
  | .movi h o => some (packA 0x09A#10 h o)
  | .iadd64 h o => some (packA 0x09C#10 h o)
  | .isub64 h o => some (packA 0x09D#10 h o)
  | .imad64 h o => some (packA 0x09E#10 h o)
  | .iset64 h o => some (packA 0x09F#10 h o)
  | .lea h o => some (packA 0x0A0#10 h o)
  | .pmov h o => some (packA 0x0A1#10 h o)
  | .hmix h o => some (packA 0x0A2#10 h o)
  | .fadd h o => some (packA 0x100#10 h o)
  | .fsub h o => some (packA 0x101#10 h o)
  | .fmul h o => some (packA 0x102#10 h o)
  | .ffma h o => some (packA 0x103#10 h o)
  | .fmin h o => some (packA 0x104#10 h o)
  | .fmax h o => some (packA 0x105#10 h o)
  | .fset h o => some (packA 0x106#10 h o)
  | .fclass h o => some (packA 0x107#10 h o)
  | .frcp h o => some (packA 0x108#10 h o)
  | .frsq h o => some (packA 0x109#10 h o)
  | .fsqrt h o => some (packA 0x10A#10 h o)
  | .fdiv h o => some (packA 0x10B#10 h o)
  | .fex2 h o => some (packA 0x10C#10 h o)
  | .flg2 h o => some (packA 0x10D#10 h o)
  | .fsin h o => some (packA 0x10E#10 h o)
  | .fcos h o => some (packA 0x10F#10 h o)
  | .ftanh h o => some (packA 0x110#10 h o)
  | .fsigm h o => some (packA 0x111#10 h o)
  | .dadd h o => some (packA 0x112#10 h o)
  | .dmul h o => some (packA 0x113#10 h o)
  | .dfma h o => some (packA 0x114#10 h o)
  | .pkfma h o => some (packA 0x115#10 h o)
  | .pkadd h o => some (packA 0x116#10 h o)
  | .pkmul h o => some (packA 0x117#10 h o)
  | .dot4 h o => some (packA 0x118#10 h o)
  | .dot8 h o => some (packA 0x119#10 h o)
  | .bred h o => some (packA 0x11A#10 h o)
  | .cvt h o => some (packA 0x180#10 h o)
  | .cvtn h o => some (packA 0x181#10 h o)
  | .cvtw h o => some (packA 0x182#10 h o)
  | .tblld h o => some (packA 0x183#10 h o)
  | .i4tx h o => some (packA 0x184#10 h o)
  | .q4x h o => some (packA 0x185#10 h o)
  | .qscl h o => some (packA 0x186#10 h o)
  | .pack h o => some (packA 0x187#10 h o)
  | .unpk h o => some (packA 0x188#10 h o)
  | .frnd h o => some (packA 0x189#10 h o)
  | .movw h o => some (packW 0x09B#10 h o)
  | .bra h o => some (packB 0x001#10 h o)
  | .brx h o => some (packB 0x002#10 h o)
  | .call h o => some (packB 0x003#10 h o)
  | .callx h o => some (packB 0x004#10 h o)
  | .ret h o => some (packB 0x005#10 h o)
  | .spawn h o => some (packB 0x006#10 h o)
  | .nop h o => some (packS 0x000#10 h o)
  | .fend h o => some (packS 0x007#10 h o)
  | .fwait h o => some (packS 0x008#10 h o)
  | .park h o => some (packS 0x009#10 h o)
  | .wake h o => some (packS 0x00A#10 h o)
  | .wakeGrp h o => some (packS 0x00A#10 h o)
  | .regclm h o => some (packS 0x00E#10 h o)
  | .regrel h o => some (packS 0x00F#10 h o)
  | .fmtp h o => some (packS 0x010#10 h o)
  | .trap h o => some (packS 0x011#10 h o)
  | .tret h o => some (packS 0x012#10 h o)
  | .bkpt h o => some (packS 0x013#10 h o)
  | .movs h o => some (packS 0x014#10 h o)
  | .movsW h o => some (packS 0x014#10 h o)
  | .ctlrd h o => some (packS 0x015#10 h o)
  | .ctlwr h o => some (packS 0x016#10 h o)
  | .launch h o => some (packS 0x017#10 h o)
  | .quiesce h o => some (packS 0x018#10 h o)
  | .quiesceOpen h o => some (packS 0x018#10 h o)
  | .sigmark h o => some (packS 0x019#10 h o)
  | .basin h o => some (packS 0x383#10 h o)
  | .basinAll h o => some (packS 0x383#10 h o)
  | .basinOwn h o => some (packS 0x383#10 h o)
  | .rate h o => some (packS 0x387#10 h o)
  | .discard h o => some (packS 0x388#10 h o)
  | .ld h o => some (packM 0x200#10 h o)
  | .st h o => some (packM 0x201#10 h o)
  | .ldc h o => some (packM 0x202#10 h o)
  | .stc h o => some (packM 0x203#10 h o)
  | .lda h o => some (packM 0x204#10 h o)
  | .sta h o => some (packM 0x205#10 h o)
  | .pref h o => some (packM 0x206#10 h o)
  | .flush h o => some (packM 0x209#10 h o)
  | .invl h o => some (packM 0x20A#10 h o)
  | .pin h o => some (packM 0x20B#10 h o)
  | .unpin h o => some (packM 0x20C#10 h o)
  | .extq h o => some (packM 0x210#10 h o)
  | .migr h o => some (packM 0x211#10 h o)
  | .atom h o => some (packM 0x280#10 h o)
  | .red h o => some (packM 0x281#10 h o)
  | .blend h o => some (packM 0x386#10 h o)
  | .fence h o => some (packK 0x207#10 h o)
  | .fencep h o => some (packK 0x208#10 h o)
  | .combine h o => some (packK 0x282#10 h o)
  | .cmbreg h o => some (packK 0x283#10 h o)
  | .osent h o => some (packK 0x284#10 h o)
  | .osleave h o => some (packK 0x285#10 h o)
  | .osskip h o => some (packK 0x286#10 h o)
  | .barinit h o => some (packK 0x287#10 h o)
  | .bararv h o => some (packK 0x288#10 h o)
  | .barwt h o => some (packK 0x289#10 h o)
  | .baraw h o => some (packK 0x28A#10 h o)
  | .send h o => some (packK 0x28B#10 h o)
  | .sendr h o => some (packK 0x28C#10 h o)
  | .hbind h o => some (packK 0x28D#10 h o)
  | .hunbind h o => some (packK 0x28E#10 h o)
  | .cmask h o => some (packK 0x28F#10 h o)
  | .hend h o => some (packK 0x290#10 h o)
  | .mbox h o => some (packK 0x291#10 h o)
  | .mboxRp h o => some (packK 0x291#10 h o)
  | .emit h o => some (packK 0x292#10 h o)
  | .ndone h o => some (packK 0x293#10 h o)
  | .reply h o => some (packK 0x294#10 h o)
  | .raysend h o => some (packK 0x381#10 h o)
  | .raysendLocal h o => some (packK 0x381#10 h o)
  | .hitput h o => some (packK 0x382#10 h o)
  | .cpy h o => some (packX 0x20D#10 h o)
  | .cpyw h o => some (packX 0x20E#10 h o)
  | .gath h o => some (packX 0x20F#10 h o)
  | .mlease h o => some (packX 0x300#10 h o)
  | .mrel h o => some (packX 0x301#10 h o)
  | .mma h o => some (packX 0x302#10 h o)
  | .mmas h o => some (packX 0x303#10 h o)
  | .mzero h o => some (packX 0x304#10 h o)
  | .mepi h o => some (packX 0x305#10 h o)
  | .mldacc h o => some (packX 0x306#10 h o)
  | .ringset h o => some (packX 0x307#10 h o)
  | .ringadv h o => some (packX 0x308#10 h o)
  | .ringq h o => some (packX 0x309#10 h o)
  | .mwait h o => some (packX 0x30A#10 h o)
  | .infer h o => some (packX 0x30B#10 h o)
  | .trv h o => some (packX 0x380#10 h o)
  | .tload h o => some (packX 0x384#10 h o)
  | .tloadTds h o => some (packX 0x384#10 h o)
  | .tloadRds h o => some (packX 0x384#10 h o)
  | .town h o => some (packX 0x385#10 h o)
  | .pump h o => some (packX 0x389#10 h o)
  | .pumpw h o => some (packX 0x38A#10 h o)
  | .encq h o => some (packX 0x38B#10 h o)
  | .batchForm _ _ => none
  | .issueBufferAccept _ _ _ => none
  | .longLatencyResult _ => none
  | .tokenGrant => none
  | .claimGrant _ => none
  | .launchDoorbell _ _ => none
  | .launchMessage _ => none
  | .launchPlacement _ => none
  | .codeLine _ => none
  | .shapeStore _ => none
  | .startMessage _ => none
  | .gridEnd _ _ => none
  | .workGraphRecord _ => none
  | .userMessage _ => none
  | .handlerGroupForm _ _ => none
  | .loopbackTransfer _ => none
  | .sendQueueInject _ _ => none
  | .packetHop _ => none
  | .readRequest _ => none
  | .writeRequest _ => none
  | .l2FillComplete _ _ => none
  | .atomicRequest _ => none
  | .reductionRequest _ => none
  | .rangeRequest _ => none
  | .writeAcknowledgement _ => none
  | .tlbWalkComplete _ _ => none
  | .fetchParityError _ _ => none
  | .codeRefetchComplete _ _ _ => none
  | .combineRequest _ => none
  | .combinerWaveClose _ _ => none
  | .combinerWaveStart _ _ => none
  | .sectionRequest _ => none
  | .sectionGrant _ => none
  | .sectionTimeoutProbe _ _ => none
  | .sectionDeadlockProbe _ => none
  | .sectionWaitWithdrawal _ => none
  | .barrierArrivalPacket _ => none
  | .barrierCompletion _ => none
  | .barrierWaitTimeout _ _ _ => none
  | .parkTimeout _ _ _ => none
  | .teamWatchdogExpiry _ _ => none
  | .matrixWatchdogExpiry _ _ => none
  | .leaseRequest _ => none
  | .leaseGrant _ => none
  | .matrixCommand _ => none
  | .matrixTileStep _ => none
  | .engineCompletion _ => none
  | .copyCommandRun _ => none
  | .rayMessage _ => none
  | .traversalNodeVisit _ _ => none
  | .hitRecord _ => none
  | .ringToBasinMove _ _ => none
  | .basinBinTimeout _ _ => none
  | .shadingWaveForm _ _ => none
  | .creditBatchTake _ _ _ _ => none
  | .creditIdleReturn _ _ _ _ => none
  | .treeletTransfer _ => none
  | .pumpCommand _ => none
  | .pumpCommandStart _ _ => none
  | .pumpCommandComplete _ _ => none
  | .pumpReadError _ _ => none
  | .pumpInvalidation _ => none
  | .invalidationAcknowledgement _ => none
  | .migrationControl _ => none
  | .migrationBlock _ => none
  | .migrationPassEnd _ => none
  | .faultBatch _ => none
  | .faultServiceActivation _ => none
  | .faultReply _ => none
  | .shootDown _ => none
  | .shootDownProcess _ => none
  | .shootDownAcknowledgement _ => none
  | .controlRegisterBroadcast _ _ => none
  | .promotionRequest _ => none
  | .promotionAcknowledgement _ => none
  | .errorLogEntry _ => none
  | .replayFilterExpiry _ _ => none
  | .errorDetected _ => none
  | .selfTestStart _ => none
  | .selfTestComplete _ _ => none
  | .hbmParityAlert _ _ _ => none
  | .laneRepair _ _ _ => none
  | .ccmdPreempt _ => none
  | .preemptionSaveComplete _ => none
  | .ccmdResume _ => none
  | .ccmdDebugStop _ => none
  | .ccmdDebugResume _ => none
  | .ccmdSingleStep _ => none
  | .debuggerStateWrite _ => none
  | .hostRegisterWrite _ _ _ _ => none
  | .ctlTimebaseWrite _ => none
  | .completionCounterWrite _ _ _ => none
  | .descriptorImageWrite _ _ _ => none
  | .apertureAccess _ _ _ _ => none
  | .sliceApply _ => none
  | .ckptStart => none
  | .ckptEnd => none
  | .encoderFrameComplete _ => none
  | .coldReset _ => none
  | .warmReset _ => none
  | .sliceReset _ => none
  | .junctionTemperature105 => none
  | .thermalTrip _ => none
  | .spanPortTrained _ _ _ => none
  | .spanLinkLoss _ => none
  | .getVersion => none
  | .getCapabilities => none
  | .negotiateAlgorithms _ => none
  | .getDigests => none
  | .getCertificate _ _ => none
  | .challenge _ => none
  | .getMeasurements _ => none
  | .quiesceTimeout _ _ _ => none
  | .laneRepairComplete _ _ => none
  | .debuggerAttach _ => none
  | .debuggerDetach _ => none
  | .physicalWindowAccess _ _ _ => none
  | .creditReturn _ => none
  | .teamEnd _ _ => none
  | .draw _ => none

/-- The instruction a word's opcode names, before its encoding checks; none for an unassigned opcode (R340, R341). -/
def ofOpcode (opc : BitVec 10) (h : Head) (w : Bits96) : Option Instr :=
  match opc.toNat with
  | 0x000 => some (.nop h (bodyS w))
  | 0x001 => some (.bra h (bodyB w))
  | 0x002 => some (.brx h (bodyB w))
  | 0x003 => some (.call h (bodyB w))
  | 0x004 => some (.callx h (bodyB w))
  | 0x005 => some (.ret h (bodyB w))
  | 0x006 => some (.spawn h (bodyB w))
  | 0x007 => some (.fend h (bodyS w))
  | 0x008 => some (.fwait h (bodyS w))
  | 0x009 => some (.park h (bodyS w))
  | 0x00A => some (if h.mod = 1#8 then .wakeGrp h (bodyS w) else .wake h (bodyS w))
  | 0x00B => some (.elect h (bodyA w))
  | 0x00C => some (.vote h (bodyA w))
  | 0x00D => some (.shfl h (bodyA w))
  | 0x00E => some (.regclm h (bodyS w))
  | 0x00F => some (.regrel h (bodyS w))
  | 0x010 => some (.fmtp h (bodyS w))
  | 0x011 => some (.trap h (bodyS w))
  | 0x012 => some (.tret h (bodyS w))
  | 0x013 => some (.bkpt h (bodyS w))
  | 0x014 => some (if h.mod = 1#8 then .movsW h (bodyS w) else .movs h (bodyS w))
  | 0x015 => some (.ctlrd h (bodyS w))
  | 0x016 => some (.ctlwr h (bodyS w))
  | 0x017 => some (.launch h (bodyS w))
  | 0x018 => some (if h.mod = 1#8 then .quiesceOpen h (bodyS w) else .quiesce h (bodyS w))
  | 0x019 => some (.sigmark h (bodyS w))
  | 0x080 => some (.iadd h (bodyA w))
  | 0x081 => some (.isub h (bodyA w))
  | 0x082 => some (.imul h (bodyA w))
  | 0x083 => some (.imad h (bodyA w))
  | 0x084 => some (.idiv h (bodyA w))
  | 0x085 => some (.irem h (bodyA w))
  | 0x086 => some (.imin h (bodyA w))
  | 0x087 => some (.imax h (bodyA w))
  | 0x088 => some (.iabs h (bodyA w))
  | 0x089 => some (.and h (bodyA w))
  | 0x08A => some (.or h (bodyA w))
  | 0x08B => some (.xor h (bodyA w))
  | 0x08C => some (.andn h (bodyA w))
  | 0x08D => some (.shl h (bodyA w))
  | 0x08E => some (.shr h (bodyA w))
  | 0x08F => some (.sar h (bodyA w))
  | 0x090 => some (.rol h (bodyA w))
  | 0x091 => some (.bfx h (bodyA w))
  | 0x092 => some (.bfi h (bodyA w))
  | 0x093 => some (.popc h (bodyA w))
  | 0x094 => some (.clz h (bodyA w))
  | 0x095 => some (.brev h (bodyA w))
  | 0x096 => some (.iset h (bodyA w))
  | 0x097 => some (.pset h (bodyA w))
  | 0x098 => some (.sel h (bodyA w))
  | 0x099 => some (.mov h (bodyA w))
  | 0x09A => some (.movi h (bodyA w))
  | 0x09B => some (.movw h (bodyW w))
  | 0x09C => some (.iadd64 h (bodyA w))
  | 0x09D => some (.isub64 h (bodyA w))
  | 0x09E => some (.imad64 h (bodyA w))
  | 0x09F => some (.iset64 h (bodyA w))
  | 0x0A0 => some (.lea h (bodyA w))
  | 0x0A1 => some (.pmov h (bodyA w))
  | 0x0A2 => some (.hmix h (bodyA w))
  | 0x100 => some (.fadd h (bodyA w))
  | 0x101 => some (.fsub h (bodyA w))
  | 0x102 => some (.fmul h (bodyA w))
  | 0x103 => some (.ffma h (bodyA w))
  | 0x104 => some (.fmin h (bodyA w))
  | 0x105 => some (.fmax h (bodyA w))
  | 0x106 => some (.fset h (bodyA w))
  | 0x107 => some (.fclass h (bodyA w))
  | 0x108 => some (.frcp h (bodyA w))
  | 0x109 => some (.frsq h (bodyA w))
  | 0x10A => some (.fsqrt h (bodyA w))
  | 0x10B => some (.fdiv h (bodyA w))
  | 0x10C => some (.fex2 h (bodyA w))
  | 0x10D => some (.flg2 h (bodyA w))
  | 0x10E => some (.fsin h (bodyA w))
  | 0x10F => some (.fcos h (bodyA w))
  | 0x110 => some (.ftanh h (bodyA w))
  | 0x111 => some (.fsigm h (bodyA w))
  | 0x112 => some (.dadd h (bodyA w))
  | 0x113 => some (.dmul h (bodyA w))
  | 0x114 => some (.dfma h (bodyA w))
  | 0x115 => some (.pkfma h (bodyA w))
  | 0x116 => some (.pkadd h (bodyA w))
  | 0x117 => some (.pkmul h (bodyA w))
  | 0x118 => some (.dot4 h (bodyA w))
  | 0x119 => some (.dot8 h (bodyA w))
  | 0x11A => some (.bred h (bodyA w))
  | 0x180 => some (.cvt h (bodyA w))
  | 0x181 => some (.cvtn h (bodyA w))
  | 0x182 => some (.cvtw h (bodyA w))
  | 0x183 => some (.tblld h (bodyA w))
  | 0x184 => some (.i4tx h (bodyA w))
  | 0x185 => some (.q4x h (bodyA w))
  | 0x186 => some (.qscl h (bodyA w))
  | 0x187 => some (.pack h (bodyA w))
  | 0x188 => some (.unpk h (bodyA w))
  | 0x189 => some (.frnd h (bodyA w))
  | 0x200 => some (.ld h (bodyM w))
  | 0x201 => some (.st h (bodyM w))
  | 0x202 => some (.ldc h (bodyM w))
  | 0x203 => some (.stc h (bodyM w))
  | 0x204 => some (.lda h (bodyM w))
  | 0x205 => some (.sta h (bodyM w))
  | 0x206 => some (.pref h (bodyM w))
  | 0x207 => some (.fence h (bodyK w))
  | 0x208 => some (.fencep h (bodyK w))
  | 0x209 => some (.flush h (bodyM w))
  | 0x20A => some (.invl h (bodyM w))
  | 0x20B => some (.pin h (bodyM w))
  | 0x20C => some (.unpin h (bodyM w))
  | 0x20D => some (.cpy h (bodyX w))
  | 0x20E => some (.cpyw h (bodyX w))
  | 0x20F => some (.gath h (bodyX w))
  | 0x210 => some (.extq h (bodyM w))
  | 0x211 => some (.migr h (bodyM w))
  | 0x280 => some (.atom h (bodyM w))
  | 0x281 => some (.red h (bodyM w))
  | 0x282 => some (.combine h (bodyK w))
  | 0x283 => some (.cmbreg h (bodyK w))
  | 0x284 => some (.osent h (bodyK w))
  | 0x285 => some (.osleave h (bodyK w))
  | 0x286 => some (.osskip h (bodyK w))
  | 0x287 => some (.barinit h (bodyK w))
  | 0x288 => some (.bararv h (bodyK w))
  | 0x289 => some (.barwt h (bodyK w))
  | 0x28A => some (.baraw h (bodyK w))
  | 0x28B => some (.send h (bodyK w))
  | 0x28C => some (.sendr h (bodyK w))
  | 0x28D => some (.hbind h (bodyK w))
  | 0x28E => some (.hunbind h (bodyK w))
  | 0x28F => some (.cmask h (bodyK w))
  | 0x290 => some (.hend h (bodyK w))
  | 0x291 => some (if h.mod = 1#8 then .mboxRp h (bodyK w) else .mbox h (bodyK w))
  | 0x292 => some (.emit h (bodyK w))
  | 0x293 => some (.ndone h (bodyK w))
  | 0x294 => some (.reply h (bodyK w))
  | 0x300 => some (.mlease h (bodyX w))
  | 0x301 => some (.mrel h (bodyX w))
  | 0x302 => some (.mma h (bodyX w))
  | 0x303 => some (.mmas h (bodyX w))
  | 0x304 => some (.mzero h (bodyX w))
  | 0x305 => some (.mepi h (bodyX w))
  | 0x306 => some (.mldacc h (bodyX w))
  | 0x307 => some (.ringset h (bodyX w))
  | 0x308 => some (.ringadv h (bodyX w))
  | 0x309 => some (.ringq h (bodyX w))
  | 0x30A => some (.mwait h (bodyX w))
  | 0x30B => some (.infer h (bodyX w))
  | 0x380 => some (.trv h (bodyX w))
  | 0x381 => some (if h.mod = 1#8 then .raysendLocal h (bodyK w) else .raysend h (bodyK w))
  | 0x382 => some (.hitput h (bodyK w))
  | 0x383 => some (if h.mod = 1#8 then .basinAll h (bodyS w) else if h.mod = 2#8 then .basinOwn h (bodyS w) else .basin h (bodyS w))
  | 0x384 => some (if w.extractLsb' 5 4 = 1#4 then .tloadTds h (bodyX w) else if w.extractLsb' 5 4 = 2#4 then .tloadRds h (bodyX w) else .tload h (bodyX w))
  | 0x385 => some (.town h (bodyX w))
  | 0x386 => some (.blend h (bodyM w))
  | 0x387 => some (.rate h (bodyS w))
  | 0x388 => some (.discard h (bodyS w))
  | 0x389 => some (.pump h (bodyX w))
  | 0x38A => some (.pumpw h (bodyX w))
  | 0x38B => some (.encq h (bodyX w))
  | _ => none

/-! ## Encoding checks -/

/-- How an instruction uses an operand field (R351, R392, R433): not at all, as a destination, as any source, as a general register, as a
pair or quad, as a general register other than g0, as a predicate, as a format code, as a special register, or as s.fsr. -/
inductive Use where
  | zero | dst | src | gpr | nonzero | pairDst | pairSrc | pair | quad | pred | fmt | special | fsr
  deriving DecidableEq, Repr

/-- Codes of general registers. -/
def isGpr (c : Code) : Bool := decide (c.toNat < 0x100)

/-- Codes of predicates. -/
def isPred (c : Code) : Bool := decide (0x100 ≤ c.toNat ∧ c.toNat < 0x110)

/-- Codes of the listed special registers (R83). -/
def isSpecial (c : Code) : Bool := decide (0x110 ≤ c.toNat ∧ c.toNat < 0x139)

/-- A reserved field is zero; a format field has zero in [8:4] (R337, R351). -/
def Use.zeroOk : Use → Code → Bool
  | .zero, c => decide (c = 0#9)
  | .fmt, c => decide (c.toNat < 16)
  | _, _ => true

/-- A format field holds a code of R145. -/
def Use.valueOk : Use → Code → Bool
  | .fmt, c => decide (1 ≤ c.toNat % 16 ∧ c.toNat % 16 ≤ 10)
  | _, _ => true

/-- The operand code is one the field accepts (R80, R83, R351, R433). -/
def Use.codeOk : Use → Code → Bool
  | .zero, _ | .fmt, _ => true
  | .dst, c => isGpr c || isPred c
  | .src, c => isGpr c || isPred c || (isSpecial c && decide (c ≠ 0x133#9) && decide (c ≠ 0x134#9)) || decide (c = 0x140#9)
  | .gpr, c | .pairDst, c | .pair, c | .quad, c => isGpr c
  | .nonzero, c => isGpr c && decide (c ≠ 0#9)
  | .pairSrc, c => isGpr c || decide (c = 0x140#9)
  | .pred, c => isPred c
  | .special, c => isSpecial c
  | .fsr, c => decide (c = 0x131#9)

/-- A pair begins at an even register and a quad at a multiple of 4 (R78, R336). -/
def Use.pairOk : Use → Code → Bool
  | .pairDst, c | .pair, c => decide (c.toNat % 2 = 0)
  | .pairSrc, c => decide (c = 0x140#9 ∨ c.toNat % 2 = 0)
  | .quad, c => decide (c.toNat % 4 = 0)
  | _, _ => true

/-- The operand fields of an instruction in the order of its format, D first, with the use it makes of each, and the outcome of the
encoding checks 5 to 8 of R338. -/
structure Form where
  uses : List (Use × Code)
  reserved : Bool
  values : Bool
  codes : Bool
  pairs : Bool
  deriving DecidableEq, Repr

/-- The checks of a list of operand fields, with the reserved and value checks of the other fields. -/
def formOf (fields : List (Use × Code)) (reserved values : Bool) : Form :=
  { uses := fields
    reserved := reserved && fields.all fun f => f.1.zeroOk f.2
    values := values && fields.all fun f => f.1.valueOk f.2
    codes := fields.all fun f => f.1.codeOk f.2
    pairs := fields.all fun f => f.1.pairOk f.2 }

/-- Format A: IMM is used when a used source names it (R337). -/
def formA (ok : Bool) (d a b c : Use) (o : BodyA) : Form :=
  formOf [(d, o.d), (a, o.a), (b, o.b), (c, o.c)]
    (decide (o.imm = 0#32) || [(a, o.a), (b, o.b), (c, o.c)].any fun f => (f.1 == .src || f.1 == .pairSrc) && f.2 == 0x140#9) ok

/-- Format S. -/
def formS (ok immUsed : Bool) (d a b : Use) (o : BodyS) : Form :=
  formOf [(d, o.d), (a, o.a), (b, o.b)] (immUsed || decide (o.imm = 0#16)) ok

/-- Format B: TSLOT names a slot of a line (R335). -/
def formB (ok : Bool) (a : Use) (target : Bool) (o : BodyB) : Form :=
  formOf [(.zero, 0#9), (a, o.a)] (target || (decide (o.ldisp = 0#16) && decide (o.tslot = 0#3))) (ok && (!target || decide (o.tslot.toNat < 5)))

/-- The small fields a format K instruction uses (R402-R430). -/
structure KFields where
  scope : Bool := false
  cls : Bool := false
  mlen : Bool := false
  mask1 : Bool := false
  mask2 : Bool := false
  num : Nat := 0
  deriving DecidableEq, Repr

/-- Format K: `num` is how many low bits of NUM the instruction uses; scope codes stop at 11 (R178). -/
def formK (ok : Bool) (d a b c : Use) (k : KFields) (o : BodyK) : Form :=
  formOf [(d, o.d), (a, o.a), (b, o.b), (c, o.c)]
    ((k.scope || decide (o.scope = 0#4)) && (k.cls || decide (o.cls = 0#4)) && (k.mlen || decide (o.mlen = 0#4)) &&
      (k.mask1 || decide (o.mask1 = 0#7)) && (k.mask2 || decide (o.mask2 = 0#7)) && decide (o.num.toNat < 2 ^ k.num))
    (ok && decide (o.scope.toNat < 12))

/-- The small fields a format X instruction uses (R403, R445, R463-R475). -/
structure XFields where
  qa : Bool := false
  qb : Bool := false
  tile : Bool := false
  nt : Bool := false
  fa : Bool := false
  fb : Bool := false
  cidx : Bool := false
  sub : Nat := 0
  deriving DecidableEq, Repr

/-- Format X: a completion index lies below 64 (R446). -/
def formX (ok : Bool) (d a b : Use) (k : XFields) (o : BodyX) : Form :=
  formOf [(d, o.d), (a, o.a), (b, o.b)]
    ((k.qa || decide (o.qa = 0#4)) && (k.qb || decide (o.qb = 0#4)) && (k.tile || decide (o.tile = 0#6)) && (k.nt || decide (o.nt = 0#6)) &&
      (k.fa || decide (o.fa = 0#4)) && (k.fb || decide (o.fb = 0#4)) && (k.cidx || decide (o.cidx = 0#9)) && decide (o.sub.toNat < 2 ^ k.sub))
    (ok && decide (o.cidx.toNat < 64))

/-- The access size in bytes, from SIZE (R335). -/
def sizeBytes (s : BitVec 3) : Nat := 2 ^ s.toNat

/-- The use of a data register field of a given size (R392). -/
def sizeUse (bytes : Nat) : Use := if bytes = 8 then .pair else if bytes = 16 then .quad else .gpr

/-- The base field: a pair in the pair form, one register in the extent form (R335). -/
def baseUse (o : BodyM) : Use := if o.xf then .gpr else .pair

/-- The unused fields of a format M instruction are zero (R389). -/
def extOk (o : BodyM) : Bool := o.xf || decide (o.ext = 0#3)

/-- LD, LDA, ST, STA, LDC and STC (R389, R390, R392): the orderings a form permits, and .rem. -/
def formMem (h : Head) (load cistern remote : Bool) (o : BodyM) : Form :=
  formOf [(sizeUse (sizeBytes o.size), o.d), (if cistern then .gpr else baseUse o, o.a), (.zero, o.b)]
    (if cistern then !o.xf && decide (o.ext = 0#3) else extOk o)
    (decide (o.size.toNat < 5) && decide (o.scope.toNat < 12) &&
      decide (h.mod.toNat < (if load then 2 else 1)) && (decide (h.mod = 0#8) || decide (o.size.toNat < 2)) &&
      (decide (o.ord = 0#2) || decide (o.ord = (if load then 1#2 else 2#2))) &&
      (!o.rem || (remote && decide (o.ord = 1#2) && decide (4 ≤ o.scope.toNat ∧ o.scope.toNat < 8))))

/-- PREF, FLUSH, INVL, PIN, UNPIN and MIGR (R389, R399). -/
def formRange (h : Head) (o : BodyM) : Form :=
  formOf [(.zero, o.d), (baseUse o, o.a), (.gpr, o.b)]
    (extOk o && decide (o.scope = 0#4) && decide (o.ord = 0#2) && !o.rem && decide (o.size = 0#3)) (decide (h.mod = 0#8))

/-- The sizes and the variants of ATOM and RED (R407). -/
def atomOk (h : Head) (red : Bool) (o : BodyM) : Bool :=
  let op := h.mod.toNat % 16
  let st := h.mod.getLsbD 4
  let rty := h.mod.getLsbD 5
  decide (h.mod.toNat < 64) && decide (op < 13) && (!red || (decide (op ≠ 8) && decide (op ≠ 9))) &&
    (decide (o.size = 2#3) || decide (o.size = 3#3)) && (!red || !st) && (red || st || !rty) && (!red || !rty || decide (o.d ≠ 0#9)) &&
    decide (o.scope.toNat < 12) && (if red then decide (o.ord = 0#2) || decide (o.ord = 2#2) else true) &&
    (!o.rem || (!red && decide (o.ord.toNat % 2 = 1) && decide (4 ≤ o.scope.toNat ∧ o.scope.toNat < 8)))

/-- ATOM and RED (R389, R407, R409). -/
def formAtom (h : Head) (red : Bool) (o : BodyM) : Form :=
  let n := sizeBytes o.size
  let cas := h.mod.toNat % 16 = 9
  let dUse := if red then Use.gpr else if h.mod.getLsbD 4 then sizeUse (2 * n) else sizeUse n
  formOf [(dUse, o.d), (baseUse o, o.a), (sizeUse (if cas then 2 * n else n), o.b)] (extOk o) (atomOk h red o)

/-- EXTQ (R406). -/
def formExtq (h : Head) (o : BodyM) : Form :=
  formOf [(if h.mod = 1#8 then .pair else .gpr, o.d), (.gpr, o.a), (.zero, o.b)]
    (o.xf && decide (o.scope = 0#4) && decide (o.ord = 0#2) && !o.rem && decide (o.size = 0#3)) (decide (h.mod.toNat < 2))

/-- BLEND (R468). -/
def formBlend (h : Head) (o : BodyM) : Form :=
  formOf [(sizeUse (sizeBytes o.size), o.d), (baseUse o, o.a), (.zero, o.b)]
    (extOk o && decide (o.scope = 0#4) && decide (o.ord = 0#2) && !o.rem)
    (decide (h.mod.toNat < 16) && decide (h.mod.toNat % 8 < 5) && decide (o.size = (if h.mod.getLsbD 3 then 3#3 else 2#3)))

/-- MOD with RND in [2:0] and zero above (R150). -/
def rndMod (h : Head) : Bool := decide (h.mod.toNat < 5)

/-- MOD with one flag in [3] and RND in [2:0] (R434, R442). -/
def flagRndMod (h : Head) : Bool := decide (h.mod.toNat < 16) && decide (h.mod.toNat % 8 < 5)

/-- MOD of ISET and ISET64 (R377). -/
def isetMod (h : Head) : Bool := decide (h.mod.toNat < 64) && decide (h.mod.toNat % 8 < 6)

/-- MOD of FSET (R434). -/
def fsetMod (h : Head) : Bool := decide (h.mod.toNat < 64) && !h.mod.getLsbD 3

/-- The third source of ISET, ISET64 and FSET: used under a combination (R377). -/
def cmbUse (h : Head) : Use := if h.mod.toNat / 16 % 4 = 0 then .zero else .src

/-- MOD of DOT4 and DOT8, with `kinds` element formats (R443). -/
def dotMod (kinds : Nat) (h : Head) : Bool :=
  decide (h.mod.toNat / 64 < kinds) && decide (h.mod.toNat / 16 % 4 < kinds) && decide (h.mod.toNat % 16 < 5)

/-- MOD of BRED: RND is zero but for .fadd (R444). -/
def bredMod (h : Head) : Bool :=
  decide (h.mod.toNat < 48) && (if h.mod.toNat / 8 = 0 then decide (h.mod.toNat % 8 < 5) else decide (h.mod.toNat % 8 = 0))

/-- Format codes of integers (R145). -/
def isIntFmt (f : Nat) : Bool := f == 7 || f == 8 || f == 9

/-- MOD of CVT (R381): a destination from 0x1 to 0x8, .u only with an integer side. (DEDUCED, log 93) -/
def cvtMod (h : Head) (c : Code) : Bool :=
  let dst := h.mod.toNat / 16
  decide (1 ≤ dst ∧ dst ≤ 8) && decide (h.mod.toNat % 8 < 5) && (!h.mod.getLsbD 3 || isIntFmt dst || isIntFmt (c.toNat % 16))

/-- MOD of CVTN (R382). -/
def cvtnMod (h : Head) : Bool :=
  let dst := h.mod.toNat / 16
  (dst == 3 || dst == 4 || dst == 5 || dst == 6 || dst == 8) && decide (h.mod.toNat % 8 < 5) && (!h.mod.getLsbD 3 || decide (5 ≤ dst))

/-- MOD of CVTW (R383), with the element format its c field names. -/
def cvtwMod (h : Head) (c : Code) : Bool :=
  decide (h.mod.toNat < 64) && decide (h.mod.toNat % 8 < 5) && !(h.mod.getLsbD 3 && h.mod.getLsbD 5) &&
    (let f := c.toNat % 16; f == 3 || f == 4 || f == 5 || f == 6 || f == 8 || f == 9)

/-- The element formats of matrix operands (R452). -/
def matFmt (f : BitVec 4) : Bool :=
  f == 3#4 || f == 4#4 || f == 5#4 || f == 6#4 || f == 8#4 || f == 9#4 || f == 10#4

/-- The listed control registers: scope (0 package, 1 slice, 2 die, 3 core), whether 64 bits wide (R105). -/
def ctlInfo (num : Nat) : Option (Nat × Bool) :=
  if num ≤ 5 then some (0, false)
  else if num = 6 ∨ num = 0x10 ∨ num = 0x11 then some (0, true)
  else if num = 0x100 ∨ num = 0x105 ∨ (0x107 ≤ num ∧ num ≤ 0x109) ∨ (0x110 ≤ num ∧ num ≤ 0x11F) then some (1, false)
  else if (0x101 ≤ num ∧ num ≤ 0x104) ∨ num = 0x106 ∨ num = 0x120 then some (1, true)
  else if num = 0x200 then some (2, false)
  else if 0x300 ≤ num ∧ num ≤ 0x302 then some (3, false)
  else none

/-- The control address of CTLRD and CTLWR is listed, has SLC zero when OS is 0, and the width fits (R100, R368). -/
def ctlOk (h : Head) (imm : BitVec 16) : Bool :=
  decide (h.mod.toNat < 2) && (imm.getLsbD 15 || decide (imm.toNat / 4096 % 8 = 0)) &&
    (match ctlInfo (imm.toNat % 4096) with
    | some (_, wide) => wide == decide (h.mod = 1#8)
    | none => false)

/-- s.clk and s.time (R83). -/
def isClock (c : Code) : Bool := c == 0x133#9 || c == 0x134#9

/-- The encoding checks of every instruction; a device step has none to fail. -/
def Instr.form : Instr → Form
  | .elect h o => formA (decide (h.mod = 0#8)) .dst .zero .zero .zero o
  | .vote h o => formA (decide (h.mod.toNat < 4)) .dst .src .zero .zero o
  | .shfl h o => formA (decide (h.mod.toNat < 4)) .dst .src .src .src o
  | .iadd h o => formA (decide (h.mod.toNat < 3)) .dst .src .src .zero o
  | .isub h o => formA (decide (h.mod.toNat < 3)) .dst .src .src .zero o
  | .imul h o => formA (decide (h.mod.toNat < 3)) .dst .src .src .zero o
  | .imad h o => formA (decide (h.mod.toNat < 2)) .dst .src .src .src o
  | .idiv h o => formA (decide (h.mod.toNat < 2)) .dst .src .src .zero o
  | .irem h o => formA (decide (h.mod.toNat < 2)) .dst .src .src .zero o
  | .imin h o => formA (decide (h.mod.toNat < 2)) .dst .src .src .zero o
  | .imax h o => formA (decide (h.mod.toNat < 2)) .dst .src .src .zero o
  | .iabs h o => formA (decide (h.mod.toNat < 2)) .dst .src .zero .zero o
  | .and h o => formA (decide (h.mod = 0#8)) .dst .src .src .zero o
  | .or h o => formA (decide (h.mod = 0#8)) .dst .src .src .zero o
  | .xor h o => formA (decide (h.mod = 0#8)) .dst .src .src .zero o
  | .andn h o => formA (decide (h.mod = 0#8)) .dst .src .src .zero o
  | .shl h o => formA (decide (h.mod = 0#8)) .dst .src .src .zero o
  | .shr h o => formA (decide (h.mod = 0#8)) .dst .src .src .zero o
  | .sar h o => formA (decide (h.mod = 0#8)) .dst .src .src .zero o
  | .rol h o => formA (decide (h.mod = 0#8)) .dst .src .src .zero o
  | .bfx h o => formA (decide (h.mod.toNat < 2)) .dst .src .src .zero o
  | .bfi h o => formA (decide (h.mod = 0#8)) .dst .src .src .src o
  | .popc h o => formA (decide (h.mod = 0#8)) .dst .src .zero .zero o
  | .clz h o => formA (decide (h.mod = 0#8)) .dst .src .zero .zero o
  | .brev h o => formA (decide (h.mod = 0#8)) .dst .src .zero .zero o
  | .iset h o => formA (isetMod h) .dst .src .src (cmbUse h) o
  | .pset h o => formA true .dst .src .src .src o
  | .sel h o => formA (decide (h.mod = 0#8)) .dst .src .src .src o
  | .mov h o => formA (decide (h.mod = 0#8)) .dst .src .zero .zero o
  | .movi h o => formOf [(.dst, o.d), (.zero, o.a), (.zero, o.b), (.zero, o.c)] true (decide (h.mod = 0#8))
  | .iadd64 h o => formA (decide (h.mod.toNat < 2)) .pairDst .pairSrc .pairSrc .zero o
  | .isub64 h o => formA (decide (h.mod.toNat < 2)) .pairDst .pairSrc .pairSrc .zero o
  | .imad64 h o => formA (decide (h.mod.toNat < 2)) .pairDst .src .src .pairSrc o
  | .iset64 h o => formA (isetMod h) .dst .pairSrc .pairSrc (cmbUse h) o
  | .lea h o => formA (decide (h.mod.toNat < 16)) .pairDst .pairSrc .src .zero o
  | .pmov h o => formA (decide (h.mod = 0#8)) .gpr .src .src .zero o
  | .hmix h o => formA (decide (h.mod = 0#8)) .dst .src .src .zero o
  | .fadd h o => formA (flagRndMod h) .dst .src .src .zero o
  | .fsub h o => formA (flagRndMod h) .dst .src .src .zero o
  | .fmul h o => formA (flagRndMod h) .dst .src .src .zero o
  | .ffma h o => formA (flagRndMod h) .dst .src .src .src o
  | .fmin h o => formA (decide (h.mod = 0#8)) .dst .src .src .zero o
  | .fmax h o => formA (decide (h.mod = 0#8)) .dst .src .src .zero o
  | .fset h o => formA (fsetMod h) .dst .src .src (cmbUse h) o
  | .fclass h o => formA (decide (h.mod = 0#8)) .dst .src .src .zero o
  | .frcp h o => formA (rndMod h) .dst .src .zero .zero o
  | .frsq h o => formA (rndMod h) .dst .src .zero .zero o
  | .fsqrt h o => formA (rndMod h) .dst .src .zero .zero o
  | .fdiv h o => formA (rndMod h) .dst .src .src .zero o
  | .fex2 h o => formA (decide (h.mod = 0#8)) .dst .src .zero .zero o
  | .flg2 h o => formA (decide (h.mod = 0#8)) .dst .src .zero .zero o
  | .fsin h o => formA (decide (h.mod = 0#8)) .dst .src .zero .zero o
  | .fcos h o => formA (decide (h.mod = 0#8)) .dst .src .zero .zero o
  | .ftanh h o => formA (decide (h.mod = 0#8)) .dst .src .zero .zero o
  | .fsigm h o => formA (decide (h.mod = 0#8)) .dst .src .zero .zero o
  | .dadd h o => formA (rndMod h) .pairDst .pairSrc .pairSrc .zero o
  | .dmul h o => formA (rndMod h) .pairDst .pairSrc .pairSrc .zero o
  | .dfma h o => formA (rndMod h) .pairDst .pairSrc .pairSrc .pairSrc o
  | .pkfma h o => formA (flagRndMod h) .dst .src .src .src o
  | .pkadd h o => formA (flagRndMod h) .dst .src .src .zero o
  | .pkmul h o => formA (flagRndMod h) .dst .src .src .zero o
  | .dot4 h o => formA (dotMod 2 h) .dst .pairSrc .pairSrc .src o
  | .dot8 h o => formA (dotMod 3 h) .dst .pairSrc .pairSrc .src o
  | .bred h o => formA (bredMod h) .dst .src .zero .zero o
  | .cvt h o => formA (cvtMod h o.c) (if h.mod.toNat / 16 = 1 then .pairDst else .dst) (if o.c = 1#9 then .pairSrc else .src) (if o.c = 10#9 then .src else .zero) .fmt o
  | .cvtn h o => formA (cvtnMod h) .dst .src .src (if h.mod.toNat / 16 < 5 then .zero else .src) o
  | .cvtw h o => formA (cvtwMod h o.c) (if h.mod.getLsbD 3 then .pairDst else .dst) .src .src .fmt o
  | .tblld h o => formA (decide (h.mod = 0#8)) .zero .quad .zero .zero o
  | .i4tx h o => formA (decide (h.mod.toNat < 3)) .dst .src .src .zero o
  | .q4x h o => formA (rndMod h) .dst .src .src .src o
  | .qscl h o => formA (decide (h.mod = 0#8)) .dst .src .src .zero o
  | .pack h o => formA (decide (h.mod.toNat < 3)) .dst .src .src (if h.mod = 0#8 then .zero else .src) o
  | .unpk h o => formA (decide (h.mod.toNat < 6)) .dst .src .src .zero o
  | .frnd h o => formA (flagRndMod h) (if h.mod.getLsbD 3 then .pairDst else .dst) (if h.mod.getLsbD 3 then .pairSrc else .src) .zero .zero o
  | .movw h o => formOf [(.pairDst, o.d)] true (decide (h.mod = 0#8))
  | .bra h o => formB (decide (h.mod = 0#8)) .zero true o
  | .brx h o => formB (decide (h.mod = 0#8)) .gpr false o
  | .call h o => formB (decide (h.mod = 0#8)) .zero true o
  | .callx h o => formB (decide (h.mod = 0#8)) .gpr false o
  | .ret h o => formB (decide (h.mod = 0#8)) .zero false o
  | .spawn h o => formB (decide (h.mod.toNat < 33)) .gpr true o
  | .nop h o => formS (decide (h.mod = 0#8)) false .zero .zero .zero o
  | .fend h o => formS (decide (h.mod = 0#8)) false .zero .zero .zero o
  | .fwait h o => formS (decide (h.mod = 0#8)) false .gpr .gpr .zero o
  | .park h o => formS (decide (h.mod = 0#8)) true .zero .zero .zero o
  | .wake h o => formS (decide (h.mod = 0#8)) false .zero .gpr .zero o
  | .wakeGrp h o => formS (decide (h.mod = 1#8)) false .zero .gpr .zero o
  | .regclm h o => formS (decide (h.mod = 0#8)) true .zero .zero .zero o
  | .regrel h o => formS (decide (h.mod = 0#8)) true .zero .zero .zero o
  | .fmtp h o => formS (decide (h.mod = 0#8) && decide (1 ≤ o.imm.toNat % 16 ∧ o.imm.toNat % 16 ≤ 10)) (decide (o.imm.toNat < 16)) .zero .zero .zero o
  | .trap h o => formS (decide (h.mod = 0#8)) (decide (o.imm.toNat < 256)) .zero .zero .zero o
  | .tret h o => formS (decide (h.mod = 0#8)) false .zero .zero .zero o
  | .bkpt h o => formS (decide (h.mod = 0#8)) false .zero .zero .zero o
  | .movs h o => formS (decide (h.mod = 0#8)) false (if isClock o.a then .pair else .gpr) .special .zero o
  | .movsW h o => formS (decide (h.mod = 1#8)) false .fsr .gpr .zero o
  | .ctlrd h o => formS (ctlOk h o.imm) true (if h.mod = 1#8 then .pair else .gpr) .zero .zero o
  | .ctlwr h o => formS (ctlOk h o.imm) true .zero (if h.mod = 1#8 then .pair else .gpr) .zero o
  | .launch h o => formS (decide (h.mod = 0#8) && decide (o.imm.toNat < 3)) true .gpr .pair .zero o
  | .quiesce h o => formS (decide (h.mod = 0#8)) true .gpr .gpr .zero o
  | .quiesceOpen h o => formS (decide (h.mod = 1#8)) false .gpr .gpr .zero o
  | .sigmark h o => formS (decide (h.mod = 0#8)) true .zero .zero .zero o
  | .basin h o => formS (decide (h.mod = 0#8)) (decide (o.imm.toNat < 32)) .zero .gpr .gpr o
  | .basinAll h o => formS (decide (h.mod = 1#8)) false .zero .gpr .gpr o
  | .basinOwn h o => formS (decide (h.mod = 2#8)) false .zero .zero .zero o
  | .rate h o => formS (decide (h.mod = 0#8)) (decide (o.imm.toNat < 64)) .zero .pair .gpr o
  | .discard h o => formS (decide (h.mod = 0#8)) false .zero .zero .zero o
  | .ld h o => formMem h true false true o
  | .st h o => formMem h false false false o
  | .ldc h o => formMem h true true false o
  | .stc h o => formMem h false true false o
  | .lda h o => formMem h true false false o
  | .sta h o => formMem h false false false o
  | .pref h o => formRange h o
  | .flush h o => formRange h o
  | .invl h o => formRange h o
  | .pin h o => formRange h o
  | .unpin h o => formRange h o
  | .extq h o => formExtq h o
  | .migr h o => formRange h o
  | .atom h o => formAtom h false o
  | .red h o => formAtom h true o
  | .blend h o => formBlend h o
  | .fence h o => formK (decide (h.mod.toNat < 3)) .zero .zero .zero .zero { scope := true } o
  | .fencep h o => formK ((decide (h.mod = 0#8)) && decide (o.mask1 ≠ 0#7) && decide (o.mask2 ≠ 0#7)) .zero .zero .zero .zero { scope := true, mask1 := true, mask2 := true } o
  | .combine h o => formK ((decide (h.mod = 0#8)) && decide (o.mlen.toNat < 8)) .gpr .pair .gpr .pred { scope := true, mlen := true, num := 3 } o
  | .cmbreg h o => formK (decide (h.mod = 0#8)) .zero .pair .gpr .pred {} o
  | .osent h o => formK (decide (h.mod = 0#8)) .zero .pair .gpr .pred { scope := true } o
  | .osleave h o => formK (decide (h.mod = 0#8)) .zero .pair .zero .zero { scope := true } o
  | .osskip h o => formK (decide (h.mod = 0#8)) .zero .pair .gpr .zero {} o
  | .barinit h o => formK ((decide (h.mod.toNat < 2)) && (decide (o.scope = 2#4) || decide (o.scope = 5#4)) && (decide (h.mod = 0#8) || decide (o.mask1 ≠ 0#7))) .zero .gpr .zero .zero { scope := true, mask1 := decide (h.mod = 1#8), num := 5 } o
  | .bararv h o => formK (decide (h.mod = 0#8)) .zero .zero .zero .zero { num := 5 } o
  | .barwt h o => formK (decide (h.mod = 0#8)) .zero .gpr .zero .pred { num := 5 } o
  | .baraw h o => formK (decide (h.mod = 0#8)) .zero .gpr .zero .pred { num := 5 } o
  | .send h o => formK (decide (h.mod = 0#8)) .zero .gpr .gpr .gpr { cls := true, mlen := true } o
  | .sendr h o => formK ((decide (h.mod = 0#8)) && decide (o.mlen.toNat < 14)) .gpr .gpr .gpr .pred { cls := true, mlen := true, num := 4 } o
  | .hbind h o => formK ((decide (h.mod.toNat < 3)) && decide (3 ≤ o.num.toNat ∧ o.num.toNat ≤ 32)) .gpr .gpr .zero .pred { num := 6 } o
  | .hunbind h o => formK (decide (h.mod = 0#8)) .zero .gpr .zero .zero {} o
  | .cmask h o => formK (decide (h.mod = 0#8)) .gpr .gpr .gpr .zero {} o
  | .hend h o => formK (decide (h.mod = 0#8)) .zero .zero .zero .zero {} o
  | .mbox h o => formK (decide (h.mod = 0#8)) .pair .zero .zero .pred {} o
  | .mboxRp h o => formK (decide (h.mod = 1#8)) .pair .zero .zero .pred {} o
  | .emit h o => formK (decide (h.mod = 0#8)) .zero .gpr .gpr .zero { mlen := true, num := 3 } o
  | .ndone h o => formK (decide (h.mod = 0#8)) .zero .gpr .zero .zero { num := 3 } o
  | .reply h o => formK (decide (h.mod = 0#8)) .zero .zero .gpr .zero { mlen := true } o
  | .raysend h o => formK (decide (h.mod = 0#8)) .zero .zero .nonzero .zero {} o
  | .raysendLocal h o => formK (decide (h.mod = 1#8)) .zero .zero .nonzero .zero {} o
  | .hitput h o => formK (decide (h.mod = 0#8)) .zero .zero .nonzero .zero {} o
  | .cpy h o => formX (decide (h.mod = 0#8)) .gpr .pair .pair {} o
  | .cpyw h o => formX (decide (h.mod = 0#8)) .quad .pair .pair {} o
  | .gath h o => formX (decide (h.mod = 0#8)) .quad .pair .pair { sub := 2 } o
  | .mlease h o => formX (decide (h.mod = 0#8)) .gpr .zero .zero { tile := true, nt := true } o
  | .mrel h o => formX (decide (h.mod = 0#8)) .zero .zero .zero {} o
  | .mma h o => formX ((decide (h.mod = 0#8)) && matFmt o.fa && matFmt o.fb && decide (o.qa ≠ o.qb)) .zero .zero .zero { qa := true, qb := true, tile := true, nt := true, fa := true, fb := true, cidx := true } o
  | .mmas h o => formX ((decide (h.mod = 0#8)) && matFmt o.fa && matFmt o.fb && decide (o.qa ≠ o.qb) && (decide (o.sub.toNat % 4 = 1) || decide (o.sub.toNat % 4 = 2))) .zero .zero .zero { qa := true, qb := true, tile := true, nt := true, fa := true, fb := true, cidx := true, sub := 3 } o
  | .mzero h o => formX (decide (h.mod = 0#8)) .zero .zero .zero { tile := true, nt := true, cidx := true } o
  | .mepi h o => let f := formX ((decide (h.mod = 0#8)) && (o.fa == 2#4 || o.fa == 3#4 || o.fa == 4#4 || o.fa == 5#4 || o.fa == 6#4 || o.fa == 8#4)) .gpr .pair .gpr { tile := true, fa := true, cidx := true, sub := 3 } o; { f with reserved := f.reserved && !o.sub.getLsbD 1 }
  | .mldacc h o => formX (decide (h.mod = 0#8)) .zero .pair .gpr { tile := true, cidx := true } o
  | .ringset h o => formX (decide (h.mod = 0#8)) .zero .gpr .gpr { qa := true } o
  | .ringadv h o => formX (decide (h.mod = 0#8)) .zero .gpr .zero { qa := true } o
  | .ringq h o => formX (decide (h.mod = 0#8)) .gpr .zero .zero { qa := true } o
  | .mwait h o => formX (decide (h.mod = 0#8)) .pair .gpr .zero { cidx := true } o
  | .infer h o => formX ((decide (h.mod = 0#8)) && matFmt o.fa && decide (o.fa ≠ 10#4) && matFmt o.fb) .gpr .pair .gpr { tile := true, nt := true, fa := true, fb := true, sub := 4 } o
  | .trv h o => formX (decide (h.mod = 0#8)) .gpr .zero .nonzero {} o
  | .tload h o => formX ((decide (h.mod = 0#8)) && decide (o.sub = 0#4)) .gpr .pair .gpr { cidx := true, sub := 4 } o
  | .tloadTds h o => formX ((decide (h.mod = 0#8)) && decide (o.sub = 1#4)) .gpr .pair .zero { cidx := true, sub := 4 } o
  | .tloadRds h o => formX ((decide (h.mod = 0#8)) && decide (o.sub = 2#4)) .gpr .pair .zero { cidx := true, sub := 4 } o
  | .town h o => formX (decide (h.mod = 0#8)) .zero .pair .gpr { cidx := true } o
  | .pump h o => formX (decide (h.mod = 0#8)) .zero .zero .nonzero { cidx := true } o
  | .pumpw h o => formX (decide (h.mod = 0#8)) .pair .gpr .zero { cidx := true } o
  | .encq h o => formX (decide (h.mod = 0#8)) .zero .pair .zero { cidx := true } o
  | .batchForm _ _ => formOf [] true true
  | .issueBufferAccept _ _ _ => formOf [] true true
  | .longLatencyResult _ => formOf [] true true
  | .tokenGrant => formOf [] true true
  | .claimGrant _ => formOf [] true true
  | .launchDoorbell _ _ => formOf [] true true
  | .launchMessage _ => formOf [] true true
  | .launchPlacement _ => formOf [] true true
  | .codeLine _ => formOf [] true true
  | .shapeStore _ => formOf [] true true
  | .startMessage _ => formOf [] true true
  | .gridEnd _ _ => formOf [] true true
  | .workGraphRecord _ => formOf [] true true
  | .userMessage _ => formOf [] true true
  | .handlerGroupForm _ _ => formOf [] true true
  | .loopbackTransfer _ => formOf [] true true
  | .sendQueueInject _ _ => formOf [] true true
  | .packetHop _ => formOf [] true true
  | .readRequest _ => formOf [] true true
  | .writeRequest _ => formOf [] true true
  | .l2FillComplete _ _ => formOf [] true true
  | .atomicRequest _ => formOf [] true true
  | .reductionRequest _ => formOf [] true true
  | .rangeRequest _ => formOf [] true true
  | .writeAcknowledgement _ => formOf [] true true
  | .tlbWalkComplete _ _ => formOf [] true true
  | .fetchParityError _ _ => formOf [] true true
  | .codeRefetchComplete _ _ _ => formOf [] true true
  | .combineRequest _ => formOf [] true true
  | .combinerWaveClose _ _ => formOf [] true true
  | .combinerWaveStart _ _ => formOf [] true true
  | .sectionRequest _ => formOf [] true true
  | .sectionGrant _ => formOf [] true true
  | .sectionTimeoutProbe _ _ => formOf [] true true
  | .sectionDeadlockProbe _ => formOf [] true true
  | .sectionWaitWithdrawal _ => formOf [] true true
  | .barrierArrivalPacket _ => formOf [] true true
  | .barrierCompletion _ => formOf [] true true
  | .barrierWaitTimeout _ _ _ => formOf [] true true
  | .parkTimeout _ _ _ => formOf [] true true
  | .teamWatchdogExpiry _ _ => formOf [] true true
  | .matrixWatchdogExpiry _ _ => formOf [] true true
  | .leaseRequest _ => formOf [] true true
  | .leaseGrant _ => formOf [] true true
  | .matrixCommand _ => formOf [] true true
  | .matrixTileStep _ => formOf [] true true
  | .engineCompletion _ => formOf [] true true
  | .copyCommandRun _ => formOf [] true true
  | .rayMessage _ => formOf [] true true
  | .traversalNodeVisit _ _ => formOf [] true true
  | .hitRecord _ => formOf [] true true
  | .ringToBasinMove _ _ => formOf [] true true
  | .basinBinTimeout _ _ => formOf [] true true
  | .shadingWaveForm _ _ => formOf [] true true
  | .creditBatchTake _ _ _ _ => formOf [] true true
  | .creditIdleReturn _ _ _ _ => formOf [] true true
  | .treeletTransfer _ => formOf [] true true
  | .pumpCommand _ => formOf [] true true
  | .pumpCommandStart _ _ => formOf [] true true
  | .pumpCommandComplete _ _ => formOf [] true true
  | .pumpReadError _ _ => formOf [] true true
  | .pumpInvalidation _ => formOf [] true true
  | .invalidationAcknowledgement _ => formOf [] true true
  | .migrationControl _ => formOf [] true true
  | .migrationBlock _ => formOf [] true true
  | .migrationPassEnd _ => formOf [] true true
  | .faultBatch _ => formOf [] true true
  | .faultServiceActivation _ => formOf [] true true
  | .faultReply _ => formOf [] true true
  | .shootDown _ => formOf [] true true
  | .shootDownProcess _ => formOf [] true true
  | .shootDownAcknowledgement _ => formOf [] true true
  | .controlRegisterBroadcast _ _ => formOf [] true true
  | .promotionRequest _ => formOf [] true true
  | .promotionAcknowledgement _ => formOf [] true true
  | .errorLogEntry _ => formOf [] true true
  | .replayFilterExpiry _ _ => formOf [] true true
  | .errorDetected _ => formOf [] true true
  | .selfTestStart _ => formOf [] true true
  | .selfTestComplete _ _ => formOf [] true true
  | .hbmParityAlert _ _ _ => formOf [] true true
  | .laneRepair _ _ _ => formOf [] true true
  | .ccmdPreempt _ => formOf [] true true
  | .preemptionSaveComplete _ => formOf [] true true
  | .ccmdResume _ => formOf [] true true
  | .ccmdDebugStop _ => formOf [] true true
  | .ccmdDebugResume _ => formOf [] true true
  | .ccmdSingleStep _ => formOf [] true true
  | .debuggerStateWrite _ => formOf [] true true
  | .hostRegisterWrite _ _ _ _ => formOf [] true true
  | .ctlTimebaseWrite _ => formOf [] true true
  | .completionCounterWrite _ _ _ => formOf [] true true
  | .descriptorImageWrite _ _ _ => formOf [] true true
  | .apertureAccess _ _ _ _ => formOf [] true true
  | .sliceApply _ => formOf [] true true
  | .ckptStart => formOf [] true true
  | .ckptEnd => formOf [] true true
  | .encoderFrameComplete _ => formOf [] true true
  | .coldReset _ => formOf [] true true
  | .warmReset _ => formOf [] true true
  | .sliceReset _ => formOf [] true true
  | .junctionTemperature105 => formOf [] true true
  | .thermalTrip _ => formOf [] true true
  | .spanPortTrained _ _ _ => formOf [] true true
  | .spanLinkLoss _ => formOf [] true true
  | .getVersion => formOf [] true true
  | .getCapabilities => formOf [] true true
  | .negotiateAlgorithms _ => formOf [] true true
  | .getDigests => formOf [] true true
  | .getCertificate _ _ => formOf [] true true
  | .challenge _ => formOf [] true true
  | .getMeasurements _ => formOf [] true true
  | .quiesceTimeout _ _ _ => formOf [] true true
  | .laneRepairComplete _ _ => formOf [] true true
  | .debuggerAttach _ => formOf [] true true
  | .debuggerDetach _ => formOf [] true true
  | .physicalWindowAccess _ _ _ => formOf [] true true
  | .creditReturn _ => formOf [] true true
  | .teamEnd _ _ => formOf [] true true
  | .draw _ => formOf [] true true

/-- The detail of the first encoding check from 5 to 8 of R338 that an instruction fails; none for a legal encoding. -/
def Instr.firstBad (i : Instr) : Option Nat :=
  let f := i.form
  if !f.reserved then some 0x02 else if !f.values then some 0x0D else if !f.codes then some 0x05 else if !f.pairs then some 0x06 else none

/-- The kind of core an instruction needs: `some true` a ray core, `some false` a shade core (R21, R341, R445, R463-R465). -/
def Instr.needsRay : Instr → Option Bool
  | .raysendLocal _ _ => some true
  | .mlease _ _ => some false
  | .mrel _ _ => some false
  | .mma _ _ => some false
  | .mmas _ _ => some false
  | .mzero _ _ => some false
  | .mepi _ _ => some false
  | .mldacc _ _ => some false
  | .ringset _ _ => some false
  | .ringadv _ _ => some false
  | .ringq _ _ => some false
  | .mwait _ _ => some false
  | .infer _ _ => some false
  | .trv _ _ => some true
  | .tload _ _ => some true
  | .tloadTds _ _ => some true
  | .tloadRds _ _ => some true
  | _ => none

/-! ## Decoding -/

/-- The instruction of a word, or the detail of the first failing check of 3 to 8 of R338, on a core of the kind given: an unassigned opcode,
a resource the core lacks, a nonzero reserved bit, an undefined value, an operand code, an odd pair. -/
def decodeOn (ray : Bool) (w : Bits96) : Except Nat Instr :=
  match ofOpcode (w.extractLsb' 86 10) (headOf w) w with
  | none => .error 0x01
  | some i =>
    if i.needsRay = some (!ray) then .error 0x07
    else if encode i ≠ some w then .error 0x02
    else match i.firstBad with
      | some d => .error d
      | none => .ok i

/-- The instruction of a word on a core that has the resource it names. -/
def decode (w : Bits96) : Except Nat Instr :=
  match ofOpcode (w.extractLsb' 86 10) (headOf w) w with
  | none => .error 0x01
  | some i =>
    if encode i ≠ some w then .error 0x02
    else match i.firstBad with
      | some d => .error d
      | none => .ok i

/-- Bytes to a little-endian number (R4). -/
def bytesToNat : List Byte → Nat
  | [] => 0
  | b :: rest => b.toNat + 256 * bytesToNat rest

/-- The instruction that `nbits` bits `w` name, all further bits zero: the decoder's answer on the twelve bytes of a slot. -/
def decodeTableWord (nbits w : Nat) : Option Instr :=
  if nbits ≤ 96 then
    match decode (BitVec.ofNat 96 (w % 2 ^ nbits)) with
    | .ok i => some i
    | .error _ => none
  else none

end Sys2Proof
end

