-- ==== Sys2Proof/Machine/State.lean ====
section
/-!
DEFINITION. The state of the package as plain data: every piece of state the spec gives the Kamys, one structure per kind of
object, and the state right after cold reset. Each structure's comment gives its meaning and rules; INVENTORY.md lists every field with
its width, rule and reset value. Sparse tables list only entries that differ from a default named in Machine/Ops.lean.
-/
namespace Sys2Proof.Machine

/-! ## Names of agents -/

/-- A fibre's place: core number, group slot 0-63 (64 for the core's sump fibre, R223), lane (R36, R37). -/
structure FRef where
  core : Nat
  slot : Nat
  lane : Nat
  deriving DecidableEq, Repr

/-- The access paths, in the order of the path mask's bits (R173). -/
inductive Path where
  | ls | cp | mx | tr | pm | ms | rb
  deriving DecidableEq, Repr

/-- What a memory-like operation of one lane does, once its operands have been read; `joined` is a reduction whose operand a router merged into
another's (R32, R199). -/
inductive OpKind where
  | load | store | atomic | reduce | blend | joined
  deriving DecidableEq, Repr

/-- One lane's memory operation with every operand it read at issue (R389-R410, R468), so that a replay performs the same
access (R234). `ext` is the extent number and offset of the extent form; `dst` the destination register; `stat` asks for the
status word of R409 or R410. -/
structure MemOp where
  kind : OpKind
  pc : Word
  va : DWord
  ext : Option (Nat × Int)
  cistern : Bool
  size : Nat
  signed : Bool
  data : List Word
  data2 : List Word
  dst : Nat
  opc : Nat
  stat : Bool
  retryId : Option (BitVec 16)
  scope : Nat
  acq : Bool
  rel : Bool
  rem : Bool
  path : Path
  deriving DecidableEq, Repr

/-- Where an access lands: a physical address, or an offset in a core's cistern (R114, R117, R121). -/
inductive Loc where
  | phys (pa : Nat)
  | cist (core off : Nat)
  deriving DecidableEq, Repr

/-- One lane's part of a request packet: the fibre and its generation, the record of the access in its order list, the
long-latency result that waits for it (0 none), the place, the operation, and for a load the bytes it takes from the activation's held
stores (R299), by their position in the access. -/
structure LaneReq where
  f : FRef
  gen : BitVec 8
  acc : Nat
  ll : Nat
  loc : Loc
  wt : Bool
  bcmp : Bool
  op : MemOp
  fwd : List (Nat × Byte)
  deriving DecidableEq, Repr

/-! ## Results in flight -/

/-- One effect of an instruction on its fibre's registers, landing at its forwarding distance or at the run end (R48, R339). -/
inductive Eff where
  | reg (n : Nat) (v : Word)
  | pred (n : Nat) (v : Bool)
  | flags (f : BitVec 5)
  | fsr (v : Word)
  deriving DecidableEq, Repr

/-- A short-latency result inside its forwarding distance (R49, R52, R339). -/
structure Pend where
  dist : Nat
  eff : Eff
  deriving DecidableEq, Repr

/-- A long-latency result of the run, in program order (R48): outstanding until `done`, then its effects, and and where
consuming it consumes poison (R304), the structure code of R303 whose error it carries, else 0. -/
structure LL where
  id : Nat
  done : Bool
  poison : Nat
  effs : List Eff
  deriving DecidableEq, Repr

/-! ## Access order -/

/-- The kinds of ordering point (R184, R189). -/
inductive FenceKind where
  | acq | rel | ar
  | paths (src dst : BitVec 7)
  deriving DecidableEq, Repr

/-- An access, or an ordering point, of a fibre in program order (R176-R190): its identity, its place in program order, its path.
`loc` and `size` give the bytes; `acq` and `rel` the paths (mask of R173) that it holds as an acquire and waits for as a release;
`arrive` a barrier it arrives at; an ordering point has `fence`. `scope` is the scope (R178) of its release; `sent` says that it has left the core
on its way to its point of order. A size other than 0 with no place is an access whose page is still to come. `redo` is what a home retired since then has
the fibre's REPLAY do again: PC, address, instruction, registers (R120). It leaves the list when it is performed. -/
structure Acc where
  id : Nat
  ord : Nat
  path : Path
  loc : Option Loc
  size : Nat
  writes : Bool
  acq : BitVec 7
  rel : BitVec 7
  arrive : Option Nat
  fence : Option FenceKind
  scope : Nat
  sent : Bool
  redo : Option (Word × DWord × Instr × List Word)
  deriving DecidableEq, Repr

/-! ## Waits of a fibre -/

/-- What a faulted access does again on REPLAY (R93, R234, R293, R366): an instruction with the registers it read and the record that
keeps its place in program order; for a command that its engine does again, nothing. -/
inductive Retry where
  | mem (q : LaneReq)
  | frame (words : List Word) (cls detail : Nat)
  | trapReturn
  | call (target ret : Word)
  | refill
  | instr (i : Instr) (regs : List Word) (acc : Nat)
  | engine
  deriving DecidableEq, Repr

/-- What a fibre waits for at its run end (R50); `pc` is the waiting instruction's. `stack` is a trap
frame that earlier accesses of the fibre hold back (R176, R293). A barrier wait compares PH with `parity`, or with the
fibre's recorded parity bit. A limit is the value of s.clk at which the wait ends by itself. -/
inductive Wait where
  | park (pc : Word) (limit : Option DWord)
  | fwait (pc : Word) (gid ll lanes : Nat)
  | barrier (pc : Word) (num : Nat) (parity : Option Bool) (limit : Option DWord) (ll dst acc : Nat)
  | ordered (pc : Word) (key : DWord) (seq : Word) (dst ll acc : Nat)
  | skip (pc : Word) (key : DWord) (seq : Word) (acc : Nat)
  | registers (pc : Word) (target : Nat)
  | mailbox (pc : Word) (va : DWord) (retry : Retry)
  | spawn (id gid allot : Nat) (target : Word) (args : List Word)
  | stack (pc : Word) (retry : Retry)
  | accepted (entry : Nat)
  | engine (acc : Nat)
  | quiesce (core : Nat) (limit : Option DWord) (ll dst : Nat)
  | completion (entry : Nat) (target : BitVec 16) (ll dst : Nat)
  | drained (ll dst mark : Nat) (pump : Bool)
  | migrating (pc : Word) (i : Instr) (regs : List Word) (acc pa : Nat)
  deriving DecidableEq, Repr

/-! ## Packets of the mesh -/

/-- The virtual channels (R27). -/
inductive VC where
  | mreq | mrsp | ray | hit | page | ureq | ursp | sys
  deriving DecidableEq, Repr

/-- A copy command of the copy engine (R403-R405). `kind` 0 CPY, 1 CPYW, 2 GATH; `pos` is the number of bytes it has copied. -/
structure CopyCmd where
  kind : Nat
  dst : DWord
  src : DWord
  rowBytes : Nat
  rows : Nat
  dstStride : Nat
  srcStride : Nat
  index : DWord
  elem : Nat
  f : FRef
  pc : Word
  acc : Nat
  pos : Nat
  deriving DecidableEq, Repr

/-- A lane of an INFER command (R458, R459): its result and access records, the x offset, the weight address, the steps its pack has
taken, the fibre whose trap routine a fault of it waits for (R454), whether it is done. Its row is its place in the command's list. -/
structure InferLane where
  lane : Nat
  ll : Nat
  acc : Nat
  x : Nat
  w : DWord
  step : Nat
  fault : Option FRef
  done : Bool
  deriving DecidableEq, Repr

/-- A matrix command as it leaves its core (R445-R459): the operation, the issuing fibre, the operands, the copy of the core's
I4T table (R167), the power tokens it holds, the steps taken, the fibre whose trap routine a fault waits for (R454), and the lanes of
INFER. `op` is 0 MMA, 1 MMAS, 2 MZERO, 3 MEPI, 4 MLDACC, 5 INFER, 6 MREL. `old` says that the copy was settled at issue (R350), `cut` that the
command is discarded once its open group is complete (R453). -/
structure MatCmd where
  op : Nat
  f : FRef
  team : Nat
  pc : Word
  acc : Nat
  ll : Nat
  qa : Nat
  qb : Nat
  tile : Nat
  nt : Nat
  fa : Nat
  fb : Nat
  cidx : Nat
  sub : Nat
  addr : DWord
  stride : Word
  scale : Word
  dst : Nat
  i4t : BitVec 128
  tokens : Nat
  step : Nat
  stopped : Option FRef
  lanes : List InferLane
  old : Bool
  cut : Bool
  deriving DecidableEq, Repr

/-- A TLOAD command (R465): `kind` 0 treelet, 1 traversal set, 2 raster set; its fibre, team and completion index, the slice and
privilege of its reads, source address, cistern offset, bytes, and the D operand. -/
structure TloadCmd where
  kind : Nat
  f : FRef
  team : Nat
  cidx : Nat
  acc : Nat
  slice : Nat
  prv : Nat
  src : DWord
  off : Nat
  size : Nat
  d : Word
  deriving DecidableEq, Repr

/-- The hit a ray has accepted (R462): its exact t as a fraction, and u and v as delivered. -/
structure RayHit where
  num : Int
  den : Nat
  u : Word
  v : Word
  deriving DecidableEq, Repr

/-- A pump command (R472, R473): operation, format, count, physical operands, coefficients, its fibre and completion index, the slice and the
WHO word of its error-log entries (R237, R490), the homes of the granules it may write (R139), and where its run stands. -/
structure PumpCmd where
  op : Nat
  fmt : Nat
  n : Nat
  y : Nat
  x : Nat
  r : Nat
  alpha : Word
  beta : Word
  f : FRef
  slice : Nat
  who : Word
  team : Nat
  cidx : Nat
  acc : Nat
  seq : Nat
  status : Nat
  first : Nat
  acks : Nat
  homes : List (Nat × Nat)
  running : Bool
  finished : Bool
  deriving DecidableEq, Repr

/-- A posted fault record (R296). -/
structure FaultRec where
  va : DWord
  lanes : Word
  pc : Word
  fkind : Nat
  acc : Nat
  det : Nat
  who : Word
  tag : DWord
  deriving DecidableEq, Repr

/-- A page fault of one lane on its way into the records of its instruction (R297): the fibre, PC, ACC code, address and FKIND. -/
structure Posting where
  f : FRef
  pc : Word
  acc : Nat
  va : DWord
  kind : Nat
  deriving DecidableEq, Repr

/-- An error-log entry (R237). -/
structure ErrEntry where
  time : DWord
  ekind : Nat
  struct : Nat
  core : Nat
  stack : Nat
  slice : Nat
  addr : DWord
  synd : DWord
  detail : List Word
  deriving DecidableEq, Repr

/-- A waiter that a deadlock probe has passed (R492): the core of its home, the fibre with its generation, the key and the sequence. -/
structure ProbeLink where
  home : Nat
  f : FRef
  gen : BitVec 8
  key : DWord
  seq : Word
  deriving DecidableEq, Repr

/-- The packet bodies, one constructor per kind of R210 (a reply names the long-latency result it brings). A promotion's `renewed` says that the
tagged core, after the request reached it, has made another release to the piece; its acknowledgement carries when that was (R192, R193). -/
inductive Body where
  | read (lanes : List LaneReq)
  | write (lanes : List LaneReq)
  | atomic (lanes : List LaneReq)
  | reduce (lanes : List LaneReq)
  | combine (f : FRef) (gen : BitVec 8) (acc ll dst cdst : Nat) (base : DWord) (pa : Nat) (args : List Word) (nres : Nat)
  | ordered (op : Nat) (f : FRef) (gen : BitVec 8) (acc : Nat) (key : DWord) (seq : Word)
  | cmbreg (f : FRef) (gen : BitVec 8) (acc ll cdst pa : Nat) (desc : Word)
  | barArrive (slice task cluster num : Nat)
  | barSet (slice task cluster num : Nat) (mask : BitVec 7) (lexp acc : Nat) (f : FRef)
  | range (op : Nat) (f : FRef) (acc : Nat) (pieces : List Nat) (bcmp : Bool)
  | pumpCmd (c : PumpCmd)
  | lease (core team : Nat) (waiters : List (FRef × Nat × Nat)) (first count : Nat) (slot : Option Nat)
  | matrix (c : MatCmd)
  | results (f : FRef) (gen : BitVec 8) (ll : Nat) (acc : Nat) (poison : Nat) (effs : List Eff)
  | ack (f : FRef) (acc : Nat)
  | secAnswer (f : FRef) (gen : BitVec 8) (acc : Nat) (key : DWord) (seq : Word) (answer : Nat)
  | failed (tag : BitVec 18) (kind : Nat)
  | engineDone (team : Nat) (cidx status first : Nat) (acc : Nat) (f : FRef)
  | ray (words : List Word) (forwards : Nat) (best : Option RayHit)
  | hit (slice task queue : Nat) (words : List Word)
  | pixel (slice task queue : Nat) (entry : Word) (words : List Word) (cov : List (BitVec 16)) (seq : Word)
  | work (slice task queue : Nat) (words : List Word)
  | treelet (c : TloadCmd) (off : Nat) (bytes : List Byte) (poison : Nat)
  | migBlock (slice : Nat) (pa : Nat) (bytes : List Byte) (poison : Nat)
  | user (words : List Word)
  | launch (slice level : Nat) (record : List Word) (window : Option (Nat × Nat)) (reply : Option (FRef × Nat × Nat))
  | codeLine (slice task : Nat) (line : Nat) (words : List Word)
  | shape (slice task : Nat) (off : Nat) (bytes : List Byte)
  | start (slice task cluster rank : Nat)
  | shoot (slice : Nat) (va : DWord) (bytes requester : Nat)
  | shootAck (slice core : Nat)
  | faults (slice : Nat) (recs : List FaultRec)
  | faultAnswer (slot : Nat) (gen : BitVec 8) (w0 w1 : Word)
  | ctl (key : Nat) (value : DWord) (taken : List Nat) (f : FRef) (acc : Nat)
  | promote (home piece : Nat) (renewed : Bool)
  | promoteAck (piece stamp : Nat) (renewed : Bool)
  | inval (stack : Nat) (seq : Nat) (f : FRef) (pieces : List Nat)
  | invalAck (stack : Nat) (seq : Nat) (f : FRef)
  | error (e : ErrEntry)
  | migrate (slice : Nat) (va : DWord) (pa target : Nat) (who : Word)
  | probe (home : Nat) (key : DWord) (f : FRef) (wstart : BitVec 24) (look : FRef) (gen : BitVec 8) (hops : Nat) (chain : List ProbeLink) (goal : Option DWord)
  | withdraw (f : FRef) (gen : BitVec 8) (key : DWord) (seq : Word)
  | completion (slice task cluster num : Nat)
  | credits (slice task queue count : Nat)
  | town (slice entry : Nat) (value : DWord) (taken : List Nat) (f : FRef) (team cidx acc : Nat)
  | rate (slice entry : Nat) (img : DWord) (w : Word) (f : FRef) (acc : Nat)
  | combineDone (f : FRef) (gen : BitVec 8) (acc ll : Nat) (effs : List Eff)
  deriving DecidableEq, Repr

/-- A packet in the mesh (R25-R27, R227): the core number of its router; where it stands there, by `side`: the input buffer of the west (0), east (1),
north (2) or south (3) port, of the local (4) or attachment (5) port, or not yet in the router (6), the span port's buffer (7), or its home's hands while the piece it asks for is filled (8); the half of VC 5 or 6 it uses and
the pinned port by which it leaves its source router (R29); in an attached block that has not yet handed it to its router (9), or gone from the package by its span port (10); whether it has been ejected at its destination; its body. `order` is its place in the order of
entering where it stands, `came` s.clk then; `noMerge` says that deterministic mode was set when it entered (R32). -/
structure Packet where
  id : Nat
  vc : VC
  kind : Nat
  cls : Nat
  src : Nat
  spkg : Nat
  dst : Nat
  dpkg : Nat
  tags : BitVec 18
  flits : Nat
  order : Nat
  pos : Nat
  side : Nat
  yxHalf : Bool
  pinned : Option Nat
  arrived : Bool
  came : DWord
  noMerge : Bool
  body : Body
  deriving DecidableEq, Repr

/-! ## Fibres, groups, batches, partitions -/

/-- A held store or atomic of a restartable activation (R195, R299), with its home; `toCistern` says that it stands in the activation
store buffer. Held packets stand in the send queue (R226). -/
structure Held where
  q : LaneReq
  home : Nat
  pkg : Nat
  toCistern : Bool
  deriving DecidableEq, Repr

/-- A COMBINE request held by a wellhead (R231): the requester, its arguments and results. -/
structure CombReq where
  f : FRef
  gen : BitVec 8
  acc : Nat
  ll : Nat
  dst : Nat
  cdst : Nat
  base : DWord
  pa : Nat
  args : List Word
  nres : Nat
  deriving DecidableEq, Repr

/-- What the message of an activation, or the record of a pixel fibre, gave its fibre (R68, R69, R83, R425, R471). `faultSlot` is the
fault-queue slot of a fault-service activation with the core, group slot and generation that its batch came from (R297). -/
structure Origin where
  src : Word
  tag : BitVec 18
  seq : Word
  cls : Nat
  mlen : Nat
  word15 : Word
  hasReply : Bool
  binding : Nat
  faultSlot : Option (Nat × Nat × Nat × BitVec 8)
  combine : Option CombReq
  pixelKey : Option DWord
  pixelLeft : Bool
  helper : Bool
  cov : BitVec 16
  redeliver : Option Nat
  deriving DecidableEq, Repr

/-- A fibre (R39, R86, R92, R255, R294, R359, R415, R420). `sigOnKept` and `sigNewKept` are the checker's state that a trap interrupted. `mates` are the lanes of the batch whose run it ended last, with which it parks (R50, R53). -/
structure Fibre where
  pc : Word
  next : Option Word
  regs : List Word
  preds : BitVec 16
  fsr : Word
  stack : List Word
  spill : Nat
  gen : BitVec 8
  wk : Bool
  heldKeys : List (DWord × Word)
  barArrived : Word
  barParity : Word
  inTrap : Bool
  sig : BitVec 16
  sigOn : Bool
  sigNew : Bool
  sigOnKept : Bool
  sigNewKept : Bool
  ended : Bool
  commit : Bool
  asyncTrap : Option (Nat × Nat × DWord × DWord)
  pend : List Pend
  lls : List LL
  waits : List Wait
  accs : List Acc
  held : List Held
  mates : List Nat
  origin : Origin
  deriving DecidableEq, Repr

/-- How a group came to be (R40, R42, R68, R70, R413). -/
inductive GroupKind where
  | start
  | spawned
  | handler (binding : Nat)
  | wave (object : Nat) (wid : Nat)
  | shading (bin : Nat)
  | sump
  deriving DecidableEq, Repr

/-- A resident group: its core team, its index s.gid, its allotment A per lane, the pool register at which its allotment begins, how it came to
be (R36, R39, R42, R95). The spawner's
fixed special values are those of the team. -/
structure Group where
  team : Nat
  gid : Nat
  allot : Nat
  base : Nat
  kind : GroupKind
  deriving DecidableEq, Repr

/-- A change that an instruction makes to a table or register of its core, landing at its distance (R102, R246, R253, R243). -/
inductive CoreEff where
  | ctl (key : Nat) (value : DWord) (acc : Nat)
  | i4t (value : BitVec 128)
  | cmask (keep set : BitVec 16)
  | bind (index : Nat) (word : DWord)
  deriving DecidableEq, Repr

/-- The batch a partition issues (R46, R52): the group slot, the lanes, the PC of the next instruction, the instructions of the run
issued so far, the line last checked (R328), whether a packet starts here, and the run-end and packet-end bits of the instruction
at hand. What the whole packet reads (R52, R332): `seen` is the FSR and s.spill of each lane, `live` the group's lanes, as the packet issued.
`stepped` says that a debugger's single step brought it (R52). -/
structure Batch where
  slot : Nat
  lanes : List Nat
  pc : Word
  count : Nat
  line : Option Nat
  atPacket : Bool
  runEnd : Bool
  packetEnd : Bool
  tokens : Nat
  cpend : List (Nat × CoreEff)
  seen : List (Nat × Word × Nat)
  live : List Nat
  stepped : Bool
  deriving DecidableEq, Repr

/-- A frame queued to a slice's encoder (R475): descriptor address, issuing fibre, its team with the team's identity, the fibre's privilege, and completion index. -/
structure Frame where
  desc : DWord
  f : FRef
  team : Nat
  uid : Nat
  prv : Nat
  cidx : Nat
  deriving DecidableEq, Repr

/-- What an issue-buffer entry hands to its unit: a packet, held until HEND or not (R226); a SENDR's packet with its result, first
register, reply words and status predicate (R424); a copy command; a ray with the TRV that waits for it (R463); a LAUNCH's record
address, level, result and destination, since it reads the record once its release is met (R371); a frame for the encoder; a queue that
NDONE closes (R431); a change or a reading of a matrix ring (R449, R450); a TLOAD (R465); a request that its unit takes as it is, all of whose effect
the instruction has had at its issue. -/
inductive Cmd where
  | packet (p : Packet) (held : Bool)
  | sendr (p : Packet) (ll dst words cdst : Nat)
  | copy (c : CopyCmd)
  | ray (words : List Word) (owner : Option (FRef × Nat × Nat × Nat))
  | launch (addr : DWord) (level ll dst : Nat)
  | frame (slice : Nat) (x : Frame)
  | close (slice task queue : Nat)
  | ringSet (ring base cap tsz : Nat)
  | ringAdv (ring count : Nat)
  | ringQ (ring ll dst : Nat)
  | tload (c : TloadCmd)
  | spill (va : DWord) (value : Word)
  | refill
  | frameRead
  | basin (bins : List Nat) (threshold timeout : Word)
  | basinOwn (team : Nat)
  | signal
  deriving DecidableEq, Repr

/-- An entry of a partition's long-latency issue buffer (R53, R185): the instruction it belongs to, with its fibre and PC, the access it
stands for, and what leaves when its unit accepts it. -/
structure BufEntry where
  entry : Nat
  f : FRef
  pc : Word
  acc : Nat
  cmd : Cmd
  deriving DecidableEq, Repr

/-- An entry of a core's outstanding-request table (R239, R424): the requester with its result, first register, reply words and status
predicate; `done` once its reply has come, until the reply is written. -/
structure RqEntry where
  f : FRef
  gen : BitVec 8
  ll : Nat
  dst : Nat
  words : Nat
  cdst : Nat
  done : Bool
  deriving DecidableEq, Repr

/-- A partition (R45, R46, R53, R54): the batch it issues, the candidate it issued last, its issue buffer, whether it is under
self-test, whether its batch, of a stopped team, is to issue one instruction (R52). -/
structure Partition where
  batch : Option Batch
  lastSlot : Nat
  lastPc : Word
  buffer : List BufEntry
  testing : Bool
  single : Bool
  deriving DecidableEq, Repr

/-! ## Teams and launches -/

/-- An entry of a team's completion table (R446). -/
structure Completion where
  first : Word
  status : BitVec 8
  count : BitVec 16
  deriving DecidableEq, Repr

/-- A team resident on a core (R36, R38, R83, R274, R283, R446); whether system software has ended it (R295); s.clk when it was stopped (R285, R313), and the cistern banks written since
its placement (R310). `heard` says that in the present clock the team has issued a packet or received a long-latency result (R283). -/
structure Team where
  uid : Nat
  slice : Nat
  task : Nat
  prv : Nat
  crank : Nat
  cluster : Nat
  gridx : Nat
  gridy : Nat
  gridz : Nat
  gx : Nat
  gy : Nat
  gz : Nat
  cw : Nat
  ch : Nat
  corner : Nat
  allot : Nat
  shape : Word
  codeObj : Nat
  entry : Word
  vectors : List DWord
  completions : Tbl Nat Completion
  watchdog : Word
  halted : Bool
  stopped : Bool
  ending : Bool
  stoppedAt : DWord
  banks : List Nat
  heard : Bool
  deriving DecidableEq, Repr

/-- A run of an extent's translation (R262). -/
structure ExtRun where
  off : Nat
  pfn : Nat
  npg : Nat
  home : Nat
  hm : Bool
  wt : Bool
  bcmp : Bool
  usr : Bool
  deriving DecidableEq, Repr

/-- One extent of a task (R261, R262). -/
structure Extent where
  base : DWord
  len : Nat
  acc : BitVec 16
  runs : List ExtRun
  deriving DecidableEq, Repr

/-- A launch record in a queue (R60, R212) with the launch window that its refusals show in (function, window; R317), and for a node launch
record the declaring task and its queue (R67, R214). -/
structure Queued where
  record : List Word
  window : Option (Nat × Nat)
  node : Option (Nat × Nat)
  deriving DecidableEq, Repr

/-- The local and lead slots of a barrier on one core for one team (R277). -/
structure Barrier where
  v : Bool
  cluster : Bool
  ph : Bool
  mask : BitVec 7
  lcnt : Nat
  lexp : Nat
  lnext : Nat
  texp : Nat
  tcnt : Nat
  deriving DecidableEq, Repr

/-- A placed launch of a slice (R61, R62, R66, R67, R87, R262, R431): its record (64 words), its launch window, its privilege, the placed clusters' corners
in cluster order, whether every cluster is placed, the extents, whether a page fault of its translation waits for a reply, whether its
start messages have been sent and how many cores are still to take theirs, the queues NDONE has closed, whether it has been swapped
out, for a node task the declaring task and its queue, the replies that its fibres' messages still owe (sender's core and reply tag, R66),
the barriers, by cluster and number, whose lead slot has outlived the lead core's team (R277, R278), and whether its grid has ended while node
tasks of its queues still live (R67). -/
structure Task where
  record : List Word
  window : Option (Nat × Nat)
  prv : Nat
  corners : List Nat
  placed : Bool
  extents : List Extent
  waiting : Bool
  started : Bool
  starting : Nat
  closedQueues : List Nat
  saved : Bool
  node : Option (Nat × Nat)
  owed : List (Nat × BitVec 18)
  leads : Tbl (Nat × Nat) Barrier
  past : Bool
  deriving DecidableEq, Repr

/-- The credit state of a record queue at its home (R215) with the records in the cores' rings (R219). -/
structure RecQueue where
  ring : DWord
  cap : Nat
  home : Nat
  qkind : Nat
  target : DWord
  credits : Nat
  written : Nat
  deriving DecidableEq, Repr

/-! ## What a core holds -/

/-- A 64-byte piece held by an L2 slice (R126, R127, R131, R193): data, dirty bit, poison as the structure code of its error (R303; 0 none), whether
that poison has been consumed (R304), pin bit, its coding, its promotion tag. -/
structure Piece where
  data : List Byte
  dirty : Bool
  poison : Nat
  seen : Bool
  pin : Bool
  coding : BitVec 3
  promo : BitVec 10
  deriving DecidableEq, Repr

/-- A granule tag of an L2 slice, whether its page allows compression, with its present pieces by number 0-31 (R126) and the absent ones whose
pin bit stands (R129); most recently used granules stand first. -/
structure Granule where
  g : Nat
  bcmp : Bool
  pieces : Tbl Nat Piece
  kept : List Nat
  deriving DecidableEq, Repr

/-- A TLB entry (R260). -/
structure TlbEntry where
  slice : Nat
  big : Bool
  vpn : Nat
  pfn : Nat
  rd : Bool
  wr : Bool
  usr : Bool
  hm : Bool
  wt : Bool
  bcmp : Bool
  mig : Bool
  home : Nat
  w : Nat
  mask : DWord
  groupOk : Bool
  deriving DecidableEq, Repr

/-- A section key entry (R250). -/
structure SecEntry where
  key : DWord
  next : Word
  held : Bool
  abn : Bool
  holder : FRef
  hgen : BitVec 8
  deriving DecidableEq, Repr

/-- An entry of the waiter list (R251), with the clock at which it was entered and the timeout in force then (R104, R285). -/
structure Waiter where
  skip : Bool
  abn : Bool
  key : DWord
  seq : Word
  f : FRef
  gen : BitVec 8
  wstart : BitVec 24
  acc : Nat
  came : DWord
  period : Nat
  deriving DecidableEq, Repr

/-- A combiner object entry (R247). -/
structure CombObj where
  pa : Nat
  poisoned : Bool
  bidx : Nat
  bgen : BitVec 8
  len : Nat
  narg : Nat
  nres : Nat
  deriving DecidableEq, Repr

/-- A combiner wave (R231, R413): its object, its lanes, whether it has closed, the clock its first lane joined, whether its method
runs. -/
structure Wave where
  wid : Nat
  pa : Nat
  lanes : List CombReq
  closed : Bool
  opened : DWord
  running : Bool
  entry : Option CombObj
  results : List (Nat × List Word)
  deriving DecidableEq, Repr

/-- A message in an inbox or the loop-back port (R220, R224, R429), with the binding and its generation that it was bound to as it came (R244). -/
structure Msg where
  src : Nat
  spkg : Nat
  vc : VC
  kind : Nat
  cls : Nat
  tags : BitVec 18
  words : List Word
  seq : Word
  clock : DWord
  retries : Nat
  bound : Option (Nat × BitVec 8)
  deriving DecidableEq, Repr

/-- A packet in a send queue (R225, R226): the fibre it came from, which share it takes, whether it is held and by which fibre. -/
structure SendEntry where
  packet : Packet
  owner : FRef
  reply : Bool
  holder : Option FRef
  deriving DecidableEq, Repr

/-- A record on its way to shading (R70, R71, R218, R460): its arrival clock, whether it is a pixel start record with the coverage of its
four pixels, its words, its primitive sequence number, the record queue it spent a credit of, and its place in that queue's ring while it
stands there (R219). -/
structure BasinRec where
  arrived : DWord
  pixel : Bool
  entry : Word
  words : List Word
  cov : List (BitVec 16)
  seq : Word
  slice : Nat
  task : Nat
  queue : Nat
  pos : Nat
  deriving DecidableEq, Repr

/-- A basin bin (R218, R467): the shader entry PC it is bound to, its records oldest first with their arrival clocks, its settings,
whether a formed wave waits for a slot. -/
structure Bin where
  pc : Option Word
  records : List BasinRec
  threshold : Nat
  timeout : Word
  due : Bool
  deriving DecidableEq, Repr

/-- A matrix ring of a shade core (R449). -/
structure Ring where
  base : Word
  cap : Nat
  tsz : Nat
  head : Word
  tail : Word
  deriving DecidableEq, Repr

/-- A ray in a ray slot (R123, R462): its 16 words, the node it visits next in its treelet (none before the treelet's first visit), the
node stack as nodes with their children still to do, the hit it has accepted, how often it has been forwarded; a TRV waits with its
fibre, result, status register and first ray register (R463). A ray whose STATUS is not 0x00 waits for a credit (R216). -/
structure RaySlot where
  words : List Word
  next : Option Nat
  stack : List (Nat × List Nat)
  best : Option RayHit
  forwards : Nat
  owner : Option (FRef × Nat × Nat × Nat)
  deriving DecidableEq, Repr

/-- A replay filter entry (R273). -/
structure ReplayEntry where
  rid : BitVec 16
  spkg : Nat
  score : Nat
  res : DWord
  t : Word
  deriving DecidableEq, Repr

/-- A code object held in a core's code store (R63, R142). -/
structure CodeObj where
  slice : Nat
  code : DWord
  ver : Word
  first : Nat
  lines : Nat
  started : Nat
  deriving DecidableEq, Repr

/-- A core (R21, R94, R97, R105, R121, R126, R142, R208, R238, R286, R288). -/
structure Core where
  slice : Option Nat
  retired : Bool
  closed : Bool
  ctl : Tbl Nat DWord
  poolFree : Nat
  claims : List (Nat × Nat)
  slotGen : Tbl Nat (BitVec 8)
  parts : Tbl Nat Partition
  code : Tbl Nat (List Word)
  codeBad : List Nat
  objects : List CodeObj
  cistern : List Host.Cell
  cistPoison : List Nat
  cistSeen : List Nat
  i4t : BitVec 128
  classMask : BitVec 16
  bindings : Tbl Nat DWord
  tlb : List TlbEntry
  walks : List (Nat × DWord)
  l2 : List Granule
  sections : List SecEntry
  waiters : List Waiter
  objectsTable : List CombObj
  waves : List Wave
  barriers : Tbl (Nat × Nat) Barrier
  inbox : List Msg
  loopback : List Msg
  sendQ : List SendEntry
  redeliver : List (Nat × Msg)
  sumpOn : Bool
  sumpAgain : Bool
  rq : Tbl Nat RqEntry
  lastClass : Nat
  arb : Tbl (Nat × Nat) Nat
  faultQ : List (List FaultRec)
  faultSlots : List Nat
  faultPart : List FaultRec
  bins : Tbl Nat Bin
  basinOwner : Option Nat
  spilled : List BasinRec
  credits : Tbl (Nat × Nat × Nat) (Nat × DWord)
  rings : Tbl Nat Ring
  treelets : Tbl Nat DWord
  directory : Tbl Nat DWord
  rays : Tbl Nat RaySlot
  copyQ : List CopyCmd
  shootQ : List (Nat × DWord × Nat × Nat)
  replay : List ReplayEntry
  atomicId : BitVec 16
  counters : Tbl Nat Word
  pcnt : Tbl Nat (BitVec 48)
  pcsel : Tbl Nat Word
  pcctl : Word
  homeWait : List Nat
  promoOwed : List (Nat × Nat)
  stoppedBatches : List (Nat × Batch)
  runsInvalid : List (Nat × Nat × Nat × Nat)
  l2Failed : Bool
  deriving DecidableEq, Repr

/-! ## Slices -/

/-- A launch window (R317): the 64 words of the record, doorbells taken, the last refusal, and what the doorbells that wait for the host
port send, oldest first: slice, level and record. -/
structure Window where
  record : List Word
  sent : Word
  field : BitVec 16
  cause : BitVec 8
  waiting : List (Nat × Nat × List Word)
  deriving DecidableEq, Repr

/-- A page move in progress (R140, R141): the page, its entry's address, old and new place, bytes, pass, the pieces whose filter bit is
set, the blocks still to copy in this pass (place and bytes), the requests held since the switch, the WHO word of the requester, the
shoot-down acknowledgements still to come, whether the entry has been switched. -/
structure Migration where
  va : DWord
  entryPa : Nat
  oldPa : Nat
  newPa : Nat
  bytes : Nat
  pass : Nat
  dirty : List Nat
  todo : List (Nat × Nat)
  held : List Packet
  who : Word
  acksLeft : Nat
  switched : Bool
  deriving DecidableEq, Repr

/-- What one core holds of a saved context (R309, R310): partitions' batches and issue-buffer entries, register claims, send-queue packets,
rays, cistern banks with their bytes, bindings, barriers, class mask, I4T table, rings, waiting and kept messages, copy commands. -/
structure CoreSave where
  batches : List (Nat × Batch)
  entries : List (Nat × BufEntry)
  claims : List (Nat × Nat)
  packets : List SendEntry
  rays : Tbl Nat RaySlot
  banks : List Nat
  cistern : List Host.Cell
  cistPoison : List Nat
  bindings : Tbl Nat DWord
  barriers : Tbl (Nat × Nat) Barrier
  classMask : BitVec 16
  i4t : BitVec 128
  rings : Tbl Nat Ring
  inbox : List Msg
  redeliver : List (Nat × Msg)
  copyQ : List CopyCmd
  deriving DecidableEq, Repr

/-- A lease slot of a matrix block (R134, R229, R282, R284); after 16 accepted commands, since when its re-entry is due. -/
structure Lease where
  core : Nat
  team : Nat
  first : Nat
  count : Nat
  acc : Nat
  queue : List MatCmd
  ending : Bool
  reentry : Option DWord
  watchdog : Word
  deriving DecidableEq, Repr

/-- A lease request in a block's queue (R228, R229, R447): the team, the fibres that wait with their results, the tiles, and the slot
when it is the re-entry of a lease after 16 commands. -/
structure LeaseReq where
  core : Nat
  team : Nat
  waiters : List (FRef × Nat × Nat)
  first : Nat
  count : Nat
  slot : Option Nat
  deriving DecidableEq, Repr

/-- A context under pre-emption or saved (R309-R312): its task, the save descriptor, whether the save is complete, its fibres, groups and
teams, what each core held, its leases by block and slot with their tiles and poisoned rows, its lease requests by block, the messages that arrived meanwhile,
and how many messages the log of each core takes. -/
structure Saved where
  task : Nat
  desc : DWord
  complete : Bool
  fibres : Tbl FRef Fibre
  groups : Tbl (Nat × Nat) Group
  teams : Tbl (Nat × Nat) Team
  cores : Tbl Nat CoreSave
  leases : List (Nat × Nat × Lease)
  tiles : List (Nat × Nat × Tbl Nat Word)
  tilePoison : List (Nat × Nat × Nat)
  requests : List (Nat × LeaseReq)
  messages : List Packet
  logs : List (Nat × Nat)
  deriving DecidableEq, Repr

/-- A record in the pending-record queue (R217): the declaring task and its queue, the words, the sender's core and the packet's tags. -/
structure PendRec where
  task : Nat
  queue : Nat
  words : List Word
  src : Nat
  tags : BitVec 18
  deriving DecidableEq, Repr

/-- An isolated slice (R314-R320, R280, R212, R217, R262, R287). -/
structure Slice where
  cores : List Nat
  stackMask : BitVec 16
  head : Byte
  enc : Byte
  newCores : List Nat
  newStacks : BitVec 16
  newHead : Byte
  newEnc : Byte
  queues : Tbl Nat (List Queued)
  pending : List PendRec
  pendSpill : List (Option (Nat × Nat))
  tasks : Tbl Nat Task
  recQueues : Tbl (Nat × Nat) RecQueue
  dones : Tbl Nat Word
  counters : Tbl Nat Word
  windows : Tbl Nat Window
  cdesc : DWord
  cstat : Word
  ccmd : List DWord
  debugger : Bool
  migration : Option Migration
  saved : List Saved
  frames : List Frame
  tdsets : Tbl Nat DWord
  deriving DecidableEq, Repr

/-! ## Engines outside the cores -/

/-- A matrix block (R133-R135, R228, R229, R304): accumulator words by tile and element number, poisoned rows and those of them that have been
read, the last holder of each tile,
the lease request queue, the two lease slots, whose turn it is. -/
structure Block where
  acc : Tbl Nat (Tbl Nat Word)
  poison : List (Nat × Nat)
  seen : List (Nat × Nat)
  holder : Tbl Nat (Nat × Nat)
  requests : List LeaseReq
  leases : Tbl Nat Lease
  turn : Nat
  deriving DecidableEq, Repr

/-- A raster sequencer's tables for one slice (R269, R271): descriptor sets (RDESC, SPOS words) and shading-rate entries. -/
structure RasterTables where
  sets : Tbl Nat (List DWord)
  rates : Tbl Nat (BitVec 80)
  deriving DecidableEq, Repr

/-- An HBM4 stack's pump and controller (R136, R137, R232, R307, R308): its pump commands, failed channels, channels paused for a lane
repair with the pin, unsuccessful replays in a row per channel, corrected errors by channel, pin and time. -/
structure Stack where
  queue : List PumpCmd
  failed : List Nat
  paused : List (Nat × Nat)
  alerts : Tbl Nat Nat
  pins : List (Nat × Nat × DWord)
  deriving DecidableEq, Repr

/-- A draw that a raster sequencer has begun (R71, R216, R267): its primitives not yet begun, and the start records it still has to send of the one in
hand: primitive sequence number, tile x and y, coverage of the four pixels. -/
structure DrawRun where
  spec : DrawSpec
  prims : List Prim
  recs : List (Word × Nat × Nat × List (BitVec 16))
  deriving DecidableEq, Repr

/-- A self-test in progress (R305). -/
structure Test where
  e : ErrorSpec
  started : Bool
  deriving DecidableEq, Repr

/-- Where an SPDM exchange stands (R322). -/
inductive Spdm where
  | idle | version | capabilities | negotiated
  deriving DecidableEq, Repr

/-- The steps of attestation answered so far: the request and the bytes of the answer (R322). -/
structure Answer where
  request : Nat
  bytes : List Byte
  deriving DecidableEq, Repr

/-- Whose turn it is: a partition issues, or the device takes one of its own steps. -/
inductive Turn where
  | issue (core part : Nat)
  | device (e : Instr)
  deriving DecidableEq, Repr

/-- The state of the package. `msix`, `hostReads` and `answers` are the model's own record of what left it; `parked` lists the fibres that have stood
parked in the present clock, or were created in it (R73, R356). (DESIGN CHOICE, log 59) -/
structure State where
  clk : DWord
  time : DWord
  timeSub : Nat
  timeFollows : Bool
  mem : List Host.Cell
  memPoison : List Nat
  damaged : List Nat
  blockState : Tbl Nat (BitVec 4)
  ctl : Tbl Nat DWord
  tokensUsed : Nat
  tokenQ : List (Nat × Nat × Nat × Nat)
  tokenHeld : List (Nat × Nat × Nat × Nat)
  tokensNow : DWord × Nat
  tokGr : Word
  tokWait : Word
  mesh : List Packet
  slices : Tbl Nat Slice
  cores : Tbl Nat Core
  groups : Tbl (Nat × Nat) Group
  fibres : Tbl FRef Fibre
  teams : Tbl (Nat × Nat) Team
  blocks : Tbl Nat Block
  raster : Tbl (Nat × Nat) RasterTables
  draws : List DrawRun
  stackUnits : Tbl Nat Stack
  tests : List Test
  spares : Tbl (Nat × Nat × Nat) Nat
  earlyErrors : List ErrEntry
  pkgWindow : Window
  slsel : Nat
  ckpt : BitVec 2
  wbase : Nat
  msix : List (Nat × Nat)
  hostReads : List DWord
  spdm : Spdm
  answers : List Answer
  imageGood : Bool
  imageId : Nat
  trainedPorts : List (Nat × Nat)
  postings : List Posting
  turn : Nat × Nat
  schedule : List Turn
  parked : List FRef
  nextId : Nat
  free : Nat
  deriving DecidableEq, Repr

/-! ## Stops -/

/-- The faults that stop the machine. The manual gives none: traps, posted faults and team faults are next states, so this type
has no constructor and no step raises one. -/
inductive Fault : Type
  deriving DecidableEq, Repr

/-- The refusals. `notModelled` is answered by the dispatcher alone, for an instruction that has no meaning yet (safe: nothing is
claimed about it). -/
inductive Refusal where
  | notModelled (mnemonic : String)
  deriving DecidableEq, Repr

/-! ## Reset -/

/-- The state right after cold reset, with the firmware's power-up sequence done (R110, R324): registers of the shared scopes are
kept as differences from their reset values, so `ctl` is empty; the error-log descriptor that firmware writes stands in memory at
PA 0xF_FFFF_0000 (BASE 0xF_FFFF_1000, SIZE 64). No core belongs to a slice, no fibre runs. (DEDUCED, log 26) -/
def State.reset : State :=
  { clk := 0, time := 0, timeSub := 0, timeFollows := false,
    mem := [(0xFFFFF0001, 0x10), (0xFFFFF0002, 0xFF), (0xFFFFF0003, 0xFF), (0xFFFFF0004, 0x0F), (0xFFFFF0008, 0x40)],
    memPoison := [], damaged := [], blockState := [], ctl := [], tokensUsed := 0, tokenQ := [], tokenHeld := [], tokensNow := (0, 0), tokGr := 0, tokWait := 0, mesh := [], slices := [],
    cores := [], groups := [], fibres := [], teams := [], blocks := [], raster := [], draws := [], stackUnits := [], tests := [], spares := [],
    earlyErrors := [],
    pkgWindow := { record := [], sent := 0, field := 0, cause := 0, waiting := [] }, slsel := 0, ckpt := 0, wbase := 0, msix := [], hostReads := [],
    spdm := .idle, answers := [], imageGood := true, imageId := 0, trainedPorts := [], postings := [], turn := (0, 0), schedule := [], parked := [], nextId := 0, free := 0 }

end Sys2Proof.Machine
end

