-- ==== Sys2Proof/Machine/Base.lean ====
section
/-!
DEFINITION. The plainest operations on the state: sparse tables, the numbers of cores, dies, quads and attachments, the default
content of a core, the accessors of cores, groups, fibres, teams and slices, bytes of words, and memory as a canonical list.
-/
namespace Sys2Proof.Machine

/-! ## Sparse tables -/

/-- The entry of a key, if listed. -/
def tget {α β : Type} [DecidableEq α] : Tbl α β → α → Option β
  | [], _ => none
  | (a, b) :: t, k => if a = k then some b else tget t k

/-- The entry of a key, or the default. -/
def tgetD {α β : Type} [DecidableEq α] (t : Tbl α β) (k : α) (d : β) : β := (tget t k).getD d

/-- Sets the entry of a key. -/
def tput {α β : Type} [DecidableEq α] : Tbl α β → α → β → Tbl α β
  | [], k, v => [(k, v)]
  | (a, b) :: t, k, v => if a = k then (k, v) :: t else (a, b) :: tput t k v

/-- Removes the entry of a key. -/
def tdel {α β : Type} [DecidableEq α] : Tbl α β → α → Tbl α β
  | [], _ => []
  | (a, b) :: t, k => if a = k then tdel t k else (a, b) :: tdel t k

/-- Sets element `n` of a list, if it exists. -/
def lset {α : Type} : List α → Nat → α → List α
  | [], _, _ => []
  | _ :: t, 0, v => v :: t
  | a :: t, n + 1, v => a :: lset t n v

/-- Insertion of a number into an ascending list. -/
def insNat (n : Nat) : List Nat → List Nat
  | [] => [n]
  | a :: t => if n ≤ a then n :: a :: t else a :: insNat n t

/-- A list of numbers in ascending order. -/
def sortNat (l : List Nat) : List Nat := l.foldr insNat []

/-- A list of numbers in ascending order, each once. -/
def sortDedup (l : List Nat) : List Nat := (sortNat l).dedup

/-! ## Words and bytes -/

/-- The bytes of a number, little-endian (R4). -/
def leBytes : Nat → Nat → List Byte
  | 0, _ => []
  | n + 1, v => BitVec.ofNat 8 v :: leBytes n (v / 256)

/-- The number that bytes hold, little-endian (R4). -/
def leNat : List Byte → Nat
  | [] => 0
  | b :: t => b.toNat + 256 * leNat t

/-- The 64-bit value of a register pair (R5). -/
def pairOf (lo hi : Word) : DWord := hi ++ lo

/-- The lower and upper half of a 64-bit value. -/
def loHalf (v : DWord) : Word := v.extractLsb' 0 32
/-- The upper half. -/
def hiHalf (v : DWord) : Word := v.extractLsb' 32 32

/-- Field [hi:lo] of a number. -/
def fld (v hi lo : Nat) : Nat := v / 2 ^ lo % 2 ^ (hi + 1 - lo)

/-- The words of bytes, four at a time. -/
def wordsOf : List Byte → List Word
  | a :: b :: c :: d :: t => (d ++ c ++ b ++ a) :: wordsOf t
  | _ => []

/-- The bytes of words. -/
def bytesOf (l : List Word) : List Byte := l.flatMap fun w => leBytes 4 w.toNat

/-- The 64-bit words of bytes. -/
def dwordsOf (l : List Byte) : List DWord :=
  let w := wordsOf l
  (List.range (w.length / 2)).map fun i => pairOf (w.getD (2 * i) 0) (w.getD (2 * i + 1) 0)

/-- Of two poison codes (R303; 0 none), the first that marks an error. -/
def orPoison (a b : Nat) : Nat := if a = 0 then b else a

/-! ## Memory -/

/-- What a byte of physical memory or of a cistern reads as when the list does not name it: zero (R124, R187). (DESIGN CHOICE, log 1) -/
def Memory.unlisted : Byte := 0

/-- The byte at an address. (DESIGN CHOICE, log 1) -/
def Memory.read : List Host.Cell → Nat → Byte
  | [], _ => Memory.unlisted
  | (b, w) :: t, a => if a = b then w else Memory.read t a

/-- Writes one byte, keeping the canonical form. -/
def Memory.write : List Host.Cell → Nat → Byte → List Host.Cell
  | [], a, v => if v = Memory.unlisted then [] else [(a, v)]
  | (b, w) :: t, a, v =>
    if a < b then (if v = Memory.unlisted then (b, w) :: t else (a, v) :: (b, w) :: t)
    else if a = b then (if v = Memory.unlisted then t else (a, v) :: t)
    else (b, w) :: Memory.write t a v

/-- Writes consecutive bytes. -/
def Memory.writes : List Host.Cell → Nat → List Byte → List Host.Cell
  | m, _, [] => m
  | m, a, b :: t => Memory.writes (Memory.write m a b) (a + 1) t

/-- Reads consecutive bytes. -/
def Memory.reads (m : List Host.Cell) (a n : Nat) : List Byte := (List.range n).map fun i => Memory.read m (a + i)

/-- All addresses of a list lie above `lo`, strictly rising, and no entry holds what an unlisted address reads as. -/
def Memory.wfFrom : Nat → List Host.Cell → Bool
  | _, [] => true
  | lo, (a, v) :: t => decide (lo ≤ a) && decide (v ≠ Memory.unlisted) && Memory.wfFrom (a + 1) t

/-- The canonical form of a memory: addresses strictly rising, no entry equal to the unlisted value. -/
def Memory.wf (m : List Host.Cell) : Bool := Memory.wfFrom 0 m

/-- The canonical form of a memory: what each address reads as, listed once in ascending order where it differs from an unlisted byte. -/
def Memory.canon (m : List Host.Cell) : List Host.Cell := m.foldr (fun e l => Memory.write l e.1 e.2) []

/-! ## Places in the package -/

/-- Mesh x of a core (R19). -/
def coreX (c : Nat) : Nat := c % 36
/-- Mesh y of a core (R19). -/
def coreY (c : Nat) : Nat := c / 36
/-- The core at mesh coordinates (R19). -/
def coreAt (x y : Nat) : Nat := y * 36 + x
/-- The die of a core (R18). -/
def coreDie (c : Nat) : Nat := coreY c / 8 * 3 + coreX c / 12
/-- The local index of a core on its die (R19). -/
def localIndex (c : Nat) : Nat := coreY c % 8 * 12 + coreX c % 12
/-- The number by which a packet names place (x, y): a core's, or one above 575 where x is above 35 and no router stands (R26). -/
def placeAt (x y : Nat) : Nat := if x < 36 then coreAt x y else 576 + y * 64 + x
/-- The x of a packet's place. -/
def placeX (n : Nat) : Nat := if n < 576 then coreX n else (n - 576) % 64
/-- The y of a packet's place. -/
def placeY (n : Nat) : Nat := if n < 576 then coreY n else (n - 576) / 64
/-- The quad of a core (R20). -/
def coreQuad (c : Nat) : Nat := coreY c / 2 * 18 + coreX c / 2
/-- Whether a core lies on a ray die (R18). -/
def isRay (c : Nat) : Bool := coreDie c == 1 || coreDie c == 4
/-- Whether a die is a ray die (R18). -/
def dieIsRay (d : Nat) : Bool := d == 1 || d == 4
/-- Cistern size of a core in bytes (R21). -/
def cisternSize (c : Nat) : Nat := if isRay c then 0x400000 else 0x200000
/-- The host-port router (R23). -/
def hostPort : Nat := 17
/-- The router of a stack (R22). -/
def stackRouter (st : Nat) : Nat :=
  match st with
  | 0 => coreAt 5 0 | 1 => coreAt 0 2 | 2 => coreAt 0 5 | 3 => coreAt 14 0 | 4 => coreAt 21 0 | 5 => coreAt 30 0
  | 6 => coreAt 35 2 | 7 => coreAt 35 5 | 8 => coreAt 0 10 | 9 => coreAt 0 13 | 10 => coreAt 5 15 | 11 => coreAt 14 15
  | 12 => coreAt 21 15 | 13 => coreAt 35 10 | 14 => coreAt 35 13 | _ => coreAt 30 15
/-- The router of a span port (R24). -/
def spanRouter (p : Nat) : Nat :=
  match p with
  | 0 => coreAt 0 7 | 1 => coreAt 10 0 | 2 => coreAt 12 0 | 3 => coreAt 23 0 | 4 => coreAt 25 0 | 5 => coreAt 35 7
  | 6 => coreAt 0 8 | 7 => coreAt 10 15 | 8 => coreAt 12 15 | 9 => coreAt 23 15 | 10 => coreAt 25 15 | _ => coreAt 35 8
/-- The router of the raster sequencer of die 1 or 4 (R23). -/
def rasterRouter (die : Nat) : Nat := if die = 1 then coreAt 17 4 else coreAt 17 11
/-- Number of links between two cores (R34). -/
def meshDist (a b : Nat) : Nat :=
  (max (coreX a) (coreX b) - min (coreX a) (coreX b)) + (max (coreY a) (coreY b) - min (coreY a) (coreY b))
/-- The four cores of a quad (R20). -/
def quadCores (q : Nat) : List Nat :=
  let x := 2 * (q % 18); let y := 2 * (q / 18)
  [coreAt x y, coreAt (x + 1) y, coreAt x (y + 1), coreAt (x + 1) (y + 1)]

/-! ## Default content -/

/-- The reset value of a core's I4T table (R253). -/
def i4tReset : BitVec 128 := 0xFFFEFDFCFBFAF9F80706050403020100#128

/-- A partition that issues nothing (R45). -/
def Partition.idle : Partition :=
  { batch := none, lastSlot := 0, lastPc := 0, buffer := [], testing := false, single := false }

/-- A core right after reset (R94, R105, R121, R241, R246, R253, R286). (DESIGN CHOICE, log 2) -/
def Core.fresh : Core :=
  { slice := none, retired := false, closed := false, ctl := [], poolFree := 131072, claims := [], slotGen := [], parts := [],
    code := [], codeBad := [], objects := [], cistern := [], cistPoison := [], cistSeen := [], i4t := i4tReset, classMask := 0, bindings := [],
    tlb := [], walks := [], l2 := [], sections := [], waiters := [], objectsTable := [], waves := [],
    barriers := [], inbox := [], loopback := [], sendQ := [], redeliver := [], sumpOn := false, sumpAgain := false, rq := [], lastClass := 0, arb := [], faultQ := [], faultSlots := [], faultPart := [],
    bins := [], basinOwner := none, spilled := [], credits := [], rings := [], treelets := [], directory := [],
    rays := [], copyQ := [], shootQ := [], replay := [], atomicId := 0, counters := [], pcnt := [], pcsel := [],
    pcctl := 0, homeWait := [], promoOwed := [], stoppedBatches := [], runsInvalid := [], l2Failed := false }

/-- A slice right after reset (R280, R314-R320). (DESIGN CHOICE, log 2) -/
def Slice.fresh : Slice :=
  { cores := [], stackMask := 0, head := 0, enc := 0, newCores := [], newStacks := 0, newHead := 0, newEnc := 0, queues := [],
    pending := [], pendSpill := [], tasks := [], recQueues := [], dones := [], counters := [], windows := [], cdesc := 0, cstat := 0,
    ccmd := [], debugger := false, migration := none, saved := [], frames := [], tdsets := [] }

/-- The special values of a fibre that no message and no record started (R83). -/
def Origin.none : Origin :=
  { src := 0, tag := 0, seq := 0, cls := 0, mlen := 0, word15 := 0, hasReply := false, binding := 0, faultSlot := Option.none,
    combine := Option.none, pixelKey := Option.none, pixelLeft := false, helper := false, cov := 0, redeliver := Option.none }

/-! ## Accessors -/

/-- Core `c`. -/
def getCore (s : State) (c : Nat) : Core := tgetD s.cores c Core.fresh
/-- Replaces core `c`. -/
def putCore (s : State) (c : Nat) (k : Core) : State := { s with cores := tput s.cores c k }
/-- Changes core `c`. -/
def modCore (s : State) (c : Nat) (f : Core → Core) : State := putCore s c (f (getCore s c))
/-- Slice `n`. -/
def getSlice (s : State) (n : Nat) : Slice := tgetD s.slices n Slice.fresh
/-- Replaces slice `n`. -/
def putSlice (s : State) (n : Nat) (x : Slice) : State := { s with slices := tput s.slices n x }
/-- Changes slice `n`. -/
def modSlice (s : State) (n : Nat) (f : Slice → Slice) : State := putSlice s n (f (getSlice s n))
/-- A fibre, if its lane is not empty. -/
def getFib (s : State) (f : FRef) : Option Fibre := tget s.fibres f
/-- Replaces a fibre. -/
def putFib (s : State) (f : FRef) (x : Fibre) : State := { s with fibres := tput s.fibres f x }
/-- Changes a fibre that exists. -/
def modFib (s : State) (f : FRef) (g : Fibre → Fibre) : State :=
  match getFib s f with
  | some x => putFib s f (g x)
  | none => s
/-- A resident group. -/
def getGroup (s : State) (core slot : Nat) : Option Group := tget s.groups (core, slot)
/-- A resident team of a core. -/
def getTeam (s : State) (core team : Nat) : Option Team := tget s.teams (core, team)
/-- Changes a team that exists. -/
def modTeam (s : State) (core team : Nat) (g : Team → Team) : State :=
  match getTeam s core team with
  | some t => { s with teams := tput s.teams (core, team) (g t) }
  | none => s
/-- Changes a group that exists. -/
def modGroup (s : State) (core slot : Nat) (g : Group → Group) : State :=
  match getGroup s core slot with
  | some t => { s with groups := tput s.groups (core, slot) (g t) }
  | none => s
/-- A partition of a core. -/
def getPart (s : State) (core part : Nat) : Partition := tgetD (getCore s core).parts part Partition.idle
/-- Changes a partition of a core. -/
def modPart (s : State) (core part : Nat) (g : Partition → Partition) : State :=
  modCore s core fun k => { k with parts := tput k.parts part (g (tgetD k.parts part Partition.idle)) }
/-- The partition of a group slot (R37); the sump fibre issues on partition 0 (R223). -/
def slotPart (slot : Nat) : Nat := slot % 8
/-- The lanes of a group that hold a fibre, ascending (R37). -/
def lanesOf (s : State) (core slot : Nat) : List Nat :=
  sortNat ((s.fibres.filter fun e => e.1.core = core ∧ e.1.slot = slot).map fun e => e.1.lane)
/-- The slots of a team's groups on its core, ascending (R42). -/
def teamSlots (s : State) (core team : Nat) : List Nat :=
  sortNat ((s.groups.filter fun e => e.1.1 = core ∧ e.2.team = team ∧ e.2.kind ≠ .sump).map fun e => e.1.2)
/-- The fibres of a team. -/
def teamFibres (s : State) (core team : Nat) : List FRef :=
  (teamSlots s core team).flatMap fun sl => (lanesOf s core sl).map fun l => ⟨core, sl, l⟩
/-- The team of a fibre, with its number; none for a sump fibre. -/
def teamOf (s : State) (f : FRef) : Option (Nat × Team) :=
  match getGroup s f.core f.slot with
  | some g => if g.kind = .sump then none else (getTeam s f.core g.team).map fun t => (g.team, t)
  | none => none
/-- The slice a fibre belongs to. -/
def sliceOf (s : State) (f : FRef) : Nat :=
  match teamOf s f with
  | some (_, t) => t.slice
  | none => (getCore s f.core).slice.getD 0
/-- The allotment A of a fibre's group; 32 for a sump fibre (R76, R223). -/
def allotOf (s : State) (f : FRef) : Nat :=
  match getGroup s f.core f.slot with
  | some g => g.allot
  | none => 0
/-- Adds a saturating 32-bit core counter by offset (R276, R286). (DEDUCED, log 61) -/
def bump (s : State) (core off n : Nat) : State :=
  modCore s core fun k => { k with counters := tput k.counters off (BitVec.ofNat 32 (min 0xFFFFFFFF ((tgetD k.counters off 0).toNat + n))) }
/-- Raises a high-water mark (R286). -/
def highWater (s : State) (core off n : Nat) : State :=
  modCore s core fun k => { k with counters := tput k.counters off (BitVec.ofNat 32 (max n (tgetD k.counters off 0).toNat)) }
/-- Adds to a saturating slice counter (R287). (DEDUCED, log 61) -/
def bumpSlice (s : State) (sl off n : Nat) : State :=
  modSlice s sl fun x => { x with counters := tput x.counters off (BitVec.ofNat 32 (min 0xFFFFFFFF ((tgetD x.counters off 0).toNat + n))) }
/-- A fresh identity, never 0, and the state that has used it. (DESIGN CHOICE, log 60) -/
def freshId (s : State) : Nat × State := (s.nextId + 1, { s with nextId := s.nextId + 1 })
/-- The number under which the next free value is asked for, and the state that has used it. (DESIGN CHOICE, log 60) -/
def freshFree (s : State) : Nat × State := (s.free, { s with free := s.free + 1 })

/-- Counts a performance event on a core, as often as `n`, for slice `sl` and partition `part` (R288, R289). (DESIGN CHOICE, log 88) -/
def perfEvent (s : State) (core evt n : Nat) (sl : Option Nat) (part : Option Nat) : State :=
  (List.range 8).foldl (fun s i =>
    let k := getCore s core
    let sel := (tgetD k.pcsel i 0).toNat
    if sel % 64 = evt ∧ evt ≠ 0 ∧ k.pcctl.getLsbD i ∧ (sel / 64 % 2 = 1 → sl = k.slice ∨ sl = none) ∧
        (sel / 128 % 2 = 1 → part = some (fld sel 11 8)) then
      let old := (tgetD k.pcnt i 0).toNat
      putCore s core { k with
        pcnt := tput k.pcnt i (BitVec.ofNat 48 (old + n)),
        pcctl := if old + n < 2 ^ 48 then k.pcctl else k.pcctl ||| BitVec.ofNat 32 (2 ^ (8 + i)) }
    else s) s

end Sys2Proof.Machine
end

