-- ==== Sys2Proof/Machine/Flags.lean ====
section
/-!
DEFINITION. Floating-point values, rounding and the five exception flags (R146-R156): every float result of the machine is an exact
dyadic (or a quotient or root with a sticky bit) rounded once by `roundTo`.
-/
namespace Sys2Proof.Machine

/-! ## Formats and flags -/

/-- A float format: exponent and fraction widths, bias, whether it is E4M3, and whether overflow saturates (R146, R152, R170). -/
structure Fmt where
  ebits : Nat
  mbits : Nat
  bias : Nat
  e4m3 : Bool
  sat : Bool
  deriving DecidableEq, Repr

/-- binary64 (R146). -/
def fmtF64 : Fmt := ⟨11, 52, 1023, false, false⟩
/-- binary32 (R146). -/
def fmtF32 : Fmt := ⟨8, 23, 127, false, false⟩
/-- binary16 (R146). -/
def fmtF16 : Fmt := ⟨5, 10, 15, false, false⟩
/-- bfloat16 (R146). -/
def fmtB16 : Fmt := ⟨8, 7, 127, false, false⟩
/-- E4M3 (R146, R147). -/
def fmtE4M3 : Fmt := ⟨4, 3, 7, true, true⟩
/-- E5M2 (R146). -/
def fmtE5M2 : Fmt := ⟨5, 2, 15, false, true⟩

/-- Invalid operation (R86, R155). -/
def flagNV : BitVec 5 := 16
/-- Division by zero. -/
def flagDZ : BitVec 5 := 8
/-- Overflow. -/
def flagOF : BitVec 5 := 4
/-- Underflow. -/
def flagUF : BitVec 5 := 2
/-- Inexact. -/
def flagNX : BitVec 5 := 1

/-- Whether FTZ applies to a format: F32, F16 and B16 only (R154). -/
def ftzApplies (f : Fmt) : Bool := f == fmtF32 || f == fmtF16 || f == fmtB16

/-- A decoded value: the finite magnitude is m × 2^e with m > 0 (R147). -/
inductive Fv where
  | nan (signalling : Bool)
  | inf (neg : Bool)
  | zero (neg : Bool)
  | fin (neg : Bool) (m : Nat) (e : Int)
  deriving DecidableEq, Repr

/-- Largest exponent of a finite value. -/
def fmtEmax (f : Fmt) : Int := if f.e4m3 then 8 else (2 ^ f.ebits : Nat) - 2 - f.bias
/-- Smallest normal exponent. -/
def fmtEmin (f : Fmt) : Int := 1 - (f.bias : Int)
/-- The bits of a NaN's canonical form, sign clear (R146, R148). -/
def fmtNaN (f : Fmt) : Nat := if f.e4m3 then 0x7F else (2 ^ f.ebits - 1) * 2 ^ f.mbits + 2 ^ (f.mbits - 1)
/-- The sign bit of a format. -/
def fmtSign (f : Fmt) : Nat := 2 ^ (f.ebits + f.mbits)
/-- The bits of +∞; E4M3 has none. -/
def fmtInf (f : Fmt) : Nat := (2 ^ f.ebits - 1) * 2 ^ f.mbits
/-- The bits of the largest finite value. -/
def fmtMax (f : Fmt) : Nat := if f.e4m3 then 0x7E else fmtInf f - 1

/-- Bits with a sign. -/
def signed (f : Fmt) (neg : Bool) (bits : Nat) : Nat := if neg then bits + fmtSign f else bits

/-- Decodes an element (R147, R148); under `ftz` a subnormal of a flushed format reads as a zero of its sign (R154). -/
def decodeF (f : Fmt) (ftz : Bool) (bits : Nat) : Fv :=
  let neg := decide (bits / fmtSign f % 2 = 1)
  let e := bits / 2 ^ f.mbits % 2 ^ f.ebits
  let m := bits % 2 ^ f.mbits
  if e = 0 then
    (if m = 0 ∨ (ftz ∧ ftzApplies f) then .zero neg else .fin neg m (1 - (f.bias : Int) - f.mbits))
  else if f.e4m3 then
    (if e = 15 ∧ m = 7 then .nan false else .fin neg (2 ^ f.mbits + m) ((e : Int) - f.bias - f.mbits))
  else if e = 2 ^ f.ebits - 1 then
    (if m = 0 then .inf neg else .nan (decide (m < 2 ^ (f.mbits - 1))))
  else .fin neg (2 ^ f.mbits + m) ((e : Int) - f.bias - f.mbits)

/-! ## Rounding -/

/-- Length in bits of a positive number. -/
def bitLen (n : Nat) : Nat := if n = 0 then 0 else Nat.log2 n + 1

/-- Rounds m × 2^e, plus a positive part below one unit of m's last place where `sticky`, to a multiple of 2^q in a mode
(0 nearest even, 1 toward zero, 2 toward +∞, 3 toward −∞): the multiple and whether the rounding is inexact (R150). -/
def roundAt (mode : Nat) (neg : Bool) (m : Nat) (e : Int) (sticky : Bool) (q : Int) : Nat × Bool :=
  let n := if q ≤ e then m * 2 ^ (e - q).toNat else m / 2 ^ (q - e).toNat
  let r := if q ≤ e then 0 else m % 2 ^ (q - e).toNat
  let half := if q ≤ e then 1 else 2 ^ ((q - e).toNat - 1)
  let inexact := sticky || decide (r ≠ 0)
  let up := match mode with
    | 0 => decide (half < r) || (decide (r = half) && decide (q ≤ e → False) && (sticky || decide (n % 2 = 1)))
    | 1 => false
    | 2 => inexact && !neg
    | _ => inexact && neg
  (if up then n + 1 else n, inexact)

/-- An overflowed result (R152, R170). -/
def overflowBits (f : Fmt) (mode : Nat) (neg : Bool) : Nat :=
  if f.sat then signed f neg (fmtMax f)
  else if mode = 0 ∨ (mode = 2 ∧ ¬ neg) ∨ (mode = 3 ∧ neg) then signed f neg (fmtInf f)
  else signed f neg (fmtMax f)

/-- Rounds an exact nonzero magnitude once to a format, with its flags (R151-R154, R170). -/
def roundTo (f : Fmt) (mode : Nat) (ftz neg : Bool) (m : Nat) (e : Int) (sticky : Bool) : Nat × BitVec 5 :=
  let top : Int := e + (bitLen m : Int) - 1
  let (n, inx) := roundAt mode neg m e sticky (top - f.mbits)
  let top' := if n = 2 ^ (f.mbits + 1) then top + 1 else top
  if top' < fmtEmin f then
    if ftz ∧ ftzApplies f then (signed f neg 0, flagUF ||| flagNX)
    else
      let (k, ix) := roundAt mode neg m e sticky (fmtEmin f - f.mbits)
      (signed f neg k, if ix then flagUF ||| flagNX else 0)
  else
    let frac := if n = 2 ^ (f.mbits + 1) then 2 ^ f.mbits else n
    let bits := (top' + f.bias).toNat * 2 ^ f.mbits + (frac - 2 ^ f.mbits)
    if fmtEmax f < top' ∨ (f.e4m3 ∧ 0x7E < bits) then (overflowBits f mode neg, flagOF ||| flagNX)
    else (signed f neg bits, if inx then flagNX else 0)

/-- Rounds an exact dyadic v × 2^e; an exact zero takes the sign given. -/
def roundInt (f : Fmt) (mode : Nat) (ftz zeroNeg : Bool) (v : Int) (e : Int) : Nat × BitVec 5 :=
  if v = 0 then (signed f zeroNeg 0, 0) else roundTo f mode ftz (decide (v < 0)) v.natAbs e false

/-- The sign of an exact zero sum that is not of two zeros of one sign: + except toward −∞ (R151). -/
def zeroSumNeg (mode : Nat) : Bool := mode == 3

/-! ## Arithmetic -/

/-- Whether an operand is a NaN. -/
def Fv.isNaN : Fv → Bool
  | .nan _ => true
  | _ => false
/-- Whether an operand is a signalling NaN. -/
def Fv.isSNaN : Fv → Bool
  | .nan s => s
  | _ => false
/-- The sign of a value. -/
def Fv.neg : Fv → Bool
  | .inf n | .zero n | .fin n _ _ => n
  | .nan _ => false
/-- The value with its sign inverted; a NaN stays. -/
def Fv.negate : Fv → Fv
  | .inf n => .inf (!n)
  | .zero n => .zero (!n)
  | .fin n m e => .fin (!n) m e
  | .nan s => .nan s
/-- NV when any operand is a signalling NaN (R148). -/
def nvOf (l : List Fv) : BitVec 5 := if l.any Fv.isSNaN then flagNV else 0

/-- The signed mantissa of a finite value. -/
def sgn (neg : Bool) (m : Nat) : Int := if neg then -(m : Int) else m

/-- Exact sum of two dyadics. -/
def addDyadic (v : Int) (e : Int) (w : Int) (k : Int) : Int × Int :=
  if e ≤ k then (v + w * 2 ^ (k - e).toNat, e) else (v * 2 ^ (e - k).toNat + w, k)

/-- The exact product of two values: finite, zero, infinite, or invalid (0 × ∞). A zero integer element stands as +0 (R165). (DESIGN CHOICE, log 80) -/
def mulV (a b : Fv) : Fv × Bool :=
  match a, b with
  | .nan _, _ | _, .nan _ => (.nan false, false)
  | .inf _, .zero _ | .zero _, .inf _ => (.nan false, true)
  | .inf s, x | x, .inf s => (.inf (s != x.neg), false)
  | .zero s, x | x, .zero s => (.zero (s != x.neg), false)
  | .fin s m e, .fin t n k => (.fin (s != t) (m * n) (e + k), false)

/-- The sum of two exact values rounded once (R151). -/
def sumV (f : Fmt) (mode : Nat) (ftz : Bool) (a b : Fv) : Nat × BitVec 5 :=
  match a, b with
  | .nan _, _ | _, .nan _ => (fmtNaN f, 0)
  | .inf s, .inf t => if s = t then (signed f s (fmtInf f), 0) else (fmtNaN f, flagNV)
  | .inf s, _ | _, .inf s => (signed f s (fmtInf f), 0)
  | .zero s, .zero t => (signed f (if s = t then s else zeroSumNeg mode) 0, 0)
  | .zero _, .fin n m e | .fin n m e, .zero _ => roundTo f mode ftz n m e false
  | .fin s m e, .fin t n k =>
    let (v, q) := addDyadic (sgn s m) e (sgn t n) k
    roundInt f mode ftz (zeroSumNeg mode) v q

/-- a + b (R435). -/
def fAdd (f : Fmt) (mode : Nat) (ftz : Bool) (a b : Fv) : Nat × BitVec 5 :=
  let (r, fl) := sumV f mode ftz a b
  (r, fl ||| nvOf [a, b])

/-- a × b + c with one rounding (R151, R435). -/
def fFma (f : Fmt) (mode : Nat) (ftz : Bool) (a b c : Fv) : Nat × BitVec 5 :=
  let (p, bad) := mulV a b
  let (r, fl) := if p.isNaN then (fmtNaN f, 0) else sumV f mode ftz p c
  (r, fl ||| nvOf [a, b, c] ||| if bad then flagNV else 0)

/-- Rounds one exact value. -/
def deliver (f : Fmt) (mode : Nat) (ftz : Bool) : Fv → Nat × BitVec 5
  | .nan s => (fmtNaN f, if s then flagNV else 0)
  | .inf n => (signed f n (fmtInf f), 0)
  | .zero n => (signed f n 0, 0)
  | .fin n m e => roundTo f mode ftz n m e false

/-- a × b (R435). -/
def fMul (f : Fmt) (mode : Nat) (ftz : Bool) (a b : Fv) : Nat × BitVec 5 :=
  let (p, bad) := mulV a b
  let (r, fl) := deliver f mode ftz p
  (r, fl ||| nvOf [a, b] ||| if bad then flagNV else 0)

/-- A quotient of magnitudes with enough bits for one rounding: n / m × 2^e with its sticky bit. -/
def quotient (f : Fmt) (n : Nat) (e : Int) (m : Nat) (k : Int) : Nat × Int × Bool :=
  let sh := f.mbits + 4 + bitLen m
  (n * 2 ^ sh / m, e - k - sh, decide (n * 2 ^ sh % m ≠ 0))

/-- a / b (R155, R435). -/
def fDiv (f : Fmt) (mode : Nat) (ftz : Bool) (a b : Fv) : Nat × BitVec 5 :=
  match a, b with
  | .nan _, _ | _, .nan _ => (fmtNaN f, nvOf [a, b])
  | .inf _, .inf _ | .zero _, .zero _ => (fmtNaN f, flagNV)
  | .inf s, x => (signed f (s != x.neg) (fmtInf f), 0)
  | x, .inf s => (signed f (s != x.neg) 0, 0)
  | .zero s, x => (signed f (s != x.neg) 0, 0)
  | .fin s _ _, .zero t => (signed f (s != t) (fmtInf f), flagDZ)
  | .fin s n e, .fin t m k =>
    let (q, x, st) := quotient f n e m k
    roundTo f mode ftz (s != t) q x st

/-- Integer square root by `fuel` binary digits from the top. -/
def isqrtFrom (n : Nat) : Nat → Nat → Nat
  | 0, r => r
  | k + 1, r => let c := r + 2 ^ k; isqrtFrom n k (if c * c ≤ n then c else r)

/-- The integer square root. -/
def isqrt (n : Nat) : Nat := isqrtFrom n (bitLen n / 2 + 1) 0

/-- The root of a magnitude with enough bits for one rounding. -/
def rootOf (f : Fmt) (m : Nat) (e : Int) : Nat × Int × Bool :=
  let odd := e % 2
  let m' := if odd = 0 then m else 2 * m
  let e' := e - odd
  let sh := 2 * (f.mbits + 4)
  let r := isqrt (m' * 2 ^ sh)
  (r, e' / 2 - (f.mbits + 4 : Nat), decide (r * r ≠ m' * 2 ^ sh))

/-- √a (R155, R435). -/
def fSqrt (f : Fmt) (mode : Nat) (ftz : Bool) (a : Fv) : Nat × BitVec 5 :=
  match a with
  | .nan _ => (fmtNaN f, nvOf [a])
  | .zero n => (signed f n 0, 0)
  | .inf n => if n then (fmtNaN f, flagNV) else (fmtInf f, 0)
  | .fin n m e =>
    if n then (fmtNaN f, flagNV)
    else let (r, x, st) := rootOf f m e; roundTo f mode ftz false r x st

/-- 1 / √a (R435): the quotient 2^(2k) / m under the root, so that one rounding is exact. -/
def fRsqrt (f : Fmt) (mode : Nat) (ftz : Bool) (a : Fv) : Nat × BitVec 5 :=
  match a with
  | .nan _ => (fmtNaN f, nvOf [a])
  | .zero n => (signed f n (fmtInf f), flagDZ)
  | .inf n => if n then (fmtNaN f, flagNV) else (0, 0)
  | .fin n m e =>
    if n then (fmtNaN f, flagNV)
    else
      let m' := if e % 2 = 0 then m else 2 * m
      let e' := e - e % 2
      let k := f.mbits + 6 + bitLen m'
      let q := 2 ^ (2 * k) / m'
      let r := isqrt q
      roundTo f mode ftz false r (-(e' / 2) - k) (decide (r * r * m' ≠ 2 ^ (2 * k)))

/-- Compares two finite values or zeros exactly: −1, 0 or 1 by the sign of the difference. -/
def cmpV (a b : Fv) : Int :=
  let val : Fv → Int × Int := fun x => match x with
    | .fin n m e => (sgn n m, e)
    | _ => (0, 0)
  match a, b with
  | .inf s, .inf t => if s = t then 0 else if s then -1 else 1
  | .inf s, _ => if s then -1 else 1
  | _, .inf s => if s then 1 else -1
  | _, _ =>
    let (d, _) := addDyadic (val a).1 (val a).2 (-(val b).1) (val b).2
    d.sign

/-- FMIN and FMAX of one pair of bits (R436): the operand chosen, a flushed subnormal as a zero of its sign. -/
def fMinMax (f : Fmt) (ftz isMin : Bool) (x y : Nat) : Nat × BitVec 5 :=
  let a := decodeF f ftz x; let b := decodeF f ftz y
  let out := fun (v : Fv) (bits : Nat) => match v with | .zero n => signed f n 0 | _ => bits
  let fl := nvOf [a, b]
  if a.isNaN ∧ b.isNaN then (fmtNaN f, fl)
  else if a.isNaN then (out b y, fl)
  else if b.isNaN then (out a x, fl)
  else
    let c := cmpV a b
    let aLess := decide (c < 0) || (decide (c = 0) && a.neg && !b.neg)
    (if aLess = isMin then out a x else out b y, fl)

/-! ## Modes of a fibre -/

/-- The rounding mode of RND with the fibre's RM under .dyn (R150). -/
def modeOf (rnd rm : Nat) : Nat := if rnd = 4 then rm else rnd

end Sys2Proof.Machine
end

