-- ==== Sys2Proof/Machine/Dot.lean ====
section
/-!
DEFINITION. Dot-product groups (R164-R166): the exact products of a group, their alignment by truncation, and the group's sum; the
values of code elements (R158, R159, R161).
-/
namespace Sys2Proof.Machine

/-- An integer as a value; zero is +0. -/
def intV (v : Int) : Fv := if v = 0 then .zero false else .fin (decide (v < 0)) v.natAbs 0

/-- Q(k) × 64 of a Q4 code (R159). -/
def q4Code : Nat → Int
  | 0 => -64 | 1 => -45 | 2 => -34 | 3 => -26 | 4 => -19 | 5 => -12 | 6 => -6 | 7 => 0
  | 8 => 5 | 9 => 10 | 10 => 15 | 11 => 21 | 12 => 28 | 13 => 37 | 14 => 48 | _ => 64

/-- The codebook value Q(k) (R159). -/
def q4Value (k : Nat) : Fv :=
  let v := q4Code (k % 16)
  if v = 0 then .zero false else .fin (decide (v < 0)) v.natAbs (-6)

/-- The block scale β = RoundF32(S × s × 2⁻⁸) with the flags of QSCL (R161, R385). -/
def q4Scale (S : Word) (s : Nat) : Nat × BitVec 5 :=
  let v := decodeF fmtF32 false S.toNat
  match v with
  | .nan g => (fmtNaN fmtF32, if g then flagNV else 0)
  | .inf n => if s = 0 then (fmtNaN fmtF32, flagNV) else (signed fmtF32 n (fmtInf fmtF32), 0)
  | .zero n => (signed fmtF32 n 0, 0)
  | .fin n m e => if s = 0 then (signed fmtF32 n 0, 0) else roundTo fmtF32 0 false n (m * s) (e - 8) false

/-- A group's sum before rounding (R164 steps 3 and 4, R165), whether a nonzero part was discarded, and whether infinities of both
signs met. -/
structure GroupSum where
  v : Fv
  cut : Bool
  clash : Bool
  deriving DecidableEq, Repr

/-- ⌊log₂|p|⌋ of a finite product. -/
def magOf : Fv → Option Int
  | .fin _ m e => some (e + bitLen m - 1)
  | _ => none

/-- The largest of ⌊log₂|p|⌋ over the nonzero products. -/
def emaxOf (ps : List Fv) : Option Int := (ps.filterMap magOf).foldl (fun b e => match b with | some x => some (max x e) | none => some e) none

/-- A product truncated toward zero to units of 2^q, and whether a part was discarded. -/
def cutTo (q : Int) : Fv → Int × Bool
  | .fin n m e =>
    let k := if q ≤ e then m * 2 ^ (e - q).toNat else m / 2 ^ (q - e).toNat
    (sgn n k, decide (e < q) && decide (m % 2 ^ (q - e).toNat ≠ 0))
  | _ => (0, false)

/-- The group sum of exact products (R164, R165). -/
def groupSum (ps : List Fv) : GroupSum :=
  if ps.any Fv.isNaN then ⟨.nan false, false, false⟩
  else
    let pos := ps.any fun p => p == .inf false
    let neg := ps.any fun p => p == .inf true
    if pos && neg then ⟨.nan false, false, true⟩
    else if pos then ⟨.inf false, false, false⟩
    else if neg then ⟨.inf true, false, false⟩
    else
      match emaxOf ps with
      | none => ⟨.zero (! ps.isEmpty && ps.all fun p => p.neg), false, false⟩
      | some emax =>
        let q := emax - 30
        let ts := ps.map (cutTo q)
        let t : Int := ts.foldl (fun a e => a + e.1) 0
        let cut := ts.any Prod.snd
        if t = 0 then ⟨.zero false, cut, false⟩ else ⟨.fin (decide (t < 0)) t.natAbs q, cut, false⟩

/-- DOT4 and DOT8: d = RoundF32(T + c) with the flags of R166, from the element pairs of a and b. -/
def dotResult (mode : Nat) (ftz : Bool) (as bs : List Fv) (c : Fv) : Nat × BitVec 5 :=
  let ps := List.zipWith mulV as bs
  let g := groupSum (ps.map Prod.fst)
  let (r, fl) := sumV fmtF32 mode ftz g.v c
  (r, fl ||| nvOf (c :: as ++ bs) ||| (if (ps.any Prod.snd) || g.clash then flagNV else 0) ||| (if g.cut then flagNX else 0))

/-- The exact sum of values rounded once (BRED.fadd, R444): special operands as in a group, an exact zero sum under R151. -/
def exactSum (mode : Nat) (ftz : Bool) (xs : List Fv) : Nat × BitVec 5 :=
  let nv := nvOf xs
  if xs.any Fv.isNaN then (fmtNaN fmtF32, nv)
  else
    let pos := xs.any fun p => p == .inf false
    let neg := xs.any fun p => p == .inf true
    if pos && neg then (fmtNaN fmtF32, flagNV)
    else if pos then (fmtInf fmtF32, 0)
    else if neg then (signed fmtF32 true (fmtInf fmtF32), 0)
    else
      let (v, e) := xs.foldl (fun (a : Int × Int) x => match x with
        | .fin n m k => addDyadic a.1 a.2 (sgn n m) k
        | _ => a) ((0 : Int), (0 : Int))
      let allNeg := xs.all Fv.neg
      let allPos := xs.all fun x => ! x.neg
      let zneg := match xs.all fun x => x matches .zero _ with
        | true => if allNeg then true else if allPos then false else zeroSumNeg mode
        | false => zeroSumNeg mode
      roundInt fmtF32 mode ftz zneg v e

end Sys2Proof.Machine
end

