-- ==== Sys2Proof/Machine/Ctl.lean ====
section
/-!
DEFINITION. Control registers (R100-R110): keys, reset values, stored fields, the copies of the cores, computed registers, and
the packets every write of a shared register sends.
-/
namespace Sys2Proof.Machine

/-- The key of a register: its number, with the slice in bits 15-12 for a slice register (R100). -/
def ctlKey (num slice : Nat) : Nat := if 0x100 ≤ num ∧ num < 0x200 then num + 0x1000 * slice else num

/-- The reset value of a register, firmware's values included (R105, R110). (DEDUCED, log 26) -/
def ctlInit (key : Nat) : DWord :=
  match key % 0x1000 with
  | 0x000 => 0x62400100
  | 0x003 => 1536
  | 0x005 => 1
  | 0x006 => 0x0000000FFFFF0000
  | 0x100 => 0x3FF
  | 0x107 => 0x00100000
  | 0x108 => 0x04000000
  | 0x109 => 0x00100000
  | 0x302 => 12
  | _ => 0

/-- What a write of `v` stores over `old` (R9, R105, R107, R110, R245): RZ bits zero, caps applied; `inSlice` says whether a core
belongs to the slice of the register. -/
def ctlStored (num : Nat) (inSlice : Nat → Bool) (old v : DWord) : DWord :=
  let n := v.toNat
  match num with
  | 0x001 => BitVec.ofNat 64 (n % 16)
  | 0x002 => BitVec.ofNat 64 (n % 2)
  | 0x003 => BitVec.ofNat 64 (min 4096 (max 24 (n % 0x10000)))
  | 0x005 => BitVec.ofNat 64 (n % 2)
  | 0x100 => if n % 1024 = 0x3FF ∨ inSlice (n % 1024) then BitVec.ofNat 64 (n % 1024) else old
  | 0x105 => BitVec.ofNat 64 (min 0x100000 (n % 2 ^ 32 / 64 * 64))
  | 0x120 => BitVec.ofNat 64 (n / 2 ^ 34 * 2 ^ 34)
  | 0x302 => BitVec.ofNat 64 (min 16 (n % 32))
  | _ =>
    if 0x110 ≤ num ∧ num ≤ 0x11F then
      (if n % 4 = 3 then BitVec.ofNat 64 (n % 0x2000 / 4 * 4) else BitVec.ofNat 64 (n % 0x2000))
    else if num = 0x107 ∨ num = 0x108 ∨ num = 0x109 then BitVec.ofNat 64 (n % 2 ^ 32)
    else if num = 0x000 ∨ num = 0x004 ∨ num = 0x200 ∨ num = 0x300 ∨ num = 0x301 then old
    else v

/-- The copy of a shared register at (17, 0). -/
def ctlHome (s : State) (key : Nat) : DWord := tgetD s.ctl key (ctlInit key)

/-- A core's own copy of a register. -/
def ctlCopy (s : State) (core key : Nat) : DWord := tgetD (getCore s core).ctl key (ctlInit key)

/-- A core's copy of a slice register. -/
def sliceCtl (s : State) (core slice num : Nat) : DWord := ctlCopy s core (ctlKey num slice)

/-- CTL.CORESTAT of a core (R108). -/
def coreStat (s : State) (core : Nat) : DWord :=
  let k := getCore s core
  let teams := (s.teams.filter fun e => e.1.1 = core).length
  BitVec.ofNat 64 ((if k.retired then 2 ^ 31 else 0) + (match k.slice with | some n => 2 ^ 30 + n * 2 ^ 27 | none => 0) +
    (if isRay core then 2 ^ 26 else 0) + core * 128 + min teams 64)

/-- CTL.POOLSTAT of a core (R109). -/
def poolStat (s : State) (core : Nat) : DWord :=
  let k := getCore s core
  BitVec.ofNat 64 (k.claims.length * 2 ^ 24 + (match k.claims with | (slot, a) :: _ => (a - allotOf s ⟨core, slot, 0⟩) / 8 | [] => 0) * 2 ^ 18 +
    k.poolFree)

/-- CTL.TOKFREE as a core reads it: its copy of the size minus the tokens in use, or zero (R107). -/
def tokFree (s : State) (core : Nat) : DWord := BitVec.ofNat 64 ((ctlCopy s core 0x003).toNat - s.tokensUsed)

/-- What CTLRD on a core reads (R102, R105). -/
def ctlRead (s : State) (core key : Nat) : DWord :=
  match key % 0x1000 with
  | 0x000 => if s.imageGood then 0x62400100 else 0x62400000
  | 0x004 => tokFree s core
  | 0x011 => 0
  | 0x200 => BitVec.ofNat 64 ((if isRay core then 2 ^ 31 else 0) + coreDie core)
  | 0x300 => coreStat s core
  | 0x301 => poolStat s core
  | _ => ctlCopy s core key

/-- Sets a core's copy. -/
def ctlSetCopy (s : State) (core key : Nat) (v : DWord) : State :=
  modCore s core fun k => { k with
    ctl := tput k.ctl key (ctlStored (key % 0x1000) (fun c => (getCore s c).slice == some (key / 0x1000)) (tgetD k.ctl key (ctlInit key)) v) }

/-- Sets the copy at (17, 0) and does what the register's write does there: CTL.TIMEBASE sets s.time (R85, R321). -/
def ctlSerialise (s : State) (key : Nat) (v : DWord) : State :=
  if key % 0x1000 = 0x011 then
    (if (ctlHome s 0x001).toNat = 0 ∨ ¬ s.timeFollows then { s with time := v, timeSub := 0 } else s)
  else { s with ctl := tput s.ctl key (ctlStored (key % 0x1000) (fun c => (getCore s c).slice == some (key / 0x1000)) (ctlHome s key) v) }

/-- Sets every copy at once, as firmware and reset do (R110). -/
def ctlSetAll (s : State) (key : Nat) (v : DWord) : State :=
  { s with
    ctl := tput s.ctl key v
    cores := (List.range 576).foldl (fun l c => tput l c (let k := tgetD l c Core.fresh; { k with ctl := tput k.ctl key v })) s.cores }

/-- The number of this package in the domain (R105). -/
def pkgNum (s : State) : Nat := (ctlHome s 0x001).toNat % 16

end Sys2Proof.Machine
end

