-- ==== Sys2Proof/Machine/Mesh.lean ====
section
/-!
DEFINITION. Packets: building one at its source router, the tags of R239, the replies homes send, error-log entries (R237) and
posted fault records (R296). PACKET_HOP, which moves packets, stands with the device's steps.
-/
namespace Sys2Proof.Machine

/-- Puts a new packet at its source, before its router's local or attachment port. -/
def emitFrom (block : Bool) (s : State) (vc : VC) (kind src dst flits : Nat) (tags : BitVec 18) (body : Body) : State :=
  let (id, s) := freshId s
  { s with mesh := s.mesh ++ [{
      id := id, vc := vc, kind := kind, cls := 0, src := src, spkg := pkgNum s, dst := dst, dpkg := pkgNum s, tags := tags,
      flits := flits, order := id, pos := src, side := if block then 9 else 6, yxHalf := false, pinned := none, arrived := false, came := s.clk, noMerge := false, body := body }] }

/-- A packet that a core's NI or home sends. -/
def emit (s : State) (vc : VC) (kind src dst flits : Nat) (tags : BitVec 18) (body : Body) : State :=
  emitFrom false s vc kind src dst flits tags body

/-- A packet of the mesh by identity. -/
def getPacket (s : State) (id : Nat) : Option Packet := s.mesh.find? fun p => p.id = id

/-- Whether packet `q` came before `p` where both stand: in one clock the one with the lower key came first (R207, R228, R231). -/
def cameBefore (key : Packet → Nat) (q p : Packet) : Bool :=
  if q.came = p.came then decide (key q < key p) || (decide (key q = key p) && decide (q.order < p.order)) else decide (q.order < p.order)

/-- Takes a packet out of the mesh. -/
def dropPacket (s : State) (id : Nat) : State := { s with mesh := s.mesh.filter fun p => p.id ≠ id }

/-- Replaces the body of a packet in place. -/
def setBody (s : State) (id : Nat) (b : Body) : State :=
  { s with mesh := s.mesh.map fun p => if p.id = id then { p with body := b } else p }

/-- The packet of identity `id` that has arrived at its destination. -/
def arrivedPacket (s : State) (id : Nat) : Option Packet :=
  match getPacket s id with
  | some p => if p.arrived then some p else none
  | none => none

/-- The fibre reply form of TAGS (R239). -/
def replyTag (gen : BitVec 8) (rq : Nat) : BitVec 18 := 1#1 ++ gen ++ BitVec.ofNat 9 rq

/-- A handler tag (R239). -/
def handlerTag (gen : BitVec 8) (index : Nat) : BitVec 18 := 0b001#3 ++ gen ++ BitVec.ofNat 7 index

/-- The generation of a fibre's slot as packets carry it. -/
def fibGen (s : State) (f : FRef) : BitVec 8 :=
  match getFib s f with
  | some x => x.gen
  | none => 0

/-- Sends the result of a long-latency operation to its requester (R48, R210). -/
def sendResults (s : State) (kind src : Nat) (f : FRef) (gen : BitVec 8) (ll acc : Nat) (poison : Nat) (effs : List Eff) : State :=
  emit s .mrsp kind src f.core 1 (replyTag gen ll) (.results f gen ll acc poison effs)

/-- Acknowledges a write or a part of a range operation (R180). -/
def sendAck (s : State) (src : Nat) (f : FRef) (acc : Nat) : State :=
  emit s .mrsp 0x02 src f.core 1 (replyTag (fibGen s f) acc) (.ack f acc)

/-- Posts an error-log entry with its syndrome and its DETAIL words (R237): sent on SYS to router (17, 0). -/
def logErrorWith (s : State) (ekind struct src core stack slice : Nat) (addr synd : DWord) (detail : List Word) : State :=
  emitFrom (decide (core = 0xFFFF) && src == stackRouter stack) s .sys 0x0E src hostPort 2 0 (.error {
    time := s.time, ekind := ekind, struct := struct, core := core, stack := stack, slice := slice, addr := addr, synd := synd, detail := detail })

/-- Posts an error-log entry with free syndrome and detail words (R301), from a core's NI or, as `block` says, from an attached block. -/
def logErrorFrom (block : Bool) (s : State) (ekind struct src core stack slice : Nat) (addr : DWord) : State :=
  let (n, s) := freshFree s
  emitFrom block s .sys 0x0E src hostPort 2 0 (.error {
    time := s.time, ekind := ekind, struct := struct, core := core, stack := stack, slice := slice, addr := addr, synd := Config.syndrome n
    detail := (List.range 8).map (Config.errorDetail n) })

/-- Posts an error-log entry with free syndrome and detail words (R301): the controller of a stack that errs posts from its block. -/
def logError (s : State) (ekind struct src core stack slice : Nat) (addr : DWord) : State :=
  let (n, s) := freshFree s
  logErrorWith s ekind struct src core stack slice addr (Config.syndrome n) ((List.range 8).map (Config.errorDetail n))

/-- The fault-service core of a slice as a core's copy names it (R110); none while it holds 0x3FF. -/
def faultService (s : State) (core slice : Nat) : Option Nat :=
  let v := (sliceCtl s core slice 0x100).toNat % 1024
  if v < 576 then some v else none

/-- Posts fault records to the slice's fault-service core as one batch on SYS (R233, R297); dropped while there is none (R110). -/
def postFaultsFrom (block : Bool) (s : State) (core slice : Nat) (recs : List FaultRec) : State :=
  match faultService s core slice with
  | some d => if recs.isEmpty then s else emitFrom block s .sys 0x07 core d ((recs.length + 1) / 2 |> max 1) 0 (.faults slice recs)
  | none => s

/-- A core posts fault records. -/
def postFaults (s : State) (core slice : Nat) (recs : List FaultRec) : State := postFaultsFrom false s core slice recs

/-- The WHO word of a record (R296). -/
def whoWord (task : Nat) (gen : BitVec 8) (slot core : Nat) : Word :=
  BitVec.ofNat 32 (task % 256 * 2 ^ 24 + gen.toNat * 2 ^ 16 + slot % 64 * 1024 + core)

/-- The paths a fibre itself makes accesses on (R173). -/
def isFibrePath (p : Path) : Bool := p == .ls || p == .ms

/-- Whether a path is in a path mask (R173). -/
def inMask (m : BitVec 7) (p : Path) : Bool :=
  m.getLsbD (match p with | .ls => 0 | .cp => 1 | .mx => 2 | .tr => 3 | .pm => 4 | .ms => 5 | .rb => 6)

/-- The fibre paths LS and MS as a path mask (R173). -/
def fibreBits : BitVec 7 := 0x21

/-- A record of a command of a fibre on a path, with no bytes named. -/
def plainAcc (id : Nat) (p : Path) : Acc :=
  { id := id, ord := id, path := p, loc := none, size := 0, writes := true, acq := 0, rel := 0, arrive := none, fence := none,
    scope := 7, sent := false, redo := none }

/-- Whether a scope's instance never leaves its core (R178): .fb, .gp, .tm and .co. -/
def onCore (scope : Nat) : Bool := decide (scope ≤ 3)

/-- Whether the destination of a FENCEP takes in a fibre path, so that what it orders is part of later releases (R181). -/
def feedsFibre : FenceKind → Bool
  | .paths _ dst => dst &&& fibreBits != 0
  | _ => false

/-- The writes of a core's other fibres that have left it and are not performed yet: a fibre of the core may have seen them through a
release at core scope (R181). -/
def sentWrites (s : State) (f : FRef) : List Acc :=
  s.fibres.flatMap fun e => if e.1.core = f.core ∧ e.1 ≠ f then e.2.accs.filter fun b => b.sent && b.writes && b.fence.isNone else []

/-- Whether a fence is over: the accesses it waits for have been performed with respect to its scope (R181, R184, R189). -/
def fenceOver (others : List Acc) (x : Fibre) (f : Acc) : Bool :=
  match f.fence with
  | none => false
  | some k =>
    (x.accs.all fun b => ! (decide (b.ord < f.ord) && match k with
      | .acq => b.fence.isNone && isFibrePath b.path && (! b.writes || b.path == .ms)
      | .rel | .ar => (b.fence.isNone && isFibrePath b.path) || (b.fence.map feedsFibre).getD false
      | .paths src _ => b.fence.isNone && inMask src b.path)) &&
    others.all fun b => ! (decide (b.ord < f.ord) && match k with
      | .acq => false
      | .rel | .ar => ! onCore f.scope && isFibrePath b.path
      | .paths src _ => inMask src b.path)

/-- Removes the fences of a fibre that are over. -/
def dropFences (others : List Acc) (x : Fibre) : Fibre := { x with accs := x.accs.filter fun a => ! fenceOver others x a }

/-- Removes the fences of a core's fibres that are over. -/
def settleFences (s : State) (core : Nat) : State :=
  { s with fibres := s.fibres.map fun e =>
      if e.1.core = core ∧ (e.2.accs.any fun a => a.fence.isSome) then (e.1, dropFences (sentWrites s e.1) e.2) else e }

/-- The access record `acc` of a fibre is performed: it leaves the fibre's order list, and fences that waited for it are over (R180). -/
def accDone (s : State) (f : FRef) (acc : Nat) : State :=
  settleFences (modFib s f fun x => { x with accs := x.accs.filter fun a => a.id ≠ acc }) f.core

/-- A team receives a long-latency result in this clock (R283). -/
def hear (s : State) (f : FRef) : State :=
  match teamOf s f with
  | some (n, _) => modTeam s f.core n fun t => { t with heard := true }
  | none => s

/-- The long-latency result `ll` of a fibre has come: its effects are kept until the run end (R48). -/
def llDone (s : State) (f : FRef) (ll : Nat) (poison : Nat) (effs : List Eff) : State :=
  modFib (hear s f) f fun x => { x with lls := x.lls.map fun l => if l.id = ll then { l with done := true, poison := if l.poison = 0 then poison else l.poison, effs := l.effs ++ effs } else l }

end Sys2Proof.Machine
end

