-- ==== Sys2Proof/Machine/L2.lean ====
section
/-!
DEFINITION. Memory behind an access: HBM4 and host memory with their poison and block states (R117, R136, R137), the L2 slice of a
home with its tags, codings, pins and evictions (R126-R130), the cistern of a core with its poison (R121, R125).
-/
namespace Sys2Proof.Machine

/-! ## Physical memory -/

/-- The local package number's alias names this package's HBM4 (R117). -/
def normPa (s : State) (pa : Nat) : Nat :=
  if pa / 2 ^ 44 % 16 = 1 ∧ pa / 2 ^ 40 % 16 = pkgNum s then pa % 2 ^ 40 else pa

/-- Whether a physical address lies in HBM4 of this package. (DESIGN CHOICE, log 35) -/
def isLocalHbm (pa : Nat) : Bool := pa / 2 ^ 44 % 16 == 0
/-- Whether a physical address lies in host memory (R117). -/
def isHostMem (pa : Nat) : Bool := decide (8 ≤ pa / 2 ^ 44 % 16)
/-- The stack of a local physical address (R117). -/
def stackOf (pa : Nat) : Nat := pa / 2 ^ 36 % 16
/-- The 256-byte block of an address. -/
def blockOf (pa : Nat) : Nat := pa / 256

/-- The slice that a stack belongs to (R237, R319). -/
def stackSlice (s : State) (stack : Nat) : Nat := ((s.slices.find? fun e => e.2.stackMask.getLsbD stack).map Prod.fst).getD 0

/-- Whether a block's channel has failed (R307). (DESIGN CHOICE, log 51) -/
def channelFailed (s : State) (pa : Nat) : Bool :=
  isLocalHbm pa && (match tget s.stackUnits (stackOf pa) with
    | some st => st.failed.any fun ch => decide (ch = Config.channelOf (blockOf pa))
    | none => false)

/-- Whether a structure of a core is under self-test, so that its users wait (R305). -/
def underTest (s : State) (struct core : Nat) : Bool :=
  s.tests.any fun t => t.started && decide (t.e.struct = struct) && decide (t.e.core = core)

/-- Whether the channel of an address is paused for a lane repair or under self-test, so that its requests wait (R137, R305, R308). -/
def channelPaused (s : State) (pa : Nat) : Bool :=
  isLocalHbm pa && ((match tget s.stackUnits (stackOf pa) with
      | some st => st.paused.any fun e => decide (e.1 = Config.channelOf (blockOf pa))
      | none => false) ||
    s.tests.any fun t => t.started && decide (t.e.struct = 9) && decide (t.e.stack = stackOf pa) &&
      decide (Config.channelOf (blockOf t.e.addr) = Config.channelOf (blockOf pa)))

/-- Whether a read of `n` bytes at `pa` returns poison (R136, R137, R307, R489). -/
def memPoisoned (s : State) (pa n : Nat) : Bool :=
  channelFailed s pa || (s.damaged.any fun t => decide (t * 64 < pa + n ∧ pa < t * 64 + 64)) || (List.range ((pa % 256 + n + 255) / 256)).any fun i =>
    s.memPoison.contains (blockOf pa + i) || decide (5 ≤ (tgetD s.blockState (blockOf pa + i) 0).toNat)

/-- Bytes of physical memory and the code of their poison, 9 (R303), or 0. -/
def memRead (s : State) (pa n : Nat) : List Byte × Nat :=
  let pa := normPa s pa
  (Memory.reads s.mem pa n, if memPoisoned s pa n then 9 else 0)

/-! ## Codings -/

/-- Whether every word lies within a signed delta of `bits` bits of the first, modulo 2^width (R127). -/
def fitsDelta (width bits : Nat) (ws : List Nat) : Bool :=
  match ws with
  | [] => true
  | b :: _ => ws.all fun w => decide ((w + 2 ^ width - b + 2 ^ (bits - 1)) % 2 ^ width < 2 ^ bits)

/-- The first coding of least sectors that represents a piece exactly (R127). -/
def codingOf (data : List Byte) : BitVec 3 :=
  if data.all (· = 0) then 0b001
  else if fitsDelta 64 8 ((dwordsOf data).map BitVec.toNat) then 0b010
  else if fitsDelta 32 8 ((wordsOf data).map BitVec.toNat) then 0b011
  else if fitsDelta 32 16 ((wordsOf data).map BitVec.toNat) then 0b100
  else 0b000

/-- Sectors of a coding (R127). -/
def sectorsOf (c : BitVec 3) : Nat :=
  match c.toNat with
  | 1 => 0 | 2 => 1 | 3 => 2 | 4 => 3 | _ => 4

/-- The state of a 256-byte block from its pieces' codings (R136). -/
def blockStateOf (data : List Byte) : BitVec 4 :=
  let n := (List.range 4).foldl (fun a i => a + sectorsOf (codingOf ((data.drop (64 * i)).take 64))) 0
  if n = 0 then 1 else if n ≤ 4 then 2 else if n ≤ 8 then 3 else if n ≤ 12 then 4 else 0

/-! ## Writing memory -/

/-- The state a block takes after a write (R136, R137): 0xF while it is poisoned; with `code` the least state that holds it; a partial write to a
coded block codes it again. -/
def blockAfter (s : State) (b : Nat) (whole code : Bool) : Nat :=
  let st := (tgetD s.blockState b 0).toNat
  if s.memPoison.contains b then 0xF
  else if (whole && code) || (! whole && decide (1 ≤ st ∧ st ≤ 4)) then (blockStateOf (Memory.reads s.mem (b * 256) 256)).toNat
  else if ! whole && decide (5 ≤ st ∧ st < 15) then st
  else 0

/-- Writes bytes within one 256-byte block of this package or of any other memory: a poisoned write marks the block 0xF, a whole block of good
data clears it, a partial write keeps it (R136, R137); a write to a failed channel is dropped and logged (R307); a transfer written whole is good
again (R489), and the poison that good data takes the place of is logged (R304; DEDUCED, log 24); none is accepted while a checkpoint has memory open (R323). -/
def memWriteBlock (s : State) (pa : Nat) (bytes : List Byte) (poison : Nat) (bcmp : Bool) : State :=
  if s.ckpt.getLsbD 1 ∧ isLocalHbm pa then s
  else if channelFailed s pa then logError s 0x03 0x09 (stackRouter (stackOf pa)) 0xFFFF (stackOf pa) (stackSlice s (stackOf pa)) (BitVec.ofNat 64 pa)
  else
    let b := blockOf pa
    let whole := decide (bytes.length = 256)
    let mp := if poison ≠ 0 then (if s.memPoison.contains b then s.memPoison else s.memPoison ++ [b])
      else if whole then s.memPoison.filter (· ≠ b) else s.memPoison
    let gone := s.damaged.filter fun t => decide (pa ≤ t * 64 ∧ t * 64 + 64 ≤ pa + bytes.length)
    let s := if poison ≠ 0 then s else gone.foldl (fun s t => logError s 0x03 0x09 (stackRouter (stackOf pa)) 0xFFFF (stackOf pa) (stackSlice s (stackOf pa)) (BitVec.ofNat 64 (t * 64))) s
    let s := { s with mem := Memory.writes s.mem pa bytes, memPoison := mp, damaged := s.damaged.filter fun t => ! gone.contains t }
    let st := blockAfter s b whole bcmp
    { s with blockState := if st = 0 then tdel s.blockState b else tput s.blockState b (BitVec.ofNat 4 st) }

/-- `memWrite` block by block. -/
def memWriteFrom (poison : Nat) (bcmp : Bool) : Nat → State → Nat → List Byte → State
  | 0, s, _, _ => s
  | fuel + 1, s, pa, bytes =>
    if bytes.isEmpty then s
    else
      let k := min bytes.length (256 - pa % 256)
      memWriteFrom poison bcmp fuel (memWriteBlock s pa (bytes.take k) poison bcmp) (pa + k) (bytes.drop k)

/-- Writes bytes to physical memory; `bcmp` says that the page allows compression (R136). -/
def memWrite (s : State) (pa : Nat) (bytes : List Byte) (poison : Nat) (bcmp : Bool) : State :=
  memWriteFrom poison bcmp (bytes.length / 256 + 2) s (normPa s pa) bytes

/-! ## The L2 slice of a home -/

/-- The set of a granule (R126). -/
def l2Set (g : Nat) : Nat := (g % 64) ^^^ (g / 64 % 64) ^^^ (g / 4096 % 64)

/-- The tag of a granule at a home. -/
def l2Tag (k : Core) (g : Nat) : Option Granule := k.l2.find? fun e => e.g = g

/-- A present piece: `pc` is PA div 64. -/
def l2Piece (k : Core) (pc : Nat) : Option Piece := (l2Tag k (pc / 32)).bind fun e => tget e.pieces (pc % 32)

/-- Whether a granule's tag keeps the pin bit of an absent piece (R129). (DESIGN CHOICE, log 69) -/
def keptPin (k : Core) (pc : Nat) : Bool :=
  match l2Tag k (pc / 32) with
  | some e => e.kept.contains (pc % 32)
  | none => false

/-- Sectors a tag uses; a pin bit that stands without its piece keeps its four. -/
def tagSectors (e : Granule) : Nat := e.pieces.foldl (fun a p => a + sectorsOf p.2.coding) 0 + 4 * e.kept.length

/-- Sectors a piece takes now. -/
def pieceSectors (k : Core) (pc : Nat) : Nat :=
  match l2Piece k pc with
  | some p => sectorsOf p.coding
  | none => if keptPin k pc then 4 else 0

/-- The tags of a set, most recently used first. -/
def setTags (k : Core) (st : Nat) : List Granule := k.l2.filter fun e => l2Set e.g = st

/-- Sectors in use in a set. -/
def setSectors (k : Core) (st : Nat) : Nat := (setTags k st).foldl (fun a e => a + tagSectors e) 0

/-- Whether a tag holds a pinned piece. -/
def tagPinned (e : Granule) : Bool := ! e.kept.isEmpty || e.pieces.any fun p => p.2.pin

/-- Logs an error of a piece at a home under its structure code (R237, R303, R304): the slice's core and slice, or a memory controller and its stack. -/
def logPiece (s : State) (ekind struct home pa : Nat) : State :=
  let sl := (getCore s home).slice.getD 0
  if struct = 9 then logError s ekind 9 home 0xFFFF (stackOf pa) sl (BitVec.ofNat 64 pa)
  else logError s ekind struct home home 0xFFFF sl (BitVec.ofNat 64 pa)

/-- A poisoned piece leaves its slice: logged as not consumed when it is written back, or dropped unread (R304). -/
def notePoison (s : State) (home pa : Nat) (p : Piece) : State :=
  if p.poison ≠ 0 ∧ (p.dirty ∨ ! p.seen) then logPiece s 0x03 p.poison home pa else s

/-- Writes back the dirty ones of some pieces of a tag; four dirty pieces of one block are written as a whole block (R136, R137). -/
def writeBackPieces (s : State) (e : Granule) (is : List Nat) : State :=
  let dirty := is.filter fun i => match tget e.pieces i with | some p => p.dirty | none => false
  let piece := fun (i : Nat) => tget e.pieces i
  let write := fun (s : State) (i n psn : Nat) =>
    memWrite s (e.g * 2048 + i * 64) ((List.range n).flatMap fun j => match piece (i + j) with | some p => p.data | none => []) psn e.bcmp
  (List.range 8).foldl (fun s q =>
    let mine := dirty.filter fun i => i / 4 = q
    let psn := mine.foldl (fun a i => match piece i with | some p => orPoison a p.poison | none => a) 0
    if mine.length = 4 then write s (4 * q) 4 psn
    else (sortNat mine).foldl (fun s i => write s i 1 (match piece i with | some p => p.poison | none => 0)) s) s

/-- Some pieces of a tag leave the slice: dirty ones are written back, poison is accounted for (R304). -/
def releasePieces (s : State) (home : Nat) (e : Granule) (is : List Nat) : State :=
  writeBackPieces (is.foldl (fun s i => match tget e.pieces i with
    | some p => notePoison s home (e.g * 2048 + i * 64) p
    | none => s) s) e is

/-- Writes back the dirty pieces of a tag that leaves the slice. -/
def writeBackTag (s : State) (home : Nat) (e : Granule) : State := releasePieces s home e (e.pieces.map Prod.fst)

/-- Pieces of a tag leave the slice: a core that a promotion tag names must be promoted before its piece comes back (R193). -/
def owePromos (k : Core) (e : Granule) (is : List Nat) : Core :=
  { k with promoOwed := k.promoOwed ++ is.filterMap fun i => (tget e.pieces i).bind fun p =>
      if p.promo = 0x3FF then none else some (e.g * 32 + i, p.promo.toNat) }

/-- Writes back and removes the whole tag of a granule. -/
def evictTag (s : State) (home : Nat) (e : Granule) : State :=
  modCore (writeBackTag s home e) home fun k => { owePromos k e (e.pieces.map Prod.fst) with l2 := k.l2.filter fun x => x.g ≠ e.g }

/-- A tag parity error (R131): every piece whose sectors pass their code is written back, the others poison their block in memory, and the tag is dropped. -/
def dropBadTag (s : State) (home : Nat) (e : Granule) : State :=
  evictTag s home { e with pieces := e.pieces.map fun p => (p.1, { p.2 with dirty := true }) }

/-- Writes back and removes the unpinned pieces of a pinned tag. -/
def evictUnpinned (s : State) (home : Nat) (e : Granule) : State :=
  let out := { e with pieces := e.pieces.filter fun p => ! p.2.pin }
  modCore (writeBackTag s home out) home fun k => { owePromos k out (out.pieces.map Prod.fst) with
    l2 := k.l2.map fun x => if x.g = e.g then { x with pieces := x.pieces.filter fun p => p.2.pin } else x }

/-- Finds a tag for the granule of piece `pc` and room for it at `want` sectors, in the order of R128, the accessed granule's own pieces last in their
turn; none when only pinned pieces are in the way. -/
def l2Room : Nat → State → Nat → Nat → Nat → Option State
  | 0, _, _, _, _ => none
  | fuel + 1, s, home, pc, want =>
    let k := getCore s home
    let g := pc / 32
    let st := l2Set g
    let tags := setTags k st
    let hasTag := tags.any fun e => e.g = g
    let need := if keptPin k pc then 4 else want
    if (hasTag ∨ tags.length < 16) ∧ setSectors k st - pieceSectors k pc + need ≤ 1024 then some s
    else
      let loose := tags.filter fun e => ! tagPinned e
      match (loose.filter fun e => decide (e.g ≠ g)).getLast?.or loose.getLast? with
      | some e => l2Room fuel (evictTag s home e) home pc want
      | none =>
        if ¬ (hasTag ∨ tags.length < 16) then none
        else
          match (tags.filter fun e => tagPinned e && (e.pieces.any fun p => ! p.2.pin && decide (sectorsOf p.2.coding ≠ 0))).getLast? with
          | some e => l2Room fuel (evictUnpinned s home e) home pc want
          | none => none

/-- Makes the granule of a piece the most recently used. -/
def l2Touch (s : State) (home g : Nat) : State :=
  modCore s home fun k => { k with l2 := k.l2.filter (fun e => e.g = g) ++ k.l2.filter fun e => e.g ≠ g }

/-- Stores a piece under its granule's tag, allocating the tag if absent; a pin bit that stood makes it a pinned piece, stored RAW (R129). -/
def l2Put (s : State) (home pc : Nat) (bcmp : Bool) (p : Piece) : State :=
  let g := pc / 32
  modCore s home fun k => { k with
    l2 := match l2Tag k g with
      | some e =>
        let p := if e.kept.contains (pc % 32) then { p with pin := true, coding := 0 } else p
        { e with bcmp := bcmp, pieces := tput e.pieces (pc % 32) p, kept := e.kept.filter fun i => i ≠ pc % 32 } :: k.l2.filter fun x => x.g ≠ g
      | none => { g := g, bcmp := bcmp, pieces := [(pc % 32, p)], kept := [] } :: k.l2 }

/-- Counts a fill or a write that is stored in a coding other than RAW (R286). (DEDUCED, log 67) -/
def countCoding (s : State) (home : Nat) (c : BitVec 3) : State := if c = 0 then s else bump s home 0x014 1

/-- Removes a piece, and its granule's tag with the last piece; with `keep` its pin bit stands on (R129). (DESIGN CHOICE, log 69) -/
def l2Remove (s : State) (home pc : Nat) (keep : Bool) : State :=
  modCore s home fun k => { (match l2Tag k (pc / 32) with | some e => owePromos k e [pc % 32] | none => k) with
    l2 := (k.l2.map fun e =>
      if e.g = pc / 32 then
        let i := pc % 32
        let pinned := (match tget e.pieces i with | some p => p.pin | none => false) || e.kept.contains i
        { e with pieces := tdel e.pieces i, kept := e.kept.filter (fun j => j ≠ i) ++ (if keep && pinned then [i] else []) }
      else e).filter fun e => ! (e.pieces.isEmpty && e.kept.isEmpty) }

/-- Removes a piece with its pin bit. -/
def l2Drop (s : State) (home pc : Nat) : State := l2Remove s home pc false

/-- Brings a piece in from memory, with evictions as needed; nothing changes but the bypass counter when no room can be made (R128). -/
def l2Fill (s : State) (home pc : Nat) (bcmp : Bool) : State :=
  match l2Piece (getCore s home) pc with
  | some _ => l2Touch s home (pc / 32)
  | none =>
    let c := codingOf (memRead s (pc * 64) 64).1
    match l2Room 64 s home pc (sectorsOf c) with
    | some s =>
      let (data, poison) := memRead s (pc * 64) 64
      countCoding (l2Put s home pc bcmp { data := data, dirty := false, poison := poison, seen := false, pin := false, coding := c, promo := 0x3FF }) home c
    | none => bump s home 0x00C 1

/-- Whether a fetch of a piece could be allocated (R128). -/
def l2CanFill (s : State) (home pc : Nat) : Bool :=
  (l2Room 64 s home pc (sectorsOf (codingOf (memRead s (pc * 64) 64).1))).isSome

/-- Whether bringing a piece in, or letting it grow, would write back a dirty piece whose channel is paused (R308). -/
def evictPaused (s : State) (home pc : Nat) : Bool :=
  match l2Room 64 s home pc 4 with
  | some t => ((setTags (getCore s home) (l2Set (pc / 32))).flatMap fun e => (e.pieces.filter fun p => p.2.dirty).map fun p => e.g * 32 + p.1).any fun q =>
      channelPaused s (q * 64) && (l2Piece (getCore t home) q).isNone
  | none => false

/-- Up to 64 bytes within one piece as the home reads them, and the code of their poison: the present piece, or memory on a bypass (R128). -/
def homeRead (s : State) (home pa n : Nat) : List Byte × Nat :=
  match l2Piece (getCore s home) (pa / 64) with
  | some p => ((p.data.drop (pa % 64)).take n, p.poison)
  | none => memRead s pa n

/-- The poison of a present piece has been read (R304). -/
def markSeen (s : State) (home pa : Nat) : State :=
  modCore s home fun k => { k with l2 := k.l2.map fun e =>
    if e.g = pa / 2048 then { e with pieces := e.pieces.map fun p => if p.1 = pa / 64 % 32 then (p.1, { p.2 with seen := p.2.seen || decide (p.2.poison ≠ 0) }) else p } else e }

/-- Replaces bytes of a list from an offset. -/
def spliceBytes (data : List Byte) (off : Nat) (bytes : List Byte) : List Byte :=
  data.take off ++ bytes ++ data.drop (off + bytes.length)

/-- A place in a moved page, at its new address. -/
def movePa (m : Migration) (pa : Nat) : Nat := if m.oldPa ≤ pa ∧ pa < m.oldPa + m.bytes then pa - m.oldPa + m.newPa else pa

/-- A location in a moved page. -/
def moveLoc (m : Migration) : Loc → Loc
  | .phys pa => .phys (movePa m pa)
  | .cist c o => .cist c o

/-- A location by the address it has now: a page whose entry has been switched is known by its new place (R202). -/
def placeNow (s : State) (l : Loc) : Loc :=
  s.slices.foldl (fun l e => match e.2.migration with | some m => if m.switched then moveLoc m l else l | none => l) l

/-- A write at a home marks its piece in the dirty filter of a page under migration (R141). -/
def noteMigration (s : State) (pa : Nat) : State :=
  { s with slices := s.slices.map fun e =>
      match e.2.migration with
      | some m =>
        if m.oldPa ≤ pa ∧ pa < m.oldPa + m.bytes ∧ ¬ m.switched then
          (e.1, { e.2 with migration := some { m with dirty := if m.dirty.contains (pa / 64) then m.dirty else m.dirty ++ [pa / 64] } })
        else e
      | none => e }

/-- Stores bytes within one piece at its home (R128, R130): `wt` writes through and leaves a clean copy clean; a piece that cannot be
held is written at the memory controller with a byte mask, and the bypass counter counts it. (DESIGN CHOICE, log 70) -/
def homeWrite (s : State) (home pa : Nat) (bytes : List Byte) (wt bcmp : Bool) (poison : Nat) : State :=
  let pc := pa / 64
  let s := noteMigration s pa
  let whole := decide (bytes.length = 64)
  let s := if (l2Piece (getCore s home) pc).isSome ∨ whole then s else l2Fill s home pc bcmp
  let old := l2Piece (getCore s home) pc
  match old, whole with
  | none, false => memWrite s pa bytes poison bcmp
  | _, _ =>
    let base : Piece := old.getD { data := List.replicate 64 0, dirty := false, poison := 0, seen := false, pin := false, coding := 0b001, promo := 0x3FF }
    let data := spliceBytes base.data (pa % 64) bytes
    let s := if whole ∧ base.poison ≠ 0 ∧ ¬ base.seen then logPiece s 0x03 base.poison home (pc * 64) else s
    let psn := if whole then poison else orPoison base.poison poison
    let c := if base.pin then 0 else codingOf data
    match (if old.isSome ∧ sectorsOf c ≤ sectorsOf base.coding then some s else l2Room 64 s home pc (sectorsOf c)) with
    | some s1 =>
      let s2 := countCoding (l2Put s1 home pc bcmp { base with data := data, dirty := ! wt || base.dirty, poison := psn, seen := base.seen && decide (psn = base.poison), coding := c }) home c
      if wt then memWrite s2 pa bytes poison bcmp else s2
    | none =>
      let s := bump (l2Drop s home pc) home 0x00C 1
      let s := if ¬ whole ∧ base.poison ≠ 0 then logPiece s 0x03 base.poison home (pc * 64) else s
      if old.isSome then memWrite s (pc * 64) data psn bcmp else memWrite s pa bytes poison bcmp

/-- Bytes of any range homed at one core, piece by piece. -/
def homeReadMany (s : State) (home : Nat) : Nat → Nat → Nat → List Byte × Nat
  | 0, _, _ => ([], 0)
  | fuel + 1, pa, n =>
    if n = 0 then ([], 0)
    else
      let k := min n (64 - pa % 64)
      let (b, p) := homeRead s home pa k
      let (b', p') := homeReadMany s home fuel (pa + k) (n - k)
      (b ++ b', orPoison p p')

/-- Writes bytes of any range homed at one core, piece by piece. -/
def homeWriteMany (wt bcmp : Bool) (poison home : Nat) : Nat → State → Nat → List Byte → State
  | 0, s, _, _ => s
  | fuel + 1, s, pa, bytes =>
    if bytes.isEmpty then s
    else
      let k := min bytes.length (64 - pa % 64)
      homeWriteMany wt bcmp poison home fuel (homeWrite s home pa (bytes.take k) wt bcmp poison) (pa + k) (bytes.drop k)

/-- The pieces of a list that stand in one granule at a home, with its tag. -/
def presentIn (s : State) (home g : Nat) (pcs : List Nat) : Option (Granule × List Nat) :=
  (l2Tag (getCore s home) g).map fun e => (e, (pcs.filter fun pc => decide (pc / 32 = g) && (tget e.pieces (pc % 32)).isSome).map (· % 32))

/-- FLUSH of pieces: written back and kept (R130). -/
def l2Flush (s : State) (home : Nat) (pcs : List Nat) : State :=
  (sortDedup (pcs.map (· / 32))).foldl (fun s g =>
    match presentIn s home g pcs with
    | some (e, is) =>
      let s := is.foldl (fun s i => match tget e.pieces i with
        | some p => if p.dirty ∧ p.poison ≠ 0 then logPiece s 0x03 p.poison home (g * 2048 + i * 64) else s
        | none => s) s
      modCore (writeBackPieces s e is) home fun k => { k with
        l2 := k.l2.map fun x => if x.g = g then { x with pieces := x.pieces.map fun p => if is.contains p.1 then (p.1, { p.2 with dirty := false, seen := p.2.seen || p.2.dirty }) else p } else x }
    | none => s) s

/-- INVL of pieces: written back if dirty, then dropped (R129, R130); a pinned one stays present (R432). (DESIGN CHOICE, log 69) -/
def l2Invalidate (s : State) (home : Nat) (pcs : List Nat) : State :=
  (sortDedup (pcs.map (· / 32))).foldl (fun s g =>
    match presentIn s home g pcs with
    | some (e, is) =>
      let pinned := fun (i : Nat) => match tget e.pieces i with | some p => p.pin | none => false
      let s := l2Flush s home ((is.filter pinned).map (g * 32 + ·))
      let out := is.filter fun i => ! pinned i
      out.foldl (fun s i => l2Remove s home (g * 32 + i) true) (releasePieces s home e out)
    | none => s) s

/-- Pins a piece: fetched if absent and stored RAW (R129); the caller has checked the limits. (DEDUCED, log 67) -/
def l2Pin (s : State) (home pc : Nat) (bcmp : Bool) : State :=
  match l2Room 64 s home pc 4 with
  | some s =>
    match l2Piece (getCore s home) pc with
    | some p => l2Put s home pc bcmp { p with pin := true, coding := 0 }
    | none =>
      let (data, poison) := memRead s (pc * 64) 64
      l2Put s home pc bcmp { data := data, dirty := false, poison := poison, seen := false, pin := true, coding := 0, promo := 0x3FF }
  | none => s

/-- Unpins a piece, which becomes an ordinary one (R129): it is coded when it is next filled or written (R127). (DEDUCED, log 67) -/
def l2Unpin (s : State) (home pc : Nat) : State :=
  modCore s home fun k => { k with
    l2 := (k.l2.map fun e =>
      if e.g = pc / 32 then
        { e with pieces := e.pieces.map (fun p => if p.1 = pc % 32 then (p.1, { p.2 with pin := false }) else p), kept := e.kept.filter fun i => i ≠ pc % 32 }
      else e).filter fun e => ! (e.pieces.isEmpty && e.kept.isEmpty) }

/-- Whether PIN of the piece numbers `pcs`, all of granule `g`, is refused (R129). -/
def pinRefused (s : State) (home g : Nat) (pcs : List Nat) : Bool :=
  let k := getCore s home
  let tags := setTags k (l2Set g)
  let pinnedTags := tags.filter tagPinned
  let cap := (tgetD k.ctl 0x302 (ctlInit 0x302)).toNat % 32
  let count := pinnedTags.foldl (fun a e => a + (e.pieces.filter fun p => p.2.pin).length + e.kept.length) 0
  let new := (pcs.filter fun pc => match l2Piece k pc with | some p => ! p.pin | none => ! keptPin k pc).length
  (decide (min cap 16 ≤ pinnedTags.length) && ! (pinnedTags.any fun e => e.g = g)) || decide (256 < count + new)

/-- Data sectors in use, the gauge L2SECT (R286). -/
def l2Sectors (k : Core) : Nat := k.l2.foldl (fun a e => a + tagSectors e) 0

/-- Writes back every dirty piece and clears every tag and pin of a slice (R132). -/
def l2WriteBackAll (s : State) (home : Nat) : State :=
  modCore ((getCore s home).l2.foldl (fun s e => writeBackTag s home e) s) home fun k => { k with l2 := [], homeWait := [], promoOwed := [] }

/-! ## Cisterns -/

/-- Bytes of a cistern, with the code of the poison of their 8-byte words, 1 (R303), or 0 (R121, R125). -/
def cistRead (s : State) (core off n : Nat) : List Byte × Nat :=
  let k := getCore s core
  (Memory.reads k.cistern off n, if (List.range ((off % 8 + n + 7) / 8)).any fun i => k.cistPoison.contains (off / 8 + i) then 1 else 0)

/-- The poison of the cistern words of a range has been read (R304). -/
def cistSeen (s : State) (core off n : Nat) : State :=
  let ws := ((List.range ((off % 8 + n + 7) / 8)).map (off / 8 + ·)).filter fun w => (getCore s core).cistPoison.contains w && ! (getCore s core).cistSeen.contains w
  if ws.isEmpty then s else modCore s core fun k => { k with cistSeen := k.cistSeen ++ ws }

/-- Poisoned words of a cistern that are overwritten or zeroed unread are logged (R304), and are poisoned no more. -/
def cistClear (s : State) (core : Nat) (p : Nat → Bool) : State :=
  let k := getCore s core
  let s := (k.cistPoison.filter fun w => p w && ! k.cistSeen.contains w).foldl (fun s w =>
    logError s 0x03 0x01 core core 0xFFFF (k.slice.getD 0) (BitVec.ofNat 64 (8 * w))) s
  if k.cistPoison.any p then
    modCore s core fun k => { k with cistPoison := k.cistPoison.filter fun w => ! p w, cistSeen := k.cistSeen.filter fun w => ! p w }
  else s

/-- The teams of a core note the 64 KiB banks that are written (R125, R310). -/
def noteBanks (s : State) (core off n : Nat) : State :=
  let new := (List.range ((off % 65536 + n + 65535) / 65536)).map fun i => off / 65536 + i
  { s with teams := s.teams.map fun e =>
      if e.1.1 = core ∧ ! new.all e.2.banks.contains then (e.1, { e.2 with banks := e.2.banks ++ new.filter fun b => ! e.2.banks.contains b }) else e }

/-- Stores bytes in a cistern: a whole word of good data clears its poison, a partial store keeps it (R125). -/
def cistWrite (s : State) (core off : Nat) (bytes : List Byte) (poison : Nat) : State :=
  let s := cistClear (noteBanks s core off bytes.length) core fun w => decide ((off + 7) / 8 ≤ w ∧ w < (off + bytes.length) / 8)
  modCore s core fun k =>
    let ws := ((List.range (bytes.length / 8 + 2)).map (off / 8 + ·)).filter fun w => decide (w * 8 < off + bytes.length ∧ off < w * 8 + 8)
    { k with
      cistern := Memory.writes k.cistern off bytes
      cistPoison := if poison ≠ 0 then k.cistPoison ++ ws.filter fun w => ! k.cistPoison.contains w else k.cistPoison }

end Sys2Proof.Machine
end

