-- ==== Sys2Proof/Machine/Translate.lean ====
section
/-!
DEFINITION. Addresses (R113-R120, R256-R263, R336, R391): windows, extents, the TLB and the page walk, homes, and the checks of an
access in the order of R290.
-/
namespace Sys2Proof.Machine

/-- What an access may do. -/
inductive Right where
  | rd | wr | rmw
  deriving DecidableEq, Repr

/-- Where a checked access goes. -/
structure Target where
  loc : Loc
  home : Nat
  pkg : Nat
  wt : Bool
  bcmp : Bool
  mig : Bool
  deriving DecidableEq, Repr

/-- The outcome of checking and translating an access: where it goes, a page fault or home-retired fault to post (FKIND of R296),
or the trap class and detail. -/
inductive Tr where
  | ok (t : Target)
  | page (fkind : Nat)
  | trap (cls detail : Nat)
  deriving DecidableEq, Repr

/-- Bytes of physical memory as their home holds them, wherever that is: a present piece of any L2 slice, else memory. (DESIGN CHOICE, log 19) -/
def coherentRead (s : State) (pa n : Nat) : List Byte :=
  let pa := normPa s pa
  match s.cores.find? fun e => (l2Piece e.2 (pa / 64)).isSome with
  | some e => (homeRead s e.1 pa n).1
  | none => Memory.reads s.mem pa n

/-- Writes bytes within one piece through to memory, and into the copy of the home that holds the piece. (DESIGN CHOICE, log 19) -/
def coherentWrite (s : State) (pa : Nat) (bytes : List Byte) : State :=
  let pa := normPa s pa
  match s.cores.find? fun e => (l2Piece e.2 (pa / 64)).isSome with
  | some e => homeWrite s e.1 pa bytes true (match l2Tag e.2 (pa / 2048) with | some g => g.bcmp | none => false) 0
  | none => memWrite s pa bytes 0 false

/-- The four-level walk (R256-R258): the leaf and its address, or the failure. -/
inductive Walk where
  | leaf (entry : Nat) (big : Bool) (entryPa : Nat)
  | absent
  | bad
  deriving DecidableEq, Repr

/-- One level of the walk. -/
def walkFrom (s : State) (va : Nat) : Nat → Nat → Nat → Walk
  | 0, _, _ => .bad
  | fuel + 1, level, table =>
    let index := match level with
      | 1 => fld va 47 39 | 2 => fld va 38 30 | 3 => fld va 29 21 | _ => fld va 20 16
    let pa := table + 8 * index
    let e := leNat (coherentRead s pa 8)
    if fld e 63 63 = 0 then .absent
    else if fld e 62 62 = 1 then
      if level ≤ 2 then .bad
      else if fld e 54 48 ≠ 0 ∨ fld e 5 0 ≠ 0 ∨ (level = 3 ∧ fld e 20 16 ≠ 0) then .bad
      else .leaf e (level == 3) pa
    else
      if level = 4 then .bad
      else if fld e 61 48 ≠ 0 ∨ fld e 7 0 ≠ 0 ∨ (level ≤ 2 ∧ fld e 11 8 ≠ 0) then .bad
      else walkFrom s va fuel (level + 1) (fld e 47 8 * 256)

/-- The walk of a virtual address of a slice, from a core's copy of CTL.PTBASE. -/
def walk (s : State) (core slice : Nat) (va : Nat) : Walk :=
  walkFrom s va 4 1 (sliceCtl s core slice 0x102).toNat

/-- The page number of an address. -/
def vpnOf (big : Bool) (va : Nat) : Nat := if big then va / 2 ^ 21 else va / 2 ^ 16

/-- The TLB entry of a leaf, with the copy of its home-group descriptor (R259, R260). -/
def tlbOfLeaf (s : State) (core slice va entry : Nat) (big : Bool) : TlbEntry :=
  let hm := fld entry 58 58 = 1
  let home := fld entry 15 6
  let d := coherentRead s ((sliceCtl s core slice 0x102).toNat + 0x1000 + 16 * (home % 64)) 16
  let w := leNat ((d.drop 8).take 2)
  { slice := slice, big := big, vpn := vpnOf big va, pfn := fld entry 47 16, rd := fld entry 61 61 = 1, wr := fld entry 60 60 = 1,
    usr := fld entry 59 59 = 1, hm := hm, wt := fld entry 57 57 = 1, bcmp := fld entry 56 56 = 1, mig := fld entry 55 55 = 1,
    home := home, w := w % 1024, mask := BitVec.ofNat 64 (leNat (d.take 8)),
    groupOk := decide (w / 1024 = 0) && (d.drop 10).all (· = 0) }

/-- The TLB entry that holds an address. -/
def tlbFind (k : Core) (slice va : Nat) : Option TlbEntry :=
  k.tlb.find? fun e => e.slice = slice ∧ e.vpn = vpnOf e.big va

/-- Fills the TLB, least recently used entry out (R260). -/
def tlbFill (s : State) (core : Nat) (e : TlbEntry) : State :=
  modCore s core fun k => { k with tlb := (e :: k.tlb.filter fun x => ! (x.slice == e.slice && x.big == e.big && x.vpn == e.vpn)).take 256 }

/-- A TLB hit makes the entry the most recently used; a miss starts a walk, which TLB_WALK_COMPLETE ends (R116, R260). -/
def tlbNote (s : State) (core slice va : Nat) : State :=
  match tlbFind (getCore s core) slice va with
  | some e => tlbFill s core e
  | none => modCore s core fun k => { k with walks := if k.walks.any (fun w => w.1 = slice ∧ w.2.toNat / 2 ^ 16 = va / 2 ^ 16) then k.walks else k.walks ++ [(slice, BitVec.ofNat 64 va)] }

/-- The page of an address: from the TLB, else by walking; the physical checks of R117 and R319 are those of the walk. -/
def pageOf (s : State) (core slice va : Nat) : Except Tr TlbEntry :=
  match tlbFind (getCore s core) slice va with
  | some e => .ok e
  | none =>
    match walk s core slice va with
    | .absent => .error (.page 1)
    | .bad => .error (.trap 4 0x0C)
    | .leaf entry big _ =>
      let pa := fld entry 47 16 * 2 ^ 16
      let top := pa / 2 ^ 44 % 16
      if (2 ≤ top ∧ top ≤ 7) ∨ (top = 0 ∧ pa / 2 ^ 40 % 16 ≠ 0) ∨
          (isLocalHbm (normPa s pa) ∧ ¬ (getSlice s slice).stackMask.getLsbD (stackOf (normPa s pa))) then .error (.trap 4 0x05)
      else .ok (tlbOfLeaf s core slice va entry big)

/-- The set bit of rank `r` of a mask, from bit `i` upward. -/
def rankBit (m : Nat) : Nat → Nat → Nat → Option Nat
  | 0, _, _ => none
  | fuel + 1, i, r => if m / 2 ^ i % 2 = 1 then (if r = 0 then some i else rankBit m fuel (i + 1) (r - 1)) else rankBit m fuel (i + 1) r

/-- Number of one bits. -/
def popNat (m : Nat) : Nat → Nat
  | 0 => 0
  | k + 1 => m / 2 ^ k % 2 + popNat m k

/-- The home of a physical address by home mode, home field or group descriptor (R119); none where no valid home is named. -/
def homeOf (s : State) (slice pa : Nat) (hm : Bool) (home w : Nat) (mask : DWord) (groupOk : Bool) : Option Nat :=
  let mine := fun c => decide (c < 576) && (getCore s c).slice == some slice
  if hm then
    let m := mask.toNat
    let ok := groupOk && decide (m ≠ 0) && (List.range 64).all fun j => decide (m / 2 ^ j % 2 = 0) || mine (w + j)
    if ok then
      let g := pa / 2048
      let h := (g % 2 ^ 13) ^^^ (g / 2 ^ 13 % 2 ^ 13) ^^^ (g / 2 ^ 26 % 2 ^ 11)
      (rankBit m 64 0 (h % popNat m 64)).map (w + ·)
    else none
  else if mine home then some home else none

/-- The old homes of a page whose move has switched forward to its new place until every shoot-down is acknowledged (R141, R144). -/
def migForward (s : State) (pa : Nat) : Nat :=
  match s.slices.findSome? fun e => e.2.migration.filter fun m => m.switched && decide (m.oldPa ≤ pa) && decide (pa < m.oldPa + m.bytes) with
  | some m => pa - m.oldPa + m.newPa
  | none => pa

/-- The target of a physical address with its page's attributes. -/
def targetOf (s : State) (slice pa : Nat) (hm : Bool) (home w : Nat) (mask : DWord) (groupOk wt bcmp mig : Bool) : Tr :=
  let pa := migForward s (normPa s pa)
  match homeOf s slice pa hm home w mask groupOk with
  | none => .trap 4 0x04
  | some h =>
    if (getCore s h).l2Failed then .page 2
    else .ok { loc := .phys pa, home := h, pkg := if pa / 2 ^ 44 % 16 = 1 then pa / 2 ^ 40 % 16 else pkgNum s, wt := wt, bcmp := bcmp, mig := mig }

/-- Translation of a paged address with the page rights of R391. -/
def pagedTarget (s : State) (core slice prv va : Nat) (r : Right) (rights : Bool) : Tr :=
  match pageOf s core slice va with
  | .error e => e
  | .ok e =>
    let pa := if e.big then e.pfn / 32 * 2 ^ 21 + va % 2 ^ 21 else e.pfn * 2 ^ 16 + va % 2 ^ 16
    let ok : Bool := match r with
      | .rd => e.rd | .wr => e.wr | .rmw => e.rd && e.wr
    if rights ∧ (¬ ok ∨ (prv = 0 ∧ ¬ e.usr)) then .trap 4 0x06
    else if r = .rmw ∧ isHostMem pa then .trap 4 0x05
    else targetOf s slice pa e.hm e.home e.w e.mask e.groupOk e.wt e.bcmp e.mig

/-- A cistern offset of a core as an access may reach it (R114, R123, R397). -/
def cisternOk (core off size : Nat) : Bool :=
  decide (off + size ≤ cisternSize core) && (! isRay core || decide (off + size ≤ 0x3C0000))

/-- The target of a cistern offset. -/
def cisternTarget (s : State) (slice core off size : Nat) : Tr :=
  if core < 576 ∧ (getCore s core).slice = some slice ∧ cisternOk core off size then
    .ok { loc := .cist core off, home := core, pkg := pkgNum s, wt := false, bcmp := false, mig := false }
  else .trap 4 0x03

/-- Whether an address lies in a cistern window or the reserved region above paged memory (R114). -/
def inWindow (va : Nat) : Bool := decide (0xFFFF00000000 ≤ va)

/-- Checks and translates `size` bytes at a virtual address for a fibre of a core at privilege `prv` (R113-R116, R391). -/
def translate (s : State) (core slice prv : Nat) (va : DWord) (size : Nat) (r : Right) (aligned : Bool) : Tr :=
  let a := va.toNat
  if a / 2 ^ 48 ≠ 0 then .trap 4 0x01
  else if a < 0x10000 then .trap 3 0
  else if aligned ∧ size ≠ 0 ∧ a % size ≠ 0 then .trap 2 0
  else if a < 0xFFFF00000000 then pagedTarget s core slice prv a r true
  else if a < 0xFFFF90000000 then cisternTarget s slice ((a - 0xFFFF00000000) / 0x400000) (a % 0x400000) size
  else if a < 0xFFFFFFC00000 then .trap 4 0x0E
  else cisternTarget s slice core (a - 0xFFFFFFC00000) size

/-- The run of an extent that holds an offset, with its index (R263). -/
def runOf (x : Extent) (o : Nat) : Option (Nat × ExtRun) :=
  ((List.range x.runs.length).zip x.runs).foldl (fun b e => if e.2.off ≤ o ∧ (match b with | some c => decide (c.2.off ≤ e.2.off) | none => true) = true then some e else b) none

/-- Reads a checked target, which lies within one piece, or within a cistern. -/
def targetRead (s : State) (t : Target) (n : Nat) : List Byte × Nat :=
  match t.loc with
  | .phys pa => homeRead s t.home pa n
  | .cist core off => cistRead s core off n

/-- A run as the extent area holds it (R262). -/
def runOfBytes (b : List Byte) : ExtRun :=
  let v := leNat b
  { off := fld v 127 80, pfn := fld v 79 48, npg := fld v 47 16, home := fld v 15 6, hm := v.testBit 5, wt := v.testBit 4, bcmp := v.testBit 3, usr := v.testBit 2 }

/-- Run `i`, from the 9th on, of extent `n` of a task as an access reads it from the extent area (R262, R263); none where the area cannot be read.
(DEDUCED, log 83) -/
def spilledRun (s : State) (core slice task n i : Nat) : Option ExtRun :=
  match translate s core slice 1 (sliceCtl s core slice 0x103 + BitVec.ofNat 64 (task * 0x10000 + n * 0x2000 + 16 * (i - 8))) 16 .rd true with
  | .ok t => some (runOfBytes (targetRead s t 16).1)
  | _ => none

/-- The run through which a core reaches an offset of an extent, with its index (R263): the first 8 are the core's own, the others the area's; none where one of
those cannot be read, so that the access goes by its page as for an invalid run. (DESIGN CHOICE, log 94) (DEDUCED, log 83) -/
def runAt (s : State) (core slice task n : Nat) (x : Extent) (o : Nat) : Option (Nat × ExtRun) :=
  let run := fun (i : Nat) => if i < 8 then x.runs[i]? else spilledRun s core slice task n i
  if (List.range x.runs.length).any fun i => (run i).isNone then none
  else
    (List.range x.runs.length).foldl (fun b i =>
      match run i with
      | some e => if e.off ≤ o ∧ (match b with | some (_, c) => decide (ExtRun.off c ≤ e.off) | none => true) = true then some (i, e) else b
      | none => b) none

/-- Checks and translates an extent-relative access (R116, R261, R263, R391): offset `off` of extent `n` of a task. (DEDUCED, log 83)
(DESIGN CHOICE, log 94) -/
def translateExt (s : State) (core slice task prv n : Nat) (off : Int) (size : Nat) (r : Right) : Tr :=
  match ((tget (getSlice s slice).tasks task).bind fun t => t.extents[n]?) with
  | none => .trap 4 0x02
  | some x =>
    let ea := x.base.toNat + off.toNat
    if off ≥ 0 ∧ ea / 2 ^ 48 ≠ 0 then .trap 4 0x01
    else if off ≥ 0 ∧ ea < 0x10000 then .trap 3 0
    else if off ≥ 0 ∧ ea % size ≠ 0 then .trap 2 0
    else
      let right : Bool := match r with
        | .rd => x.acc.getLsbD 0 | .wr => x.acc.getLsbD 1 | .rmw => x.acc.getLsbD 2
      if off < 0 ∨ x.len < off.toNat + size ∨ ¬ right then .trap 4 0x02
      else
        let o := off.toNat
        match runAt s core slice task n x o with
        | some (i, run) =>
          if (getCore s core).runsInvalid.contains (slice, task, n, i) then pagedTarget s core slice prv ea r true
          else
            let pa := run.pfn * 65536 + ea - 65536 * ((x.base.toNat + run.off) / 65536)
            let d := coherentRead s ((sliceCtl s core slice 0x102).toNat + 0x1000 + 16 * (run.home % 64)) 16
            let w := leNat ((d.drop 8).take 2)
            if prv = 0 ∧ ¬ run.usr then .trap 4 0x06
            else if r = .rmw ∧ isHostMem pa then .trap 4 0x05
            else targetOf s slice pa run.hm run.home (w % 1024) (BitVec.ofNat 64 (leNat (d.take 8)))
              (decide (w / 1024 = 0) && (d.drop 10).all (· = 0)) run.wt run.bcmp false
        | none => pagedTarget s core slice prv ea r true

/-- Writes a checked target, which lies within one piece, or within a cistern. -/
def targetWrite (s : State) (t : Target) (bytes : List Byte) (poison : Nat) : State :=
  match t.loc with
  | .phys pa => homeWrite s t.home pa bytes t.wt t.bcmp poison
  | .cist core off => cistWrite s core off bytes poison

/-- Pieces of a range of virtual addresses: each part within one 64-byte piece. -/
def partsOf : Nat → Nat → Nat → List (Nat × Nat)
  | 0, _, _ => []
  | fuel + 1, va, n => if n = 0 then [] else
    let k := min n (64 - va % 64)
    (va, k) :: partsOf fuel (va + k) (n - k)

/-- The first failing part of a range, in ascending address order, or none. -/
def rangeFails (s : State) (core slice prv : Nat) (r : Right) (va n : Nat) : Option (Nat × Tr) :=
  (partsOf (n / 64 + 2) va n).findSome? fun p =>
    match translate s core slice prv (BitVec.ofNat 64 p.1) p.2 r false with
    | .ok _ => none
    | e => some (p.1, e)

/-- Reads a range at once, every part of which translates; a part that does not reads as zero (the caller has checked). -/
def virtRead (s : State) (core slice prv va n : Nat) : List Byte × Nat :=
  (partsOf (n / 64 + 2) va n).foldl (fun a p =>
    match translate s core slice prv (BitVec.ofNat 64 p.1) p.2 .rd false with
    | .ok t => let (b, q) := targetRead s t p.2; (a.1 ++ b, orPoison a.2 q)
    | _ => (a.1 ++ List.replicate p.2 0, a.2)) ([], 0)

/-- Writes a range at once, part by part; a part that does not translate is not written (the caller has checked). -/
def virtWrite (s : State) (core slice prv va : Nat) (bytes : List Byte) (poison : Nat) : State :=
  (partsOf (bytes.length / 64 + 2) va bytes.length).foldl (fun s p =>
    match translate s core slice prv (BitVec.ofNat 64 p.1) p.2 .wr false with
    | .ok t => targetWrite s t ((bytes.drop (p.1 - va)).take p.2) poison
    | _ => s) s

end Sys2Proof.Machine
end

