-- ==== Sys2Proof/Machine/Operands.lean ====
section
/-!
DEFINITION. Operands (R76-R84, R86, R351): reading general registers, pairs, quads, predicates, immediates and special registers
of a fibre, and the effects of destinations with their landing order (R48, R49, R339).
-/
namespace Sys2Proof.Machine

/-! ## The fibre's registers -/

/-- G(f, n): general register n; g0 reads as zero (R12, R77). -/
def regOf (x : Fibre) (n : Nat) : Word := if n = 0 then 0 else x.regs.getD n 0

/-- P(f, n): predicate n; p0 reads as 1 (R12, R81). -/
def predOf (x : Fibre) (n : Nat) : Bool := if n = 0 then true else x.preds.getLsbD n

/-- The FSR as software reads it: SD and RSD are the counts of sections held and of on-chip stack entries (R86). -/
def fsrOf (x : Fibre) : Word :=
  (x.fsr &&& 0xFFC0FFFF#32) ||| BitVec.ofNat 32 (x.heldKeys.length % 4 * 2 ^ 20 + x.stack.length % 16 * 2 ^ 16)

/-- PP of the FSR (R86). -/
def fsrPP (x : Fibre) : Bool := x.fsr.getLsbD 31
/-- PFMT of the FSR (R86). -/
def fsrPFMT (x : Fibre) : Nat := fld x.fsr.toNat 30 27
/-- PRV of the FSR (R86). -/
def fsrPRV (x : Fibre) : Nat := fld x.fsr.toNat 26 25
/-- HA of the FSR (R86). -/
def fsrHA (x : Fibre) : Bool := x.fsr.getLsbD 23
/-- RST of the FSR (R86). -/
def fsrRST (x : Fibre) : Bool := x.fsr.getLsbD 22
/-- FTZ of the FSR (R86). -/
def fsrFTZ (x : Fibre) : Bool := x.fsr.getLsbD 12
/-- RM of the FSR (R86). -/
def fsrRM (x : Fibre) : Nat := fld x.fsr.toNat 10 9

/-- An FSR at creation: PRV, HA and RST (R40, R86). -/
def fsrNew (prv : Nat) (ha rst : Bool) : Word :=
  BitVec.ofNat 32 (prv % 4 * 2 ^ 25 + (if ha then 2 ^ 23 else 0) + (if rst then 2 ^ 22 else 0))

/-- Clears PP and PFMT (R89, R90). -/
def clearPrefix (x : Fibre) : Fibre := { x with fsr := x.fsr &&& 0x07FFFFFF#32 }

/-- A fibre's stack area address (R84); the sump fibre's index is 2,048. -/
def stackArea (s : State) (f : FRef) : DWord :=
  let sl := sliceOf s f
  let i := if f.slot = 64 then 2048 else f.slot * 32 + f.lane
  sliceCtl s f.core sl 0x104 + BitVec.ofNat 64 (i * (sliceCtl s f.core sl 0x105).toNat)

/-- The group index s.gid of a fibre (R42); zero for a sump fibre (R223). -/
def gidOf (s : State) (f : FRef) : Nat :=
  match getGroup s f.core f.slot with
  | some g => if g.kind = .sump then 0 else g.gid
  | none => 0

/-- The batch whose packet a fibre's instruction belongs to, once the packet has issued (R332). -/
def packetOf (s : State) (f : FRef) : Option Batch :=
  match (getPart s f.core (slotPart f.slot)).batch with
  | some b => if b.slot = f.slot ∧ b.seen ≠ [] then some b else none
  | none => none

/-- The FSR and s.spill that a fibre's instruction reads: those at its packet's issue (R52, R332). -/
def packetSeen (s : State) (f : FRef) (x : Fibre) : Word × Nat :=
  (((packetOf s f).bind fun b => b.seen.find? fun e => e.1 = f.lane).map Prod.snd).getD (fsrOf x, x.spill)

/-- The value of a special register as a 32-bit source (R83); what an instruction of the packet can change is read as it stood at the packet's issue
(R332). -/
def specialOf (s : State) (f : FRef) (x : Fibre) (batch : List Nat) (code : Nat) : Word :=
  let t := (teamOf s f).map Prod.snd
  let ofTeam := fun (g : Team → Nat) => BitVec.ofNat 32 ((t.map g).getD 0)
  let sump := f.slot = 64
  let mask := fun (l : List Nat) => BitVec.ofNat 32 (l.foldl (fun a n => a ||| 2 ^ n) 0)
  match code with
  | 0x110 => if sump then 0 else BitVec.ofNat 32 (gidOf s f * 32 + f.lane)
  | 0x111 => BitVec.ofNat 32 f.lane
  | 0x112 => BitVec.ofNat 32 (gidOf s f)
  | 0x113 => ofTeam fun t => ((t.gridz * t.gy + t.gridy) * t.gx + t.gridx) * t.cw * t.ch + t.crank
  | 0x114 => ofTeam fun t => t.crank
  | 0x115 => BitVec.ofNat 32 f.core
  | 0x116 => BitVec.ofNat 32 (coreDie f.core)
  | 0x117 => BitVec.ofNat 32 (coreQuad f.core)
  | 0x118 => BitVec.ofNat 32 (coreX f.core)
  | 0x119 => BitVec.ofNat 32 (coreY f.core)
  | 0x11A => (ctlCopy s f.core 0x001).setWidth 32
  | 0x11B => BitVec.ofNat 32 (sliceOf s f)
  | 0x11C => BitVec.ofNat 32 (slotPart f.slot)
  | 0x11D => if sump then 0 else BitVec.ofNat 32 f.slot
  | 0x11E => x.gen.setWidth 32
  | 0x11F => BitVec.ofNat 32 (allotOf s f)
  | 0x120 => ofTeam fun t => t.gridx
  | 0x121 => ofTeam fun t => t.gridy
  | 0x122 => ofTeam fun t => t.gridz
  | 0x123 => ofTeam fun t => t.gx
  | 0x124 => ofTeam fun t => t.gy
  | 0x125 => ofTeam fun t => t.gz
  | 0x126 => ofTeam fun t => t.cw
  | 0x127 => ofTeam fun t => t.ch
  | 0x128 => mask (((packetOf s f).map Batch.live).getD (lanesOf s f.core f.slot))
  | 0x129 => mask (((packetOf s f).map fun b => b.seen.map Prod.fst).getD batch)
  | 0x12A => x.origin.src
  | 0x12B => x.origin.tag.setWidth 32
  | 0x12C => x.origin.seq
  | 0x12D => BitVec.ofNat 32 x.origin.cls
  | 0x12E => BitVec.ofNat 32 x.origin.mlen
  | 0x12F => loHalf (stackArea s f)
  | 0x130 => hiHalf (stackArea s f)
  | 0x131 => (packetSeen s f x).1
  | 0x132 => x.preds.setWidth 32 ||| 1
  | 0x135 => (t.map Team.shape).getD 0
  | 0x136 => if x.origin.helper then 1 else 0
  | 0x137 => x.origin.cov.setWidth 32
  | 0x138 => BitVec.ofNat 32 (packetSeen s f x).2
  | _ => 0

/-- The issuing batch as an instruction sees it. -/
structure Issue where
  core : Nat
  part : Nat
  slot : Nat
  lanes : List Nat
  pc : Word
  runEnd : Bool
  deriving DecidableEq, Repr

/-- The issuing batch of the partition whose turn it is. -/
def issuing (s : State) : Option Issue :=
  match (getPart s s.turn.1 s.turn.2).batch with
  | some b => some ⟨s.turn.1, s.turn.2, b.slot, b.lanes, b.pc, b.runEnd⟩
  | none => none

/-- A lane of the issuing batch. -/
def Issue.fref (is : Issue) (lane : Nat) : FRef := ⟨is.core, is.slot, lane⟩

/-- A 32-bit source operand (R80). -/
def srcOf (s : State) (is : Issue) (lane : Nat) (x : Fibre) (imm : Word) (c : Code) : Word :=
  let n := c.toNat
  if n < 0x100 then regOf x n
  else if n < 0x110 then (if predOf x (n - 0x100) then 1 else 0)
  else if n = 0x140 then imm
  else specialOf s (is.fref lane) x is.lanes n

/-- A register pair, or the sign-extended immediate (R78). -/
def pairSrc (x : Fibre) (imm : Word) (c : Code) : DWord :=
  if c = 0x140#9 then imm.signExtend 64 else pairOf (regOf x c.toNat) (regOf x (c.toNat + 1))

/-- The registers gN to gN+k−1. -/
def regsFrom (x : Fibre) (n k : Nat) : List Word := (List.range k).map fun i => regOf x (n + i)

/-! ## Destinations -/

/-- The effect of writing a 32-bit result to a destination code (R77, R80). -/
def destEff (c : Code) (v : Word) : List Eff :=
  let n := c.toNat
  if n = 0 ∨ n = 0x100 then []
  else if n < 0x100 then [.reg n v]
  else if n < 0x110 then [.pred (n - 0x100) (v != 0)]
  else []

/-- The effect of writing a 64-bit result to a pair; g0:g1 takes only its upper half (R78). -/
def pairEff (c : Code) (v : DWord) : List Eff :=
  let n := c.toNat
  if n = 0 then [.reg 1 (hiHalf v)] else [.reg n (loHalf v), .reg (n + 1) (hiHalf v)]

/-- The effect of writing consecutive registers, g0 discarded. -/
def regsEff (n : Nat) (vs : List Word) : List Eff :=
  ((List.range vs.length).zip vs).filterMap fun e => if n + e.1 = 0 then none else some (.reg (n + e.1) e.2)

/-- The effect of a status predicate returned in field C (R81). -/
def statusEff (c : Code) (v : Bool) : List Eff :=
  if c.toNat ≤ 0x100 ∨ 0x110 ≤ c.toNat then [] else [.pred (c.toNat - 0x100) v]

/-- Whether the later effect writes the destination of the earlier one (R339). -/
def sameDest : Eff → Eff → Bool
  | .reg a _, .reg b _ => a == b
  | .pred a _, .pred b _ => a == b
  | .flags _, .fsr _ => true
  | .fsr _, .fsr _ => true
  | _, _ => false

/-- Lands one effect on a fibre. -/
def land (x : Fibre) : Eff → Fibre
  | .reg n v => if n = 0 then x else { x with regs := lset x.regs n v }
  | .pred n v => if n = 0 then x else { x with preds := (x.preds &&& ~~~ (1#16 <<< n)) ||| (if v then 1#16 <<< n else 0) }
  | .flags f => { x with fsr := x.fsr ||| f.setWidth 32 }
  | .fsr v => { x with fsr := (x.fsr &&& 0xFFFFE9E0#32) ||| (v &&& 0x0000161F#32) }

/-- Lands effects in order. -/
def landAll (x : Fibre) (l : List Eff) : Fibre := l.foldl land x

/-- Adds a short-latency effect: a result that would land after it at the same destination is discarded (R339). -/
def addPend (x : Fibre) (dist : Nat) (e : Eff) : Fibre :=
  { x with pend := (x.pend.filter fun p => ! (sameDest p.eff e && decide (dist < p.dist))) ++ [⟨dist, e⟩] }

/-- Adds short-latency effects of one instruction. -/
def addPends (x : Fibre) (dist : Nat) (l : List Eff) : Fibre := l.foldl (fun x e => addPend x dist e) x

/-- A packet end: every distance falls by one, and what reaches zero lands in program order (R49). -/
def packetEnd (x : Fibre) : Fibre :=
  let x' := landAll x ((x.pend.filter fun p => decide (p.dist ≤ 1)).map Pend.eff)
  { x' with pend := (x.pend.filter fun p => decide (1 < p.dist)).map fun p => { p with dist := p.dist - 1 } }

/-- The order in which results still pending land when the run is over: by distance, then by program order (R339). -/
def flushPend : Nat → Fibre → Fibre
  | 0, x => { x with pend := [] }
  | n + 1, x => if x.pend.isEmpty then x else flushPend n (packetEnd x)

/-- Adds a long-latency result that the instruction already knows; it is written at the run end (R48). -/
def addKnown (x : Fibre) (id : Nat) (l : List Eff) : Fibre :=
  { x with lls := x.lls ++ [{ id := id, done := true, poison := 0, effs := l }] }

/-- Adds a long-latency result that is still to come (R48). -/
def addLL (x : Fibre) (id : Nat) : Fibre :=
  { x with lls := x.lls ++ [{ id := id, done := false, poison := 0, effs := [] }] }

/-- A fibre at creation (R40): PC, FSR, registers g1 onward from `args`, every other register zero, predicate word 0x0001. -/
def newFibre (allot : Nat) (pc : Word) (gen : BitVec 8) (fsr : Word) (args : List Word) (o : Origin) : Fibre :=
  { pc := pc, next := none, regs := ((0 :: args) ++ List.replicate allot 0).take allot, preds := 1, fsr := fsr, stack := [], spill := 0,
    gen := gen, wk := false, heldKeys := [], barArrived := 0, barParity := 0, inTrap := false, sig := 0xFFFF, sigOn := false, sigNew := true, sigOnKept := false, sigNewKept := false,
    ended := false, commit := false, asyncTrap := none, pend := [], lls := [], waits := [], accs := [], held := [], mates := [], origin := o }

end Sys2Proof.Machine
end

