-- ==== Sys2Proof/Machine/Functions.lean ====
section
/-!
DEFINITION. The functions of R439 and R440: their exact results, and for every other operand a result inside the bound. The bound
is decided on fixed-point values with 320 fraction bits, whose error lies far below every bound of R440.
-/
namespace Sys2Proof.Machine

/-! ## Fixed point -/

/-- Fraction bits of the fixed-point values. -/
def fixP : Nat := 320

/-- One. -/
def fixOne : Nat := 2 ^ fixP

/-- ln 2 in fixed point. -/
def fixLn2 : Nat := 0xb17217f7d1cf79abc9e3b39803f2f6af40f343267298b62d8a0d175b8baafa2be7b876206debac98

/-- π with 480 fraction bits. -/
def fixPi480 : Nat := 0x3243f6a8885a308d313198a2e03707344a4093822299f31d0082efa98ec4e6c89452821e638d01377be5466cf34e90c6cc0ac29b7c97c50dd3f84d5b5

/-- Terms of e^x = 1 + x + x²/2 + … from term number `k` onward. -/
def expTerms (x : Nat) : Nat → Nat → Nat → Nat
  | 0, _, _ => 0
  | fuel + 1, k, term => term + expTerms x fuel (k + 1) (term * x / fixOne / (k + 1))

/-- e^x for 0 ≤ x < 1. -/
def expFix (x : Nat) : Nat := expTerms x 80 0 fixOne

/-- Terms z + z³/3 + z⁵/5 + … of atanh z. -/
def atanhTerms (z2 : Int) : Nat → Nat → Int → Int
  | 0, _, _ => 0
  | fuel + 1, k, p => p.tdiv (2 * k + 1) + atanhTerms z2 fuel (k + 1) ((p * z2).tdiv fixOne)

/-- ln (n / d) for n / d between 3/4 and 3/2. -/
def lnFix (n d : Nat) : Int :=
  let z := (((n : Int) - d) * fixOne).tdiv (n + d)
  2 * atanhTerms ((z * z).tdiv fixOne) 80 0 z

/-- Terms of the sine (from k = 1, term = x) or cosine (from k = 0, term = 1) series. -/
def trigTerms (x : Nat) : Nat → Nat → Int → Int
  | 0, _, _ => 0
  | fuel + 1, k, term => term + trigTerms x fuel (k + 2) ((-(term * x).tdiv fixOne * x).tdiv (fixOne * ((k + 1) * (k + 2))))

/-- sin x for 0 ≤ x < π/2. -/
def sinFix (x : Nat) : Int := trigTerms x 50 1 x

/-- cos x for 0 ≤ x < π/2. -/
def cosFix (x : Nat) : Int := trigTerms x 50 0 fixOne

/-- Floor of m × 2^e in units of 2^-b. -/
def scaleTo (m : Nat) (e : Int) (b : Nat) : Nat := if 0 ≤ e + b then m * 2 ^ (e + b).toNat else m / 2 ^ (-(e + b)).toNat

/-- The approximate value of a function, exact up to the fixed-point error: value × 2^exponent, and whether it is exact. -/
structure Approx where
  v : Int
  e : Int
  exact : Bool
  deriving DecidableEq, Repr

/-- 2^a for a = ±m × 2^e, |a| below 200 or so; a smaller one is treated as −200. -/
def approxEx2 (neg : Bool) (m : Nat) (e : Int) : Approx :=
  let a : Int := if neg then -(min (scaleTo m e fixP) (200 * fixOne) : Nat) else (scaleTo m e fixP : Nat)
  let n := a / (fixOne : Int)
  let f := (a % (fixOne : Int)).toNat
  ⟨expFix (f * fixLn2 / fixOne), n - fixP, f == 0⟩

/-- log₂ (m × 2^e). -/
def approxLg2 (m : Nat) (e : Int) : Approx :=
  let b := bitLen m
  let (d, k) : Nat × Int := if 3 * 2 ^ (b - 1) ≤ 2 * m then (2 ^ b, e + b) else (2 ^ (b - 1), e + b - 1)
  ⟨k * fixOne + (lnFix m d * fixOne).tdiv fixLn2, -(fixP : Int), m == d⟩

/-- sin or cos of ±m × 2^e; the argument is reduced by π/2 exactly up to 2^-340. -/
def approxTrig (cosine neg : Bool) (m : Nat) (e : Int) : Approx :=
  let a := scaleTo m e 480
  let h := fixPi480 / 2
  let q := a / h % 4
  let r := a % h / 2 ^ (480 - fixP)
  let k := if cosine then (q + 1) % 4 else q
  let v := if k % 2 = 0 then sinFix r else cosFix r
  let v := if 2 ≤ k then -v else v
  ⟨if neg ∧ ¬ cosine then -v else v, -(fixP : Int), false⟩

/-- e^-x for x = m × 2^e ≥ 0, zero from 300 upward. -/
def expNeg (m : Nat) (e : Int) : Nat :=
  if 10 ≤ bitLen m + e then 0
  else
    let x := scaleTo m e fixP
    let n := x / fixLn2
    -- e^-x = 2^-(n+1) · e^(ln 2 − (x mod ln 2)), and the last exponent lies below 1
    expFix (fixLn2 - x % fixLn2) / 2 ^ (n + 1)

/-- tanh of ±m × 2^e. -/
def approxTanh (neg : Bool) (m : Nat) (e : Int) : Approx :=
  let t := expNeg m (e + 1)
  let v : Int := ((fixOne - t) * fixOne / (fixOne + t) : Nat)
  ⟨if neg then -v else v, -(fixP : Int), false⟩

/-- 1 / (1 + e^-a). -/
def approxSigm (neg : Bool) (m : Nat) (e : Int) : Approx :=
  let t := expNeg m e
  let v : Nat := if neg then t * fixOne / (fixOne + t) else fixOne * fixOne / (fixOne + t)
  ⟨v, -(fixP : Int), false⟩

/-! ## The bounds -/

/-- |value of the bits − r| ≤ 2^k, decided exactly; NaN and infinity lie outside. -/
def within (bits : Nat) (r : Approx) (k : Int) : Bool :=
  match decodeF fmtF32 false bits with
  | .nan _ | .inf _ => false
  | x =>
    let (v, e) : Int × Int := match x with
      | .fin n m e => (sgn n m, e)
      | _ => (0, 0)
    let (d, q) := addDyadic v e (-r.v) r.e
    decide (scaleTo d.natAbs q 700 ≤ scaleTo 1 k 700)

/-- The value rounded to F32 in a mode. -/
def approxRound (mode : Nat) (r : Approx) : Nat := (roundTo fmtF32 mode false (decide (r.v < 0)) (max 1 r.v.natAbs) r.e (! r.exact)).1

/-- ulp of F32 at a value as an exponent. -/
def ulpExp (r : Approx) : Int := max (-149) (r.e + (bitLen r.v.natAbs : Int) - 24)

/-- Whether a candidate meets the bound of function `fn` (R440): 0 FEX2, 1 FLG2, 2 FSIN, 3 FCOS, 4 FTANH, 5 FSIGM. -/
def meetsBound (fn : Nat) (bits : Nat) (r : Approx) : Bool :=
  match fn with
  | 0 | 1 => bits == approxRound 2 r || bits == approxRound 3 r
  | 2 | 3 => within bits r (-22)
  | 4 => within bits r (min (ulpExp r) (-24) + 1)
  | _ => within bits r (-24) && decide (bits ≤ 0x3F800000)

/-- The delivered result of a function for an operand without an exact entry: the device's own choice where it meets the bound, else
the value rounded to nearest; NX always, UF below the smallest normal, flushed under FTZ (R440). -/
def deliverBounded (fn : Nat) (ftz : Bool) (x : Word) (r : Approx) : Nat × BitVec 5 :=
  let c := (Config.transcendental fn x).toNat
  let bits := if meetsBound fn c r then c else approxRound 0 r
  let tiny := decide (bits % 2 ^ 31 < 0x00800000)
  (if tiny && ftz then bits / 2 ^ 31 * 2 ^ 31 else bits, if tiny then flagUF ||| flagNX else flagNX)

/-- FEX2 (R439, R440). (DESIGN CHOICE, log 44) -/
def resFex2 (ftz : Bool) (x : Word) : Nat × BitVec 5 :=
  match decodeF fmtF32 ftz x.toNat with
  | .nan s => (fmtNaN fmtF32, if s then flagNV else 0)
  | .inf n => (if n then 0 else fmtInf fmtF32, 0)
  | .zero _ => (0x3F800000, 0)
  | .fin n m e =>
    if ¬ n ∧ 7 < bitLen m + e then (fmtInf fmtF32, flagOF ||| flagNX)
    else
      let r := approxEx2 n m e
      if r.exact ∧ -126 - (fixP : Int) ≤ r.e then (approxRound 0 r, 0) else deliverBounded 0 ftz x r

/-- FLG2 (R439, R440). -/
def resFlg2 (ftz : Bool) (x : Word) : Nat × BitVec 5 :=
  match decodeF fmtF32 ftz x.toNat with
  | .nan s => (fmtNaN fmtF32, if s then flagNV else 0)
  | .inf n => if n then (fmtNaN fmtF32, flagNV) else (fmtInf fmtF32, 0)
  | .zero _ => (signed fmtF32 true (fmtInf fmtF32), flagDZ)
  | .fin n m e =>
    if n then (fmtNaN fmtF32, flagNV)
    else
      let r := approxLg2 m e
      if r.exact then roundInt fmtF32 0 ftz false r.v r.e else deliverBounded 1 ftz x r

/-- FSIN and FCOS (R439, R440). -/
def resTrig (cosine ftz : Bool) (x : Word) : Nat × BitVec 5 :=
  match decodeF fmtF32 ftz x.toNat with
  | .nan s => (fmtNaN fmtF32, if s then flagNV else 0)
  | .inf _ => (fmtNaN fmtF32, flagNV)
  | .zero n => (if cosine then 0x3F800000 else signed fmtF32 n 0, 0)
  | .fin n m e => deliverBounded (if cosine then 3 else 2) ftz x (approxTrig cosine n m e)

/-- FTANH (R439, R440). -/
def resFtanh (ftz : Bool) (x : Word) : Nat × BitVec 5 :=
  match decodeF fmtF32 ftz x.toNat with
  | .nan s => (fmtNaN fmtF32, if s then flagNV else 0)
  | .inf n => (signed fmtF32 n 0x3F800000, 0)
  | .zero n => (signed fmtF32 n 0, 0)
  | .fin n m e => deliverBounded 4 ftz x (approxTanh n m e)

/-- FSIGM (R439, R440). -/
def resFsigm (ftz : Bool) (x : Word) : Nat × BitVec 5 :=
  match decodeF fmtF32 ftz x.toNat with
  | .nan s => (fmtNaN fmtF32, if s then flagNV else 0)
  | .inf n => (if n then 0 else 0x3F800000, 0)
  | .zero _ => (0x3F000000, 0)
  | .fin n m e => deliverBounded 5 ftz x (approxSigm n m e)

end Sys2Proof.Machine
end

