-- ==== Sys2Proof/Machine/Ops.lean ====
section
/-!
DEFINITION. The shared operations of every meaning: batches, results, taking an exception (R290-R293) and returning from one
(R294), team faults (R295), page faults (R297), the end of a fibre (R41), rollback (R300), and the frame every instruction is
executed in (`onActive`): the prefix check, the guard, the register-range check, then the instruction's own effect.
-/
namespace Sys2Proof.Machine

/-! ## Batches -/

/-- The PC of the next slot in straight-line order (R325). -/
def nextPc (pc : Word) : Word :=
  if pc.toNat % 64 / 12 = 4 then BitVec.ofNat 32 ((pc.toNat / 64 + 1) * 64) else pc + 12

/-- Whether a fibre stands inside a run: in the batch its partition issues, or in one set aside at a stop (R52). -/
def inBatch (s : State) (f : FRef) : Bool :=
  let holds := fun (b : Batch) => decide (b.slot = f.slot) && b.lanes.contains f.lane
  (getPart s f.core (slotPart f.slot)).batch.any holds || (getCore s f.core).stoppedBatches.any fun e => holds e.2

/-- Takes lanes out of the batch of a slot's partition, or out of one set aside (R51, R52). -/
def leaveBatch (s : State) (core slot : Nat) (lanes : List Nat) : State :=
  let cut := fun (b : Batch) => if b.slot = slot then { b with lanes := b.lanes.filter fun l => ! lanes.contains l } else b
  let s := match (getPart s core (slotPart slot)).batch with
    | some b => if b.slot = slot then modPart s core (slotPart slot) fun p => { p with batch := some (cut b) } else s
    | none => s
  if (getCore s core).stoppedBatches.any fun e => decide (e.2.slot = slot) then
    modCore s core fun k => { k with stoppedBatches := k.stoppedBatches.map fun e => (e.1, cut e.2) }
  else s

/-- Returns power tokens to the pool (R55). -/
def returnTokens (s : State) (n : Nat) : State := { s with tokensUsed := s.tokensUsed - n }

/-! ## Code -/

/-- The code object of a team. -/
def codeOf (s : State) (core : Nat) (t : Team) : Option CodeObj := (getCore s core).objects[t.codeObj]?

/-- The code object a fibre executes: its team's, or the sump fibre's, whose number its group's `team` field holds (R223). -/
def codeObjOf (s : State) (f : FRef) : Option CodeObj :=
  match getGroup s f.core f.slot with
  | some g =>
    if g.kind = .sump then (getCore s f.core).objects[g.team]?
    else (getTeam s f.core g.team).bind fun t => codeOf s f.core t
  | none => none

/-- A word of a fetch line in the code store. -/
def lineWord (k : Core) (line i : Nat) : Word := (tgetD k.code line []).getD i 0

/-- The 96 bits at a PC (R325). -/
def rawInstr (k : Core) (pc : Word) : Bits96 :=
  let l := pc.toNat / 64; let j := pc.toNat % 64 / 12 * 3
  lineWord k l (j + 2) ++ lineWord k l (j + 1) ++ lineWord k l j

/-- Whether a PC names a slot of a line (R325). -/
def pcFormed (pc : Nat) : Bool := decide (pc % 64 < 60 ∧ pc % 64 % 12 = 0)

/-- Whether a PC lies within a code object. -/
def inObject (o : CodeObj) (pc : Nat) : Bool :=
  pcFormed pc && decide (o.first ≤ pc / 64 ∧ pc / 64 < o.first + o.lines)

/-- Whether the slot at a PC carries its branch-target mark (R326). -/
def isMarked (k : Core) (pc : Nat) : Bool := (lineWord k (pc / 64) 15).getLsbD (8 + pc % 64 / 12)

/-- A legal branch target: a marked slot of the object (R44). -/
def isTarget (s : State) (core : Nat) (o : CodeObj) (pc : Nat) : Bool := inObject o pc && isMarked (getCore s core) pc

/-! ## Signatures -/

/-- One bit of CRC-16 with polynomial 0x1021 (R255). -/
def crcBits : Nat → BitVec 16 → BitVec 16
  | 0, c => c
  | n + 1, c => crcBits n (if c.getLsbD 15 then (c <<< 1) ^^^ 0x1021 else c <<< 1)

/-- One byte, most significant bit first. -/
def crcByte (c : BitVec 16) (b : Nat) : BitVec 16 := crcBits 8 (c ^^^ BitVec.ofNat 16 (b % 256 * 256))

/-- The bytes an instruction feeds: its guard byte, then its register and predicate codes in field order (R255, R337). -/
def sigBytes (i : Instr) (raw : Bits96) : List Nat :=
  (raw.toNat / 2 ^ 81 % 32) ::
    (i.form.uses.filterMap fun u =>
      match u.1 with
      | .zero | .fmt => none
      | _ => if u.2.toNat < 0x110 then some (u.2.toNat % 256) else none)

/-! ## Settling results -/

/-- Whether a team's context is being saved (R309). -/
def saving (s : State) (t : Team) : Bool := (getSlice s t.slice).saved.any fun v => ! v.complete && decide (v.task = t.task)

/-- Whether every outstanding long-latency result of a fibre has come (R50). -/
def llsDone (x : Fibre) : Bool := x.lls.all fun l => l.done

/-! ## Sections held -/

/-- The home of a section key for a slice (R249): the core of rank h mod n. -/
def sectionHome (s : State) (slice : Nat) (key : DWord) : Nat :=
  let k := key.toNat
  let h := (k % 65536) ^^^ (k / 2 ^ 16 % 65536) ^^^ (k / 2 ^ 32 % 65536) ^^^ (k / 2 ^ 48 % 65536)
  let cs := (getSlice s slice).cores
  cs.getD (h % max cs.length 1) 0

/-- Sends an abandonment of every section a fibre holds to the keys' homes (R250, R295). -/
def abandonSections (s : State) (f : FRef) : State :=
  match getFib s f with
  | some x =>
    let s := x.heldKeys.foldl (fun s h =>
      emit s .mreq 0x06 f.core (sectionHome s (sliceOf s f) h.1) 1 (replyTag x.gen 0) (.ordered 3 f x.gen 0 h.1 h.2)) s
    modFib s f fun x => { x with heldKeys := [] }
  | none => s

/-- Frees the waiters of a fibre at every home, with entries that are idle then and have nothing to keep (R251, R252). Where the fibre is killed, a skip
record's sequence is treated as abandoned: it stays in the list as a mark that takes none of its places; the records of a fibre that ended before in
the same place stay in force (R487). -/
def freeWaiters (s : State) (f : FRef) (kill : Bool) : State :=
  let gen := fibGen s f
  let mine := fun (w : Waiter) => decide (w.f = f) && decide (w.gen = gen)
  { s with cores := s.cores.map fun e =>
      if ! e.2.waiters.any mine then e
      else
        let ws := (e.2.waiters.filter fun w => w.skip || ! mine w).map fun w => if w.skip ∧ mine w ∧ kill then { w with abn := true } else w
        (e.1, { e.2 with
          waiters := ws
          sections := e.2.sections.filter fun x => x.held || decide (x.next ≠ 0) || x.abn || ws.any fun w => decide (w.key = x.key) }) }

/-! ## The end of fibres, groups and teams -/

/-- A handler binding entry by index (R241). -/
def bindingAt (k : Core) (i : Nat) : DWord := tgetD k.bindings i 0
/-- V of a binding entry. -/
def bindV (w : DWord) : Bool := w.getLsbD 63
/-- RST of a binding entry. -/
def bindRst (w : DWord) : Bool := w.getLsbD 62
/-- GEN of a binding entry. -/
def bindGen (w : DWord) : BitVec 8 := w.extractLsb' 54 8
/-- TEAM of a binding entry. -/
def bindTeam (w : DWord) : Nat := fld w.toNat 53 48
/-- AREG of a binding entry: A ÷ 8. -/
def bindAreg (w : DWord) : Nat := fld w.toNat 47 42
/-- PC of a binding entry. -/
def bindPc (w : DWord) : Word := BitVec.ofNat 32 (fld w.toNat 18 0)

/-- A binding entry from its fields (R241). -/
def bindWord (rst : Bool) (gen : BitVec 8) (team areg pc : Nat) : DWord :=
  BitVec.ofNat 64 (2 ^ 63 + (if rst then 2 ^ 62 else 0) + gen.toNat * 2 ^ 54 + team % 64 * 2 ^ 48 + areg % 64 * 2 ^ 42 + pc % 2 ^ 19)

/-- An entry that is no longer bound, its generation raised (R243). -/
def unbindWord (w : DWord) : DWord := BitVec.ofNat 64 ((bindGen w + 1).toNat * 2 ^ 54)

/-- Returns registers to a core's pool (R94). -/
def poolReturn (s : State) (core n : Nat) : State := modCore s core fun k => { k with poolFree := k.poolFree + n }

/-- The record queue whose credit the record of a packet has spent (R215). -/
def recQueueOf : Body → Option (Nat × Nat × Nat)
  | .hit sl t q _ => some (sl, t, q)
  | .pixel sl t q _ _ _ _ => some (sl, t, q)
  | .work sl t q _ => some (sl, t, q)
  | _ => none

/-- Returns credits of a record queue to its home (R215). -/
def returnCredits (s : State) (core sl t q n : Nat) : State :=
  match tget (getSlice s sl).recQueues (t, q) with
  | some rq => emit s .mreq 0x03 core rq.home 1 0 (.credits sl t q n)
  | none => s

/-- Frees the packets a fibre holds in the send queue, none injected, with the credits of its records returned (R226, R300). -/
def dropHeld (s : State) (f : FRef) : State :=
  let mine := (getCore s f.core).sendQ.filter fun e => decide (e.holder = some f)
  let s := modCore s f.core fun k => { k with
    sendQ := k.sendQ.filter fun e => decide (e.holder ≠ some f)
    parts := k.parts.map fun p => (p.1, { p.2 with buffer := p.2.buffer.filter fun e =>
      ! (decide (e.f = f) && match e.cmd with | .packet _ held => held | _ => false) }) }
  mine.foldl (fun s e => match recQueueOf e.packet.body with | some (sl, t, q) => returnCredits s f.core sl t q 1 | none => s) s

/-- Whether a message carries a reply tag, and the tag (R240). -/
def replyTagOf (words : List Word) : Option (BitVec 18) := if words.length = 16 then some ((words.getD 15 0).setWidth 18) else none

/-- A message of a fibre that asks for a reply is sent: its launch does not end before the reply (R66). -/
def oweReply (s : State) (f : FRef) (p : Packet) : State :=
  match (match p.body with | .user w => replyTagOf w | _ => none), teamOf s f with
  | some t, some (_, m) => modSlice s m.slice fun x => { x with tasks := x.tasks.map fun e =>
      if e.1 = m.task then (e.1, { e.2 with owed := e.2.owed ++ [(f.core, t)] }) else e }
  | _, _ => s

/-- HEND's release of a fibre's held packets (R225, R226): after every packet that is eligible already, in program order. -/
def commitHeld (s : State) (f : FRef) : State :=
  let s := ((getCore s f.core).sendQ.filter fun e => decide (e.holder = some f)).foldl (fun s e => oweReply s f e.packet) s
  modCore s f.core fun k => { k with
    sendQ := (k.sendQ.filter fun e => decide (e.holder ≠ some f)) ++
      (k.sendQ.filter fun e => decide (e.holder = some f)).map fun e => { e with holder := none } }

/-- The reply to one lane of a combiner wave (R412): its result words and C := 0, or with `fault` C := 1 alone. -/
def combineReply (s : State) (home : Nat) (q : CombReq) (fault : Bool) (words : List Word) : State :=
  let pr := fun (v : Bool) => if q.cdst = 0 then [] else [Eff.pred q.cdst v]
  let regs := (List.range q.nres).filterMap fun i => if q.dst + i = 0 then none else some (Eff.reg (q.dst + i) (words.getD i 0))
  emit s .mrsp (if fault then 0x06 else 0x04) home q.f.core 1 (replyTag q.gen q.ll)
    (.combineDone q.f q.gen q.acc q.ll (if fault then pr true else regs ++ pr false))

/-- The end of a combiner wave all of whose lanes have ended (R412, R413): every lane receives its results. -/
def finishWave (s : State) (core wid : Nat) : State :=
  match (getCore s core).waves.find? fun w => w.wid = wid with
  | some w =>
    let s := modCore s core fun k => { k with waves := k.waves.filter fun v => v.wid ≠ wid }
    ((List.range w.lanes.length).zip w.lanes).foldl (fun s e => combineReply s core e.2 false (((w.results.find? fun r => r.1 = e.1).map Prod.snd).getD [])) s
  | none => s

/-- The end of a team's bindings on its core (R243); index 0 belongs to no team (R242). -/
def freeBindings (s : State) (core team : Nat) : State :=
  modCore s core fun k => { k with
    bindings := k.bindings.map fun b => (b.1, if b.1 ≠ 0 ∧ bindV b.2 ∧ bindTeam b.2 = team then unbindWord b.2 else b.2) }

/-- The outstanding requests of a fibre whose replies have been written, or whose lane is empty, leave their table (R239). -/
def freeRqs (s : State) (f : FRef) (all : Bool) : State :=
  modCore s f.core fun k => { k with rq := k.rq.filter fun e => ! (decide (e.2.f = f) && (e.2.done || all)) }

/-- The leases of a team that ends: those with commands end once they have retired, the others and its requests at once (R448). -/
def endTeamLeases (b : Block) (core team : Nat) : Block :=
  let mine := fun (l : Nat × Lease) => decide (l.2.core = core ∧ l.2.team = team)
  { b with
    leases := (b.leases.map fun l => (l.1, if mine l then { l.2 with ending := true } else l.2)).filter fun l => ! (mine l && l.2.queue.isEmpty)
    requests := b.requests.filter fun r => ! decide (r.core = core ∧ r.team = team) }

/-- The lead slots of a cluster's barriers outlive the lead core's team (R277, R278): its launch keeps them, by cluster and number. -/
def keepLeads (s : State) (core team : Nat) (t : Team) : State :=
  let mine := ((getCore s core).barriers.filter fun b => decide (b.1.1 = team) && b.2.cluster).map fun b => ((t.cluster, b.1.2), b.2)
  modSlice s t.slice fun x => { x with
    tasks := x.tasks.map fun e => if e.1 = t.task then (e.1, { e.2 with leads := mine ++ e.2.leads }) else e }

/-- A team ends: its bindings, leases and reserved groups go, and with them a basin it owns (R41, R243, R448, R467). (DEDUCED, log 68) -/
def endTeam (s : State) (core team : Nat) : State :=
  let s := modCore (freeBindings s core team) core fun k => { k with basinOwner := if k.basinOwner = some team then none else k.basinOwner }
  let s := { s with blocks := s.blocks.map fun e => (e.1, endTeamLeases e.2 core team) }
  let s := (teamSlots s core team).foldl (fun s sl =>
    poolReturn { s with groups := tdel s.groups (core, sl) } core (32 * allotOf s ⟨core, sl, 0⟩)) s
  let s := match getTeam s core team with
    | some t => if t.crank = 0 then keepLeads s core team t else s
    | none => s
  { s with teams := tdel s.teams (core, team) }

/-- A team whose last group is gone ends, unless it is halted and system software has not ended it, or it takes records of a node task as they
come (R41, R67, R295). (DEDUCED, log 68) -/
def endIfEmpty (s : State) (core team : Nat) : State :=
  match getTeam s core team with
  | some t =>
    let node : Bool := ((tget (getSlice s t.slice).tasks t.task).bind Task.node).isSome
    if (t.halted ∨ node) ∧ ¬ t.ending ∨ ¬ (teamSlots s core team).isEmpty then s else endTeam s core team
  | none => s

/-- Removes a fibre's lane; with the last lane the group's allotment returns and its slot is free, and its claim leaves, and with the last
group its team ends (R41). Held packets leave with it: released after HEND, dropped otherwise. -/
def removeLane (s : State) (f : FRef) : State :=
  let s := if ((getFib s f).map Fibre.commit).getD false then commitHeld s f else dropHeld s f
  let s := freeRqs { s with fibres := tdel s.fibres f } f true
  match getGroup s f.core f.slot with
  | some g =>
    if (lanesOf s f.core f.slot).isEmpty then
      let s := { s with groups := tdel s.groups (f.core, f.slot) }
      let s := match g.kind with | .wave _ wid => finishWave s f.core wid | _ => s
      let s := modCore s f.core fun k => { k with claims := k.claims.filter fun c => c.1 ≠ f.slot, sumpOn := if g.kind = .sump then false else k.sumpOn }
      if g.kind = .sump then s else endIfEmpty (poolReturn s f.core (32 * g.allot)) f.core g.team
    else s
  | none => s

/-- Whether an ended fibre's lane may empty: its results have come, its accesses are performed, its entries are accepted (R41). -/
def canRemove (s : State) (f : FRef) (x : Fibre) : Bool :=
  llsDone x && x.accs.isEmpty && ! ((getCore s f.core).parts.any fun p => p.2.buffer.any fun e => decide (e.f = f))

/-- Whether a wait brings its fibre a long-latency result (R48). -/
def waitBrings : Wait → Bool
  | .fwait _ _ _ _ | .barrier _ _ _ _ _ _ _ | .ordered _ _ _ _ _ _ | .quiesce _ _ _ _ | .completion _ _ _ _ | .drained _ _ _ _ => true
  | _ => false

/-- A fibre ends (R41): no later instruction runs for it; its lane empties once its outstanding results have returned. -/
def endFibre (s : State) (f : FRef) : State :=
  let s := leaveBatch (abandonSections s f) f.core f.slot [f.lane]
  match getFib s f with
  | some x => if canRemove s f x then removeLane s f else putFib s f { x with ended := true, waits := x.waits.filter waitBrings, pend := [] }
  | none => s

/-- The results and records that a killed fibre's waits and unanswered faults would have brought: they will not come. -/
def lostIds (w : Wait) : List Nat :=
  match w with
  | .fwait _ _ ll _ => [ll]
  | .barrier _ _ _ _ ll _ acc => [ll, acc]
  | .ordered _ _ _ _ ll acc => [ll, acc]
  | .skip _ _ _ acc => [acc]
  | .quiesce _ _ ll _ => [ll]
  | .completion _ _ ll _ => [ll]
  | .drained ll _ _ _ => [ll]
  | .migrating _ _ _ acc _ => [acc]
  | .mailbox _ _ (.mem q) => [q.ll, q.acc]
  | .mailbox _ _ (.instr _ _ acc) => [acc]
  | _ => []

/-- The results and records that an issue-buffer entry would have brought. -/
def entryIds (e : BufEntry) : List Nat :=
  e.acc :: (match e.cmd with
    | .sendr _ ll _ _ _ | .launch _ _ ll _ | .ringQ _ ll _ => [ll]
    | .ray _ (some o) => [o.2.1]
    | _ => [])

/-- The results and records of the writes of some fibres that a packet carries (R197). -/
def writesOf (fs : List FRef) : Body → List Nat
  | .write l | .atomic l | .reduce l => (l.filter fun q => fs.contains q.f).flatMap fun q => [q.acc, q.ll]
  | .pumpCmd c => if fs.contains c.f then [c.acc] else []
  | .matrix c => if fs.contains c.f then [c.acc] else []
  | .treelet c _ _ _ => if fs.contains c.f then [c.acc] else []
  | _ => []

/-- A fibre that no longer awaits some results and records. -/
def loseIds (x : Fibre) (ids : List Nat) : Fibre :=
  { x with lls := x.lls.filter fun l => ! ids.contains l.id, accs := x.accs.filter fun a => ! ids.contains a.id }

/-- Ends a fibre that does not end itself (R41, R226, R300): its held output and its waits are gone with what they would have brought, then it ends; its
lane empties once its other results have returned. `kill` says that it is killed, not rolled back (R487). -/
def stopFibre (s : State) (f : FRef) (kill : Bool) : State :=
  let held := (getCore s f.core).parts.flatMap fun p => (p.2.buffer.filter fun e => decide (e.f = f) && match e.cmd with | .packet _ h => h | _ => false).flatMap entryIds
  let s := dropHeld s f
  let s := modFib s f fun x =>
    let x := loseIds x (x.waits.flatMap lostIds ++ (x.held.flatMap fun h => [h.q.acc, h.q.ll]) ++ held ++ (x.accs.filter fun a => a.arrive.isSome).map Acc.id)
    { x with waits := [], held := [], commit := false }
  let s := modCore s f.core fun k => { k with parts := k.parts.map fun p => (p.1, { p.2 with buffer := p.2.buffer.filter fun e =>
    ! (decide (e.f = f) && (match e.cmd with | .refill | .frameRead => true | _ => false)) }) }
  endFibre (settleFences (freeWaiters s f kill) f.core) f

/-- Kills a fibre (R41). -/
def killFibre (s : State) (f : FRef) : State := stopFibre s f true

/-- The power tokens that a matrix command in a packet holds, where it is one of some fibres' (R55). -/
def bodyTokens (mine : MatCmd → Bool) : Body → Nat
  | .matrix c => if mine c then c.tokens else 0
  | _ => 0

/-- The power tokens of the matrix commands that stand in an issue-buffer entry. -/
def entryTokens (mine : MatCmd → Bool) (e : BufEntry) : Nat :=
  match e.cmd with
  | .packet p _ => bodyTokens mine p.body
  | _ => 0

/-- The power tokens of some matrix commands, wherever they stand: in issue buffers, in the mesh, in the blocks' queues (R55). -/
def tokensWhere (s : State) (mine : MatCmd → Bool) : Nat :=
  (s.cores.flatMap fun e => e.2.parts.flatMap fun p => p.2.buffer.map (entryTokens mine)).sum + (s.mesh.map fun p => bodyTokens mine p.body).sum +
    (s.blocks.flatMap fun b => b.2.leases.flatMap fun l => (l.2.queue.filter mine).map MatCmd.tokens).sum

/-- Ends a combiner wave whose method faults (R55, R197, R413): its fibres end at once, writes not yet performed never are, the tokens of its matrix
commands return, every lane receives FAULT, the object is poisoned. -/
def waveFault (s : State) (core slot : Nat) : State :=
  match getGroup s core slot with
  | none => s
  | some g =>
    match g.kind with
    | .wave pa wid =>
      let fs : List FRef := (lanesOf s core slot).map fun l => ⟨core, slot, l⟩
      let s := returnTokens s (tokensWhere s fun c => fs.contains c.f)
      let k := getCore s core
      let bodies := s.mesh.map Packet.body ++ (k.sendQ.map fun e => e.packet.body) ++ s.slices.flatMap fun e =>
        (match e.2.migration with | some m => m.held.map Packet.body | none => [])
      let lost := (bodies.flatMap (writesOf fs)) ++ (k.parts.flatMap fun p => (p.2.buffer.filter fun e => fs.contains e.f).flatMap entryIds) ++
        ((k.copyQ.filter fun c => fs.contains c.f).map CopyCmd.acc) ++
        (s.stackUnits.flatMap fun u => (u.2.queue.filter fun c => fs.contains c.f && ! c.finished).map PumpCmd.acc) ++
        (s.blocks.flatMap fun b => b.2.leases.flatMap fun l => (l.2.queue.filter fun c => fs.contains c.f).map MatCmd.acc)
      let keep := fun (b : Body) => (writesOf fs b).isEmpty
      let s := { s with
        mesh := s.mesh.filter fun p => keep p.body
        slices := s.slices.map fun e => (e.1, { e.2 with
          migration := e.2.migration.map fun m => { m with held := m.held.filter fun p => keep p.body }
          frames := e.2.frames.filter fun x => ! fs.contains x.f })
        stackUnits := s.stackUnits.map fun u => (u.1, { u.2 with queue := u.2.queue.filter fun c => ! (fs.contains c.f && ! c.finished) })
        blocks := s.blocks.map fun b => (b.1, { b.2 with leases := b.2.leases.map fun l => (l.1, { l.2 with queue := l.2.queue.filter fun c => ! fs.contains c.f }) }) }
      let s := modCore s core fun k => { k with
        sendQ := k.sendQ.filter fun e => keep e.packet.body
        copyQ := k.copyQ.filter fun c => ! fs.contains c.f
        parts := k.parts.map fun p => (p.1, { p.2 with buffer := p.2.buffer.filter fun e => ! fs.contains e.f })
        objectsTable := k.objectsTable.map fun e => if e.pa = pa then { e with poisoned := true } else e }
      let lanes := ((getCore s core).waves.find? fun w => w.wid = wid).map Wave.lanes
      let s := modCore s core fun k => { k with waves := k.waves.filter fun v => v.wid ≠ wid }
      let s := (lanes.getD []).foldl (fun s q => combineReply s core q true []) s
      let s := leaveBatch s core slot (fs.map fun f => f.lane)
      fs.foldl (fun s f => killFibre (modFib s f fun x => loseIds x lost) f) s
    | _ => s

/-! ## Matrix commands -/

/-- Bits per element of a matrix operand format (R145). -/
def fmtBits (f : Nat) : Nat := if f = 3 ∨ f = 4 then 16 else if f = 5 ∨ f = 6 ∨ f = 8 then 8 else 4

/-- Steps of a group (R453). -/
def groupSteps (c : MatCmd) : Nat :=
  let w := max (fmtBits c.fa) (fmtBits c.fb)
  w / 2 / (if c.op = 1 then 2 else 1)

/-- Whether a matrix command waits on faults (R230, R459). -/
def cmdStuck (c : MatCmd) : Bool := c.stopped.isSome || (decide (c.op = 5) && c.lanes.all (fun l => l.done || l.fault.isSome) && c.lanes.any fun l => l.fault.isSome)

/-- Whether a command that is not stopped stands inside an open group, which its block completes before it lets go of it (R453). -/
def midGroup (c : MatCmd) : Bool :=
  let n := max 1 (groupSteps c)
  ! cmdStuck c && ((decide (c.op ≤ 1) && decide (c.step % n ≠ 0)) ||
    (decide (c.op = 5) && c.lanes.any fun l => ! l.done && l.fault.isNone && decide (l.step % n ≠ 0)))

/-! ## Team faults -/

/-- The task of a fibre's team. -/
def taskOf (s : State) (f : FRef) : Nat := ((teamOf s f).map fun t => t.2.task).getD 0

/-- The task whose extents and queues a fibre reaches (R483): the sump fibre belongs to none, given here as a number that no task has. -/
def extTask (s : State) (f : FRef) : Nat := ((teamOf s f).map fun t => t.2.task).getD 1000

/-- A team halts (R75, R295, R453): its fibres stop, its claims leave the queue, the tokens of its candidates return, its commands are discarded,
one with an open group once that is complete, its leases end, its sections are abandoned, its waiters are freed. -/
def haltTeam (s : State) (core team : Nat) : State :=
  match getTeam s core team with
  | none => s
  | some t =>
    if t.halted then s
    else
      let fs := teamFibres s core team
      let slots := teamSlots s core team
      let s := modTeam s core team fun t => { t with halted := true }
      let s := slots.foldl (fun s sl =>
        match (getPart s core (slotPart sl)).batch with
        | some b => if b.slot = sl then returnTokens (modPart s core (slotPart sl) fun p => { p with batch := none }) b.tokens else s
        | none => s) s
      let aside := (getCore s core).stoppedBatches.filter fun e => slots.contains e.2.slot
      let granted := s.tokenHeld.filter fun e => decide (e.1 = core) && slots.contains e.2.1
      let s := modCore s core fun k => { k with
        claims := k.claims.filter fun c => ! slots.contains c.1
        stoppedBatches := k.stoppedBatches.filter fun e => ! slots.contains e.2.slot }
      let s := { s with
        tokenHeld := s.tokenHeld.filter fun e => ! (decide (e.1 = core) && slots.contains e.2.1)
        tokenQ := s.tokenQ.filter fun e => ! (decide (e.1 = core) && slots.contains e.2.1) }
      let gone := fun (c : MatCmd) => decide (c.f.core = core) && (fs.contains c.f || decide (c.team = team)) && ! midGroup c
      let lost := (s.blocks.flatMap fun e => e.2.leases.flatMap fun l => l.2.queue.filter gone).map MatCmd.tokens
      let s := { s with blocks := s.blocks.map fun e => (e.1, { e.2 with
        leases := e.2.leases.map fun l =>
          let mine := decide (l.2.core = core ∧ l.2.team = team)
          (l.1, { l.2 with
            queue := (l.2.queue.filter fun c => ! gone c).map fun c => if mine then { c with cut := true } else c
            ending := l.2.ending || mine })
        requests := e.2.requests.filter fun r => ! (decide (r.core = core) && decide (r.team = team)) }) }
      let s := returnTokens s ((aside.map fun e => e.2.tokens) ++ (granted.map fun e => e.2.2.2) ++ lost).sum
      let s := (slots.filter fun sl => match getGroup s core sl with | some g => (match g.kind with | .wave _ _ => true | _ => false) | none => false).foldl (fun s sl => waveFault s core sl) s
      fs.foldl (fun s f => freeWaiters (abandonSections s f) f true) s

/-- The PC of the instruction at which a fibre stands: its batch's while it is in a run. -/
def faultPc (s : State) (f : FRef) : Word :=
  match (getPart s f.core (slotPart f.slot)).batch with
  | some b => if b.slot = f.slot ∧ b.lanes.contains f.lane then b.pc else ((getFib s f).map Fibre.pc).getD 0
  | none => ((getFib s f).map Fibre.pc).getD 0

/-- A fibre to name where a team fault is no one fibre's: the team's first. -/
def teamHead (s : State) (core team : Nat) : FRef := (teamFibres s core team).headD ⟨core, (teamSlots s core team).headD 0, 0⟩

/-- A team fault (R295, R296): the team halts, and a record of kind "team fault" with DET `det` is posted, which names the fibre and the instruction
that caused it; a halted team takes no other. -/
def teamFault (s : State) (core team : Nat) (f : FRef) (pc : Word) (det : Nat) : State :=
  match getTeam s core team with
  | none => s
  | some t =>
    if t.halted then s
    else
      let gen := fibGen s f
      postFaults (haltTeam s core team) core t.slice [{
        va := 0, lanes := 0, pc := pc, fkind := 5, acc := 0, det := det, who := whoWord t.task gen f.slot core, tag := 0 }]

/-- The team fault of a fibre's team; the sump fibre, which has no team, ends (R223, R295). -/
def fibreTeamFault (s : State) (f : FRef) (det : Nat) : State :=
  match teamOf s f with
  | some (n, _) => teamFault s f.core n f (faultPc s f) det
  | none =>
    let s := postFaults s f.core (sliceOf s f) [{
        va := 0, lanes := 1, pc := ((getFib s f).map Fibre.pc).getD 0, fkind := 5, acc := 0,
        det := det, who := whoWord 0xFF (fibGen s f) 0 f.core, tag := 0 }]
    endFibre s f

/-! ## Building packets -/

/-- The span port a package is reached through, by CTL.DOMROUTE (R321); none above 11. (DEDUCED, log 58) -/
def spanPort (s : State) (core pkg : Nat) : Option Nat :=
  let v := (ctlCopy s core 0x010).toNat / 16 ^ pkg % 16
  if v < 12 then some v else none

/-- The router that a packet for `dst` of package `pkg` goes to in this package (R30). (DEDUCED, log 58) -/
def routerFor (s : State) (core dst pkg : Nat) : Nat :=
  if pkg = pkgNum s then dst else ((spanPort s core pkg).map spanRouter).getD dst

/-- A packet that has not entered the mesh. -/
def newPacket (s : State) (vc : VC) (kind src dst dpkg flits : Nat) (tags : BitVec 18) (body : Body) : Packet × State :=
  let (id, s) := freshId s
  ({ id := id, vc := vc, kind := kind, cls := 0, src := src, spkg := pkgNum s, dst := dst, dpkg := dpkg, tags := tags,
     flits := flits, order := id, pos := src, side := 6, yxHalf := false, pinned := none, arrived := false, came := s.clk, noMerge := false, body := body }, s)

/-- An entry that holds one packet of a fibre's command. -/
def packetEntry (eid : Nat) (f : FRef) (acc : Nat) (p : Packet) : BufEntry :=
  { entry := eid, f := f, pc := 0, acc := acc, cmd := .packet p false }

/-! ## Issue buffers -/

/-- A record of an access of a fibre, at the end of its order. -/
def addAcc (s : State) (f : FRef) (a : Acc) : State := modFib s f fun x => { x with accs := x.accs ++ [a] }

/-- Puts an entry into a partition's issue buffer without a wait. -/
def bufAdd (s : State) (core part : Nat) (e : BufEntry) : State := modPart s core part fun p => { p with buffer := p.buffer ++ [e] }

/-- Makes a fibre wait at its run end for an entry (R53). -/
def waitEntry (s : State) (f : FRef) (eid : Nat) : State :=
  modFib s f fun x => { x with waits := if x.waits.contains (.accepted eid) then x.waits else x.waits ++ [.accepted eid] }

/-- The issue-buffer entry of an instruction whose unit takes its request as it is: the lanes of `act` still in the batch park until it has been
accepted (R53). -/
def signalEntry (s : State) (is : Issue) (act : List Nat) : State :=
  let lanes := act.filter fun l => inBatch s (is.fref l)
  if lanes.isEmpty then s
  else
    let (eid, s) := freshId s
    let s := bufAdd s is.core is.part { entry := eid, f := is.fref (lanes.headD 0), pc := is.pc, acc := 0, cmd := .signal }
    lanes.foldl (fun s l => waitEntry s (is.fref l) eid) s

/-! ## Page faults -/

/-- ACC of a fault record (R296): path bit and kind of access. -/
def accCode (p : Path) (kind : Nat) : Nat :=
  (match p with
   | .ls => 0 | .cp => 1 | .mx => 2 | .tr => 3 | .pm => 4 | .ms => 5 | .rb => 6) + kind * 8

/-- The batch of records of one instruction's postings (R297): one record per distinct page, by lowest lane, at most 32. A sump fibre, which has no
group slot, is named by task 0xFF. (DESIGN CHOICE, log 71) -/
def recordsOf (s : State) (l : List Posting) : List FaultRec :=
  let page := fun (p : Posting) => (p.va.toNat / 65536, p.kind)
  let pages := l.foldl (fun (a : List (Nat × Nat)) p => if a.contains (page p) then a else a ++ [page p]) []
  (pages.filterMap fun g =>
    (l.find? fun p => page p = g).map fun p =>
      { va := p.va, lanes := BitVec.ofNat 32 ((l.filter fun q => page q = g).foldl (fun (a : Nat) q => a ||| 2 ^ q.f.lane) 0), pc := p.pc, fkind := p.kind,
        acc := p.acc, det := 0, who := whoWord (taskOf s p.f) (fibGen s p.f) p.f.slot p.f.core, tag := (replyTag (fibGen s p.f) p.f.lane).setWidth 64 }).take 32

/-- Sends the fault records gathered during a step, one batch for each instruction that faulted (R233, R297). -/
def flushFaults (s : State) : State :=
  let key := fun (p : Posting) => (p.f.core, p.f.slot, p.pc)
  let keys := s.postings.foldl (fun (a : List (Nat × Nat × Word)) p => if a.contains (key p) then a else a ++ [key p]) []
  let all := s.postings
  keys.foldl (fun s k =>
    match all.filter fun p => key p = k with
    | p :: t => postFaults s p.f.core (sliceOf s p.f) (recordsOf s (p :: t))
    | [] => s) { s with postings := [] }

/-- Page faults of an instruction (R297): each faulting fibre parks on its mailbox with what it does again on REPLAY, and its part of the records is
gathered. `flts` lists lane, address, FKIND and the retry, ascending by lane. -/
def postPageFaults (s : State) (core slot : Nat) (pc : Word) (acc : Nat) (flts : List (Nat × DWord × Nat × Retry)) : State :=
  let s := flts.foldl (fun s e => modFib s ⟨core, slot, e.1⟩ fun x => { x with waits := x.waits ++ [.mailbox pc e.2.1 e.2.2.2] }) s
  { s with postings := s.postings ++ flts.map fun e => { f := ⟨core, slot, e.1⟩, pc := pc, acc := acc, va := e.2.1, kind := e.2.2.1 } }

/-! ## Rollback and errors consumed -/

/-- Rolls an activation back (R41, R300): the fibre of its message ends without HEND, its held output is freed with the
credits of held hit records returned, and the message goes to the head of its binding's waiting messages; a third time the team
faults. -/
def rollback (s : State) (f : FRef) : State :=
  match getFib s f with
  | none => s
  | some x =>
    match x.origin.redeliver with
    | none => fibreTeamFault s f 0xFF05
    | some id =>
      match (getCore s f.core).redeliver.find? fun e => e.1 = id with
      | none => fibreTeamFault s f 0xFF05
      | some (_, m) =>
        if 2 ≤ m.retries then fibreTeamFault s f 0xFF06
        else
          let s := modCore s f.core fun k => { k with
            inbox := { m with retries := m.retries + 1 } :: k.inbox
            redeliver := k.redeliver.filter fun e => e.1 ≠ id }
          stopFibre s f false

/-- An uncorrectable error is consumed by a fibre (R304): rollback with RST = 1, else a team fault with DET 0xFF, 0x05. -/
def consumeError (s : State) (f : FRef) (struct : Nat) : State :=
  match getFib s f with
  | none => s
  | some x =>
    let s := bump (logError s 0x02 struct f.core f.core 0xFFFF (sliceOf s f) 0) f.core 0x020 1
    if fsrRST x then rollback s f else fibreTeamFault s f 0xFF05

/-! ## Taking an exception -/

/-- A trap: class and detail (R291), OPND of class 1, the faulting address, AUX. -/
structure TrapInfo where
  cls : Nat
  detail : Nat
  opnd : Nat
  addr : DWord
  aux : DWord
  deriving DecidableEq, Repr

/-- A trap with no operand, address or key. -/
def trapOf (cls detail : Nat) : TrapInfo := ⟨cls, detail, 0, 0, 0⟩

/-- A trap with its faulting address. -/
def trapAt (cls detail : Nat) (addr : DWord) : TrapInfo := ⟨cls, detail, 0, addr, 0⟩

/-- The trap frame as 16 words (R292). -/
def frameWords (x : Fibre) (pc : Word) (raw : Bits96) (t : TrapInfo) : List Word :=
  let npc := if t.cls = 11 ∨ t.cls = 12 then nextPc pc else pc
  [pc, npc, fsrOf x, BitVec.ofNat 32 (t.cls % 256 + t.detail % 256 * 256 + t.opnd % 65536 * 65536), loHalf t.addr, hiHalf t.addr,
   raw.extractLsb' 0 32, raw.extractLsb' 32 32, raw.extractLsb' 64 32, x.sig.setWidth 32, loHalf t.aux, hiHalf t.aux, 0, 0, 0, 0]

/-- The address of a fibre's trap frame (R292). -/
def frameAddr (s : State) (f : FRef) : DWord :=
  stackArea s f + sliceCtl s f.core (sliceOf s f) 0x105 - 64

/-- The vector of a trap class: the PC of a valid entry that is a marked slot of the team's code object (R274). (DESIGN CHOICE, log 21) -/
def vectorOf (s : State) (f : FRef) (cls : Nat) : Option Word :=
  match teamOf s f, codeObjOf s f with
  | some (_, t), some o =>
    let e := t.vectors.getD cls 0
    let pc := e.toNat % 2 ^ 19
    if e.getLsbD 63 ∧ isTarget s f.core o pc then some (BitVec.ofNat 32 pc) else none
  | _, _ => none

/-- Whether two places overlap. -/
def locsMeet (l : Option Loc) (n : Nat) (m : Option Loc) (k : Nat) : Bool :=
  match l, m with
  | some (.phys a), some (.phys b) => decide (a < b + k ∧ b < a + n)
  | some (.cist c a), some (.cist d b) => decide (c = d ∧ a < b + k ∧ b < a + n)
  | _, _ => false

/-- Whether two accesses of one fibre on one path may touch the same bytes (R176): an access whose page is still to come may touch any. -/
def accsMeet (a : Option Loc) (n : Nat) (b : Option Loc) (m : Nat) : Bool :=
  decide (n ≠ 0 ∧ m ≠ 0) && (a.isNone || b.isNone || locsMeet a n b m)

/-- Whether an access of the fibre that came before holds back one to the `n` bytes at `a` of its stack area, on LS at fibre scope (R176,
R184, R185, R293, R366): it stands earlier in program order. (DEDUCED, log 66) -/
def stackHeld (s : State) (f : FRef) (x : Fibre) (write : Bool) (a : DWord) (n : Nat) : Bool :=
  let parts := partsOf 3 a.toNat n
  x.accs.any fun b =>
    match b.fence with
    | some .acq | some .ar => true
    | some .rel => write
    | some (.paths _ dst) => inMask dst .ls
    | none =>
      inMask b.acq .ls || (b.path == .ls && parts.any fun p =>
        match translate s f.core (sliceOf s f) (fsrPRV x) (BitVec.ofNat 64 p.1) p.2 (if write then .wr else .rd) false with
        | .ok t => accsMeet (b.loc.map (placeNow s)) b.size (some (placeNow s t.loc)) p.2
        | _ => false)

/-- Step 2 and 3 of trap entry (R293): the frame is written on LS, the fibre becomes a candidate at the vector PC with PP and PFMT
cleared. A frame page not present is posted; a protection or null violation is a team fault with the trap's class and detail. -/
def writeFrame (s : State) (f : FRef) (words : List Word) (cls detail : Nat) : State :=
  match getFib s f, vectorOf s f cls with
  | some x, some vec =>
    let a := frameAddr s f
    match rangeFails s f.core (sliceOf s f) (fsrPRV x) .wr a.toNat 64 with
    | some (va, .page k) => postPageFaults s f.core f.slot x.pc (accCode .ls 1) [(f.lane, BitVec.ofNat 64 va, k, .frame words cls detail)]
    | some _ => fibreTeamFault s f (cls * 256 + detail)
    | none =>
      let s := virtWrite s f.core (sliceOf s f) (fsrPRV x) a.toNat (bytesOf words) 0
      modFib s f fun x => { clearPrefix x with pc := vec, next := none, inTrap := true, sigNew := true }
  | _, _ => fibreTeamFault s f (cls * 256 + detail)

/-- Whether a wait stands between a trap entry and its routine (R293). -/
def entersTrap : Wait → Bool
  | .stack _ (.frame _ _ _) | .mailbox _ _ (.frame _ _ _) => true
  | _ => false

/-- TAKING AN EXCEPTION (R293): the fibre leaves its batch, earlier short-latency results land, its frame is written and it goes on
at its team's vector, once no earlier access holds the frame's write back; the entry is a team fault where the vector is invalid, the stride below 64, or a routine already runs. A trap
in a combiner method ends its wave instead (R413). (DEDUCED, log 66) -/
def takeTrap (s : State) (f : FRef) (pc : Word) (t : TrapInfo) : State :=
  let s := leaveBatch s f.core f.slot [f.lane]
  let s := modFib s f fun x => { flushPend 9 x with pc := pc, next := none, mates := [], sigOnKept := x.sigOn, sigNewKept := x.sigNew }
  let inWave : Bool := match getGroup s f.core f.slot with
    | some g => (match g.kind with | .wave _ _ => true | _ => false)
    | none => false
  match getFib s f with
  | none => s
  | some x =>
    if inWave then waveFault s f.core f.slot
    else if x.inTrap ∨ x.waits.any entersTrap ∨ (vectorOf s f t.cls).isNone ∨ (sliceCtl s f.core (sliceOf s f) 0x105).toNat < 64 then
      fibreTeamFault s f (t.cls * 256 + t.detail)
    else
      let words := frameWords x pc (rawInstr (getCore s f.core) pc) t
      if stackHeld s f x true (frameAddr s f) 64 then modFib s f fun x => { x with waits := x.waits ++ [.stack pc (.frame words t.cls t.detail)] }
      else writeFrame s f words t.cls t.detail

/-- Takes one exception for several lanes of the issuing batch, in ascending lane order. -/
def trapLanes (s : State) (is : Issue) (lanes : List Nat) (t : TrapInfo) : State :=
  lanes.foldl (fun s l => takeTrap s (is.fref l) is.pc t) s

/-- TRET of a fibre resumes the matrix commands whose fault its routine took (R454). -/
def resumeMatrix (s : State) (f : FRef) : State :=
  let go := fun (c : MatCmd) =>
    if c.stopped = some f then { c with stopped := none }
    else { c with lanes := c.lanes.map fun l => if l.fault = some f then { l with fault := none } else l }
  { s with blocks := s.blocks.map fun b => (b.1, { b.2 with leases := b.2.leases.map fun l => (l.1, { l.2 with queue := l.2.queue.map go }) }) }

/-- RETURNING FROM AN EXCEPTION (R90, R294): reloads FSR fields from the frame's word, and the checker's state, and resumes at NPC; a changed NPC must be a
marked target, else the team faults with DET 0xFF, 0x02. -/
def returnTrap (s : State) (f : FRef) (epc npc fsr clsWord sigWord : Word) : State :=
  let s := resumeMatrix s f
  let cls := clsWord.toNat % 256
  let resume := if cls = 11 ∨ cls = 12 then nextPc epc else epc
  let pp := fsr.getLsbD 31; let pf := fld fsr.toNat 30 27
  let good := if pp then decide (1 ≤ pf ∧ pf ≤ 10) else decide (pf = 0)
  let bits : Word := (if good then fsr &&& 0xF8000000#32 else 0) ||| (fsr &&& 0x0000161F#32)
  let load := fun (x : Fibre) => { x with fsr := (x.fsr &&& 0x07FFE9E0#32) ||| bits, inTrap := false, pc := npc, next := none }
  if npc = resume then modFib s f fun x => { load x with sig := sigWord.setWidth 16, sigOn := x.sigOnKept, sigNew := x.sigNewKept }
  else
    match codeObjOf s f with
    | some o =>
      if isTarget s f.core o npc.toNat then modFib s f fun x => { load x with sigNew := true }
      else fibreTeamFault s f 0xFF02
    | none => fibreTeamFault s f 0xFF02

/-- Reads the frame for TRET (R366) and returns; a page not present is posted and replayed, a violation is a team fault. -/
def readFrame (s : State) (f : FRef) : State :=
  match getFib s f with
  | none => s
  | some x =>
    let a := frameAddr s f
    match rangeFails s f.core (sliceOf s f) (fsrPRV x) .rd a.toNat 64 with
    | some (va, .page k) => postPageFaults s f.core f.slot x.pc (accCode .ls 0) [(f.lane, BitVec.ofNat 64 va, k, .trapReturn)]
    | some _ => fibreTeamFault s f 0xFF01
    | none =>
      let r := virtRead s f.core (sliceOf s f) (fsrPRV x) a.toNat 64
      let w := wordsOf r.1
      if r.2 ≠ 0 then consumeError s f r.2
      else returnTrap s f (w.getD 0 0) (w.getD 1 0) (w.getD 2 0) (w.getD 3 0) (w.getD 9 0)

/-! ## Results at the run end -/

/-- Writes the long-latency results of a fibre whose run is over, once all have come (R48, R50), but not while its context is being saved, when they
belong to the saved in-flight state (R309); an ended fibre's are discarded and its lane empties (R41); poison is consumed (R304); the team's
watchdog starts anew (R283). -/
def settle (s : State) (f : FRef) : State :=
  match getFib s f with
  | none => s
  | some x =>
    if inBatch s f ∨ ¬ llsDone x then s
    else if x.ended then (if canRemove s f x then removeLane s f else putFib s f { x with lls := [] })
    else if x.lls.isEmpty ∨ (match teamOf s f with | some (_, t) => saving s t | none => false) = true then s
    else
      match (x.lls.map LL.poison).find? fun n => n ≠ 0 with
      | some n => consumeError (putFib s f { x with lls := [] }) f n
      | none =>
        let s := freeRqs (putFib s f { landAll x (x.lls.flatMap LL.effs) with lls := [] }) f false
        match teamOf s f with
        | some (n, _) => modTeam s f.core n fun t => { t with watchdog := 0, heard := true }
        | none => s

/-! ## The frame of an instruction -/

/-- Registers that an operand field of a use spans (R78, R336). -/
def Use.regSpan : Use → Nat
  | .zero | .fmt => 0
  | .pairDst | .pairSrc | .pair => 2
  | .quad => 4
  | _ => 1

/-- Register operands an instruction names: position (0 d, 1 a, 2 b, 3 c), code, registers spanned. -/
abbrev Named := List (Nat × Code × Nat)

/-- The register operands of an instruction, from its fields. -/
def namedOf (i : Instr) : Named :=
  let u := i.form.uses
  ((List.range u.length).zip u).map fun e => (e.1, e.2.2, Use.regSpan e.2.1)

/-- The first operand that names a register at or above A, with the register's number (R76). (DESIGN CHOICE, log 28) -/
def outOfRange (a : Nat) (ops : Named) : Option Nat :=
  ops.findSome? fun o =>
    let n := o.2.1.toNat
    if o.2.2 ≠ 0 ∧ n < 0x100 ∧ a < n + o.2.2 then some (o.1 * 256 + max n (min a 255)) else none

/-- Whether the guard holds for a fibre (R82). -/
def guardOf (h : Head) (x : Fibre) : Bool := predOf x h.gp.toNat != h.gn

/-- Lanes of the issuing batch whose fibre satisfies a test. -/
def lanesWhere (s : State) (is : Issue) (p : Fibre → Bool) : List Nat :=
  is.lanes.filter fun l => match getFib s (is.fref l) with
    | some x => p x
    | none => false

/-- Executes an instruction: a pending prefix is refused for the fibres that have one (R89, R338 check 9), the guard gives
`Activebatch` (R82), a register out of range traps all of it (R76), then the effect runs on `Activebatch`. `ops` are the register
operands the instruction names. -/
def onNamed (s : State) (h : Head) (ops : Named) (k : Issue → List Nat → State → State) : Host.Outcome State Fault Refusal :=
  match issuing s with
  | none => .next s
  | some is =>
    let bad := lanesWhere s is fsrPP
    let act := lanesWhere s is fun x => ! fsrPP x && guardOf h x
    let s := trapLanes s is bad (trapOf 0 0x08)
    if act.isEmpty then .next s
    else
      match outOfRange (allotOf s (is.fref 0)) ops with
      | some o => .next (trapLanes s is act ⟨1, 0, o, 0, 0⟩)
      | none => .next (k is act s)

/-- What an instruction gives, with the issue-buffer entry that it takes (R53): for the batch's lanes with a true guard that have not trapped. -/
def signalled (s : State) (h : Head) : Host.Outcome State Fault Refusal → Host.Outcome State Fault Refusal
  | .next t =>
    (match issuing s with
     | some is => .next (signalEntry t is (lanesWhere s is fun x => ! fsrPP x && guardOf h x))
     | none => .next t)
  | .fault r => .fault r
  | .refused r => .refused r

/-- `onNamed` with the register operands that the instruction's fields name. -/
def onActive (s : State) (i : Instr) (h : Head) (k : Issue → List Nat → State → State) : Host.Outcome State Fault Refusal :=
  onNamed s h (namedOf i) k

/-- The same for an instruction that accepts a prefix: every fibre of the batch consumes its prefix, whatever its guard (R89); the
effect receives the format each lane's prefix named. A lane that traps keeps its prefix (R14). -/
def onPrefixed (s : State) (h : Head) (ops : Named) (k : Issue → List (Nat × Option Nat) → State → State) :
    Host.Outcome State Fault Refusal :=
  match issuing s with
  | none => .next s
  | some is =>
    let act := lanesWhere s is (guardOf h)
    let pf := act.map fun l => (l, (getFib s (is.fref l)).bind fun x => if fsrPP x then some (fsrPFMT x) else none)
    let idle := is.lanes.filter fun l => ! act.contains l
    let s := idle.foldl (fun s l => modFib s (is.fref l) clearPrefix) s
    if act.isEmpty then .next s
    else
      match outOfRange (allotOf s (is.fref 0)) ops with
      | some o => .next (trapLanes s is act ⟨1, 0, o, 0, 0⟩)
      | none => .next (k is pf s)

/-- Runs a per-lane effect over lanes in ascending order (R13). -/
def eachLane (lanes : List Nat) (k : State → Nat → State) (s : State) : State := lanes.foldl k s

/-- The usual short-latency effect: each lane's results from its operands, landing at a distance (R13, R49). -/
def perLane (s : State) (i : Instr) (h : Head) (dist : Nat) (k : State → Issue → Nat → Fibre → List Eff) : Host.Outcome State Fault Refusal :=
  onActive s i h fun is act s => eachLane act (fun s l => modFib s (is.fref l) fun x => addPends x dist (k s is l x)) s

/-- The same for a long-latency instruction whose result the core computes itself: written at the run end (R48). -/
def perLaneLong (s : State) (i : Instr) (h : Head) (k : State → Issue → Nat → Fibre → List Eff) : Host.Outcome State Fault Refusal :=
  onActive s i h fun is act s => eachLane act (fun s l =>
    let (id, s) := freshId s
    modFib s (is.fref l) fun x => addKnown x id (k s is l x)) s

end Sys2Proof.Machine
end

