-- ==== Sys2Proof/Machine/Run.lean ====
section
/-!
DEFINITION. What a partition does around an instruction: the line and pipe checks (R328, R329, R338), packets and runs (R43-R47),
the signature checker (R254, R255, R301, R302), the landing of results (R49, R339), the run end, the clock, and the waits that end
by themselves.
-/
namespace Sys2Proof.Machine

/-! ## The opcode map's pipes -/

/-- The pipe of an opcode: 0 none, 1 A, 2 F, 3 M, 4 E (R340); an opcode that R340 does not list needs none (R329, R338, R341). -/
def pipeOf (opc : Nat) : Nat :=
  if opc = 0 then 0
  else if opc = 0x00B ∨ opc = 0x00C ∨ opc = 0x00D ∨ opc = 0x010 ∨ opc = 0x014 ∨ (0x080 ≤ opc ∧ opc < 0x0A3) then 1
  else if (0x100 ≤ opc ∧ opc < 0x11B) ∨ (0x180 ≤ opc ∧ opc < 0x18A) then 2
  else if opc = 0x017 ∨ (0x200 ≤ opc ∧ opc < 0x20D) ∨ opc = 0x210 ∨ opc = 0x211 ∨ (0x280 ≤ opc ∧ opc < 0x295) ∨ opc = 0x381 ∨ opc = 0x382 ∨ opc = 0x386 then 3
  else if opc < 0x01A ∨ (0x20D ≤ opc ∧ opc < 0x210) ∨ (0x300 ≤ opc ∧ opc < 0x30C) ∨ (0x380 ≤ opc ∧ opc < 0x38C) then 4
  else 0

/-- The opcodes marked Eng (R331, R340). -/
def isEng (opc : Nat) : Bool :=
  decide ((0x20D ≤ opc ∧ opc ≤ 0x20F) ∨ (0x300 ≤ opc ∧ opc ≤ 0x308) ∨ opc = 0x30B ∨ opc = 0x380 ∨ opc = 0x384 ∨ opc = 0x385 ∨ opc = 0x389 ∨ opc = 0x38B)

/-- The opcodes that draw a power token (R53, R340). -/
def drawsToken (opc : Nat) : Bool := opc == 0x302 || opc == 0x303 || opc == 0x30B

/-- The branches after which a block starts (R255). -/
def isBranchOpc (opc : Nat) : Bool := decide (1 ≤ opc ∧ opc ≤ 5)

/-- The opcode of a slot. -/
def slotOpc (k : Core) (line slot : Nat) : Nat := (lineWord k line (3 * slot + 2)).toNat / 2 ^ 22

/-- The line word of a line. -/
def lwOf (k : Core) (line : Nat) : Word := lineWord k line 15

/-- The run-end bit of a slot (R326). -/
def runEndBit (k : Core) (pc : Word) : Bool := (lwOf k (pc.toNat / 64)).getLsbD (13 + pc.toNat % 64 / 12)

/-- Whether a packet ends after the slot, `count` instructions of the run having issued before it (R329). -/
def packetEndsAt (k : Core) (pc : Word) (count : Nat) : Bool :=
  let w := lwOf k (pc.toNat / 64); let j := pc.toNat % 64 / 12
  decide (4 ≤ j) || w.getLsbD (18 + j) || w.getLsbD (13 + j) || w.getLsbD (8 + j + 1) || decide (23 ≤ count)

/-- The opcodes of the packet that starts at a PC. -/
def packetOpcs (k : Core) : Nat → Word → Nat → List Nat
  | 0, _, _ => []
  | fuel + 1, pc, count =>
    slotOpc k (pc.toNat / 64) (pc.toNat % 64 / 12) :: (if packetEndsAt k pc count then [] else packetOpcs k fuel (pc + 12) (count + 1))

/-- A packet needs each pipe at most once (R329). -/
def pipesOk (opcs : List Nat) : Bool := [1, 2, 3, 4].all fun p => decide ((opcs.filter fun o => pipeOf o = p).length ≤ 1)

/-- The parity of the ones of a number below 2^64. -/
def onesOdd (n : Nat) : Bool :=
  let n := n ^^^ n / 2 ^ 32
  let n := n ^^^ n / 2 ^ 16
  let n := n ^^^ n / 2 ^ 8
  let n := n ^^^ n / 2 ^ 4
  let n := n ^^^ n / 2 ^ 2
  (n ^^^ n / 2) % 2 == 1

/-- The parity bits P7-P0 of a line's instruction field of 480 bits, each over 60 (R326, R327). -/
def lineParity (words : List Word) : Nat :=
  let field := (words.take 15).foldr (fun w n => n * 2 ^ 32 + w.toNat) 0
  (List.range 8).foldl (fun n j => n + if onesOdd (field / 2 ^ (60 * j) % 2 ^ 60) then 2 ^ j else 0) 0

/-- Whether the parity bits of a line's words fit its instruction field (R142). -/
def parityOk (words : List Word) : Bool := lineParity words == (words.getD 15 0).toNat / 2 ^ 24

/-- Whether a test of the same structure stands already, which an error joins (R305); HBM4 data is tested channel by channel (R303, R488). -/
def testJoined (s : State) (e : ErrorSpec) : Bool :=
  s.tests.any fun t => decide (t.e.struct = e.struct ∧ t.e.core = e.core ∧ t.e.stack = e.stack ∧ t.e.part = e.part) &&
    (decide (e.struct ≠ 0x09) || decide (Config.channelOf (blockOf t.e.addr) = Config.channelOf (blockOf e.addr)))

/-- The structure of an error is to be tested (R305). -/
def addTest (s : State) (e : ErrorSpec) : State :=
  if testJoined s e then s else { s with tests := s.tests ++ [{ e := e, started := false }] }

/-- A parity error of a line at fetch (R142, R305, R327): the line is invalid until its refetch, the error logged and counted as corrected, the store to
be tested. -/
def parityError (s : State) (core line slice : Nat) : State :=
  let s := bump (logError s 0x0B 0x05 core core 0xFFFF slice (BitVec.ofNat 64 line)) core 0x01C 1
  addTest (modCore s core fun k => { k with codeBad := k.codeBad ++ [line] })
    { struct := 5, core := core, stack := 0, addr := line, part := 0, corrected := true, synd := 0 }

/-- The line checks, in order: the detail of the first that fails (R328). -/
def lineBad (k : Core) (line : Nat) : Option Nat :=
  let w := (lwOf k line).toNat
  if w % 128 = 0x53 then some 0x0C
  else if fld w 23 22 ≠ 0 ∨ w % 128 ≠ 0 then some 0x02
  else if (w / 128 % 2 = 1) ≠ ((List.range 5).any fun j => isEng (slotOpc k line j)) then some 0x0B
  else none

/-! ## Signatures -/

/-- Whether a code object is signed: its last line is a signature line (R254). -/
def objSigned (k : Core) (o : CodeObj) : Bool := (lwOf k (o.first + o.lines - 1)).toNat % 128 == 0x53

/-- The signature of a block start, from the object's table (R254). -/
def sigEntry (k : Core) (o : CodeObj) (pc : Nat) : Option (BitVec 16) :=
  let head := o.first + o.lines - 1
  let n := (lineWord k head 0).toNat; let t := (lineWord k head 1).toNat
  let want := (pc / 64 - o.first) * 8 + pc % 64 / 12
  ((List.range (min n (15 * t))).findSome? fun j =>
    let e := (lineWord k (head - t + j / 15) (j % 15)).toNat
    if e / 65536 = want then some (BitVec.ofNat 16 e) else none)

/-- The start of the block that holds a PC, walking back in straight-line order (R255). -/
def blockStart (k : Core) (o : CodeObj) (entry : Nat) : Nat → Nat → Nat
  | 0, pc => pc
  | fuel + 1, pc =>
    if pc = entry ∨ isMarked k pc ∨ pc ≤ 64 * o.first then pc
    else
      let prev := if pc % 64 = 0 then pc - 64 + 48 else pc - 12
      if isBranchOpc (slotOpc k (prev / 64) (prev % 64 / 12)) then pc else blockStart k o entry fuel prev

/-- A signature mismatch (R302): logged, counted, the partition's pipes go to self-test, and the fibres consume an error. -/
def sigMismatch (s : State) (core part : Nat) (fs : List FRef) : State :=
  let s := bump (logError s 0x0A 0x07 core core 0xFFFF (sliceOf s (fs.headD ⟨core, 0, 0⟩)) 0) core 0x024 1
  let s := addTest s { struct := 0x07, core := core, stack := 0, addr := 0, part := part, corrected := false, synd := 0 }
  fs.foldl (fun s f => consumeError s f 0x07) s

/-- The checker at a block exit (R255): the exit byte is fed and the value compared with the block's entry. -/
def sigExit (s : State) (is : Issue) (lanes : List Nat) (taken : Bool) : State :=
  match codeObjOf s (is.fref (lanes.headD 0)) with
  | none => s
  | some o =>
    let k := getCore s is.core
    let entry := ((teamOf s (is.fref (lanes.headD 0))).map fun t => t.2.entry.toNat).getD 0
    let start := blockStart k o entry (5 * o.lines + 1) is.pc.toNat
    let bad := lanes.filter fun l =>
      match getFib s (is.fref l), sigEntry k o start with
      | some x, some e => objSigned k o && (ctlCopy s is.core 0x005).getLsbD 0 && x.sigOn &&
          decide (crcByte x.sig (if taken then 1 else 0) ≠ (if taken then e ^^^ 0x1021 else e))
      | _, _ => false
    let s := lanes.foldl (fun s l => modFib s (is.fref l) fun x => { x with sigNew := true }) s
    if bad.isEmpty then s else sigMismatch s is.core is.part (bad.map is.fref)

/-! ## Before an instruction -/

/-- Traps every lane of the issuing batch. -/
def trapAll (s : State) (is : Issue) (t : TrapInfo) : State := trapLanes s is is.lanes t

/-- Whether the instruction at a PC starts a block whatever stands before it (R255): a marked slot, or the launch entry. (DEDUCED, log 62) -/
def isBlockStart (s : State) (is : Issue) (pc : Word) : Bool :=
  isMarked (getCore s is.core) pc.toNat || (match teamOf s (is.fref (is.lanes.headD 0)) with | some t => t.2.entry == pc | none => false)

/-- The lanes of a batch that stand at a block start (R255). -/
def sigFresh (s : State) (is : Issue) : List Nat :=
  is.lanes.filter fun l => match getFib s (is.fref l) with | some x => x.sigNew | none => false

/-- Whether a batch stands at a block start that its object's table does not name (R302). (DEDUCED, log 62) -/
def sigRefused (s : State) (is : Issue) (o : CodeObj) : Bool :=
  let k := getCore s is.core
  ! (sigFresh s is).isEmpty && (ctlCopy s is.core 0x005).getLsbD 0 && objSigned k o && (sigEntry k o is.pc.toNat).isNone

/-- A block start is reached (R255): the value restarts. (DEDUCED, log 62) (DEDUCED, log 100) -/
def sigStart (s : State) (is : Issue) : State :=
  let on := (ctlCopy s is.core 0x005).getLsbD 0
  (sigFresh s is).foldl (fun s l => modFib s (is.fref l) fun x => { x with sig := 0xFFFF, sigOn := on, sigNew := false }) s

/-- Whether a fibre has taken a trap between two states: its routine is entered, or its team has halted for it. -/
def trapTaken (s t : State) (f : FRef) : Bool :=
  let halted := fun (s : State) => ((teamOf s f).map fun e => e.2.halted).getD false
  match getFib s f, getFib t f with
  | some x, some y => (! x.inTrap && (y.inTrap || y.waits.any entersTrap)) || (! halted s && halted t)
  | _, _ => false

/-- The trap of a block start without an entry, class 8, detail 0x01 (R302): of the batch's fibres, those that the instruction itself would trap take that
trap, which the order of R290 puts first; `out` is what the instruction gives. (DEDUCED, log 62) -/
def sigTrap (s : State) (out : Host.Outcome State Fault Refusal) : State :=
  match issuing s with
  | none => s
  | some is =>
    match codeObjOf s (is.fref (is.lanes.headD 0)) with
    | none => s
    | some o =>
      if sigRefused s is o then
        trapLanes s is (is.lanes.filter fun l => match out with | .next t => ! trapTaken s t (is.fref l) | _ => true) (trapOf 8 0x01)
      else s

/-- What the whole of a packet reads is kept as it issues (R52, R332). -/
def packetReads (s : State) (core : Nat) (b : Batch) : Batch :=
  { b with
    seen := b.lanes.filterMap fun l => (getFib s ⟨core, b.slot, l⟩).map fun x => (l, fsrOf x, x.spill)
    live := lanesOf s core b.slot }

/-- Everything before the instruction at hand acts: the object bound, the line's parity or a refetch in progress, line and pipe checks, decoding, then the block
start (R290); `none` where nothing is executed. (DEDUCED, log 62) -/
def prepare (s : State) (core part : Nat) (b : Batch) : State × Option Instr :=
  let k := getCore s core
  let is : Issue := ⟨core, part, b.slot, b.lanes, b.pc, runEndBit k b.pc⟩
  let line := b.pc.toNat / 64
  match codeObjOf s (is.fref (b.lanes.headD 0)) with
  | none => (trapAll s is (trapOf 0 0x01), none)
  | some o =>
    if ¬ inObject o b.pc.toNat then (trapAll s is (trapOf 0 0x01), none)
    else if k.codeBad.contains line then (s, none)
    else if b.line ≠ some line ∧ ! parityOk (tgetD k.code line []) then (parityError s core line o.slice, none)
    else
      match (if b.line = some line then none else lineBad k line) with
      | some d => (trapAll s is (trapOf 0 d), none)
      | none =>
        if b.atPacket ∧ ¬ pipesOk (packetOpcs k 5 b.pc b.count) then (trapAll s is (trapOf 0 0x02), none)
        else
          match decodeOn (isRay core) (rawInstr k b.pc) with
          | .error d => (trapAll s is (trapOf 0 d), none)
          | .ok i =>
            let s := if sigRefused s is o then s else sigStart s is
            let b := if b.atPacket then packetReads s core b else b
            let s := modPart s core part fun p => { p with batch := p.batch.map fun _ => { b with
              line := some line, runEnd := runEndBit k b.pc, packetEnd := packetEndsAt k b.pc b.count } }
            let s := if b.atPacket then perfEvent s core 0x02 1 none (some part) else s
            (match teamOf s (is.fref (b.lanes.headD 0)) with
             | some (n, _) => if b.atPacket then modTeam s core n fun t => { t with watchdog := 0, heard := true } else s
             | none => s, some i)

/-! ## After an instruction -/

/-- Lands a core-level effect (R102, R246, R253, R243). -/
def landCore (s : State) (core : Nat) : CoreEff → State
  | .ctl key v _ => ctlSetCopy s core key v
  | .i4t v => modCore s core fun k => { k with i4t := v }
  | .cmask keep set => modCore s core fun k => { k with classMask := (k.classMask &&& keep) ||| set }
  | .bind n w => modCore s core fun k => { k with bindings := tput k.bindings n w }

/-- Adds a core-level effect of the issuing batch at a distance in packets. -/
def addCorePend (s : State) (is : Issue) (dist : Nat) (e : CoreEff) : State :=
  modPart s is.core is.part fun p => { p with batch := p.batch.map fun b => { b with cpend := b.cpend ++ [(dist, e)] } }

/-- A packet end of a batch: results within distance one land (R49). -/
def endPacket (s : State) (core part : Nat) (b : Batch) : State :=
  let s := b.lanes.foldl (fun s l => modFib s ⟨core, b.slot, l⟩ packetEnd) s
  let s := (b.cpend.filter fun e => decide (e.1 ≤ 1)).foldl (fun s e => landCore s core e.2) s
  modPart s core part fun p => { p with batch := p.batch.map fun b => { b with
    cpend := (b.cpend.filter fun e => decide (1 < e.1)).map fun e => (e.1 - 1, e.2) } }

/-- The run end (R47, R48, R50, R339): every short-latency result lands, each fibre stands at its next PC, the batch is over and
tokens that no command took return. -/
def endRun (s : State) (core part : Nat) (b : Batch) : State :=
  let s := b.lanes.foldl (fun s l => modFib s ⟨core, b.slot, l⟩ fun x =>
    { flushPend 9 x with pc := x.next.getD (nextPc b.pc), next := none, mates := b.lanes }) s
  let s := b.cpend.foldl (fun s e => landCore s core e.2) s
  returnTokens (modPart s core part fun p => { p with batch := none }) b.tokens

/-- What follows an executed instruction: the checker is fed and, at a block's end, compares (R255); a packet end or run end acts, else the batch
stands at the next slot. (DEDUCED, log 62) -/
def advance (s : State) (core part : Nat) (i : Instr) (raw : Bits96) : State :=
  match (getPart s core part).batch with
  | none => s
  | some b =>
    let is : Issue := ⟨core, part, b.slot, b.lanes, b.pc, b.runEnd⟩
    let bytes := sigBytes i raw
    let s := b.lanes.foldl (fun s l => modFib s (is.fref l) fun x => { x with sig := bytes.foldl crcByte x.sig }) s
    let s :=
      if isBranchOpc (raw.toNat / 2 ^ 86) then
        let taken := b.lanes.filter fun l => match getFib s (is.fref l) with | some x => x.next.isSome | none => false
        let s := sigExit s is taken true
        sigExit s is (b.lanes.filter fun l => ! taken.contains l) false
      else if isBlockStart s is (nextPc b.pc) then
        sigExit s is (b.lanes.filter fun l => match getFib s (is.fref l) with | some x => x.next.isNone && ! x.sigNew | none => false) false
      else s
    match (getPart s core part).batch with
    | none => s
    | some b =>
      let s := if b.packetEnd then endPacket s core part b else s
      match (getPart s core part).batch with
      | none => s
      | some b =>
        if b.runEnd then endRun s core part b
        else if 23 ≤ b.count then bump (endRun s core part b) core 0x000 1
        else modPart s core part fun p => { p with batch := some { b with pc := nextPc b.pc, count := b.count + 1, atPacket := b.packetEnd } }

/-- A batch all of whose fibres have left is over: its tokens return and its core-level effects land. -/
def dropBatch (s : State) (core part : Nat) : State :=
  match (getPart s core part).batch with
  | some b => if b.lanes.isEmpty then endRun s core part b else s
  | none => s

/-- Whether a batch stops here (R52, R53, R73, R309, R313): its team halted, or, at a packet boundary, its team stopped; after a debugger's single step
also inside a packet. -/
def batchStopped (s : State) (core : Nat) (b : Batch) : Bool :=
  match (getGroup s core b.slot).bind fun g => if g.kind = .sump then none else getTeam s core g.team with
  | some t => t.halted || (t.stopped && (b.atPacket || (b.stepped && ! saving s t)))
  | none => (getCore s core).retired

/-- Takes a stopped team's batch off its partition; it goes on from the same instruction (R52, R313). -/
def setAside (s : State) (core part : Nat) (b : Batch) : State :=
  let s := modPart s core part fun p => { p with batch := none }
  modCore s core fun k => { k with stoppedBatches := k.stoppedBatches ++ [(part, b)] }

/-! ## Candidates -/

/-- The long-latency results that a wait of its own brings a fibre: those of FWAIT, barriers and section entries (R50's second list).
(DEDUCED, log 65) -/
def ownResults : Wait → List Nat
  | .fwait _ _ ll _ | .barrier _ _ _ _ ll _ _ | .ordered _ _ _ _ ll _ => [ll]
  | _ => []

/-- Whether a wait is one of R50's second list, in which a fibre parks by itself, behind which its issue-buffer entries stay. -/
def ownWait : Wait → Bool
  | .park _ _ | .fwait _ _ _ _ | .barrier _ _ _ _ _ _ _ | .ordered _ _ _ _ _ _ | .skip _ _ _ _ | .registers _ _ | .mailbox _ _ _ => true
  | _ => false

/-- Whether a fibre's run left something that its whole batch parks for (R50, R53): a long-latency result not yet written, or an issue-buffer
entry not yet accepted; a read of its stack area (R92, R366); or a group that SPAWN has still to make (R356). (DEDUCED, log 65) -/
def holdsBatch (x : Fibre) : Bool :=
  let own := x.waits.flatMap ownResults
  ! x.ended && ((x.lls.any fun l => ! l.done && ! own.contains l.id) ||
    ((x.waits.any fun w => match w with | .accepted _ | .stack _ _ | .spawn _ _ _ _ _ => true | _ => false) && ! x.waits.any ownWait))

/-- Whether a fibre parks with its batch (R50, R53): some fibre that ended its run with it still holds the batch. -/
def batchParked (s : State) (f : FRef) (x : Fibre) : Bool :=
  x.mates.any fun l => match getFib s ⟨f.core, f.slot, l⟩ with
    | some y => y.mates.contains f.lane && holdsBatch y
    | none => false

/-- Whether a fibre is ready (R50, R53). -/
def fibReady (s : State) (f : FRef) (x : Fibre) : Bool :=
  ! x.ended && x.waits.isEmpty && x.lls.isEmpty && x.pend.isEmpty &&
    (match teamOf s f with
     | some (_, t) => ! t.halted && ! t.stopped
     | none => true) &&
    ! ((getCore s f.core).claims.any fun c => c.1 = f.slot) && ! inBatch s f && ! batchParked s f x

/-- Insertion by group slot, then PC (R54). -/
def insCand (c : Nat × Nat) : List (Nat × Nat) → List (Nat × Nat)
  | [] => [c]
  | d :: t => if c = d then d :: t else if c.1 < d.1 ∨ (c.1 = d.1 ∧ c.2 < d.2) then c :: d :: t else d :: insCand c t

/-- The ready candidates of a partition in the rotation's order: group slot, then PC, ascending (R47, R54). -/
def candidates (s : State) (core part : Nat) : List (Nat × Nat) :=
  (s.fibres.filter fun e => e.1.core = core ∧ slotPart e.1.slot = part ∧ fibReady s e.1 e.2).foldl (fun l e => insCand (e.1.slot, e.2.pc.toNat) l) []

/-- Whether a candidate stands: ready at a slot and PC (R55, R73). -/
def candStands (s : State) (core slot pc : Nat) : Bool := (candidates s core (slotPart slot)).contains (slot, pc)

/-- Tokens and requests of candidates that no longer stand return at once (R55, R73). -/
def reclaimTokens (s : State) : State :=
  let gone := s.tokenHeld.filter fun e => ! candStands s e.1 e.2.1 e.2.2.1
  { s with
    tokensUsed := s.tokensUsed - gone.foldl (fun a e => a + e.2.2.2) 0
    tokenHeld := s.tokenHeld.filter fun e => candStands s e.1 e.2.1 e.2.2.1
    tokenQ := s.tokenQ.filter fun e => candStands s e.1 e.2.1 e.2.2.1 }

/-- The commands of the run at a PC that draw tokens (R53). -/
def runTokens (k : Core) : Nat → Word → Nat → Nat
  | 0, _, _ => 0
  | fuel + 1, pc, count =>
    (if drawsToken (slotOpc k (pc.toNat / 64) (pc.toNat % 64 / 12)) then 1 else 0) +
      (if runEndBit k pc then 0 else runTokens k fuel (nextPc pc) (count + 1))

/-- The candidate that issues next: the first after the one issued last, wrapping round (R54). -/
def nextCandidate (p : Partition) (cs : List (Nat × Nat)) : Option (Nat × Nat) :=
  match cs.find? fun c => decide (p.lastSlot < c.1) || (decide (c.1 = p.lastSlot) && decide (p.lastPc.toNat < c.2)) with
  | some c => some c
  | none => cs.head?

/-- Whether the candidate has its run's tokens, with the number; otherwise its request joins the order (R53, R55). -/
def tokensOf (s : State) (core slot pc n : Nat) : Option Nat :=
  if n = 0 then some 0
  else (s.tokenHeld.find? fun e => e.1 = core ∧ e.2.1 = slot ∧ e.2.2.1 = pc).map fun e => e.2.2.2

/-- A request for the tokens of a candidate's run joins the order, under the pool size of that moment (R55, R104). -/
def askTokens (s : State) (core slot pc : Nat) : State := { s with tokenQ := s.tokenQ ++ [(core, slot, pc, (ctlHome s 0x003).toNat)] }

/-- Whether a partition may not issue now: its pipes, or its core's registers or code store, are under self-test, or its core is retired
(R305, R306). -/
def partPaused (s : State) (core part : Nat) : Bool :=
  (getPart s core part).testing || (getCore s core).retired || underTest s 0x04 core || underTest s 0x05 core

/-- Whether a partition's issue buffer has fewer than the 24 free entries that a run needs (R53). -/
def bufferShort (p : Partition) : Bool := decide (48 < (p.buffer.map BufEntry.entry).dedup.length + 24)

/-- Forms the next batch of a partition, or resumes one that a stop interrupted (R46, R52-R54). A fibre that has stood parked in this clock waits for
the next run start (R73). -/
def formBatch (s : State) (core part : Nat) : State :=
  let k := getCore s core
  let p := getPart s core part
  if p.batch.isSome ∨ partPaused s core part then s
  else
    match k.stoppedBatches.find? fun e => decide (e.1 = part) && (match (getGroup s core e.2.slot).bind fun g => getTeam s core g.team with
        | some t => (! t.stopped && ! t.halted : Bool)
        | none => false) with
    | some (_, b) =>
      let s := modPart s core part fun p => { p with batch := some { b with stepped := false } }
      modCore s core fun k => { k with stoppedBatches := k.stoppedBatches.filter fun e => ! (decide (e.1 = part) && decide (e.2.slot = b.slot)) }
    | none =>
      if bufferShort p then perfEvent s core 0x08 1 none (some part)
      else
        let cs := candidates s core part
        let need := fun (c : Nat × Nat) => runTokens k 24 (BitVec.ofNat 32 c.2) 0
        let lanesAt := fun (s : State) (c : Nat × Nat) => (lanesOf s core c.1).filter fun l =>
          match getFib s ⟨core, c.1, l⟩ with
          | some x => fibReady s ⟨core, c.1, l⟩ x && decide (x.pc.toNat = c.2) && ! s.parked.contains ⟨core, c.1, l⟩
          | none => false
        let s := cs.foldl (fun s c =>
          if need c ≠ 0 ∧ tokensOf s core c.1 c.2 (need c) = none ∧ ! (s.tokenQ.any fun t => decide (t.1 = core ∧ t.2.1 = c.1 ∧ t.2.2.1 = c.2)) then askTokens s core c.1 c.2 else s) s
        match nextCandidate p (cs.filter fun c => (tokensOf s core c.1 c.2 (need c)).isSome && ! (lanesAt s c).isEmpty) with
        | none => s
        | some c =>
          let lanes := lanesAt s c
          let tok := (tokensOf s core c.1 c.2 (need c)).getD 0
          let s := { s with tokenHeld := s.tokenHeld.filter fun e => ! (decide (e.1 = core) && decide (e.2.1 = c.1) && decide (e.2.2.1 = c.2)) }
          let s := modPart s core part fun p => { p with
            lastSlot := c.1, lastPc := BitVec.ofNat 32 c.2
            batch := some { slot := c.1, lanes := lanes, pc := BitVec.ofNat 32 c.2, count := 0, line := none, atPacket := true, runEnd := false,
                            packetEnd := false, tokens := tok, cpend := [], seen := [], live := [], stepped := false } }
          perfEvent (perfEvent s core 0x03 1 none (some part)) core 0x04 lanes.length none (some part)

/-! ## The clock and the waits that end by themselves -/

/-- Lanes in a core's wellhead queue: those of waves whose method does not run yet (R231). -/
def wellheadUsed (k : Core) : Nat := (k.waves.filter fun w => ! w.running).foldl (fun a w => a + w.lanes.length) 0

/-- Whether a partition has a candidate for which every condition of R53 holds. -/
def hasReady (s : State) (core part : Nat) : Bool :=
  ! partPaused s core part && ! bufferShort (getPart s core part) &&
    (candidates s core part).any fun c => (tokensOf s core c.1 c.2 (runTokens (getCore s core) 24 (BitVec.ofNat 32 c.2) 0)).isSome

/-- The clocks of each partition with a candidate ready but not issued, or with none (R288). (DESIGN CHOICE, log 88) -/
def tickParts (s : State) (core n : Nat) : State :=
  if (List.range 8).any fun i => (getCore s core).pcctl.getLsbD i && [5, 6].contains ((tgetD (getCore s core).pcsel i 0).toNat % 64) then
    (List.range 8).foldl (fun s p =>
      perfEvent s core (if hasReady s core p then 0x05 else 0x06) n none (some p)) s
  else s

/-- The counters that count clocks (R286-R288): full wellhead queues, the cores' clocks, clocks waiting for tokens, full pump queues of a
slice's stacks, full replay filters of a slice's homes. -/
def tickCounters (s : State) (n : Nat) : State :=
  let s := s.cores.foldl (fun s e =>
    let s := if 256 ≤ wellheadUsed e.2 then bump s e.1 0x040 n else s
    if e.2.pcctl.toNat % 256 = 0 then s
    else
      let s := tickParts (perfEvent s e.1 0x01 n none none) e.1 n
      if s.tokenQ.any fun t => decide (t.1 = e.1) then perfEvent s e.1 0x07 n none none else s) s
  s.slices.foldl (fun s e =>
    let s := if s.stackUnits.any fun u => e.2.stackMask.getLsbD u.1 && decide (64 ≤ u.2.queue.length) then bumpSlice s e.1 0x00C n else s
    if e.2.cores.any fun c => decide (4096 ≤ (getCore s c).replay.length) then bumpSlice s e.1 0x010 n else s) s

/-- Whether the team of a core is paused for its watchdog (R283): stopped, halted, a fibre parked on its mailbox, or its partitions under self-test. -/
def watchPaused (s : State) (core team : Nat) (t : Team) : Bool :=
  t.stopped || t.halted ||
    (s.fibres.any fun f => decide (f.1.core = core) && (match getGroup s f.1.core f.1.slot with | some g => decide (g.team = team) | none => false) &&
      f.2.waits.any fun w => match w with | .mailbox _ _ _ => true | _ => false) ||
    (teamSlots s core team).any fun sl => partPaused s core (slotPart sl)

/-- Whether a fibre stands parked (R50): out of its run, with something still to come. -/
def standsParked (s : State) (f : FRef) (x : Fibre) : Bool :=
  ! x.ended && ! inBatch s f && (! x.waits.isEmpty || ! x.lls.isEmpty || ((getCore s f.core).claims.any fun c => decide (c.1 = f.slot)) || batchParked s f x)

/-- The fibres that have stood parked in the present clock, once `n` clocks have passed (R73). -/
def parkedAfter (s : State) (n : Nat) : List FRef :=
  let old := if n = 0 then s.parked else []
  old ++ ((s.fibres.filter fun e => standsParked s e.1 e.2 && ! old.contains e.1).map Prod.fst)

/-- The clocks that pass before a step acts: s.clk, s.time (20/21 ns a clock), the watchdogs and counters of those clocks (R83, R85, R281, R283,
R284). The clock in which the step acts is counted by the next one, so that a write of this step comes before its increment (R276). (DESIGN CHOICE,
log 4) -/
def tickBy (n : Nat) (s : State) : State :=
  let sub := s.timeSub + 20 * n
  let s := tickCounters s n
  let matBusy := fun (l : Lease) => ! l.queue.isEmpty && (match l.queue.head? with | some c => ! cmdStuck c | none => true)
  { s with
    clk := s.clk + BitVec.ofNat 64 n
    time := s.time + BitVec.ofNat 64 (sub / 21)
    timeSub := sub % 21
    tokWait := if s.tokenQ.isEmpty then s.tokWait else BitVec.ofNat 32 (min 0xFFFFFFFF (s.tokWait.toNat + n))
    blocks := s.blocks.map fun e => (e.1, { e.2 with leases := e.2.leases.map fun l =>
      (l.1, if matBusy l.2 then { l.2 with watchdog := BitVec.ofNat 32 (min 0xFFFFFFFF (l.2.watchdog.toNat + n)) } else l.2) })
    teams := s.teams.map fun e =>
      (e.1, if watchPaused s e.1.1 e.1.2 e.2 ∨ (teamFibres s e.1.1 e.1.2).isEmpty then e.2
        else { e.2 with watchdog := BitVec.ofNat 32 (min 0xFFFFFFFF (e.2.watchdog.toNat + (n - if e.2.heard then 1 else 0))), heard := e.2.heard && n == 0 })
    parked := parkedAfter s n }

/-- A step begins: as many clocks pass as the free value says. (DESIGN CHOICE, log 4) (DESIGN CHOICE, log 101) -/
def tick (s : State) : State := tickBy (Config.elapsed s.free) { s with free := s.free + 1 }

end Sys2Proof.Machine
end

