-- ==== Sys2Proof/Machine/Float.lean ====
section
/-!
DEFINITION. Group 2: floating point (R433-R444). Every meaning is the shared frame over a function of the operand bits, the rounding
mode and FTZ that gives the result bits and the flags it ORs into the FSR (R88, R155).
-/
namespace Sys2Proof.Machine

/-! ## Results -/

/-- The F32 value of a register under FTZ. -/
def f32v (ftz : Bool) (w : Word) : Fv := decodeF fmtF32 ftz w.toNat

/-- The .sat clamp of a rounded result: NaN, negative values and -0 give +0, values above 1.0 give 1.0 (R435). -/
def satClamp (bits : Nat) : Nat :=
  match decodeF fmtF32 false bits with
  | .nan _ => 0
  | x => if x.neg then 0 else if 0x3F800000 < bits then 0x3F800000 else bits

/-- The effects of a float result: the destination, then the flags it raises. -/
def floatEff (c : Code) (r : Nat × BitVec 5) : List Eff :=
  destEff c (BitVec.ofNat 32 r.1) ++ (if r.2 = 0 then [] else [.flags r.2])

/-- The effects of a binary64 result. -/
def doubleEff (c : Code) (r : Nat × BitVec 5) : List Eff :=
  pairEff c (BitVec.ofNat 64 r.1) ++ (if r.2 = 0 then [] else [.flags r.2])

/-- The rounding mode of an instruction for a fibre (R150). -/
def rndOf (h : Head) (x : Fibre) : Nat := modeOf (h.mod.toNat % 8) (fsrRM x)

/-- Applies .sat where the modifier carries it (R435). -/
def withSat (h : Head) (r : Nat × BitVec 5) : Nat × BitVec 5 := if h.mod.getLsbD 3 then (satClamp r.1, r.2) else r

/-- FSET's condition (R437). -/
def fsetHolds (cnd : Nat) (a b : Fv) : Bool :=
  let nan := a.isNaN || b.isNaN
  let c := cmpV a b
  match cnd with
  | 0 => ! nan && c == 0
  | 1 => nan || c != 0
  | 2 => ! nan && decide (c < 0)
  | 3 => ! nan && decide (c ≤ 0)
  | 4 => ! nan && decide (0 < c)
  | 5 => ! nan && decide (0 ≤ c)
  | 6 => ! nan
  | _ => nan

/-- FSET (R437). -/
def resFset (mod : Nat) (ftz : Bool) (a b c : Word) : Nat × BitVec 5 :=
  let x := f32v ftz a; let y := f32v ftz b
  let t := fsetHolds (mod % 8) x y
  let t := match mod / 16 % 4 with
    | 1 => t && (c != 0) | 2 => t || (c != 0) | 3 => t != (c != 0) | _ => t
  (if t then 1 else 0, nvOf [x, y])

/-- The class number of R438. -/
def fclassOf (a : Word) : Nat :=
  match decodeF fmtF32 false a.toNat with
  | .inf n => if n then 0 else 7
  | .zero n => if n then 3 else 4
  | .nan s => if s then 8 else 9
  | .fin n m _ => if m < 2 ^ 23 then (if n then 2 else 5) else if n then 1 else 6

/-- FCLASS (R438). -/
def resFclass (a b : Word) : Word := if b.getLsbD (fclassOf a) then 1 else 0

/-- One element of a packed 16-bit operand. -/
def elem16 (w : Word) (k : Nat) : Nat := w.toNat / 2 ^ (16 * k) % 2 ^ 16

/-- A packed 16-bit result: both elements on their own, flags ORed (R442). -/
def packed16 (f : Nat → Nat × BitVec 5) : Nat × BitVec 5 :=
  let r0 := f 0; let r1 := f 1
  (r0.1 + r1.1 * 2 ^ 16, r0.2 ||| r1.2)

/-- The packed element format (R442). -/
def pkFmt (h : Head) : Fmt := if h.mod.getLsbD 3 then fmtB16 else fmtF16

/-- Four 16-bit elements of a pair (R443). -/
def dotElems16 (f : Fmt) (ftz : Bool) (v : DWord) : List Fv := (List.range 4).map fun k => decodeF f ftz (v.toNat / 2 ^ (16 * k) % 2 ^ 16)

/-- Eight bytes of a pair: 0 E4M3, 1 E5M2, 2 I8 (R443). -/
def dotElems8 (code : Nat) (v : DWord) : List Fv :=
  (List.range 8).map fun k =>
    let b := v.toNat / 2 ^ (8 * k) % 2 ^ 8
    match code with
    | 0 => decodeF fmtE4M3 false b
    | 1 => decodeF fmtE5M2 false b
    | _ => intV (BitVec.ofNat 8 b).toInt

/-- BRED's result for the values of the batch in ascending lane order (R444). -/
def resBred (op mode : Nat) (ftz : Bool) (as : List Word) : Nat × BitVec 5 :=
  let fold := fun (isMin : Bool) =>
    as.foldl (fun (r : Nat × BitVec 5) a => let q := fMinMax fmtF32 ftz isMin r.1 a.toNat; (q.1, r.2 ||| q.2))
      (fMinMax fmtF32 ftz isMin (as.headD 0).toNat (as.headD 0).toNat)
  match op with
  | 0 => exactSum mode ftz (as.map (f32v ftz))
  | 1 => fold true
  | 2 => fold false
  | 3 => ((as.foldl (· + ·) 0).toNat, 0)
  | 4 => ((as.foldl (fun r a => if a.toInt < r.toInt then a else r) (as.headD 0)).toNat, 0)
  | _ => ((as.foldl (fun r a => if r.toInt < a.toInt then a else r) (as.headD 0)).toNat, 0)

/-! ## Shared forms -/

/-- A float operation of one F32 operand. -/
def flt1 (s : State) (i : Instr) (h : Head) (o : BodyA) (dist : Nat) (f : Nat → Bool → Word → Nat × BitVec 5) : Host.Outcome State Fault Refusal :=
  perLane s i h dist fun s is l x => floatEff o.d (f (rndOf h x) (fsrFTZ x) (srcOf s is l x o.imm o.a))

/-- A float operation of two F32 operands. -/
def flt2 (s : State) (i : Instr) (h : Head) (o : BodyA) (dist : Nat) (f : Nat → Bool → Word → Word → Nat × BitVec 5) : Host.Outcome State Fault Refusal :=
  perLane s i h dist fun s is l x =>
    floatEff o.d (f (rndOf h x) (fsrFTZ x) (srcOf s is l x o.imm o.a) (srcOf s is l x o.imm o.b))

/-- A float operation of three F32 operands. -/
def flt3 (s : State) (i : Instr) (h : Head) (o : BodyA) (dist : Nat) (f : Nat → Bool → Word → Word → Word → Nat × BitVec 5) : Host.Outcome State Fault Refusal :=
  perLane s i h dist fun s is l x =>
    floatEff o.d (f (rndOf h x) (fsrFTZ x) (srcOf s is l x o.imm o.a) (srcOf s is l x o.imm o.b) (srcOf s is l x o.imm o.c))

/-- A long-latency float operation of two F32 operands. -/
def flt2Long (s : State) (i : Instr) (h : Head) (o : BodyA) (f : Nat → Bool → Word → Word → Nat × BitVec 5) : Host.Outcome State Fault Refusal :=
  perLaneLong s i h fun s is l x =>
    floatEff o.d (f (rndOf h x) (fsrFTZ x) (srcOf s is l x o.imm o.a) (srcOf s is l x o.imm o.b))

/-- A long-latency binary64 operation (R441). -/
def dbl (s : State) (i : Instr) (h : Head) (o : BodyA) (f : Nat → Fv → Fv → Fv → Nat × BitVec 5) : Host.Outcome State Fault Refusal :=
  perLaneLong s i h fun _ _ _ x =>
    let v := fun c => decodeF fmtF64 false (pairSrc x o.imm c).toNat
    doubleEff o.d (f (rndOf h x) (v o.a) (v o.b) (v o.c))

/-! ## Meanings -/

/-- FADD (R434, R435). -/
def execFadd (h : Head) (o : BodyA) (s : State) : Host.Outcome State Fault Refusal :=
  flt2 s (.fadd h o) h o 4 fun m ftz a b => withSat h (fAdd fmtF32 m ftz (f32v ftz a) (f32v ftz b))

/-- FSUB (R434, R435). -/
def execFsub (h : Head) (o : BodyA) (s : State) : Host.Outcome State Fault Refusal :=
  flt2 s (.fsub h o) h o 4 fun m ftz a b => withSat h (fAdd fmtF32 m ftz (f32v ftz a) (f32v ftz b).negate)

/-- FMUL (R434, R435). -/
def execFmul (h : Head) (o : BodyA) (s : State) : Host.Outcome State Fault Refusal :=
  flt2 s (.fmul h o) h o 4 fun m ftz a b => withSat h (fMul fmtF32 m ftz (f32v ftz a) (f32v ftz b))

/-- FFMA (R434, R435). -/
def execFfma (h : Head) (o : BodyA) (s : State) : Host.Outcome State Fault Refusal :=
  flt3 s (.ffma h o) h o 4 fun m ftz a b c => withSat h (fFma fmtF32 m ftz (f32v ftz a) (f32v ftz b) (f32v ftz c))

/-- FMIN (R436). -/
def execFmin (h : Head) (o : BodyA) (s : State) : Host.Outcome State Fault Refusal :=
  flt2 s (.fmin h o) h o 4 fun _ ftz a b => fMinMax fmtF32 ftz true a.toNat b.toNat

/-- FMAX (R436). -/
def execFmax (h : Head) (o : BodyA) (s : State) : Host.Outcome State Fault Refusal :=
  flt2 s (.fmax h o) h o 4 fun _ ftz a b => fMinMax fmtF32 ftz false a.toNat b.toNat

/-- FSET (R437). -/
def execFset (h : Head) (o : BodyA) (s : State) : Host.Outcome State Fault Refusal :=
  flt3 s (.fset h o) h o 4 fun _ ftz a b c => resFset h.mod.toNat ftz a b c

/-- FCLASS (R438). -/
def execFclass (h : Head) (o : BodyA) (s : State) : Host.Outcome State Fault Refusal :=
  flt2 s (.fclass h o) h o 4 fun _ _ a b => ((resFclass a b).toNat, 0)

/-- FRCP (R435). -/
def execFrcp (h : Head) (o : BodyA) (s : State) : Host.Outcome State Fault Refusal :=
  flt1 s (.frcp h o) h o 8 fun m ftz a => fDiv fmtF32 m ftz (.fin false 1 0) (f32v ftz a)

/-- FRSQ (R435). -/
def execFrsq (h : Head) (o : BodyA) (s : State) : Host.Outcome State Fault Refusal :=
  flt1 s (.frsq h o) h o 8 fun m ftz a => fRsqrt fmtF32 m ftz (f32v ftz a)

/-- FSQRT (R435). -/
def execFsqrt (h : Head) (o : BodyA) (s : State) : Host.Outcome State Fault Refusal :=
  flt2Long s (.fsqrt h o) h o fun m ftz a _ => fSqrt fmtF32 m ftz (f32v ftz a)

/-- FDIV (R435). -/
def execFdiv (h : Head) (o : BodyA) (s : State) : Host.Outcome State Fault Refusal :=
  flt2Long s (.fdiv h o) h o fun m ftz a b => fDiv fmtF32 m ftz (f32v ftz a) (f32v ftz b)

/-- FEX2 (R439, R440). -/
def execFex2 (h : Head) (o : BodyA) (s : State) : Host.Outcome State Fault Refusal :=
  flt1 s (.fex2 h o) h o 8 fun _ ftz a => resFex2 ftz a

/-- FLG2 (R439, R440). -/
def execFlg2 (h : Head) (o : BodyA) (s : State) : Host.Outcome State Fault Refusal :=
  flt1 s (.flg2 h o) h o 8 fun _ ftz a => resFlg2 ftz a

/-- FSIN (R439, R440). -/
def execFsin (h : Head) (o : BodyA) (s : State) : Host.Outcome State Fault Refusal :=
  flt1 s (.fsin h o) h o 8 fun _ ftz a => resTrig false ftz a

/-- FCOS (R439, R440). -/
def execFcos (h : Head) (o : BodyA) (s : State) : Host.Outcome State Fault Refusal :=
  flt1 s (.fcos h o) h o 8 fun _ ftz a => resTrig true ftz a

/-- FTANH (R439, R440). -/
def execFtanh (h : Head) (o : BodyA) (s : State) : Host.Outcome State Fault Refusal :=
  flt1 s (.ftanh h o) h o 8 fun _ ftz a => resFtanh ftz a

/-- FSIGM (R439, R440). -/
def execFsigm (h : Head) (o : BodyA) (s : State) : Host.Outcome State Fault Refusal :=
  flt1 s (.fsigm h o) h o 8 fun _ ftz a => resFsigm ftz a

/-- DADD (R441). -/
def execDadd (h : Head) (o : BodyA) (s : State) : Host.Outcome State Fault Refusal :=
  dbl s (.dadd h o) h o fun m a b _ => fAdd fmtF64 m false a b

/-- DMUL (R441). -/
def execDmul (h : Head) (o : BodyA) (s : State) : Host.Outcome State Fault Refusal :=
  dbl s (.dmul h o) h o fun m a b _ => fMul fmtF64 m false a b

/-- DFMA (R441). -/
def execDfma (h : Head) (o : BodyA) (s : State) : Host.Outcome State Fault Refusal :=
  dbl s (.dfma h o) h o fun m a b c => fFma fmtF64 m false a b c

/-- PKFMA (R442). -/
def execPkfma (h : Head) (o : BodyA) (s : State) : Host.Outcome State Fault Refusal :=
  flt3 s (.pkfma h o) h o 4 fun m ftz a b c => packed16 fun k =>
    let v := fun w => decodeF (pkFmt h) ftz (elem16 w k)
    fFma (pkFmt h) m ftz (v a) (v b) (v c)

/-- PKADD (R442). -/
def execPkadd (h : Head) (o : BodyA) (s : State) : Host.Outcome State Fault Refusal :=
  flt2 s (.pkadd h o) h o 4 fun m ftz a b => packed16 fun k =>
    let v := fun w => decodeF (pkFmt h) ftz (elem16 w k)
    fAdd (pkFmt h) m ftz (v a) (v b)

/-- PKMUL (R442). -/
def execPkmul (h : Head) (o : BodyA) (s : State) : Host.Outcome State Fault Refusal :=
  flt2 s (.pkmul h o) h o 4 fun m ftz a b => packed16 fun k =>
    let v := fun w => decodeF (pkFmt h) ftz (elem16 w k)
    fMul (pkFmt h) m ftz (v a) (v b)

/-- DOT4 (R166, R443). -/
def execDot4 (h : Head) (o : BodyA) (s : State) : Host.Outcome State Fault Refusal :=
  perLane s (.dot4 h o) h 5 fun s is l x =>
    let f := fun (code : Nat) => if code = 0 then fmtF16 else fmtB16
    floatEff o.d (dotResult (rndOf h x) (fsrFTZ x) (dotElems16 (f (h.mod.toNat / 16 % 4)) (fsrFTZ x) (pairSrc x o.imm o.a))
      (dotElems16 (f (h.mod.toNat / 64)) (fsrFTZ x) (pairSrc x o.imm o.b)) (f32v (fsrFTZ x) (srcOf s is l x o.imm o.c)))

/-- DOT8 (R166, R443). -/
def execDot8 (h : Head) (o : BodyA) (s : State) : Host.Outcome State Fault Refusal :=
  perLane s (.dot8 h o) h 5 fun s is l x =>
    floatEff o.d (dotResult (rndOf h x) (fsrFTZ x) (dotElems8 (h.mod.toNat / 16 % 4) (pairSrc x o.imm o.a))
      (dotElems8 (h.mod.toNat / 64) (pairSrc x o.imm o.b)) (f32v (fsrFTZ x) (srcOf s is l x o.imm o.c)))

/-- BRED (R444): one result for the batch, with the modes of the lowest lane. -/
def execBred (h : Head) (o : BodyA) (s : State) : Host.Outcome State Fault Refusal :=
  onActive s (.bred h o) h fun is act s =>
    let low := getFib s (is.fref (act.headD 0))
    let as := act.filterMap fun l => (getFib s (is.fref l)).map fun x => srcOf s is l x o.imm o.a
    let r := resBred (h.mod.toNat / 8 % 8) ((low.map (rndOf h)).getD 0) ((low.map fsrFTZ).getD false) as
    eachLane act (fun s l => modFib s (is.fref l) fun x => addPends x 6 (floatEff o.d r)) s

end Sys2Proof.Machine
end

