-- ==== Sys2Proof/Machine/Convert.lean ====
section
/-!
DEFINITION. Group 3: conversions and narrow codes (R168-R171, R380-R388), with the format prefix (R89).
-/
namespace Sys2Proof.Machine

/-! ## Values and delivery -/

/-- The float format of a code (R145). -/
def fmtOfCode (c : Nat) : Option Fmt :=
  match c with
  | 1 => some fmtF64 | 2 => some fmtF32 | 3 => some fmtF16 | 4 => some fmtB16 | 5 => some fmtE4M3 | 6 => some fmtE5M2 | _ => none

/-- Entry `k` of a core's I4T table (R253). -/
def i4tEntry (t : BitVec 128) (k : Nat) : Byte := t.extractLsb' (8 * (k % 16)) 8

/-- The signed or unsigned value of a byte. -/
def byteInt (u : Bool) (b : Byte) : Int := if u then b.toNat else b.toInt

/-- The exact value of a source in a format, with the flags that forming it raises (R168): `bits` is the element, `beta` the F32 scale
of a Q4 source. A zero Q4 value by a negative scale is −0, as a product of floating operands. (DESIGN CHOICE, log 81) -/
def sourceValue (f : Nat) (u ftz : Bool) (tbl : BitVec 128) (bits beta : Nat) : Fv × BitVec 5 :=
  match fmtOfCode f with
  | some m => (decodeF m ftz bits, 0)
  | none =>
    match f with
    | 7 => (intV (if u then (bits % 2 ^ 32 : Nat) else (BitVec.ofNat 32 bits).toInt), 0)
    | 8 => (intV (byteInt u (BitVec.ofNat 8 bits)), 0)
    | 9 => (intV (byteInt u (i4tEntry tbl bits)), 0)
    | _ =>
      let b := decodeF fmtF32 ftz beta
      let (p, bad) := mulV (q4Value bits) b
      (p, nvOf [b] ||| if bad then flagNV else 0)

/-- The range of an integer destination. -/
def intRange (f : Nat) (u : Bool) : Int × Int :=
  match f, u with
  | 7, false => (-2 ^ 31, 2 ^ 31 - 1) | 7, true => (0, 2 ^ 32 - 1)
  | _, false => (-128, 127) | _, true => (0, 255)

/-- The nearest number of a range. -/
def intoRange (r : Int × Int) (v : Int) : Int := max r.1 (min r.2 v)

/-- Delivers a value as an integer (R171); integer sources saturate without a flag (R169). -/
def deliverInt (f : Nat) (u fromInt : Bool) (mode : Nat) (v : Fv) : Int × BitVec 5 :=
  let r := intRange f u
  match v with
  | .nan _ => (0, flagNV)
  | .inf n => (if n then r.1 else r.2, flagNV)
  | .zero _ => (0, 0)
  | .fin n m e =>
    let (k, ix) := roundAt mode n m e false 0
    let w := sgn n k
    if r.1 ≤ w ∧ w ≤ r.2 then (w, if ix then flagNX else 0)
    else (intoRange r w, if fromInt then 0 else flagNV)

/-- Delivers a value in a float format (R169, R170): E4M3 has no infinity. -/
def deliverFloat (m : Fmt) (mode : Nat) (ftz : Bool) (v : Fv) : Nat × BitVec 5 :=
  match v with
  | .inf _ => if m.e4m3 then (0x7F, flagNV) else deliver m mode ftz v
  | _ => deliver m mode ftz v

/-- A conversion as a 32- or 64-bit destination value (R149, R169): narrow floats fill with zeros, I8 extends by its sign. -/
def convertTo (dst : Nat) (u fromInt ftz : Bool) (mode : Nat) (v : Fv × BitVec 5) : Nat × BitVec 5 :=
  match fmtOfCode dst with
  | some m => let (r, fl) := deliverFloat m mode ftz v.1; (r, fl ||| v.2)
  | none => let (r, fl) := deliverInt dst u fromInt mode v.1; ((BitVec.ofInt 32 r).toNat, fl ||| v.2)

/-- FRND (R387). -/
def resFrnd (m : Fmt) (mode : Nat) (ftz : Bool) (bits : Nat) : Nat × BitVec 5 :=
  match decodeF m ftz bits with
  | .nan s => (fmtNaN m, if s then flagNV else 0)
  | .inf n => (signed m n (fmtInf m), 0)
  | .zero n => (signed m n 0, 0)
  | .fin n k e =>
    let (q, ix) := roundAt mode n k e false 0
    (if q = 0 then signed m n 0 else (roundTo m 0 false n q 0 false).1, if ix then flagNX else 0)

/-- Places two elements and part of c as CVTN does (R382). -/
def placeNarrow (wide hi : Bool) (e0 e1 c : Nat) : Nat :=
  if wide then e0 % 2 ^ 16 + e1 % 2 ^ 16 * 2 ^ 16
  else if hi then c % 2 ^ 16 + e0 % 256 * 2 ^ 16 + e1 % 256 * 2 ^ 24
  else e0 % 256 + e1 % 256 * 256 + c / 2 ^ 16 * 2 ^ 16

/-! ## The frame with a prefix -/

/-- Executes a conversion per lane (R89, R381): `chk` gives the detail of an encoding check that the prefix's format fails, `ops` the
register operands under the format, `k` the effects; a lane that passes consumes its prefix. -/
def convLanes (s : State) (h : Head) (chk : Option Nat → Option Nat) (ops : Option Nat → Named)
    (k : State → Issue → Nat → Fibre → Option Nat → List Eff) : Host.Outcome State Fault Refusal :=
  onPrefixed s h [] fun is act s => act.foldl (fun s (l, pf) =>
    match chk pf with
    | some d => takeTrap s (is.fref l) is.pc (trapOf 0 d)
    | none =>
      match outOfRange (allotOf s (is.fref l)) (ops pf) with
      | some o => takeTrap s (is.fref l) is.pc ⟨1, 0, o, 0, 0⟩
      | none => modFib s (is.fref l) fun x => addPends (clearPrefix x) 4 (k s is l x pf)) s

/-- The effects of a conversion result: a pair for F64. -/
def convEff (wide : Bool) (c : Code) (r : Nat × BitVec 5) : List Eff := if wide then doubleEff c r else floatEff c r

/-! ## Meanings -/

/-- CVT (R381): under a prefix only a is judged again; b and .u are judged by the encoded c field alone. (DEDUCED, log 93) -/
def execCvt (h : Head) (o : BodyA) (s : State) : Host.Outcome State Fault Refusal :=
  let dst := h.mod.toNat / 16
  let u := h.mod.getLsbD 3
  let src := fun (pf : Option Nat) => pf.getD (o.c.toNat % 16)
  let chk := fun (pf : Option Nat) =>
    if pf.isNone then none
    else if src pf = 1 ∧ o.a.toNat < 0x100 ∧ o.a.toNat % 2 = 1 then some 0x06
    else if src pf = 1 ∧ 0x100 ≤ o.a.toNat ∧ o.a ≠ 0x140#9 then some 0x05
    else none
  convLanes s h chk
    (fun pf => (0, o.d, if dst = 1 then 2 else 1) :: (1, o.a, if src pf = 1 then 2 else 1) :: (if src pf = 10 then [(2, o.b, 1)] else []))
    fun s is l x pf =>
      let f := src pf
      let bits := if f = 1 then (pairSrc x o.imm o.a).toNat else (srcOf s is l x o.imm o.a).toNat
      let v := sourceValue f u (fsrFTZ x) (getCore s is.core).i4t bits (srcOf s is l x o.imm o.b).toNat
      let r := convertTo dst u (isIntFmt f) (fsrFTZ x) (rndOf h x) v
      convEff (dst = 1) o.d r

/-- CVTN (R382). -/
def execCvtn (h : Head) (o : BodyA) (s : State) : Host.Outcome State Fault Refusal :=
  let dst := h.mod.toNat / 16
  let src := fun (pf : Option Nat) => pf.getD 2
  convLanes s h
    (fun pf => let f := src pf; if f = 2 ∨ f = 3 ∨ f = 4 ∨ f = 7 ∨ f = 8 then none else some 0x0D)
    (fun _ => namedOf (.cvtn h o))
    fun s is l x pf =>
      let f := src pf
      let one := fun (c : Code) =>
        convertTo dst false (isIntFmt f) (fsrFTZ x) (rndOf h x) (sourceValue f false (fsrFTZ x) (getCore s is.core).i4t (srcOf s is l x o.imm c).toNat 0)
      let r0 := one o.a; let r1 := one o.b
      floatEff o.d (placeNarrow (dst < 5) (h.mod.getLsbD 3) r0.1 r1.1 (srcOf s is l x o.imm o.c).toNat, r0.2 ||| r1.2)

/-- CVTW (R383). -/
def execCvtw (h : Head) (o : BodyA) (s : State) : Host.Outcome State Fault Refusal :=
  let dst := if h.mod.getLsbD 5 then 7 else if h.mod.getLsbD 3 then 1 else 2
  let u := h.mod.getLsbD 4
  let src := fun (pf : Option Nat) => pf.getD (o.c.toNat % 16)
  convLanes s h
    (fun pf => let f := src pf; if f = 3 ∨ f = 4 ∨ f = 5 ∨ f = 6 ∨ f = 8 ∨ f = 9 then none else some 0x0D)
    (fun _ => namedOf (.cvtw h o))
    fun s is l x pf =>
      let f := src pf
      let m := if f < 5 then 2 else if f = 9 then 8 else 4
      let k := (srcOf s is l x o.imm o.b).toNat % m
      let w := 32 / m
      let bits := (srcOf s is l x o.imm o.a).toNat / 2 ^ (w * k) % 2 ^ w
      convEff (dst = 1) o.d
        (convertTo dst u (isIntFmt f) (fsrFTZ x) (rndOf h x) (sourceValue f u (fsrFTZ x) (getCore s is.core).i4t bits 0))

/-- TBLLD (R384): the highest lane's quad becomes the core's table, at distance 2. -/
def execTblld (h : Head) (o : BodyA) (s : State) : Host.Outcome State Fault Refusal :=
  onActive s (.tblld h o) h fun is act s =>
    match getFib s (is.fref (act.getLastD 0)) with
    | some x =>
      let w := regsFrom x o.a.toNat 4
      addCorePend s is 2 (.i4t (w.getD 3 0 ++ w.getD 2 0 ++ w.getD 1 0 ++ w.getD 0 0))
    | none => s

/-- I4TX (R385). -/
def execI4tx (h : Head) (o : BodyA) (s : State) : Host.Outcome State Fault Refusal :=
  perLane s (.i4tx h o) h 4 fun s is l x =>
    let t := (getCore s is.core).i4t
    let a := (srcOf s is l x o.imm o.a).toNat
    let b := (srcOf s is l x o.imm o.b).toNat
    let e := i4tEntry t (a / 2 ^ (4 * (b % 8)))
    destEff o.d (match h.mod.toNat with
      | 0 => e.signExtend 32
      | 1 => e.setWidth 32
      | _ => BitVec.ofNat 32 (leNat ((List.range 4).map fun i => i4tEntry t (a / 2 ^ (16 * (b % 2) + 4 * i)))))

/-- Q4X (R385). -/
def execQ4x (h : Head) (o : BodyA) (s : State) : Host.Outcome State Fault Refusal :=
  perLane s (.q4x h o) h 4 fun s is l x =>
    let a := (srcOf s is l x o.imm o.a).toNat
    let k := (srcOf s is l x o.imm o.b).toNat % 8
    floatEff o.d (convertTo 2 false false (fsrFTZ x) (rndOf h x)
      (sourceValue 10 false (fsrFTZ x) 0 (a / 2 ^ (4 * k)) (srcOf s is l x o.imm o.c).toNat))

/-- QSCL (R161, R385). -/
def execQscl (h : Head) (o : BodyA) (s : State) : Host.Outcome State Fault Refusal :=
  perLane s (.qscl h o) h 4 fun s is l x =>
    floatEff o.d (q4Scale (srcOf s is l x o.imm o.a) ((srcOf s is l x o.imm o.b).toNat % 256))

/-- PACK (R386). -/
def execPack (h : Head) (o : BodyA) (s : State) : Host.Outcome State Fault Refusal :=
  perLane s (.pack h o) h 4 fun s is l x =>
    destEff o.d (BitVec.ofNat 32 (placeNarrow (h.mod = 0#8) (h.mod = 2#8) (srcOf s is l x o.imm o.a).toNat (srcOf s is l x o.imm o.b).toNat
      (srcOf s is l x o.imm o.c).toNat))

/-- UNPK (R386). -/
def execUnpk (h : Head) (o : BodyA) (s : State) : Host.Outcome State Fault Refusal :=
  perLane s (.unpk h o) h 4 fun s is l x =>
    let m := 2 ^ (h.mod.toNat % 3 + 1)
    let w := 32 / m
    let e := (srcOf s is l x o.imm o.a).toNat / 2 ^ (w * ((srcOf s is l x o.imm o.b).toNat % m)) % 2 ^ w
    destEff o.d (if h.mod.toNat < 3 then BitVec.ofNat 32 e else (BitVec.ofNat w e).signExtend 32)

/-- FRND (R387). -/
def execFrnd (h : Head) (o : BodyA) (s : State) : Host.Outcome State Fault Refusal :=
  let d := h.mod.getLsbD 3
  perLane s (.frnd h o) h 4 fun s is l x =>
    if d then doubleEff o.d (resFrnd fmtF64 (rndOf h x) false (pairSrc x o.imm o.a).toNat)
    else floatEff o.d (resFrnd fmtF32 (rndOf h x) (fsrFTZ x) (srcOf s is l x o.imm o.a).toNat)

end Sys2Proof.Machine
end

