-- ==== Sys2Proof/Machine/Waits.lean ====
section
/-!
DEFINITION. Waits of fibres that end by themselves, and what groups and cores do between instructions: creating fibres (R40, R356), claims
and releases of registers (R95-R98), frame reads of TRET (R366), QUIESCE (R372), completion tables (R446, R457, R474); and
`settleAll`, which every step ends with.
-/
namespace Sys2Proof.Machine

/-! ## Making groups -/

/-- Registers that the head claim of a core asks for (R97). -/
def claimNeed (s : State) (core : Nat) (c : Nat × Nat) : Nat := 32 * (c.2 - allotOf s ⟨core, c.1, 0⟩)

/-- Whether `n` registers may be taken from a core's pool: the head claim stays covered (R97). -/
def admits (s : State) (core n : Nat) : Bool :=
  let k := getCore s core
  decide (n ≤ k.poolFree) && (match k.claims with | c :: _ => decide (claimNeed s core c + n ≤ k.poolFree) | [] => true)

/-- The lowest free group slot of a core. -/
def freeSlot (s : State) (core : Nat) : Option Nat := (List.range 64).find? fun i => (getGroup s core i).isNone

/-- The stored generation of a group slot (R40, R480). -/
def slotGenOf (s : State) (core slot : Nat) : BitVec 8 := tgetD (getCore s core).slotGen slot 0

/-- A group slot's stored generation goes up by one (R40, R480). -/
def bumpGen (s : State) (core slot : Nat) : State :=
  modCore s core fun k => { k with slotGen := tput k.slotGen slot (slotGenOf s core slot + 1) }

/-- Creates a fibre in an empty lane, with its slot's generation (R40). -/
def createFibre (s : State) (f : FRef) (allot : Nat) (pc fsr : Word) (args : List Word) (o : Origin) : State :=
  putFib s f (newFibre allot pc (slotGenOf s f.core f.slot) fsr args o)

/-- The pool registers that the groups of a core but one hold: first register and number (R39, R94). -/
def poolTaken (s : State) (core slot : Nat) : List (Nat × Nat) :=
  (s.groups.filter fun e => decide (e.1.1 = core ∧ e.1.2 ≠ slot ∧ e.2.kind ≠ .sump)).map fun e => (e.2.base, 32 * e.2.allot)

/-- The lowest place in a pool where `n` registers stand free side by side. (DESIGN CHOICE, log 8) -/
def poolGap (taken : List (Nat × Nat)) (n : Nat) : Option Nat :=
  (sortNat (0 :: taken.map fun e => e.1 + e.2)).find? fun b => decide (b + n ≤ 131072) && taken.all fun e => decide (b + n ≤ e.1 ∨ e.1 + e.2 ≤ b)

/-- Places the allotments of a core's groups side by side, in slot order: the relocation that R94 leaves to the device. -/
def packPool (s : State) (core : Nat) : State :=
  ((List.range 64).foldl (fun (a : State × Nat) sl => match getGroup a.1 core sl with
    | some g => ({ a.1 with groups := tput a.1.groups (core, sl) { g with base := a.2 } }, a.2 + 32 * g.allot)
    | none => a) (s, 0)).1

/-- Gives a group's allotment its place in the pool: the lowest gap, or with none wide enough all are moved together (R39, R94). (DESIGN CHOICE,
log 8) (DESIGN CHOICE, log 8) -/
def placeAllot (s : State) (core slot : Nat) : State :=
  match poolGap (poolTaken s core slot) (32 * allotOf s ⟨core, slot, 0⟩) with
  | some b => modGroup s core slot fun g => { g with base := b }
  | none => packPool s core

/-- The pool register that holds register `n` of a fibre: b + L × A + n (R39). -/
def poolReg (s : State) (f : FRef) (n : Nat) : Nat :=
  ((getGroup s f.core f.slot).map Group.base).getD 0 + f.lane * allotOf s f + n

/-- Takes a group slot and 32 × A registers for a group of a team (R39, R94). -/
def takeGroup (s : State) (core slot : Nat) (g : Group) : State :=
  let s := placeAllot { s with groups := tput s.groups (core, slot) g } core slot
  modCore s core fun k => { k with poolFree := k.poolFree - 32 * g.allot }

/-- Makes a group whose fibres are created at once: the slot's generation goes up by one (R40, R480). -/
def makeGroup (s : State) (core slot : Nat) (g : Group) : State := bumpGen (takeGroup s core slot g) core slot

/-! ## SPAWN -/

/-- What a fibre that SPAWN creates takes over from its spawner's message or record: the fixed special values (R83). -/
def spawnOrigin (o : Origin) : Origin :=
  { Origin.none with src := o.src, tag := o.tag, seq := o.seq, cls := o.cls, mlen := o.mlen, helper := o.helper, cov := o.cov }

/-- Creates the group that a SPAWN asks for, once the index, a slot and the registers are there (R356): the lanes that wait under
identity `id` get one fibre each, which are candidates from the next clock. A stopped team's wait is withdrawn until it resumes. -/
def trySpawn (s : State) (core slot id : Nat) : State :=
  let waiting := (lanesOf s core slot).filterMap fun l =>
    (getFib s ⟨core, slot, l⟩).bind fun x => x.waits.findSome? fun w => match w with
      | .spawn i gid allot target args => if i = id then some (l, x, gid, allot, target, args) else none
      | _ => none
  match waiting, getGroup s core slot with
  | (_, _, gid, allot, target, _) :: _, some g =>
    if (s.groups.any fun e => e.1.1 = core ∧ e.2.team = g.team ∧ e.2.gid = gid ∧ e.2.kind ≠ .sump) ∨
        ((getTeam s core g.team).map fun t => t.stopped || t.halted).getD false = true then s
    else
      match freeSlot s core with
      | none => s
      | some free =>
        if ¬ admits s core (32 * allot) then s
        else
          let prv := ((getTeam s core g.team).map Team.prv).getD 0
          let s := makeGroup s core free { team := g.team, gid := gid, allot := allot, base := 0, kind := .spawned }
          let s := { s with parked := s.parked ++ waiting.map fun e => ⟨core, free, e.1⟩ }
          waiting.foldl (fun s e =>
            let s := modFib s ⟨core, slot, e.1⟩ fun x => { x with waits := x.waits.filter fun w => match w with | .spawn i _ _ _ _ => decide (i ≠ id) | _ => true }
            createFibre s ⟨core, free, e.1⟩ allot target (fsrNew prv false false) e.2.2.2.2.2 (spawnOrigin e.2.1.origin)) s
  | _, _ => s

/-! ## Registers of a group -/

/-- The REGREL or REGCLM a fibre waits at: its PC and A′. -/
def regWait (x : Fibre) : Option (Word × Nat) :=
  x.waits.findSome? fun w => match w with
    | .registers pc t => some (pc, t)
    | _ => none

/-- Removes the register waits of a group and withdraws its claim. -/
def clearRegWaits (s : State) (core slot : Nat) : State :=
  let s := (lanesOf s core slot).foldl (fun s l => modFib s ⟨core, slot, l⟩ fun x => { x with
    waits := x.waits.filter fun w => match w with | .registers _ _ => false | _ => true }) s
  modCore s core fun k => { k with claims := k.claims.filter fun c => c.1 ≠ slot }

/-- Makes a group's change of A (R96): registers above are lost, added ones read zero; its fibres resume. (DESIGN CHOICE, log 8) -/
def setAllot (s : State) (core slot a : Nat) : State :=
  let old := allotOf s ⟨core, slot, 0⟩
  let s := clearRegWaits s core slot
  let s := placeAllot (modGroup s core slot fun g => { g with allot := a }) core slot
  let s := (lanesOf s core slot).foldl (fun s l => modFib s ⟨core, slot, l⟩ fun x => { x with regs := (x.regs ++ List.replicate a 0).take a }) s
  modCore s core fun k => { k with poolFree := k.poolFree + 32 * old - 32 * a }

/-- Whether every non-empty lane of a group has parked at its register instruction, with every result written (R95). -/
def regArrived (s : State) (core slot : Nat) : Option Nat :=
  let fs := (lanesOf s core slot).filterMap fun l => (getFib s ⟨core, slot, l⟩).bind fun x => if x.ended then none else some (l, x)
  if fs.isEmpty then none
  else if fs.all fun e => (regWait e.2).isSome && e.2.lls.isEmpty && ! inBatch s ⟨core, slot, e.1⟩ then
    (fs.head?.bind fun e => regWait e.2).map Prod.snd
  else none

/-- The register change of a group, if it is due: a release at once, a claim into the queue (R95-R97); a stopped team's waits (R99). -/
def pollRegisters (s : State) (core slot : Nat) : State :=
  let stopped : Bool := match (getGroup s core slot).bind fun g => getTeam s core g.team with
    | some t => t.stopped
    | none => false
  match (if stopped then none else regArrived s core slot) with
  | none => s
  | some a =>
    if a ≤ allotOf s ⟨core, slot, 0⟩ then setAllot s core slot a
    else modCore s core fun k => { k with claims := if k.claims.any fun c => c.1 = slot then k.claims else k.claims ++ [(slot, a)] }

/-- A fibre's register request as its group's deadlock record gives it (R296, R481): the PC, and A′, or none at a barrier wait. -/
def deadWait (x : Fibre) : Option (Word × Option Nat) :=
  x.waits.findSome? fun w => match w with
    | .registers pc t => some (pc, some t)
    | .barrier pc _ _ none _ _ _ => some (pc, none)
    | _ => none

/-- Grants the head claim of a core when the free count covers it (R97). (DESIGN CHOICE, log 8) -/
def grantClaim (s : State) (core : Nat) : State :=
  match (getCore s core).claims with
  | c :: _ => if claimNeed s core c ≤ (getCore s core).poolFree then setAllot s core c.1 c.2 else s
  | [] => s

/-- The slots whose claims the free count does not reach in queue order (R98). -/
def unmetClaims (s : State) (core : Nat) : List (Nat × Nat) → Nat → List Nat
  | [], _ => []
  | c :: t, free => if claimNeed s core c ≤ free then unmetClaims s core t (free - claimNeed s core c) else (c :: t).map Prod.fst

/-- Whether a fibre is parked at a register request or an untimed barrier wait (R98). -/
def deadParked (s : State) (f : FRef) (x : Fibre) : Bool :=
  ! inBatch s f && ((regWait x).isSome || x.waits.any fun w => match w with | .barrier _ _ _ none _ _ _ => true | _ => false)

/-- Reports a register deadlock of a team (R98): it halts, its claims leave the queue, one record per group is posted in slot order. -/
def pollDeadlock (s : State) (core team : Nat) : State :=
  match getTeam s core team with
  | none => s
  | some t =>
    let slots := teamSlots s core team
    let k := getCore s core
    let unmet := unmetClaims s core k.claims k.poolFree
    if t.halted ∨ t.stopped ∨ ¬ (slots.any unmet.contains) ∨
        ¬ ((teamFibres s core team).all fun f => match getFib s f with | some x => deadParked s f x | none => true) then s
    else
      let recs := slots.map fun sl =>
        let ls := lanesOf s core sl
        let f : FRef := ⟨core, sl, ls.headD 0⟩
        let at' := ls.findSome? fun l => (getFib s ⟨core, sl, l⟩).bind deadWait
        { va := 0, lanes := BitVec.ofNat 32 (ls.foldl (fun (a : Nat) l => a ||| 2 ^ l) 0), pc := (at'.map Prod.fst).getD 0, fkind := 4, acc := 0,
          det := ((at'.bind Prod.snd).map fun a' => (allotOf s f / 8 % 256) * 256 + a' / 8 % 256).getD 0, who := whoWord t.task (fibGen s f) sl core, tag := 0 : FaultRec }
      let s := modTeam s core team fun t => { t with halted := true }
      let s := modCore s core fun k => { k with claims := k.claims.filter fun c => ! slots.contains c.1 }
      postFaults (bump s core 0x04C 1) core t.slice recs

/-! ## Waits one by one -/

/-- Whether an entry of a core's issue buffers is still to be accepted. -/
def entryHeld (s : State) (core entry : Nat) : Bool := (getCore s core).parts.any fun p => p.2.buffer.any fun e => e.entry = entry

/-- Teams resident on a core but for one fibre's own (R372). -/
def otherTeams (s : State) (core : Nat) (f : FRef) : Nat :=
  let own := (teamOf s f).map Prod.fst
  (s.teams.filter fun e => decide (e.1.1 = core) && ! (decide (core = f.core) && some e.1.2 == own)).length

/-- A wait of a fibre ends: it leaves the list. -/
def dropWait (s : State) (f : FRef) (w : Wait) : State := modFib s f fun x => { x with waits := x.waits.filter fun v => v ≠ w }

/-- An entry of a team's completion table (R446). -/
def completionOf (t : Team) (c : Nat) : Completion := tgetD t.completions c { first := 0, status := 0, count := 0 }

/-- The 64-bit value of an entry (R446). -/
def completionWord (c : Completion) : DWord := c.first ++ c.status ++ (0 : BitVec 8) ++ c.count

/-- A completion counted in a team's table (R446). -/
def countIn (t : Team) (cidx status first : Nat) : Team :=
    let c := completionOf t cidx
    { t with completions := tput t.completions cidx {
        count := c.count + 1
        status := if c.status = 0 then BitVec.ofNat 8 status else c.status
        first := if c.status = 0 ∧ status ≠ 0 then BitVec.ofNat 32 first else c.first } }

/-- Counts a command's completion in its team's table; index 0 counts nothing (R446). -/
def countCompletion (s : State) (core team cidx status first : Nat) : State :=
  if cidx = 0 then s else modTeam s core team fun t => countIn t cidx status first

/-- Counts the completion of a command that may outlive its team, or meet it saved: only in the table of the very team that gave it (R310, R446). -/
def countOwn (s : State) (core team uid cidx status first : Nat) : State :=
  let go := fun (e : (Nat × Nat) × Team) => if cidx ≠ 0 ∧ e.1 = (core, team) ∧ e.2.uid = uid then (e.1, countIn e.2 cidx status first) else e
  { s with
    teams := s.teams.map go
    slices := s.slices.map fun x => (x.1, { x.2 with saved := x.2.saved.map fun v => { v with teams := v.teams.map go } }) }

/-- Whether commands of a fibre's team accepted into a block before mark `mark` are still there (R457), or a PUMP of the fibre is
(R474). -/
def commandsLeft (s : State) (f : FRef) (mark : Nat) (pump : Bool) : Bool :=
  match getFib s f with
  | none => false
  | some x =>
    if pump then x.accs.any fun a => decide (a.path = .pm) && a.fence.isNone && decide (a.ord < mark)
    else
      let team := (teamOf s f).map Prod.fst
      (match tget s.blocks (coreQuad f.core) with
       | some b => b.leases.any fun l => l.2.queue.any fun c => decide (c.f.core = f.core) && some c.team == team && decide (c.acc < mark)
       | none => false) ||
      ((getCore s f.core).parts.any fun p => p.2.buffer.any fun e => match e.cmd with
        | .packet p _ => (match p.body with | .matrix c => some c.team == team && decide (c.acc < mark) | _ => false)
        | _ => false) ||
      s.mesh.any fun p => match p.body with
        | .matrix c => decide (c.f.core = f.core) && some c.team == team && decide (c.acc < mark)
        | _ => false

/-- The effect of writing predicate `n`; p0 discards it (R81). -/
def predEff (n : Nat) (v : Bool) : List Eff := if n = 0 then [] else [.pred n v]

/-! ## Barriers -/

/-- The cores of a team's cluster, by rank (R38). -/
def clusterCores (t : Team) : List Nat := (List.range (t.cw * t.ch)).map fun r => t.corner + r / t.cw * 36 + r % t.cw

/-- A barrier slot before BARINIT (R277). -/
def Barrier.fresh : Barrier := { v := false, cluster := false, ph := false, mask := 0, lcnt := 0, lexp := 0, lnext := 0, texp := 0, tcnt := 0 }

/-- The core team index under which a fibre's barriers are kept; 64 for the sump fibre's own. -/
def barTeam (s : State) (f : FRef) : Nat := ((teamOf s f).map Prod.fst).getD 64

/-- The slot of a barrier on a core. -/
def barOf (s : State) (core team num : Nat) : Barrier := tgetD (getCore s core).barriers (team, num) Barrier.fresh

/-- Replaces the slot of a barrier. -/
def putBar (s : State) (core team num : Nat) (b : Barrier) : State :=
  modCore s core fun k => { k with barriers := tput k.barriers (team, num) b }

/-- Whether arrivals count for the next phase: this core's arrival packet awaits completion (R278). -/
def barWindow (b : Barrier) : Bool := b.cluster && decide (b.lcnt = b.lexp)

/-- The core's arrival packet to the lead core (R278). -/
def sendArrival (s : State) (core team num : Nat) : State :=
  match getTeam s core team with
  | some t => emit s .mreq 0x07 core ((clusterCores t).headD core) 1 0 (.barArrive t.slice t.task t.cluster num)
  | none => s

/-- A barrier wait ends (R279, R420): C is written, the arrived bit clears where PH differs, and later accesses go on; a completion after the limit is
too late. -/
def endBarWait (s : State) (f : FRef) (w : Wait) (done : Bool) : State :=
  match w with
  | .barrier _ num parity limit ll dst acc =>
    let done := done && limit.all fun l => decide (s.clk.toNat ≤ l.toNat)
    let s := if parity.isNone ∧ done then modFib s f fun x => { x with barArrived := x.barArrived &&& ~~~ (1#32 <<< num) } else s
    accDone (llDone (dropWait s f w) f ll 0 (predEff dst done)) f acc
  | _ => s

/-- Whether the phase that a barrier wait waits for has completed (R420). -/
def barDone (s : State) (f : FRef) (x : Fibre) (num : Nat) (parity : Option Bool) : Bool :=
  ! (x.accs.any fun a => a.arrive == some num) && (barOf s f.core (barTeam s f) num).ph != parity.getD (x.barParity.getLsbD num)

/-- The barrier waits of a fibre whose phase has completed end. -/
def pollBarriers (s : State) (f : FRef) : State :=
  match getFib s f with
  | some x => x.waits.foldl (fun s w => match w with
    | .barrier _ num parity _ _ _ _ => if barDone s f x num parity then endBarWait s f w true else s
    | _ => s) s
  | none => s

/-- The completion of a phase on a core (R278): PH inverts and every fibre waiting on the phase is released; at cluster scope the arrivals of the next
phase are taken over, and a full count sends the new phase's packet at once. (DESIGN CHOICE, log 15) -/
def barComplete (s : State) (core team num : Nat) : State :=
  let b := barOf s core team num
  let n := if b.cluster then b.lnext else 0
  let s := putBar s core team num { b with ph := ! b.ph, lcnt := n, lnext := 0 }
  let waiting := s.fibres.filter fun e => decide (e.1.core = core) && decide (barTeam s e.1 = team) && e.2.waits.any fun w =>
    match w with | .barrier _ m _ _ _ _ _ => decide (m = num) | _ => false
  let s := (waiting.map Prod.fst).foldl pollBarriers s
  if b.cluster ∧ n = b.lexp then sendArrival s core team num else s

/-- One arrival at a barrier slot (R278), whose release is performed; the fibre's parity bit follows (R420). -/
def barArrival (s : State) (f : FRef) (num : Nat) : State :=
  let team := barTeam s f
  let b := barOf s f.core team num
  let parity := if barWindow b then ! b.ph else b.ph
  let bit : Word := 1#32 <<< num
  let s := modFib s f fun x => { x with barParity := if parity then x.barParity ||| bit else x.barParity &&& ~~~ bit }
  if barWindow b then putBar s f.core team num { b with lnext := b.lnext + 1 }
  else
    let s := putBar s f.core team num { b with lcnt := b.lcnt + 1 }
    if b.lcnt + 1 ≠ b.lexp then s
    else if b.cluster then sendArrival s f.core team num
    else barComplete s f.core team num

/-- Whether the writes of the core's other fibres that an arrival passes on are performed (R181): at cluster scope those that are only sent are not. -/
def arrivalSent (s : State) (f : FRef) (a : Acc) (num : Nat) : Bool :=
  ! (barOf s f.core (barTeam s f) num).cluster || (sentWrites s f).all fun b => ! (decide (b.ord < a.ord) && inMask a.rel b.path)

/-- The arrivals of a fibre whose releases have been performed, in program order (R181, R190). -/
def pollArrivals (s : State) (f : FRef) : State :=
  match getFib s f with
  | none => s
  | some x => x.accs.foldl (fun s a =>
      match a.arrive, getFib s f with
      | some n, some y => if (y.accs.all fun b => ! (decide (b.ord < a.ord) && (inMask a.rel b.path || inMask b.acq a.path || b.arrive.isSome))) && arrivalSent s f a n then barArrival (accDone s f a.id) f n else s
      | _, _ => s) s

/-! ## The return stack -/

/-- A return point: a marked slot, or one whose predecessor in the object is a CALL or CALLX (R44). -/
def isReturnPoint (s : State) (core : Nat) (o : CodeObj) (pc : Nat) : Bool :=
  isTarget s core o pc ||
    (inObject o pc && decide (64 * o.first < pc) &&
      (let prev := if pc % 64 = 0 then pc - 64 + 48 else pc - 12
       let opc := slotOpc (getCore s core) (prev / 64) (prev % 64 / 12)
       opc == 3 || opc == 4))

/-- The fibre goes on at `pc` at its run end. -/
def goTo (s : State) (f : FRef) (pc : Word) : State := modFib s f fun x => { x with next := some pc }

/-- Where a stack access of 8 bytes fails: a page fault to post or a trap (R93). -/
def stackFails (s : State) (f : FRef) (x : Fibre) (r : Right) (a : DWord) : Option (Nat × Tr) :=
  rangeFails s f.core (sliceOf s f) (fsrPRV x) r a.toNat 8

/-- Where 8 bytes of the stack area stand, as far as their page is there. -/
def stackLoc (s : State) (f : FRef) (x : Fibre) (r : Right) (a : DWord) : Option Loc :=
  match translate s f.core (sliceOf s f) (fsrPRV x) a 8 r false with
  | .ok t => some t.loc
  | _ => none

/-- The record of a spill or a refill: an access on LS at fibre scope (R92). -/
def stackAcc (s : State) (f : FRef) (x : Fibre) (id : Nat) (r : Right) (a : DWord) : Acc :=
  { plainAcc id .ls with loc := stackLoc s f x r a, size := 8, writes := decide (r = .wr), scope := 0 }

/-- Puts a request of a fibre to its stack area into the issue buffer (R53, R92, R366). -/
def stackEntry (s : State) (f : FRef) (eid : Nat) (pc : Word) (a : Acc) (c : Cmd) : State :=
  waitEntry (bufAdd (addAcc s f a) f.core (slotPart f.slot) { entry := eid, f := f, pc := pc, acc := a.id, cmd := c }) f eid

/-- CALL of a fibre once its target is checked (R92, R93): pushes `ret`, the oldest entry of a full stack leaving for memory, and branches; `pc`
is the CALL's own, `eid` its issue-buffer entry. -/
def callNow (s : State) (f : FRef) (eid : Nat) (pc target ret : Word) : State :=
  match getFib s f with
  | none => s
  | some x =>
    if x.stack.length < 8 then putFib s f { x with stack := ret :: x.stack, next := some target }
    else if x.spill = 65535 then takeTrap s f pc (trapOf 4 0x08)
    else
      let a := stackArea s f + BitVec.ofNat 64 (8 * x.spill)
      match stackFails s f x .wr a with
      | some (va, .page k) =>
        postPageFaults (goTo s f pc) f.core f.slot pc (accCode .ls 1) [(f.lane, BitVec.ofNat 64 va, k, .call target ret)]
      | some (va, .trap c d) => takeTrap s f pc (trapAt c d (BitVec.ofNat 64 va))
      | _ =>
        let (id, s) := freshId s
        let s := putFib s f { x with stack := ret :: x.stack.dropLast, spill := x.spill + 1, next := some target }
        stackEntry s f eid pc (stackAcc s f x id .wr a) (.spill a (x.stack.getLastD 0))

/-- RET of a fibre (R92, R93): pops the newest entry, or asks for the newest spilled one when none is on chip. -/
def retNow (s : State) (f : FRef) (eid : Nat) (pc : Word) : State :=
  match getFib s f, codeObjOf s f with
  | some x, some obj =>
    match x.stack with
    | t :: rest =>
      if isReturnPoint s f.core obj t.toNat then putFib s f { x with stack := rest, next := some t } else takeTrap s f pc (trapOf 0 0x04)
    | [] =>
      if x.spill = 0 then takeTrap s f pc (trapOf 0 0x09)
      else
        let a := stackArea s f + BitVec.ofNat 64 (8 * (x.spill - 1))
        match stackFails s f x .rd a with
        | some (va, .page k) => postPageFaults (goTo s f pc) f.core f.slot pc (accCode .ls 0) [(f.lane, BitVec.ofNat 64 va, k, .refill)]
        | some (va, .trap c d) => takeTrap s f pc (trapAt c d (BitVec.ofNat 64 va))
        | _ =>
          let (id, s) := freshId s
          stackEntry (goTo s f pc) f eid pc (stackAcc s f x id .rd a) .refill
  | _, _ => s

/-- A fibre that went on at its run end stands at its next PC. -/
def landNext (s : State) (f : FRef) : State := modFib s f fun x => { x with pc := x.next.getD x.pc, next := none }

/-- A fibre stands again at the CALL whose spill has failed, its return stack as before the CALL (R93). -/
def undoCall (s : State) (f : FRef) (pc : Word) (value : Word) : State :=
  let s := modFib s f fun x => { x with stack := x.stack.tail ++ [value], spill := x.spill - 1 }
  if inBatch s f then goTo s f pc else modFib s f fun x => { x with pc := pc, next := none }

/-- A spill is accepted (R92, R93): the entry is stored on LS, its page checked once more; where that fails the CALL is undone, to be replayed or
trapped. -/
def spillNow (s : State) (f : FRef) (pc : Word) (a : DWord) (value : Word) (acc : Nat) : State :=
  match getFib s f with
  | none => s
  | some x =>
    match stackFails s f x .wr a with
    | some (va, .page k) =>
      postPageFaults (accDone (undoCall s f pc value) f acc) f.core f.slot pc (accCode .ls 1)
        [(f.lane, BitVec.ofNat 64 va, k, .call (x.next.getD x.pc) (x.stack.headD 0))]
    | some (va, .trap c d) => takeTrap (accDone (undoCall s f pc value) f acc) f pc (trapAt c d (BitVec.ofNat 64 va))
    | _ => accDone (virtWrite s f.core (sliceOf s f) (fsrPRV x) a.toNat (leBytes 8 value.toNat) 0) f acc

/-- A refill is accepted (R92, R93): the newest spilled entry is read and its fibre, whose run is over, goes on there. -/
def refillNow (s : State) (f : FRef) (pc : Word) : State :=
  match getFib s f, codeObjOf s f with
  | some x, some obj =>
    let a := stackArea s f + BitVec.ofNat 64 (8 * (x.spill - 1))
    match stackFails s f x .rd a with
    | some (va, .page k) => postPageFaults s f.core f.slot pc (accCode .ls 0) [(f.lane, BitVec.ofNat 64 va, k, .refill)]
    | some (va, .trap c d) => takeTrap s f pc (trapAt c d (BitVec.ofNat 64 va))
    | _ =>
      let r := virtRead s f.core (sliceOf s f) (fsrPRV x) a.toNat 8
      let v := leNat r.1
      let s := putFib s f { x with spill := x.spill - 1 }
      if r.2 ≠ 0 then consumeError s f r.2
      else if v < 2 ^ 32 ∧ isReturnPoint s f.core obj v then modFib s f fun x => { x with pc := BitVec.ofNat 32 v, next := none }
      else takeTrap s f pc (trapOf 0 0x04)
  | _, _ => s

/-- Whether a fibre's run is over and its results are written, so that what it waits for at the run end may come (R50). -/
def runOver (s : State) (f : FRef) : Bool :=
  match getFib s f with
  | some x => ! inBatch s f && x.lls.isEmpty && x.pend.isEmpty
  | none => true

/-- A trap frame that earlier accesses held back, tried again (R293). -/
def stackGo (s : State) (f : FRef) (r : Retry) (s' : State) : State :=
  match getFib s f, r with
  | some x, .frame words cls detail => if inBatch s f || stackHeld s f x true (frameAddr s f) 64 then s else writeFrame s' f words cls detail
  | some _, _ => if inBatch s f then s else s'
  | none, _ => s

/-- One wait of a fibre, ended if its condition holds (R50). -/
def pollWait (s : State) (f : FRef) (w : Wait) : State :=
  match w with
  | .fwait _ gid ll _ =>
    let there : Bool := match getGroup s f.core f.slot with
      | some g => s.groups.any fun e => decide (e.1.1 = f.core ∧ e.2.team = g.team ∧ e.2.gid = gid ∧ e.2.kind ≠ .sump)
      | none => false
    if there then s else llDone (dropWait s f w) f ll 0 []
  | .accepted e => if entryHeld s f.core e then s else dropWait s f w
  | .engine a => if (match getFib s f with | some x => x.accs.any fun r => r.id = a | none => false) then s else dropWait s f w
  | .quiesce c _ ll dst => if otherTeams s c f = 0 then llDone (dropWait s f w) f ll 0 (regsEff dst [0]) else s
  | .completion c target ll dst =>
    match teamOf s f with
    | some (n, t) =>
      let e := completionOf t c
      if (e.count - target).toNat < 2 ^ 15 then
        let s := modTeam s f.core n fun t => { t with completions := tput t.completions c { e with status := 0, first := 0 } }
        llDone (dropWait s f w) f ll 0 (regsEff dst [loHalf (completionWord e), hiHalf (completionWord e)])
      else s
    | none => s
  | .drained ll dst mark pump => if commandsLeft s f mark pump then s else llDone (dropWait s f w) f ll 0 (regsEff dst [0, 0])
  | .spawn id _ _ _ _ => trySpawn s f.core f.slot id
  | .stack _ r => stackGo s f r (dropWait s f w)
  | .barrier _ num parity _ _ _ _ =>
    match getFib s f with
    | some x => if x.waits.contains w ∧ barDone s f x num parity then endBarWait s f w true else s
    | none => s
  | .park _ _ | .ordered _ _ _ _ _ _ | .skip _ _ _ _ | .registers _ _ | .mailbox _ _ _ | .migrating _ _ _ _ _ => s

/-- The waits of one fibre, but for groups that SPAWN asks for. -/
def pollFibre (s : State) (f : FRef) : State :=
  match getFib s f with
  | some x => x.waits.foldl (fun s w => match w with | .spawn _ _ _ _ _ => s | _ => pollWait s f w) s
  | none => s

/-- The groups that SPAWN asks for, once every other wait has been looked at: the lower issuing group slot first (R361). -/
def pollSpawns (s : State) (refs : List FRef) : State :=
  let asks := refs.filterMap fun f => ((getFib s f).bind fun x => x.waits.find? fun w => match w with | .spawn _ _ _ _ _ => true | _ => false).map fun w => (f, w)
  if asks.isEmpty then s
  else (List.range 65).foldl (fun s sl => (asks.filter fun e => decide (e.1.slot = sl)).foldl (fun s e => pollWait s e.1 e.2) s) s

/-- Fibres with something that may end by itself. -/
def busyRefs (s : State) : List FRef :=
  (s.fibres.filter fun e => ! e.2.waits.isEmpty || ! e.2.lls.isEmpty || e.2.ended || e.2.asyncTrap.isSome || e.2.accs.any fun a => a.arrive.isSome).map Prod.fst

/-- A matrix fault's trap is raised at its fibre's next instruction boundary (R454); a copy command's at the next run start, at the PC that
AUX holds until then (R405). -/
def pollAsync (s : State) (f : FRef) : State :=
  match getFib s f with
  | none => s
  | some x =>
    match x.asyncTrap with
    | none => s
    | some (c, d, addr, aux) =>
      let go := fun (pc : Word) => takeTrap (modFib s f fun x => { x with asyncTrap := none }) f pc { trapOf c d with addr := addr, aux := aux }
      if x.ended then putFib s f { x with asyncTrap := none }
      else if c ≠ 9 ∧ c ≠ 10 then
        (if ¬ inBatch s f ∧ x.waits.isEmpty ∧ x.lls.isEmpty then
          takeTrap (modFib s f fun x => { x with asyncTrap := none }) f (aux.setWidth 32) { trapOf c d with addr := addr } else s)
      else
        match (getPart s f.core (slotPart f.slot)).batch with
        | some b => if inBatch s f then go b.pc else if x.waits.isEmpty ∧ x.lls.isEmpty then go x.pc else s
        | none => if x.waits.isEmpty ∧ x.lls.isEmpty then go x.pc else s

/-- After every step: waits that are over end, results that have all come are written, register requests of complete groups are
made, register deadlocks are reported. -/
def settleAll (s : State) : State :=
  let refs := busyRefs s
  let s := refs.foldl pollArrivals s
  let s := refs.foldl pollFibre s
  let s := refs.foldl settle s
  let s := refs.foldl pollAsync s
  let s := pollSpawns (refs.foldl pollFibre s) refs
  let gs := ((refs.filter fun f => match getFib s f with | some x => (regWait x).isSome | none => false).map fun f => (f.core, f.slot)).dedup
  let s := gs.foldl (fun s g => pollRegisters s g.1 g.2) s
  let ts := (gs.filterMap fun g => (getGroup s g.1 g.2).map fun x => (g.1, x.team)).dedup
  ts.foldl (fun s t => pollDeadlock s t.1 t.2) s

end Sys2Proof.Machine
end

