-- ==== Sys2Proof/Machine/Control.lean ====
section
/-!
DEFINITION. Group 0, control and fibres (R353-R366): branches, calls and the return stack (R92, R93), SPAWN, FEND, FWAIT, PARK, WAKE,
REGCLM, REGREL, FMTP, TRAP, TRET and BKPT.
-/
namespace Sys2Proof.Machine

/-! ## Branch targets and the return stack -/

/-- The target of a branch by line displacement and slot (R354); none below the code store. -/
def dispTarget (pc : Word) (o : BodyB) : Option Nat :=
  let line : Int := (pc.toNat / 64 : Nat) + o.ldisp.toInt
  if line < 0 then none else some (64 * line.toNat + 12 * o.tslot.toNat)

/-- The target of BRX and CALLX: a well-formed byte offset in the code object (R354). -/
def regTarget (obj : CodeObj) (v : Word) : Option Nat :=
  if pcFormed v.toNat ∧ v.toNat / 64 < obj.lines then some (64 * obj.first + v.toNat) else none

/-- A branch of each active fibre (R354): the run-end bit, then the target, then the push of a call. -/
def branch (s : State) (i : Instr) (h : Head) (isCall : Bool) (tgt : CodeObj → Issue → Fibre → Option Nat) : Host.Outcome State Fault Refusal :=
  onActive s i h fun is act s =>
    let (eid, s) := freshId s
    eachLane act (fun s l =>
    let f := is.fref l
    match getFib s f, codeObjOf s f with
    | some x, some obj =>
      if ¬ is.runEnd then takeTrap s f is.pc (trapOf 0 0x03)
      else
        match tgt obj is x with
        | some t =>
          if ¬ isTarget s is.core obj t then takeTrap s f is.pc (trapOf 0 0x04)
          else if isCall then callNow s f eid is.pc (BitVec.ofNat 32 t) (nextPc is.pc)
          else goTo s f (BitVec.ofNat 32 t)
        | none => takeTrap s f is.pc (trapOf 0 0x04)
    | _, _ => s) s

/-! ## Branches -/

/-- NOP (R341, R89): nothing, whatever its guard; a pending prefix stays. -/
def execNop (_h : Head) (_o : BodyS) (s : State) : Host.Outcome State Fault Refusal := .next s

/-- BRA (R354). -/
def execBra (h : Head) (o : BodyB) (s : State) : Host.Outcome State Fault Refusal :=
  branch s (.bra h o) h false fun _ is _ => dispTarget is.pc o

/-- BRX (R354). -/
def execBrx (h : Head) (o : BodyB) (s : State) : Host.Outcome State Fault Refusal :=
  branch s (.brx h o) h false fun obj _ x => regTarget obj (regOf x o.a.toNat)

/-- CALL (R354). -/
def execCall (h : Head) (o : BodyB) (s : State) : Host.Outcome State Fault Refusal :=
  branch s (.call h o) h true fun _ is _ => dispTarget is.pc o

/-- CALLX (R354). -/
def execCallx (h : Head) (o : BodyB) (s : State) : Host.Outcome State Fault Refusal :=
  branch s (.callx h o) h true fun obj _ x => regTarget obj (regOf x o.a.toNat)

/-- RET (R354). -/
def execRet (h : Head) (o : BodyB) (s : State) : Host.Outcome State Fault Refusal :=
  onActive s (.ret h o) h fun is act s =>
    let (eid, s) := freshId s
    eachLane act (fun s l => if is.runEnd then retNow s (is.fref l) eid is.pc else takeTrap s (is.fref l) is.pc (trapOf 0 0x03)) s

/-! ## Fibres -/

/-- SPAWN (R355, R356): the request waits at the run end until index, slot and registers are there; it is made at once if they are. Where RST
differs between the active lanes, the lowest one's holds for all. (DESIGN CHOICE, log 95) -/
def execSpawn (h : Head) (o : BodyB) (s : State) : Host.Outcome State Fault Refusal :=
  onActive s (.spawn h o) h fun is act s =>
    let low := getFib s (is.fref (act.headD 0))
    let k := ((low.map fun x => regOf x o.a.toNat).getD 0).toNat % 64
    let allot := if h.mod = 0#8 then allotOf s (is.fref 0) else 8 * h.mod.toNat
    match codeObjOf s (is.fref 0), dispTarget is.pc o with
    | some obj, some t =>
      if ¬ isTarget s is.core obj t then trapLanes s is act (trapOf 0 0x04)
      else if k = gidOf s (is.fref 0) then trapLanes s is act (trapOf 0 0x05)
      else if (low.map fsrRST).getD false then trapLanes s is act (trapOf 0 0x0E)
      else
        let (id, s) := freshId s
        let s := eachLane act (fun s l => modFib s (is.fref l) fun x => { x with
          waits := x.waits ++ [.spawn id k allot (BitVec.ofNat 32 t) (regsFrom x 1 7 ++ [specialOf s (is.fref l) x is.lanes 0x110])] }) s
        trySpawn s is.core is.slot id
    | _, _ => trapLanes s is act (trapOf 0 0x04)

/-- FWAIT (R358): the number of lanes of the named group, once it is gone. -/
def execFwait (h : Head) (o : BodyS) (s : State) : Host.Outcome State Fault Refusal :=
  signalled s h <| onActive s (.fwait h o) h fun is act s => eachLane act (fun s l =>
    let f := is.fref l
    match getFib s f with
    | none => s
    | some x =>
      let k := (regOf x o.a.toNat).toNat % 64
      if k = gidOf s f then takeTrap s f is.pc (trapOf 0 0x05)
      else
        let team := (teamOf s f).map Prod.fst
        let (id, s) := freshId s
        match s.groups.find? fun e => decide (e.1.1 = is.core ∧ e.2.gid = k ∧ e.2.kind ≠ .sump) && some e.2.team == team with
        | some g =>
          let n := (lanesOf s is.core g.1.2).length
          putFib s f { x with
            lls := x.lls ++ [{ id := id, done := false, poison := 0, effs := regsEff o.d.toNat [BitVec.ofNat 32 n] }]
            waits := x.waits ++ [.fwait is.pc k id n] }
        | none => putFib s f (addKnown x id (regsEff o.d.toNat [0]))) s

/-- PARK (R359). -/
def execPark (h : Head) (o : BodyS) (s : State) : Host.Outcome State Fault Refusal :=
  onActive s (.park h o) h fun is act s => eachLane act (fun s l => modFib s (is.fref l) fun x =>
    if x.wk then { x with wk := false }
    else { x with waits := x.waits ++ [.park is.pc (if o.imm = 0#16 then none else some (s.clk + BitVec.ofNat 64 (64 * o.imm.toNat)))] }) s

/-- Sets a fibre's wake flag: a parked fibre is released and the flag returns to 0 (R359, R360). -/
def wakeFibre (x : Fibre) : Fibre :=
  let isPark := fun (w : Wait) => match w with | .park _ _ => true | _ => false
  if x.waits.any isPark then { x with waits := x.waits.filter fun w => ! isPark w } else { x with wk := true }

/-- The slot of a team's group by index (R42). -/
def slotOfGid (s : State) (core team gid : Nat) : Option Nat :=
  (s.groups.find? fun e => e.1.1 = core ∧ e.2.team = team ∧ e.2.gid = gid ∧ e.2.kind ≠ .sump).map fun e => e.1.2

/-- WAKE (R360). -/
def execWake (h : Head) (o : BodyS) (s : State) : Host.Outcome State Fault Refusal :=
  onActive s (.wake h o) h fun is act s => eachLane act (fun s l =>
    match getFib s (is.fref l), teamOf s (is.fref l) with
    | some x, some (n, _) =>
      let fid := (regOf x o.a.toNat).toNat % 2048
      match slotOfGid s is.core n (fid / 32) with
      | some sl => modFib s ⟨is.core, sl, fid % 32⟩ wakeFibre
      | none => s
    | _, _ => s) s

/-- WAKE.grp (R360). -/
def execWakeGrp (h : Head) (o : BodyS) (s : State) : Host.Outcome State Fault Refusal :=
  onActive s (.wakeGrp h o) h fun is act s => eachLane act (fun s l =>
    match getFib s (is.fref l), teamOf s (is.fref l) with
    | some x, some (n, _) =>
      match slotOfGid s is.core n ((regOf x o.a.toNat).toNat % 64) with
      | some sl => (lanesOf s is.core sl).foldl (fun s m => modFib s ⟨is.core, sl, m⟩ wakeFibre) s
      | none => s
    | _, _ => s) s

/-! ## Registers -/

/-- A lane's arrival at a register instruction (R95): the active fibres park; at another such instruction than the waiting lanes, all
of them trap and no request stands. -/
def registerArrival (s : State) (is : Issue) (act : List Nat) (a' : Nat) (illegal : Bool) : State :=
  let others := (lanesOf s is.core is.slot).filter fun l => match (getFib s (is.fref l)).bind regWait with
    | some (pc, _) => decide (pc ≠ is.pc)
    | none => false
  if ¬ is.runEnd then trapLanes s is act (trapOf 0 0x03)
  else if illegal then trapLanes s is act (trapOf 0 0x0F)
  else if ¬ others.isEmpty then
    let waiting := (lanesOf s is.core is.slot).filterMap fun l => ((getFib s (is.fref l)).bind regWait).map fun w => (l, w.1)
    let s := clearRegWaits s is.core is.slot
    let s := waiting.foldl (fun s e => takeTrap s (is.fref e.1) e.2 (trapOf 0 0x0A)) s
    trapLanes s is (act.filter fun l => ! (waiting.map Prod.fst).contains l) (trapOf 0 0x0A)
  else eachLane act (fun s l => modFib s (is.fref l) fun x => { x with waits := x.waits ++ [.registers is.pc a'] }) s

/-- An allotment that no request may name (R96). -/
def badAllot (s : State) (is : Issue) (a' : Nat) : Bool :=
  decide (a' % 8 ≠ 0 ∨ a' < 8 ∨ 256 < a') ||
    (match getFib s (is.fref (is.lanes.headD 0)) with | some x => fsrHA x && decide (a' < 24) | none => false)

/-- REGCLM (R95-R98, R363). -/
def execRegclm (h : Head) (o : BodyS) (s : State) : Host.Outcome State Fault Refusal :=
  onActive s (.regclm h o) h fun is act s =>
    let a' := o.imm.toNat
    registerArrival s is act a' (badAllot s is a' || decide (a' < allotOf s (is.fref 0)))

/-- REGREL (R95-R98, R363). -/
def execRegrel (h : Head) (o : BodyS) (s : State) : Host.Outcome State Fault Refusal :=
  onActive s (.regrel h o) h fun is act s =>
    let a' := o.imm.toNat
    registerArrival s is act a' (badAllot s is a' || decide (allotOf s (is.fref 0) < a'))

/-- FMTP (R89, R364): sets PP and PFMT at once. -/
def execFmtp (h : Head) (o : BodyS) (s : State) : Host.Outcome State Fault Refusal :=
  onActive s (.fmtp h o) h fun is act s => eachLane act (fun s l => modFib s (is.fref l) fun x =>
    { x with fsr := (x.fsr &&& 0x07FFFFFF#32) ||| BitVec.ofNat 32 (2 ^ 31 + o.imm.toNat % 16 * 2 ^ 27) }) s

/-! ## Exceptions -/

/-- A trap that the instruction itself asks for, and after which its fibres go on behind it (R292, R294, R301): the checker takes the
instruction's bytes, and compares if its block ends here, before the frame is written. -/
def trapSelf (s : State) (is : Issue) (i : Instr) (act : List Nat) (t : TrapInfo) : State :=
  let bytes := sigBytes i (rawInstr (getCore s is.core) is.pc)
  let s := act.foldl (fun s l => modFib s (is.fref l) fun x => { x with sig := bytes.foldl crcByte x.sig }) s
  let s := if isBlockStart s is (nextPc is.pc) then sigExit s is act false else s
  trapLanes s is (act.filter fun l => inBatch s (is.fref l)) t

/-- TRAP (R365, R366): class 11 with the code as detail. -/
def execTrap (h : Head) (o : BodyS) (s : State) : Host.Outcome State Fault Refusal :=
  onActive s (.trap h o) h fun is act s => trapSelf s is (.trap h o) act (trapOf 11 (o.imm.toNat % 256))

/-- TRET (R53, R294, R366): asks for the fibre's frame, which is read once the run's results are written; the fibre resumes from it. -/
def execTret (h : Head) (o : BodyS) (s : State) : Host.Outcome State Fault Refusal :=
  onActive s (.tret h o) h fun is act s =>
    let (eid, s) := freshId s
    eachLane act (fun s l =>
      let f := is.fref l
      if ¬ is.runEnd then takeTrap s f is.pc (trapOf 0 0x03)
      else waitEntry (bufAdd (goTo s f is.pc) is.core is.part { entry := eid, f := f, pc := is.pc, acc := 0, cmd := .frameRead }) f eid) s

/-- Stops a team for the debugger with its state kept on chip (R313): its batches stand where they are. -/
def stopTeam (s : State) (core team : Nat) : State :=
  let s := modTeam s core team fun t => { t with stopped := true, stoppedAt := if t.stopped then t.stoppedAt else s.clk }
  let slots := teamSlots s core team
  reclaimTokens (modCore s core fun k => { k with claims := k.claims.filter fun c => ! slots.contains c.1 })

/-- BKPT (R366): with a debugger attached the team stops and the fibre stands at the next instruction, else trap class 12. -/
def execBkpt (h : Head) (o : BodyS) (s : State) : Host.Outcome State Fault Refusal :=
  onActive s (.bkpt h o) h fun is act s =>
    let f := is.fref (act.headD 0)
    match teamOf s f with
    | some (n, t) => if (getSlice s t.slice).debugger then stopTeam s is.core n else trapSelf s is (.bkpt h o) act (trapOf 12 0)
    | none => if (getSlice s (sliceOf s f)).debugger then s else trapSelf s is (.bkpt h o) act (trapOf 12 0)

end Sys2Proof.Machine
end

