-- ==== Sys2Proof/Machine/System.lean ====
section
/-!
DEFINITION. Group 0, system access (R100-R110, R367-R373): MOVS, CTLRD, CTLWR, SIGMARK, LAUNCH and QUIESCE.
-/
namespace Sys2Proof.Machine

/-! ## Special registers -/

/-- s.clk as a core counts it (R83, R85). -/
def coreClk (s : State) (core : Nat) : DWord := s.clk + BitVec.ofNat 64 (Config.clkSkew core % 3)

/-- MOVS, read form (R367): s.clk and s.time are sampled now and written at the run end (R85). -/
def execMovs (h : Head) (o : BodyS) (s : State) : Host.Outcome State Fault Refusal :=
  let i : Instr := .movs h o
  if o.a = 0x133#9 then perLaneLong s i h fun s is _ _ => pairEff o.d (coreClk s is.core)
  else if o.a = 0x134#9 then perLaneLong s i h fun s _ _ _ => pairEff o.d s.time
  else perLane s i h 1 fun s is l x => destEff o.d (specialOf s (is.fref l) x is.lanes o.a.toNat)

/-- MOVS, write form (R86, R367): FTZ, RM and the sticky flags at distance 1. -/
def execMovsW (h : Head) (o : BodyS) (s : State) : Host.Outcome State Fault Refusal :=
  perLane s (.movsW h o) h 1 fun _ _ _ x => [.fsr (regOf x o.a.toNat)]

/-! ## Control registers -/

/-- The key of the register that a control address names for a fibre, and the slice it names (R100). -/
def addrKey (s : State) (f : FRef) (imm : BitVec 16) : Nat :=
  ctlKey (imm.toNat % 0x1000) (if imm.getLsbD 15 then imm.toNat / 0x1000 % 8 else sliceOf s f)

/-- Whether an address names another slice than the fibre's own (R101). -/
def otherSlice (s : State) (f : FRef) (imm : BitVec 16) : Bool :=
  imm.getLsbD 15 && decide (imm.toNat / 0x1000 % 8 ≠ sliceOf s f)

/-- Whether R105 lets PRV 0b01 write a register. (DESIGN CHOICE, log 78) -/
def sliceWritable (num : Nat) : Bool :=
  num == 0x302 || (decide (0x100 ≤ num ∧ num ≤ 0x11F) && num != 0x102)

/-- Whether a fibre may read a register (R101). -/
def mayRead (s : State) (f : FRef) (x : Fibre) (imm : BitVec 16) : Bool :=
  match fsrPRV x with
  | 0 => false
  | 1 => ! otherSlice s f imm
  | _ => true

/-- Whether a fibre may write a register (R101): CTL.APBASE never; at PRV 0b01 a register that R105 does not give it, an RO one too, raises the trap, and
R9's silence about writes to RO registers holds where the write is let through. (DESIGN CHOICE, log 78) -/
def mayWrite (s : State) (f : FRef) (x : Fibre) (imm : BitVec 16) : Bool :=
  let num := imm.toNat % 0x1000
  num != 0x120 &&
    (match fsrPRV x with
     | 0 => false
     | 1 => ! otherSlice s f imm && sliceWritable num
     | _ => true)

/-- Whether a register is one of the issuing core's own (R100). -/
def isCoreReg (num : Nat) : Bool := decide (0x300 ≤ num ∧ num < 0x400)

/-- CTLRD (R102, R368): the core's copy, at distance 3. -/
def execCtlrd (h : Head) (o : BodyS) (s : State) : Host.Outcome State Fault Refusal :=
  onActive s (.ctlrd h o) h fun is act s => eachLane act (fun s l =>
    let f := is.fref l
    match getFib s f with
    | none => s
    | some x =>
      if ¬ mayRead s f x o.imm then takeTrap s f is.pc (trapOf 4 0x07)
      else
        let v := ctlRead s is.core (addrKey s f o.imm)
        putFib s f (addPends x 3 (if h.mod = 1#8 then pairEff o.d v else destEff o.d (loHalf v)))) s

/-- Sends the write of a shared register through the issue buffer to (17, 0), where it is serialised and broadcast (R53, R102); the fibre's fences
wait for every copy. -/
def sendCtl (s : State) (is : Issue) (eid : Nat) (f : FRef) (id key : Nat) (v : DWord) : State :=
  let (p, s) := newPacket (addAcc s f { plainAcc id .ls with writes := false }) .sys 0x09 f.core hostPort (pkgNum s) 1 0 (.ctl key v [] f id)
  waitEntry (bufAdd s is.core is.part (packetEntry eid f id p)) f eid

/-- CTLWR (R101, R102, R368): the local copy at distance 3, a shared register's write to (17, 0); an RO register keeps its value
(R9). -/
def execCtlwr (h : Head) (o : BodyS) (s : State) : Host.Outcome State Fault Refusal :=
  (if isCoreReg (o.imm.toNat % 0x1000) then signalled s h else id) <| onActive s (.ctlwr h o) h fun is act s =>
    let (eid, s) := freshId s
    eachLane act (fun s l =>
    let f := is.fref l
    match getFib s f with
    | none => s
    | some x =>
      if ¬ mayWrite s f x o.imm then takeTrap s f is.pc (trapOf 4 0x07)
      else
        let v : DWord := if h.mod = 1#8 then pairOf (regOf x o.a.toNat) (regOf x (o.a.toNat + 1)) else (regOf x o.a.toNat).setWidth 64
        let key := addrKey s f o.imm
        let (id, s) := freshId s
        let s := addCorePend s is 3 (.ctl key v id)
        if isCoreReg (o.imm.toNat % 0x1000) then s else sendCtl s is eid f id key v) s

/-- SIGMARK (R369): the running value of the batch is compared with IMM16 where the block is being checked. -/
def execSigmark (_h : Head) (o : BodyS) (s : State) : Host.Outcome State Fault Refusal :=
  match issuing s with
  | none => .next s
  | some is =>
    let s := trapLanes s is (lanesWhere s is fsrPP) (trapOf 0 0x08)
    match codeObjOf s (is.fref (is.lanes.headD 0)) with
    | none => .next s
    | some obj =>
      let k := getCore s is.core
      let bad := lanesWhere s is fun x =>
        ! fsrPP x && x.sigOn && (ctlCopy s is.core 0x005).getLsbD 0 && objSigned k obj && decide (x.sig ≠ o.imm)
      .next (if bad.isEmpty then s else sigMismatch s is.core is.part (bad.map is.fref))

/-! ## LAUNCH and QUIESCE -/

/-- Puts an entry into a partition's issue buffer, and makes its fibre wait at its run end until it is accepted (R53). -/
def bufPut (s : State) (core part : Nat) (e : BufEntry) : State :=
  let s := modPart s core part fun p => { p with buffer := p.buffer ++ [e] }
  modFib s e.f fun x => { x with waits := if x.waits.contains (.accepted e.entry) then x.waits else x.waits ++ [.accepted e.entry] }

/-- What a failing range of an instruction's addresses does to its fibre (R48, R176, R290, R297): a trap, or a page fault with ACC code `acc` that will
replay the instruction with the registers of now. The record that `mk` makes keeps its place in program order, and with `ll` a result of the run its place
among them. -/
def addrFailsAs (s : State) (f : FRef) (pc : Word) (va : Nat) (e : Tr) (acc : Nat) (mk : Nat → Acc) (ll : Bool) (i : Instr) : State :=
  match e with
  | .ok _ => s
  | .page k =>
    let (id, s) := freshId s
    let regs := ((getFib s f).map Fibre.regs).getD []
    let s := modFib s f fun x => { (if ll then addLL x id else x) with accs := x.accs ++ [mk id] }
    postPageFaults s f.core f.slot pc acc [(f.lane, BitVec.ofNat 64 va, k, .instr i regs id)]
  | .trap c d => takeTrap s f pc (trapAt c d (BitVec.ofNat 64 va))

/-- The same for an instruction without a result whose record orders nothing. -/
def addrFails (s : State) (f : FRef) (pc : Word) (va : Nat) (e : Tr) (p : Path) (kind : Nat) (i : Instr) : State :=
  addrFailsAs s f pc va e (accCode p kind) (fun id => plainAcc id p) false i

/-- The address checks on a record or descriptor of `n` bytes that must be aligned to `al` (R290). -/
def checkBlock (s : State) (f : FRef) (x : Fibre) (r : Right) (a : DWord) (n al : Nat) : Option (Nat × Tr) :=
  if a.toNat / 2 ^ 48 ≠ 0 then some (a.toNat, .trap 4 0x01)
  else if a.toNat < 0x10000 then some (a.toNat, .trap 3 0)
  else if a.toNat % al ≠ 0 then some (a.toNat, .trap 2 0)
  else rangeFails s f.core (sliceOf s f) (fsrPRV x) r a.toNat n

/-- LAUNCH of one lane (R371): the record's checks now; the read and the message once the release is met. -/
def launchLane (s : State) (is : Issue) (eid : Nat) (i : Instr) (o : BodyS) (l : Nat) : State :=
  let f := is.fref l
  match getFib s f with
  | none => s
  | some x =>
    if fsrRST x then takeTrap s f is.pc (trapOf 0 0x0E)
    else
      let a := pairSrc x 0 o.a
      match checkBlock s f x .rd a 256 64 with
      | some (va, e) => addrFailsAs s f is.pc va e (accCode .ls 0) (fun id => plainAcc id .ls) true i
      | none =>
        let (id, s) := freshId s
        let s := modFib s f fun x => addLL x id
        bufPut s is.core is.part { entry := eid, f := f, pc := is.pc, acc := id,
                                   cmd := .launch a (min (o.imm.toNat % 4) (fsrPRV x)) id o.d.toNat }

/-- LAUNCH (R370, R371). -/
def execLaunch (h : Head) (o : BodyS) (s : State) : Host.Outcome State Fault Refusal :=
  onActive s (.launch h o) h fun is act s =>
    let (eid, s) := freshId s
    eachLane act (fun s l => launchLane s is eid (.launch h o) o l) s

/-- Whether a fibre may close or open core `c` (R372). -/
def mayQuiesce (s : State) (f : FRef) (x : Fibre) (c : Nat) : Bool :=
  decide (c < 576) && (match fsrPRV x with
    | 0 => false
    | 1 => (getCore s c).slice == some (sliceOf s f)
    | _ => true)

/-- QUIESCE (R372): closes the core to placement and waits until it is empty of other teams, or for 1,024 × n clocks. -/
def execQuiesce (h : Head) (o : BodyS) (s : State) : Host.Outcome State Fault Refusal :=
  signalled s h <| onActive s (.quiesce h o) h fun is act s => eachLane act (fun s l =>
    let f := is.fref l
    match getFib s f with
    | none => s
    | some x =>
      let c := (regOf x o.a.toNat).toNat % 1024
      if ¬ mayQuiesce s f x c then takeTrap s f is.pc (trapOf 4 0x07)
      else
        let (id, s) := freshId s
        let s := modCore s c fun k => { k with closed := true }
        let limit := if o.imm = 0#16 then none else some (s.clk + BitVec.ofNat 64 (1024 * o.imm.toNat))
        modFib s f fun x => let x := addLL x id; { x with waits := x.waits ++ [.quiesce c limit id o.d.toNat] }) s

/-- QUIESCE.open (R372): reopens the core; D is the number of teams resident on it. -/
def execQuiesceOpen (h : Head) (o : BodyS) (s : State) : Host.Outcome State Fault Refusal :=
  onActive s (.quiesceOpen h o) h fun is act s => eachLane act (fun s l =>
    let f := is.fref l
    match getFib s f with
    | none => s
    | some x =>
      let c := (regOf x o.a.toNat).toNat % 1024
      if ¬ mayQuiesce s f x c then takeTrap s f is.pc (trapOf 4 0x07)
      else
        let (id, s) := freshId s
        let n := (s.teams.filter fun e => e.1.1 = c).length
        modFib (modCore s c fun k => { k with closed := false }) f fun x => addKnown x id (regsEff o.d.toNat [BitVec.ofNat 32 n])) s

end Sys2Proof.Machine
end

