-- ==== Sys2Proof/Machine/Access.lean ====
section
/-!
DEFINITION. The memory instructions' shared operation (R176, R391-R394): each lane's access is checked and translated, recorded in its
fibre's order, and put into request packets of one 64-byte piece each, which wait in the partition's issue buffer; what an access does
at its point of order (`serveLane`); held output of restartable activations (R299).
-/
namespace Sys2Proof.Machine

/-! ## Access records -/

/-- Whether the earlier record `b` holds back the later access `a` (R176, R181-R185, R189). A release at core scope waits only until `b` has left the
core: a reader in its instance comes after it on the same way. -/
def holdsBack (b a : Acc) : Bool :=
  match b.fence with
  | some .acq => isFibrePath a.path
  | some .rel => isFibrePath a.path && (a.writes || a.fence.isSome)
  | some .ar => isFibrePath a.path
  | some (.paths src dst) => inMask dst a.path || (feedsFibre (.paths src dst) && decide (a.rel ≠ 0))
  | none =>
    (b.path == a.path && accsMeet b.loc b.size a.loc a.size) || inMask b.acq a.path || (inMask a.rel b.path && ! (onCore a.scope && b.sent))

/-- The record of an access in its fibre's list. -/
def accOf (x : Fibre) (id : Nat) : Option Acc := x.accs.find? fun a => a.id = id

/-- A record with its place by the address it has now (R202). -/
def accNow (s : State) (a : Acc) : Acc := { a with loc := a.loc.map (placeNow s) }

/-- Whether the access `id` of a fibre may go on: no earlier record holds it back, and a release wider than its core waits for what other fibres of the
core have sent (R181). -/
def mayGo (s : State) (f : FRef) (x : Fibre) (id : Nat) : Bool :=
  match accOf x id with
  | some a =>
    (x.accs.all fun b => ! (decide (b.ord < a.ord) && holdsBack (accNow s b) (accNow s a))) &&
    (decide (a.rel = 0) || onCore a.scope || (sentWrites s f).all fun b => ! (decide (b.ord < a.ord) && inMask a.rel b.path))
  | none => true

/-! ## Scopes -/

/-- Whether the fibre `b` lies in the instance of scope `code` that holds the fibre `a` (R178); an activation and an engine's command count as their
team's and their fibre's. Codes 12 to 15 are no scope. -/
def inScope (s : State) (code : Nat) (a b : FRef) : Bool :=
  let cluster := fun (f : FRef) => (teamOf s f).map fun t => (t.2.slice, t.2.task, t.2.cluster)
  match code with
  | 0 => decide (a = b)
  | 1 => decide (a.core = b.core ∧ a.slot = b.slot)
  | 2 => decide (a = b) || (decide (a.core = b.core) && decide ((teamOf s a).map Prod.fst = (teamOf s b).map Prod.fst) && (teamOf s a).isSome)
  | 3 => decide (a.core = b.core)
  | 4 => decide (coreQuad a.core = coreQuad b.core)
  | 5 => decide (a = b) || (decide (cluster a = cluster b) && (cluster a).isSome)
  | 6 => decide (coreDie a.core = coreDie b.core)
  | 7 | 9 | 10 | 11 => true
  | 8 => decide (sliceOf s a = sliceOf s b)
  | _ => false

/-- Whether a release of scope `sa` by `a` and an acquire of scope `sb` by `b` are mutually in scope (R179). -/
def mutuallyInScope (s : State) (sa : Nat) (a : FRef) (sb : Nat) (b : FRef) : Bool := inScope s sa a b && inScope s sb b a

/-- The scope an operation acts at (R179): at least .sl on tier-1 and tier-2 places, at least .sy on host memory. -/
def effScope (s : State) (l : Option Loc) (code : Nat) : Nat :=
  match l with
  | some (.phys pa) => if isHostMem pa then max code 11 else if isLocalHbm (normPa s pa) then code else max code 8
  | _ => code

/-! ## Checking -/

/-- The right an operation needs. -/
def rightOf : OpKind → Right
  | .load => .rd
  | .store => .wr
  | _ => .rmw

/-- The access's checks and translation (R391, R397). -/
def checkOp (s : State) (f : FRef) (x : Fibre) (op : MemOp) : Tr :=
  let sl := sliceOf s f
  match op.ext with
  | some (n, off) => translateExt s f.core sl (extTask s f) (fsrPRV x) n off op.size (rightOf op.kind)
  | none =>
    if op.cistern then (if op.va.toNat % op.size ≠ 0 then .trap 2 0 else cisternTarget s sl f.core op.va.toNat op.size)
    else translate s f.core sl (fsrPRV x) op.va op.size (rightOf op.kind) true

/-- The address that a trap frame or fault record names for an access: the extent's base plus the offset in the extent form. -/
def eaOf (s : State) (f : FRef) (op : MemOp) : DWord :=
  match op.ext with
  | some (n, off) =>
    (match (tget (getSlice s (sliceOf s f)).tasks (extTask s f)).bind fun t => t.extents[n]? with
     | some e => e.base + BitVec.ofInt 64 off
     | none => BitVec.ofInt 64 off)
  | none => op.va

/-- A paged access makes its page's TLB entry the most recently used, or starts a walk (R116). -/
def noteAccess (s : State) (f : FRef) (op : MemOp) : State :=
  if op.ext.isSome ∨ op.cistern ∨ inWindow op.va.toNat then s else tlbNote s f.core (sliceOf s f) op.va.toNat

/-- ACC of a fault record for an operation (R296). -/
def accOfOp (op : MemOp) : Nat := accCode op.path (match op.kind with | .load => 0 | .store => 1 | _ => 2)

/-! ## Values -/

/-- A loaded value as destination effects (R392). -/
def loadEffs (op : MemOp) (bytes : List Byte) : List Eff :=
  match op.size with
  | 1 => regsEff op.dst [let b : Byte := bytes.getD 0 0; if op.signed then b.signExtend 32 else b.setWidth 32]
  | 2 => regsEff op.dst [let h : BitVec 16 := bytes.getD 1 0 ++ bytes.getD 0 0; if op.signed then h.signExtend 32 else h.setWidth 32]
  | _ => regsEff op.dst (wordsOf bytes)

/-- The bytes that an operation stores. -/
def storeBytes (op : MemOp) : List Byte := (bytesOf op.data).take op.size

/-- The number that data words hold. -/
def wordsNat (l : List Word) : Nat := leNat (bytesOf l)

/-- The new value of an atomic (R407): `n` bytes, old value m, operand b, swap value c of .cas. -/
def atomNew (opc n m b c : Nat) : Nat :=
  let w := 8 * n
  let sm := (BitVec.ofNat w m).toInt; let sb := (BitVec.ofNat w b).toInt
  let f := if n = 8 then fmtF64 else fmtF32
  let fm := decodeF f false m; let fb := decodeF f false b
  match opc with
  | 0 => (m + b) % 2 ^ w
  | 1 => if sm ≤ sb then m else b
  | 2 => if sm ≤ sb then b else m
  | 3 => min m b
  | 4 => max m b
  | 5 => m &&& b
  | 6 => m ||| b
  | 7 => m ^^^ b
  | 8 => b
  | 9 => if m = b then c else m
  | 10 => (fAdd f 0 false fm fb).1
  | 11 => (fMinMax f false true m b).1
  | _ => (fMinMax f false false m b).1

/-- 1 − x exactly. -/
def oneMinus : Fv → Fv
  | .nan s => .nan s
  | .inf n => .inf (!n)
  | .zero _ => .fin false 1 0
  | .fin n m e =>
    let (v, k) := addDyadic 1 0 (-(sgn n m)) e
    if v = 0 then .zero false else .fin (decide (v < 0)) v.natAbs k

/-- One channel of BLEND (R469): `s`, `sa`, `d` are channel bits; the exact result is rounded once. -/
def blendChannel (opc : Nat) (f16 : Bool) (s sa d : Nat) : Nat :=
  if f16 then
    let v := fun b => decodeF fmtF16 false b
    match opc with
    | 0 => if (v s).isNaN then fmtNaN fmtF16 else s
    | 1 => (sumV fmtF16 0 false (v s) (mulV (v d) (oneMinus (v sa))).1).1
    | 2 => (sumV fmtF16 0 false (v s) (v d)).1
    | 3 => (fMinMax fmtF16 false true s d).1
    | _ => (fMinMax fmtF16 false false s d).1
  else
    match opc with
    | 0 => s
    | 1 =>
      -- (255 s + d (255 − sA)) / 255, to the nearest k of 255, ties to even k, clamped
      let n := 255 * s + d * (255 - sa)
      let k := n / 255; let r := n % 255
      min 255 (if 255 < 2 * r ∨ (2 * r = 255 ∧ k % 2 = 1) then k + 1 else k)
    | 2 => min 255 (s + d)
    | 3 => min s d
    | _ => max s d

/-- The new pixel of BLEND from source and destination bits (R468, R469). -/
def blendNew (opc : Nat) (f16 : Bool) (s d : Nat) : Nat :=
  let w := if f16 then 16 else 8
  let ch := fun v k => v / 2 ^ (w * k) % 2 ^ w
  (List.range 4).foldl (fun a k => a + blendChannel opc f16 (ch s k) (ch s 3) (ch d k) * 2 ^ (w * k)) 0

/-- The status word of R409: LINKLOSS bit and request id. -/
def statusWord (lost : Bool) (rid : BitVec 16) : Word := rid ++ (if lost then 1#16 else 0#16)

/-- The effects of an ATOM's or RED's result (R408-R410): the old value and, with .st, the status word. -/
def atomEffs (op : MemOp) (rid : BitVec 16) (old : Nat) : List Eff :=
  match op.kind with
  | .reduce | .joined => regsEff op.dst [statusWord false rid]
  | _ =>
    let v := (List.range (op.size / 4)).map fun i => BitVec.ofNat 32 (old / 2 ^ (32 * i))
    (if op.dst = 0 then [] else regsEff op.dst v) ++
      (if op.stat then regsEff (op.dst + op.size / 4) (statusWord false rid :: (if op.size = 8 then [0] else [])) else [])

/-! ## At the point of order -/

/-- Reads bytes where they live. -/
def locRead (s : State) (home : Nat) (l : Loc) (n : Nat) : List Byte × Nat :=
  match l with
  | .phys pa => homeRead s home pa n
  | .cist c off => cistRead s c off n

/-- Writes bytes where they live. -/
def locWrite (s : State) (home : Nat) (q : LaneReq) (l : Loc) (bytes : List Byte) (poison : Nat) : State :=
  match l with
  | .phys pa => homeWrite s home pa bytes q.wt q.bcmp poison
  | .cist c off => cistWrite s c off bytes poison

/-- The poison of the bytes at a place has been read (R304). -/
def locSeen (s : State) (home : Nat) (l : Loc) (n : Nat) : State :=
  match l with
  | .phys pa => if (homeRead s home pa n).2 = 0 then s else markSeen s home pa
  | .cist c off => cistSeen s c off n

/-- Performs one lane's access at its point of order, whole (R174): the state after, the effects for its fibre and their poison code. (DESIGN CHOICE,
log 86) (DESIGN CHOICE, log 86) -/
def serveLane (s : State) (home : Nat) (q : LaneReq) : State × List Eff × Nat :=
  let op := q.op
  match op.kind with
  | .load =>
    let (b, p) := locRead s home q.loc op.size
    (locSeen s home q.loc op.size, loadEffs op (q.fwd.foldl (fun b e => lset b e.1 e.2) b), p)
  | .store => (locWrite s home q q.loc (storeBytes op) 0, [], 0)
  | .joined => (s, atomEffs op 0 0, 0)
  | .blend =>
    let (b, p) := locRead s home q.loc op.size
    let new := blendNew (op.opc % 8) (op.size = 8) (wordsNat op.data % 2 ^ (8 * op.size)) (leNat b)
    (locWrite s home q q.loc (leBytes op.size new) p, [], 0)
  | .atomic | .reduce =>
    let (b, p) := locRead s home q.loc op.size
    let new := atomNew op.opc op.size (leNat b) (wordsNat op.data % 2 ^ (8 * op.size)) (wordsNat op.data2 % 2 ^ (8 * op.size))
    if op.kind = .atomic then (locWrite (locSeen s home q.loc op.size) home q q.loc (leBytes op.size new) p, atomEffs op 0 (leNat b), p)
    else (locWrite s home q q.loc (leBytes op.size new) p, atomEffs op 0 (leNat b), 0)

/-! ## Requests -/

/-- The packet kind and body of an operation's requests (R210). -/
def reqKind (k : OpKind) : Nat :=
  match k with
  | .load => 1 | .store => 2 | .atomic => 3 | .reduce | .blend | .joined => 4

/-- The body of a request packet. -/
def reqBody (k : OpKind) (l : List LaneReq) : Body :=
  match k with
  | .load => .read l
  | .store => .write l
  | .atomic => .atomic l
  | .reduce | .blend | .joined => .reduce l

/-- The 64-byte piece of a place, with its owner. -/
def pieceKey (home pkg : Nat) : Loc → Nat × Nat × Bool × Nat
  | .phys pa => (home, pkg, false, pa / 64)
  | .cist c off => (c, pkg, true, off / 64)

/-- One request packet per piece of an instruction's lanes, in the order their first lanes name them (R393). (DEDUCED, log 63) -/
def groupReqs (l : List (LaneReq × Nat × Nat)) : List (Nat × Nat × List LaneReq) :=
  let keys := l.foldl (fun a e => let k := pieceKey e.2.1 e.2.2 e.1.loc; if a.contains k then a else a ++ [k]) []
  keys.map fun k => (k.1, k.2.1, (l.filter fun e => pieceKey e.2.1 e.2.2 e.1.loc == k).map Prod.fst)

/-- Puts an instruction's requests into the issue buffer of a partition under entry `eid`. -/
def sendReqs (s : State) (core part eid : Nat) (kind : OpKind) (l : List (LaneReq × Nat × Nat)) : State :=
  (groupReqs l).foldl (fun s g =>
    match g.2.2 with
    | q :: _ =>
      let (p, s) := newPacket s .mreq (reqKind kind) core g.1 g.2.1 (if kind = .load then 1 else 2) (replyTag q.gen q.acc) (reqBody kind g.2.2)
      bufAdd s core part (packetEntry eid q.f q.acc p)
    | [] => s) s

/-- A lane request of an operation at a checked place. -/
def laneReq (x : Fibre) (f : FRef) (acc ll : Nat) (t : Target) (op : MemOp) (fwd : List (Nat × Byte)) : LaneReq :=
  { f := f, gen := x.gen, acc := acc, ll := ll, loc := t.loc, wt := t.wt, bcmp := t.bcmp, op := op, fwd := fwd }

/-- The order record of an operation at a place. -/
def accRec (s : State) (id : Nat) (op : MemOp) (loc : Option Loc) : Acc :=
  { plainAcc id op.path with
    loc := loc, size := op.size, writes := decide (op.kind ≠ .load), acq := if op.acq then fibreBits else 0,
    rel := if op.rel then fibreBits else 0, scope := effScope s loc op.scope }

/-! ## Held output -/

/-- The bytes that a load with place `ord` in program order takes from its activation's held stores: for each byte the latest earlier store's (R299). -/
def forwarded (s : State) (x : Fibre) (l : Loc) (n ord : Nat) : List (Nat × Byte) :=
  (List.range n).filterMap fun i =>
    (x.held.foldl (fun r h =>
      if h.q.op.kind = .store ∧ h.q.acc < ord then
        (match placeNow s h.q.loc, placeNow s l with
         | .phys a, .phys b => if a ≤ b + i ∧ b + i < a + h.q.op.size then some ((storeBytes h.q.op).getD (b + i - a) 0) else r
         | .cist c a, .cist d b => if c = d ∧ a ≤ b + i ∧ b + i < a + h.q.op.size then some ((storeBytes h.q.op).getD (b + i - a) 0) else r
         | _, _ => r)
      else r) none).map fun b => (i, b)

/-- The access with the request id it carries (R409): a remote ATOM or RED without one takes the next number of its core's counter, at the
time it is really issued (from a held list, after a replay, or at once); any other access carries none. -/
def withRid (s : State) (core pkg : Nat) (op : MemOp) : MemOp × State :=
  if (op.kind = .atomic ∨ op.kind = .reduce) ∧ pkg ≠ pkgNum s then
    match op.retryId with
    | some _ => (op, s)
    | none =>
      let k := getCore s core
      ({ op with retryId := some k.atomicId }, modCore s core fun k => { k with atomicId := k.atomicId + 1 })
  else ({ op with retryId := none }, s)

/-- Performs the held accesses of an activation in program order, before any later one (R195): each becomes a request of its own. -/
def performHeld (s : State) (f : FRef) : State :=
  match getFib s f with
  | none => s
  | some x =>
    let s := modFib s f fun x => { x with held := [] }
    x.held.foldl (fun s h =>
      let (id, s) := freshId s
      let (eid, s) := freshId s
      let s := addAcc s f { accRec s id h.q.op (some h.q.loc) with acq := fibreBits }
      let (op, s) := withRid s f.core h.pkg h.q.op
      waitEntry (sendReqs s f.core (slotPart f.slot) eid op.kind [({ h.q with acc := id, op := op }, h.home, h.pkg)]) f eid) s

/-- RST falls to 0 (R91, R195): the held accesses are performed. -/
def dropRst (s : State) (f : FRef) : State :=
  performHeld (modFib s f fun x => { x with fsr := x.fsr &&& 0xFFBFFFFF#32 }) f

/-- Entries of the activation store buffer in use. -/
def storeBufferUsed (x : Fibre) : Nat := (x.held.filter fun h => h.toCistern).length

/-! ## The instruction -/

/-- What one lane's access comes to at issue. -/
inductive LaneDone where
  | req (q : LaneReq) (home pkg : Nat)
  | fault (va : DWord) (k : Nat) (q : LaneReq)
  | none
  deriving DecidableEq, Repr

/-- Holds an access of a restartable activation at its place in program order (R195, R299); the 33rd entry of the store buffer ends RST (R91). -/
def holdAccess (s : State) (f : FRef) (x : Fibre) (t : Target) (q : LaneReq) : State :=
  let cist := match t.loc with | .cist _ _ => true | .phys _ => false
  let s := modFib s f fun x => { x with
    held := (x.held.filter fun h => decide (h.q.acc < q.acc)) ++ [⟨q, t.home, t.pkg, cist⟩] ++ x.held.filter fun h => ! decide (h.q.acc < q.acc) }
  if cist ∧ 32 ≤ storeBufferUsed x then dropRst s f else s

/-- One lane of a memory instruction (R391, R394): refused, trapped, held, or to be sent; `res` says whether it has a result. -/
def issueLane (s : State) (is : Issue) (l : Nat) (op : MemOp) (res : Bool) : State × LaneDone :=
  let f := is.fref l
  match getFib s f with
  | none => (s, .none)
  | some x =>
    if fsrRST x ∧ (op.kind = .blend ∨ (op.kind = .atomic ∧ op.dst ≠ 0)) then (takeTrap s f is.pc (trapOf 0 0x0E), .none)
    else if x.origin.helper ∧ (op.kind = .blend ∨ op.kind = .store) then (s, .none)
    else
      match checkOp s f x op with
      | .trap c d => (takeTrap s f is.pc (trapAt c d (eaOf s f op)), .none)
      | .page k =>
        let (id, s) := freshId s
        let (lid, s) := freshId s
        let s := modFib s f fun x => if res then addLL x lid else x
        let s := addAcc s f (accRec s id op none)
        (s, .fault (eaOf s f op) k { f := f, gen := x.gen, acc := id, ll := if res then lid else 0, loc := .phys 0, wt := false, bcmp := false, op := op, fwd := [] })
      | .ok t =>
        let s := noteAccess s f op
        let (id, s) := freshId s
        if fsrRST x ∧ op.kind ≠ .load then
          let (lid, s) := freshId s
          let s := if res then modFib s f fun x => addKnown x lid (if op.kind = .reduce then regsEff op.dst [0] else []) else s
          (holdAccess s f x t (laneReq x f id 0 t op []), .none)
        else
          let (lid, s) := freshId s
          let (op', s) := withRid s is.core t.pkg op
          let s := modFib s f fun x => if res then addLL x lid else x
          let s := addAcc s f (accRec s id op (some t.loc))
          let fwd := if op.kind = .load then forwarded s x t.loc op.size id else []
          (s, .req (laneReq x f id (if res then lid else 0) t op' fwd) t.home t.pkg)

/-- A memory instruction of the active lanes in ascending order (R396): traps, page faults posted as one batch (R297), one request per
piece. -/
def issueMem (s : State) (is : Issue) (act : List Nat) (kind : OpKind) (path : Path) (res : Bool) (mk : State → Nat → Fibre → MemOp) : State :=
  let (eid, s) := freshId s
  let (s, done) := act.foldl (fun (a : State × List (Nat × LaneDone)) l =>
    match getFib a.1 (is.fref l) with
    | some x => let r := issueLane a.1 is l (mk a.1 l x) res; (r.1, a.2 ++ [(l, r.2)])
    | none => a) (s, [])
  let reqs := done.filterMap fun e => match e.2 with | .req q h p => some (q, h, p) | _ => none
  let flts := done.filterMap fun e => match e.2 with | .fault va k q => some (e.1, va, k, Retry.mem q) | _ => none
  let s := sendReqs s is.core is.part eid kind reqs
  let s := reqs.foldl (fun s q => waitEntry s q.1.f eid) s
  postPageFaults s is.core is.slot is.pc (accCode path (match kind with | .load => 0 | .store => 1 | _ => 2)) flts

/-- A long-latency result that will not come leaves its fibre. -/
def dropLL (s : State) (f : FRef) (ll : Nat) : State := modFib s f fun x => { x with lls := x.lls.filter fun l => l.id ≠ ll }

/-- A faulted access does again what it did (R234): its checks and translation, then its request. (DEDUCED, log 10) -/
def retryMem (s : State) (q : LaneReq) (pc : Word) : State :=
  match getFib s q.f with
  | none => s
  | some x =>
    match checkOp s q.f x q.op with
    | .trap c d => takeTrap (dropLL (accDone s q.f q.acc) q.f q.ll) q.f pc (trapAt c d (eaOf s q.f q.op))
    | .page k => postPageFaults s q.f.core q.f.slot pc (accOfOp q.op) [(q.f.lane, eaOf s q.f q.op, k, .mem q)]
    | .ok t =>
      let s := noteAccess s q.f q.op
      if fsrRST x ∧ q.op.kind ≠ .load then
        let s := if q.ll = 0 then s else llDone s q.f q.ll 0 (if q.op.kind = .reduce then regsEff q.op.dst [0] else [])
        holdAccess (accDone s q.f q.acc) q.f x t { laneReq x q.f q.acc 0 t q.op [] with gen := q.gen }
      else
        let (eid, s) := freshId s
        let s := modFib s q.f fun x => { x with accs := x.accs.map fun a =>
          if a.id = q.acc then { a with loc := some t.loc, sent := false, scope := effScope s (some t.loc) q.op.scope } else a }
        let fwd := if q.op.kind = .load then forwarded s x t.loc q.op.size q.acc else []
        let (op, s) := withRid s q.f.core t.pkg q.op
        waitEntry (sendReqs s q.f.core (slotPart q.f.slot) eid op.kind [({ q with loc := t.loc, wt := t.wt, bcmp := t.bcmp, fwd := fwd, op := op }, t.home, t.pkg)]) q.f eid

end Sys2Proof.Machine
end

