-- ==== Sys2Proof/Machine/Memory.lean ====
section
/-!
DEFINITION. Memory instructions (R389-R410): loads and stores, range operations, fences, copies, extent queries, atomics and
reductions. Each lane's operation is read off its registers once; `issueMem` does the rest.
-/
namespace Sys2Proof.Machine

/-! ## Operations from operands -/

/-- Words that an access of `n` bytes takes from registers from gN upward (R392). -/
def dataWords (x : Fibre) (c : Code) (n : Nat) : List Word := regsFrom x c.toNat (max 1 (n / 4))

/-- The extent form's extent and offset, or none in the pair form (R336); `add` is the lane term of LDA and STA. -/
def extOf (x : Fibre) (o : BodyM) (add : Nat) : Option (Nat × Int) :=
  if o.xf then some (o.ext.toNat, (regOf x o.a.toNat).toNat + o.off.toInt + add) else none

/-- The address of a fibre's access (R336, R391). -/
def vaOf (x : Fibre) (o : BodyM) (cistern : Bool) (add : Nat) : DWord :=
  if cistern then (regOf x o.a.toNat + o.off.signExtend 32).setWidth 64
  else pairOf (regOf x o.a.toNat) (regOf x (o.a.toNat + 1)) + o.off.signExtend 64 + BitVec.ofNat 64 add

/-- An M-format operation of one lane. -/
def memOp (h : Head) (o : BodyM) (kind : OpKind) (path : Path) (cistern : Bool) (pc : Word) (x : Fibre) (add : Nat) (data data2 : List Word) : MemOp :=
  { kind := kind, pc := pc, va := vaOf x o cistern add, ext := extOf x o add, cistern := cistern, size := sizeBytes o.size,
    signed := decide (kind = .load) && h.mod.getLsbD 0, data := data, data2 := data2, dst := if kind = .store ∨ kind = .blend then 0 else o.d.toNat,
    opc := if kind = .blend then h.mod.toNat % 8 else h.mod.toNat % 16, stat := decide (kind = .atomic) && h.mod.getLsbD 4, retryId := none,
    scope := o.scope.toNat, acq := o.ord.getLsbD 0, rel := o.ord.getLsbD 1, rem := o.rem, path := path }

/-- A load instruction (R395, R396). -/
def loadInstr (s : State) (i : Instr) (h : Head) (o : BodyM) (cistern lanes : Bool) : Host.Outcome State Fault Refusal :=
  onActive s i h fun is act s => issueMem s is act .load .ls true fun _ l x =>
    memOp h o .load .ls cistern is.pc x (if lanes then l * sizeBytes o.size else 0) [] []

/-- A store instruction (R395, R396). -/
def storeInstr (s : State) (i : Instr) (h : Head) (o : BodyM) (cistern lanes : Bool) : Host.Outcome State Fault Refusal :=
  onActive s i h fun is act s => issueMem s is act .store .ls false fun _ l x =>
    memOp h o .store .ls cistern is.pc x (if lanes then l * sizeBytes o.size else 0) (dataWords x o.d (sizeBytes o.size)) []

/-- LD (R396). -/
def execLd (h : Head) (o : BodyM) (s : State) : Host.Outcome State Fault Refusal := loadInstr s (.ld h o) h o false false
/-- ST (R396). -/
def execSt (h : Head) (o : BodyM) (s : State) : Host.Outcome State Fault Refusal := storeInstr s (.st h o) h o false false
/-- LDC (R397). -/
def execLdc (h : Head) (o : BodyM) (s : State) : Host.Outcome State Fault Refusal := loadInstr s (.ldc h o) h o true false
/-- STC (R397). -/
def execStc (h : Head) (o : BodyM) (s : State) : Host.Outcome State Fault Refusal := storeInstr s (.stc h o) h o true false
/-- LDA (R398). -/
def execLda (h : Head) (o : BodyM) (s : State) : Host.Outcome State Fault Refusal := loadInstr s (.lda h o) h o false true
/-- STA (R398). -/
def execSta (h : Head) (o : BodyM) (s : State) : Host.Outcome State Fault Refusal := storeInstr s (.sta h o) h o false true

/-! ## Atomics and reductions -/

/-- The request id that .rty takes from the status register (R409). -/
def rtyId (h : Head) (x : Fibre) (reg : Nat) : Option (BitVec 16) := if h.mod.getLsbD 5 then some ((regOf x reg).extractLsb' 16 16) else none

/-- ATOM (R407-R409). -/
def execAtom (h : Head) (o : BodyM) (s : State) : Host.Outcome State Fault Refusal :=
  onActive s (.atom h o) h fun is act s => issueMem s is act .atomic .ms true fun _ _ x =>
    let n := sizeBytes o.size
    let b := dataWords x o.b n
    let c := if h.mod.toNat % 16 = 9 then regsFrom x (o.b.toNat + n / 4) (n / 4) else []
    { memOp h o .atomic .ms false is.pc x 0 b c with retryId := rtyId h x (o.d.toNat + n / 4) }

/-- RED (R407, R410): a status word when D is not g0. -/
def execRed (h : Head) (o : BodyM) (s : State) : Host.Outcome State Fault Refusal :=
  onActive s (.red h o) h fun is act s => issueMem s is act .reduce .ms (decide (o.d ≠ 0#9)) fun _ _ x =>
    { memOp h o .reduce .ms false is.pc x 0 (dataWords x o.b (sizeBytes o.size)) [] with retryId := rtyId h x o.d.toNat }

/-- BLEND (R468, R469): a read-modify-write of one pixel on RB. -/
def execBlend (h : Head) (o : BodyM) (s : State) : Host.Outcome State Fault Refusal :=
  onActive s (.blend h o) h fun is act s => issueMem s is act .blend .rb false fun _ _ x =>
    memOp h o .blend .rb false is.pc x 0 (dataWords x o.d (sizeBytes o.size)) []

/-! ## Range operations -/

/-- First byte and length of a range in whole pieces (R400); the address wraps at 2⁶⁴. -/
def rangePieces (a : DWord) (n : Nat) : List Nat := if n = 0 then [] else (List.range ((a.toNat % 64 + n + 63) / 64)).map fun k => a.toNat / 64 * 64 + 64 * k

/-- The first piece of a range whose check fails (R400): a window raises detail 0x03. -/
def rangeBad (s : State) (f : FRef) (x : Fibre) (ext : Option Nat) (base : Nat) (ps : List Nat) : Option (Nat × Tr) :=
  ps.findSome? fun (a : Nat) =>
    match ext with
    | some n =>
      (match translateExt s f.core (sliceOf s f) (extTask s f) (fsrPRV x) n (Int.ofNat a - Int.ofNat base) 1 .rd with
       | .ok _ => none
       | e => some (a, e))
    | none =>
      if inWindow a ∧ a / 2 ^ 48 = 0 then some (a, .trap 4 0x03)
      else match translate s f.core (sliceOf s f) (fsrPRV x) (BitVec.ofNat 64 a) 1 .rd false with
        | .ok _ => none
        | e => some (a, e)

/-- The base of the range's addresses: an extent's own base in the extent form. -/
def extentBase (s : State) (f : FRef) (n : Nat) : Nat :=
  ((tget (getSlice s (sliceOf s f)).tasks (extTask s f)).bind fun t => (t.extents[n]?).map fun e => e.base.toNat).getD 0

/-- The effective address and the length of a range operation (R399); an extent's offset may be negative. -/
def rangeSpan (s : State) (f : FRef) (o : BodyM) (x : Fibre) : DWord × Nat × Int :=
  let off := (regOf x o.a.toNat).toNat + o.off.toInt
  (if o.xf then BitVec.ofNat 64 (extentBase s f o.ext.toNat + off.toNat) else vaOf x o false 0, (regOf x o.b.toNat).toNat, off)

/-- The pieces of a range operation (R400). -/
def rangeOps (s : State) (f : FRef) (o : BodyM) (x : Fibre) : List Nat :=
  let r := rangeSpan s f o x
  if o.xf ∧ r.2.2 < 0 then [] else rangePieces r.1 r.2.1

/-- The physical pieces of a range operation with their homes, and whether their page allows compression, in the extent form by the extent's own
translation; pieces in a window, and those that do not translate, are left out (PREF, R400). -/
def rangeHomes (s : State) (f : FRef) (o : BodyM) (x : Fibre) : List (Nat × Nat × Nat × Bool) :=
  (rangeOps s f o x).filterMap fun a =>
    if inWindow a then none
    else
      match (if o.xf then
          translateExt s f.core (sliceOf s f) (extTask s f) (fsrPRV x) o.ext.toNat (Int.ofNat a - Int.ofNat (extentBase s f o.ext.toNat)) 1 .rd
        else translate s f.core (sliceOf s f) (fsrPRV x) (BitVec.ofNat 64 a) 1 .rd false) with
      | .ok t => (match t.loc with | .phys pa => some (t.home, t.pkg, pa / 64, t.bcmp) | .cist _ _ => none)
      | _ => none

/-- The first failure of a range operation (R400): of its first byte, then of its pieces; an extent's last byte counts with them. -/
def rangeFailure (s : State) (f : FRef) (o : BodyM) (x : Fibre) : Option (Nat × Tr) :=
  let r := rangeSpan s f o x
  let n := r.2.1
  let e := if o.xf then some o.ext.toNat else none
  let base := if o.xf then extentBase s f o.ext.toNat else 0
  let rest := (rangeOps s f o x).drop 1 ++ (if o.xf ∧ n ≠ 0 then [r.1.toNat + n - 1] else [])
  if o.xf ∧ r.2.2 < 0 ∧ n ≠ 0 then some (0, .trap 4 0x02)
  else (if n = 0 then none else rangeBad s f x e base [r.1.toNat]).or (rangeBad s f x e base rest)

/-- The record of a range operation's part at one home (R400): an LS write of the bytes from the lowest of its pieces to the highest. -/
def rangeRec (id : Nat) (pc : Word) (va : DWord) (i : Instr) (regs : List Word) (pcs : List Nat) : Acc :=
  let low := pcs.foldl min (pcs.headD 0)
  { plainAcc id .ls with loc := some (.phys (low * 64)), size := (pcs.foldl max 0 + 1 - low) * 64, redo := some (pc, va, i, regs) }

/-- Sends a range operation, one request to each home it concerns and each setting of BCMP; PREF needs no record (R400). -/
def rangeSend (s : State) (is : Issue) (eid opc : Nat) (f : FRef) (x : Fibre) (i : Instr) (va : DWord) (hs : List (Nat × Nat × Nat × Bool)) : State :=
  let key := fun (e : Nat × Nat × Nat × Bool) => (e.1, e.2.1, e.2.2.2)
  (hs.map key).dedup.foldl (fun s k =>
    let pcs := (hs.filter fun e => key e = k).map fun e => e.2.2.1
    let (id, s) := freshId s
    let s := if opc = 0 then s else addAcc s f (rangeRec id is.pc va i x.regs pcs)
    let (p, s) := newPacket s .mreq 0x08 is.core k.1 k.2.1 1 (replyTag x.gen id) (.range opc f (if opc = 0 then 0 else id) pcs k.2.2)
    waitEntry (bufAdd s is.core is.part (packetEntry eid f id p)) f eid) s

/-- A range operation of one lane (R399, R400): 0 PREF, 1 FLUSH, 2 INVL, 3 PIN, 4 UNPIN. -/
def rangeLane (s : State) (is : Issue) (eid opc : Nat) (i : Instr) (o : BodyM) (l : Nat) : State :=
  let f := is.fref l
  match getFib s f with
  | none => s
  | some x =>
    if fsrRST x ∧ opc ≠ 0 then takeTrap s f is.pc (trapOf 0 0x0E)
    else
      match (if opc = 0 then none else rangeFailure s f o x) with
      | some (va, e) => addrFails s f is.pc va e .ls 0 i
      | none => rangeSend s is eid opc f x i (rangeSpan s f o x).1 (rangeHomes s f o x)

/-- A range instruction. -/
def rangeInstr (s : State) (i : Instr) (h : Head) (o : BodyM) (opc : Nat) : Host.Outcome State Fault Refusal :=
  onActive s i h fun is act s =>
    let (eid, s) := freshId s
    eachLane act (fun s l => rangeLane s is eid opc i o l) s

/-- PREF (R399). -/
def execPref (h : Head) (o : BodyM) (s : State) : Host.Outcome State Fault Refusal := rangeInstr s (.pref h o) h o 0
/-- FLUSH (R399). -/
def execFlush (h : Head) (o : BodyM) (s : State) : Host.Outcome State Fault Refusal := rangeInstr s (.flush h o) h o 1
/-- INVL (R399). -/
def execInvl (h : Head) (o : BodyM) (s : State) : Host.Outcome State Fault Refusal := rangeInstr s (.invl h o) h o 2
/-- PIN (R399). -/
def execPin (h : Head) (o : BodyM) (s : State) : Host.Outcome State Fault Refusal := rangeInstr s (.pin h o) h o 3
/-- UNPIN (R399). -/
def execUnpin (h : Head) (o : BodyM) (s : State) : Host.Outcome State Fault Refusal := rangeInstr s (.unpin h o) h o 4

/-- The page a MIGR names (R401): its address and place, or the address and failure. -/
def migrPage (s : State) (f : FRef) (o : BodyM) (x : Fibre) : DWord × Except (Nat × Tr) Target :=
  let off := (regOf x o.a.toNat).toNat + o.off.toInt
  let ea : DWord := if o.xf then BitVec.ofInt 64 (extentBase s f o.ext.toNat + off) else vaOf x o false 0
  (ea,
    if o.xf then
      (match translateExt s f.core (sliceOf s f) (extTask s f) (fsrPRV x) o.ext.toNat off 1 .rd with
       | .ok t => .ok t
       | e => .error (ea.toNat, e))
    else
      match rangeBad s f x none 0 [ea.toNat] with
      | some e => .error e
      | none =>
        (match translate s f.core (sliceOf s f) (fsrPRV x) ea 1 .rd false with
         | .ok t => .ok t
         | e => .error (ea.toNat, e)))

/-- MIGR of one lane (R401): the page must be readable; the request goes to the migration unit of the fault-service core. -/
def migrLane (s : State) (is : Issue) (eid : Nat) (i : Instr) (o : BodyM) (l : Nat) : State :=
  let f := is.fref l
  match getFib s f with
  | none => s
  | some x =>
    if fsrRST x then takeTrap s f is.pc (trapOf 0 0x0E)
    else
      let t := (regOf x o.b.toNat).toNat
      match (migrPage s f o x).2 with
      | .error (va, e) => addrFails s f is.pc va e .ls 0 i
      | .ok tg =>
        if t / 1024 ≠ 0 then takeTrap s f is.pc (trapAt 4 0x05 (migrPage s f o x).1)
        else
          match faultService s is.core (sliceOf s f) with
          | none => s
          | some d =>
            let pa := match tg.loc with | .phys pa => pa | .cist _ _ => 0
            let (id, s) := freshId s
            let (p, s) := newPacket s .sys 0x0F is.core d (pkgNum s) 1 0
              (.migrate (sliceOf s f) (migrPage s f o x).1 pa t (whoWord (taskOf s f) x.gen f.slot f.core))
            waitEntry (bufAdd s is.core is.part (packetEntry eid f id p)) f eid

/-- MIGR (R401). -/
def execMigr (h : Head) (o : BodyM) (s : State) : Host.Outcome State Fault Refusal :=
  onActive s (.migr h o) h fun is act s =>
    let (eid, s) := freshId s
    eachLane act (fun s l => migrLane s is eid (.migr h o) o l) s

/-! ## Fences -/

/-- Adds an ordering point to the fibres of an instruction; one that is over already leaves nothing. -/
def fenceLanes (s : State) (is : Issue) (act : List Nat) (k : FenceKind) (scope : Nat) : State :=
  eachLane act (fun s l =>
    let (id, s) := freshId s
    modFib s (is.fref l) fun x => dropFences (sentWrites s (is.fref l)) { x with
      accs := x.accs ++ [{ plainAcc id .ls with fence := some k, scope := scope }] }) s

/-- FENCE (R184, R402). -/
def execFence (h : Head) (o : BodyK) (s : State) : Host.Outcome State Fault Refusal :=
  signalled s h <| onActive s (.fence h o) h fun is act s =>
    fenceLanes s is act (match h.mod.toNat with | 0 => .ar | 1 => .acq | _ => .rel) o.scope.toNat

/-- Whether a path mask holds only fibre paths (R173). -/
def fibreMask (m : BitVec 7) : Bool := m &&& 0b1011110 == 0

/-- The engine commands of a fibre still running on the paths of a mask, which a FENCEP waits for at the run end (R189). -/
def engineAccs (x : Fibre) (m : BitVec 7) : List Nat :=
  (x.accs.filter fun a => a.fence.isNone && inMask m a.path && ! isFibrePath a.path).map fun a => a.id

/-- FENCEP (R188, R189, R402). -/
def execFencep (h : Head) (o : BodyK) (s : State) : Host.Outcome State Fault Refusal :=
  signalled s h <| onActive s (.fencep h o) h fun is act s =>
    if o.mask1 = o.mask2 ∧ fibreMask o.mask1 then fenceLanes s is act .ar o.scope.toNat
    else
      let s := eachLane act (fun s l => modFib s (is.fref l) fun x => { x with waits := x.waits ++ (engineAccs x o.mask1).map .engine }) s
      fenceLanes s is act (.paths o.mask1 o.mask2) o.scope.toNat

/-! ## Copies -/

/-- The part of the address space that a region must not leave (R404): paged memory, or one cistern window; none for an address that
no access may use. -/
def regionOf (a : Nat) : Option Nat :=
  if a < 0xFFFF00000000 then some 0
  else if a < 0xFFFF90000000 then some (1 + (a - 0xFFFF00000000) / 0x400000)
  else if a < 0xFFFFFFC00000 then some 1000000
  else if a < 2 ^ 48 then some 2000000
  else none

/-- The first failure of a copy region (R391, R404, R405). -/
def regionFails (s : State) (f : FRef) (x : Fibre) (r : Right) (a n : Nat) : Option (Nat × Tr) :=
  if n = 0 then none
  else if a / 2 ^ 48 ≠ 0 then some (a, .trap 4 0x01)
  else if a < 0x10000 then some (a, .trap 3 0)
  else if regionOf a ≠ regionOf (a + n - 1) then some (a, .trap 4 0x03)
  else rangeFails s f.core (sliceOf s f) (fsrPRV x) r a n

/-- The regions of a copy command: right, address, bytes (R404). -/
def copyRegions (c : CopyCmd) : List (Right × Nat × Nat) :=
  match c.kind with
  | 0 => [(.rd, c.src.toNat, c.rowBytes), (.wr, c.dst.toNat, c.rowBytes)]
  | 1 =>
    if c.rows = 0 ∨ c.rowBytes = 0 then []
    else (List.range c.rows).flatMap fun r => [(.rd, (c.src + BitVec.ofNat 64 (r * c.srcStride)).toNat, c.rowBytes), (.wr, (c.dst + BitVec.ofNat 64 (r * c.dstStride)).toNat, c.rowBytes)]
  | _ => [(.rd, c.index.toNat, 4 * c.rows), (.wr, c.dst.toNat, c.elem * c.rows)]

/-- Whether a whole region of rows stays in one part of the address space (R404). -/
def rowsCross (c : CopyCmd) : Option Nat :=
  if c.kind ≠ 1 ∨ c.rows = 0 ∨ c.rowBytes = 0 then none
  else
    let last := fun (a : DWord) (st : Nat) => a.toNat + (c.rows - 1) * st + c.rowBytes - 1
    if regionOf c.src.toNat ≠ regionOf (last c.src c.srcStride) then some c.src.toNat
    else if regionOf c.dst.toNat ≠ regionOf (last c.dst c.dstStride) then some c.dst.toNat
    else none

/-- The misaligned value of a copy command (R404). -/
def copyMisaligned (c : CopyCmd) : Option Nat :=
  match c.kind with
  | 0 => if c.dst.toNat % 8 ≠ 0 then some c.dst.toNat else if c.src.toNat % 8 ≠ 0 ∨ c.rowBytes % 8 ≠ 0 then some c.src.toNat else none
  | 1 =>
    if c.dst.toNat % 8 ≠ 0 ∨ c.dstStride % 8 ≠ 0 then some c.dst.toNat
    else if c.src.toNat % 8 ≠ 0 ∨ c.rowBytes % 8 ≠ 0 ∨ c.srcStride % 8 ≠ 0 then some c.src.toNat else none
  | _ => if c.dst.toNat % c.elem ≠ 0 then some c.dst.toNat else if c.src.toNat % c.elem ≠ 0 then some c.src.toNat
    else if c.index.toNat % c.elem ≠ 0 then some c.index.toNat else none

/-- The place of an address failure in the order of R290. -/
def trRank : Tr → Nat
  | .trap 4 0x01 => 0
  | .trap 3 _ => 1
  | .trap 2 _ => 2
  | .trap 4 0x02 | .trap 4 0x03 | .trap 4 0x0E => 3
  | _ => 4

/-- The first failure of a copy command in the order of R290, and within one kind in ascending address order (R405), with the right that the access
needs. -/
def copyFails (s : State) (f : FRef) (x : Fibre) (c : CopyCmd) : Option (Nat × Tr × Right) :=
  let fails := (copyRegions c).filterMap (fun r => (regionFails s f x r.1 r.2.1 r.2.2).map fun e => (e.1, e.2, r.1)) ++
    ((copyMisaligned c).toList.map fun a => (a, .trap 2 0, .rd)) ++ ((rowsCross c).toList.map fun a => (a, .trap 4 0x03, .rd))
  fails.foldl (fun b e => match b with
    | some d => if trRank e.2.1 < trRank d.2.1 ∨ (trRank e.2.1 = trRank d.2.1 ∧ e.1 < d.1) then some e else b
    | none => some e) none

/-- The ACC code of a fault of a copy command by the right that failed (R296). -/
def copyAcc (r : Right) : Nat := accCode .cp (if r = .wr then 1 else 0)

/-- What keeps the place in program order of a copy command whose page is still to come (R176, R405). -/
def copyRec (id : Nat) : Acc := { plainAcc id .cp with size := 1 }

/-- A copy command of one lane, checked whole at issue and put into the issue buffer (R405). -/
def copyLane (s : State) (is : Issue) (eid : Nat) (i : Instr) (mk : Fibre → FRef → CopyCmd) (l : Nat) : State :=
  let f := is.fref l
  match getFib s f with
  | none => s
  | some x =>
    if fsrRST x then takeTrap s f is.pc (trapOf 0 0x0E)
    else
      let (id, s) := freshId s
      let c := { mk x f with pc := is.pc, acc := id }
      match copyFails s f x c with
      | some (va, e, r) => addrFailsAs s f is.pc va e (copyAcc r) copyRec false i
      | none =>
        let s := addAcc s f (plainAcc id .cp)
        waitEntry (bufAdd s is.core is.part { entry := eid, f := f, pc := is.pc, acc := id, cmd := .copy c }) f eid

/-- A copy instruction. -/
def copyInstr (s : State) (i : Instr) (h : Head) (mk : Fibre → FRef → CopyCmd) : Host.Outcome State Fault Refusal :=
  onActive s i h fun is act s =>
    let (eid, s) := freshId s
    eachLane act (fun s l => copyLane s is eid i mk l) s

/-- The command of a CPY. -/
def cpyCmd (o : BodyX) (x : Fibre) (f : FRef) : CopyCmd :=
    { kind := 0, dst := pairSrc x 0 o.a, src := pairSrc x 0 o.b, rowBytes := (regOf x o.d.toNat).toNat, rows := 1, dstStride := 0, srcStride := 0,
      index := 0, elem := 0, f := f, pc := 0, acc := 0, pos := 0 }

/-- CPY (R403, R404). -/
def execCpy (h : Head) (o : BodyX) (s : State) : Host.Outcome State Fault Refusal := copyInstr s (.cpy h o) h (cpyCmd o)

/-- The command of a CPYW. -/
def cpywCmd (o : BodyX) (x : Fibre) (f : FRef) : CopyCmd :=
    { kind := 1, dst := pairSrc x 0 o.a, src := pairSrc x 0 o.b, rowBytes := (regOf x o.d.toNat).toNat, rows := (regOf x (o.d.toNat + 1)).toNat,
      dstStride := (regOf x (o.d.toNat + 2)).toNat, srcStride := (regOf x (o.d.toNat + 3)).toNat, index := 0, elem := 0, f := f, pc := 0, acc := 0, pos := 0 }

/-- CPYW (R403, R404). -/
def execCpyw (h : Head) (o : BodyX) (s : State) : Host.Outcome State Fault Refusal := copyInstr s (.cpyw h o) h (cpywCmd o)

/-- The command of a GATH. -/
def gathCmd (o : BodyX) (x : Fibre) (f : FRef) : CopyCmd :=
    { kind := 2, dst := pairSrc x 0 o.a, src := pairSrc x 0 o.d, rowBytes := 0, rows := (regOf x (o.d.toNat + 2)).toNat, dstStride := 0, srcStride := 0,
      index := pairSrc x 0 o.b, elem := (match o.sub.toNat with | 0 => 4 | 1 => 8 | 2 => 16 | _ => 64), f := f, pc := 0, acc := 0, pos := 0 }

/-- GATH (R403, R404). -/
def execGath (h : Head) (o : BodyX) (s : State) : Host.Outcome State Fault Refusal := copyInstr s (.gath h o) h (gathCmd o)

/-! ## Extent query -/

/-- The status of an extent for an offset (R406). -/
def extStatus (s : State) (f : FRef) (n : Nat) (off : Int) : Word × DWord :=
  match (tget (getSlice s (sliceOf s f)).tasks (extTask s f)).bind fun t => t.extents[n]? with
  | none => (0, 0)
  | some e =>
    let b := fun (v : Bool) k => if v then 2 ^ k else 0
    let inside := decide (0 ≤ off ∧ off.toNat < e.len)
    let valid := match runOf e off.toNat with
      | some (i, _) => ! (getCore s f.core).runsInvalid.contains (sliceOf s f, extTask s f, n, i)
      | none => false
    let held := match runOf e off.toNat with | some (i, _) => decide (i < 8) | none => false
    (BitVec.ofNat 32 (b inside 0 + b (e.acc.getLsbD 0) 1 + b (e.acc.getLsbD 1) 2 + b (e.acc.getLsbD 2) 3 +
      b (decide (e.acc.toNat / 16 % 16 = 1)) 4 + b (inside && held) 5 + b (inside && valid) 6), BitVec.ofNat 64 e.len)

/-- EXTQ (R406). -/
def execExtq (h : Head) (o : BodyM) (s : State) : Host.Outcome State Fault Refusal :=
  signalled s h <| perLaneLong s (.extq h o) h fun s is l x =>
    let r := extStatus s (is.fref l) o.ext.toNat ((regOf x o.a.toNat).toNat + o.off.toInt)
    if h.mod = 1#8 then pairEff o.d r.2 else destEff o.d r.1

end Sys2Proof.Machine
end

