-- ==== Sys2Proof/Machine/Sync.lean ====
section
/-!
DEFINITION. Combining, ordered sections and barriers (R411-R420): what each instruction does at issue. The homes' part stands with the
device's steps.
-/
namespace Sys2Proof.Machine

/-- The number of a predicate code (R411). -/
def predNum (c : Code) : Nat := c.toNat % 16

/-! ## Combining -/

/-- The checked place of a combiner object (R411): 64-byte aligned, RMW rights, no cistern window. -/
def objectTarget (s : State) (f : FRef) (x : Fibre) (a : DWord) : Tr :=
  match translate s f.core (sliceOf s f) (fsrPRV x) a 64 .rmw true with
  | .ok t => (match t.loc with | .phys _ => .ok t | .cist _ _ => .trap 4 0x03)
  | e => if 0xFFFF00000000 ≤ a.toNat ∧ a.toNat / 2 ^ 48 = 0 ∧ a.toNat % 64 = 0 ∧ e ≠ .trap 4 0x0E then .trap 4 0x03 else e

/-- The record of a COMBINE: an acquire and a release (R186). -/
def combineRec (id : Nat) : Acc := { plainAcc id .ms with acq := fibreBits, rel := fibreBits }

/-- The record of a CMBREG: a release (R186). -/
def cmbregRec (id : Nat) : Acc := { plainAcc id .ms with rel := fibreBits }

/-- COMBINE of one lane (R412): one request to the object's home. (DEDUCED, log 9) -/
def combineLane (s : State) (is : Issue) (eid : Nat) (h : Head) (o : BodyK) (l : Nat) : State :=
  let f := is.fref l
  match getFib s f with
  | none => s
  | some x =>
    if fsrRST x then takeTrap s f is.pc (trapOf 0 0x0E)
    else
      let ea := pairSrc x 0 o.a
      match objectTarget s f x ea with
      | .ok t =>
        let pa := match t.loc with | .phys pa => pa | .cist _ _ => 0
        let s := tlbNote s f.core (sliceOf s f) ea.toNat
        let (id, s) := freshId s
        let s := modFib s f fun x => addLL x id
        let s := addAcc s f { combineRec id with redo := some (is.pc, ea, .combine h o, x.regs) }
        let (p, s) := newPacket s .mreq 0x05 is.core t.home t.pkg 2 (replyTag x.gen id)
          (.combine f x.gen id id o.d.toNat (predNum o.c) ea pa (regsFrom x o.b.toNat (o.mlen.toNat + 1)) (o.num.toNat % 8 + 1))
        waitEntry (bufAdd s is.core is.part (packetEntry eid f id p)) f eid
      | e => addrFailsAs s f is.pc ea.toNat e (accCode .ms 2) combineRec true (.combine h o)

/-- COMBINE (R411, R412). -/
def execCombine (h : Head) (o : BodyK) (s : State) : Host.Outcome State Fault Refusal :=
  onNamed s h [(0, o.d, o.num.toNat % 8 + 1), (1, o.a, 2), (2, o.b, o.mlen.toNat + 1)] fun is act s =>
    let (eid, s) := freshId s
    eachLane act (fun s l => combineLane s is eid h o l) s

/-- CMBREG of one lane (R414): the descriptor is checked here, the entry changes at the home. -/
def cmbregLane (s : State) (is : Issue) (eid : Nat) (h : Head) (o : BodyK) (l : Nat) : State :=
  let f := is.fref l
  match getFib s f with
  | none => s
  | some x =>
    if fsrRST x then takeTrap s f is.pc (trapOf 0 0x0E)
    else
      let ea := pairSrc x 0 o.a
      let desc := regOf x o.b.toNat
      match objectTarget s f x ea with
      | .ok t =>
        let pa := match t.loc with | .phys pa => pa | .cist _ _ => 0
        if desc.toNat / 2 ^ 18 ≠ 0 ∨ 31 < fld pa 10 6 + fld desc.toNat 11 7 then takeTrap s f is.pc (trapAt 4 0x0A ea)
        else
          let s := tlbNote s f.core (sliceOf s f) ea.toNat
          let (id, s) := freshId s
          let s := modFib s f fun x => addLL x id
          let s := addAcc s f { cmbregRec id with redo := some (is.pc, ea, .cmbreg h o, x.regs) }
          let (p, s) := newPacket s .mreq 0x05 is.core t.home t.pkg 1 (replyTag x.gen id) (.cmbreg f x.gen id id (predNum o.c) pa desc)
          waitEntry (bufAdd s is.core is.part (packetEntry eid f id p)) f eid
      | e => addrFailsAs s f is.pc ea.toNat e (accCode .ms 2) cmbregRec true (.cmbreg h o)

/-- CMBREG (R414). -/
def execCmbreg (h : Head) (o : BodyK) (s : State) : Host.Outcome State Fault Refusal :=
  onActive s (.cmbreg h o) h fun is act s =>
    let (eid, s) := freshId s
    eachLane act (fun s l => cmbregLane s is eid h o l) s

/-! ## Ordered sections -/

/-- The paths that a section acquires and releases: fibre paths and RB (R186). -/
def sectionBits : BitVec 7 := 0x61

/-- Sends a section request of a fibre to the key's home (R249): 0 enter, 1 leave, 2 skip. -/
def sendSection (s : State) (is : Issue) (eid opc : Nat) (f : FRef) (x : Fibre) (id : Nat) (key : DWord) (seq : Word) : State :=
  let home := sectionHome s (sliceOf s f) key
  let (p, s) := newPacket s .mreq 0x06 is.core home (pkgNum s) 1 (replyTag x.gen id) (.ordered opc f x.gen id key seq)
  waitEntry (bufAdd s is.core is.part (packetEntry eid f id p)) f eid

/-- OSENT (R415, R416). -/
def execOsent (h : Head) (o : BodyK) (s : State) : Host.Outcome State Fault Refusal :=
  onActive s (.osent h o) h fun is act s =>
    let (eid, s) := freshId s
    eachLane act (fun s l =>
      let f := is.fref l
      match getFib s f with
      | none => s
      | some x =>
        let key := pairSrc x 0 o.a
        let n := regOf x o.b.toNat
        if 2 ≤ x.heldKeys.length ∨ (x.heldKeys.any fun k => decide (key ≤ k.1)) then takeTrap s f is.pc { trapOf 7 0x03 with aux := key }
        else
          let (id, s) := freshId s
          let s := modFib s f fun x => let x := addLL x id; { x with waits := x.waits ++ [.ordered is.pc key n (predNum o.c) id id] }
          let s := addAcc s f { plainAcc id .ms with acq := sectionBits }
          sendSection s is eid 0 f x id key n) s

/-- OSLEAVE (R417): a release; the home clears HELD when it is performed. -/
def execOsleave (h : Head) (o : BodyK) (s : State) : Host.Outcome State Fault Refusal :=
  onActive s (.osleave h o) h fun is act s =>
    let (eid, s) := freshId s
    eachLane act (fun s l =>
      let f := is.fref l
      match getFib s f with
      | none => s
      | some x =>
        let key := pairSrc x 0 o.a
        match x.heldKeys.find? fun k => k.1 = key with
        | none => takeTrap s f is.pc { trapOf 7 0x02 with aux := key }
        | some k =>
          let (id, s) := freshId s
          let s := modFib s f fun x => { x with
            heldKeys := x.heldKeys.filter fun k => k.1 ≠ key
            origin := { x.origin with pixelLeft := x.origin.pixelLeft || x.origin.pixelKey == some key } }
          let s := addAcc s f { plainAcc id .ms with rel := sectionBits }
          sendSection s is eid 1 f x id key k.2) s

/-- OSSKIP (R417): the fibre parks until the home acknowledges. -/
def execOsskip (h : Head) (o : BodyK) (s : State) : Host.Outcome State Fault Refusal :=
  onActive s (.osskip h o) h fun is act s =>
    let (eid, s) := freshId s
    eachLane act (fun s l =>
      let f := is.fref l
      match getFib s f with
      | none => s
      | some x =>
        let key := pairSrc x 0 o.a
        let n := regOf x o.b.toNat
        let (id, s) := freshId s
        let s := modFib s f fun x => { x with waits := x.waits ++ [.skip is.pc key n id] }
        let s := addAcc s f (plainAcc id .ms)
        sendSection s is eid 2 f x id key n) s

/-! ## Barriers -/

/-- Writes a barrier slot anew (R419): counted arrivals are lost, waiters wait for the first completion under the new setting. -/
def initBar (s : State) (core team num : Nat) (b : Barrier) : State :=
  let s := putBar s core team num b
  (teamFibres s core team).foldl (fun s f => modFib s f fun x => { x with
    barParity := if x.waits.any fun w => match w with | .barrier _ n none _ _ _ _ => decide (n = num) | _ => false then
        (if b.ph then x.barParity ||| 1#32 <<< num else x.barParity &&& ~~~ (1#32 <<< num)) else x.barParity
    waits := x.waits.map fun w => match w with
      | .barrier pc n (some p) lim ll dst acc => .barrier pc n (some (if n = num then b.ph else p)) lim ll dst acc
      | w => w }) s

/-- BARINIT (R418, R419): performed once, for the lowest active lane. (DEDUCED, log 16) -/
def execBarinit (h : Head) (o : BodyK) (s : State) : Host.Outcome State Fault Refusal :=
  onActive s (.barinit h o) h fun is act s =>
    let f := is.fref (act.headD 0)
    match getFib s f with
    | none => s
    | some x =>
      let v := (regOf x o.a.toNat).toNat
      if v = 0 ∨ 2048 < v then takeTrap s f is.pc (trapOf 4 0x0B)
      else
        let num := o.num.toNat % 32
        let team := barTeam s f
        let cl := decide (o.scope = 5#4)
        let texp := match teamOf s f with | some (_, t) => t.cw * t.ch | none => 1
        let s := initBar s is.core team num { v := true, cluster := cl, ph := false, mask := o.mask1, lcnt := 0, lexp := v, lnext := 0, texp := texp, tcnt := 0 }
        match (if cl then teamOf s f else none) with
        | none => signalEntry s is act
        | some (_, t) =>
          let (eid, s) := freshId s
          ((clusterCores t).filter (· ≠ is.core)).foldl (fun s c =>
            let (id, s) := freshId s
            let s := addAcc s f (plainAcc id .ms)
            let (p, s) := newPacket s .mreq 0x07 is.core c (pkgNum s) 1 (replyTag x.gen id) (.barSet t.slice t.task t.cluster num o.mask1 v id f)
            waitEntry (bufAdd s is.core is.part (packetEntry eid f id p)) f eid) s

/-- The arrival of a fibre at a barrier (R420): the arrived bit is set now, the arrival counts once its release is performed. -/
def arriveLane (s : State) (f : FRef) (num : Nat) : State :=
  let b := barOf s f.core (barTeam s f) num
  let (id, s) := freshId s
  let bit : Word := 1#32 <<< num
  let parity := if barWindow b then ! b.ph else b.ph
  let s := modFib s f fun x => { x with
    barArrived := x.barArrived ||| bit
    barParity := if parity then x.barParity ||| bit else x.barParity &&& ~~~ bit }
  addAcc s f { plainAcc id .ms with rel := fibreBits ||| b.mask, arrive := some num }

/-- The wait of a fibre at a barrier (R420): an acquire when it completes. -/
def waitLane (s : State) (is : Issue) (f : FRef) (o : BodyK) (num : Nat) : State :=
  match getFib s f with
  | none => s
  | some x =>
    let b := barOf s f.core (barTeam s f) num
    let n := (regOf x o.a.toNat).toNat
    let (id, s) := freshId s
    let w : Wait := .barrier is.pc num (if x.barArrived.getLsbD num then none else some b.ph)
      (if n = 0 then none else some (s.clk + BitVec.ofNat 64 n)) id (predNum o.c) id
    let s := modFib s f fun x => let x := addLL x id; { x with waits := x.waits ++ [w] }
    addAcc s f { plainAcc id .ms with writes := false, acq := fibreBits ||| b.mask }

/-- A barrier instruction of each active lane: an uninitialised barrier traps (R278). -/
def barInstr (s : State) (i : Instr) (h : Head) (o : BodyK) (arrive wait : Bool) : Host.Outcome State Fault Refusal :=
  signalled s h <| onActive s i h fun is act s => eachLane act (fun s l =>
    let f := is.fref l
    let num := o.num.toNat % 32
    if ! (barOf s is.core (barTeam s f) num).v then takeTrap s f is.pc (trapOf 4 0x0B)
    else
      let s := if arrive then arriveLane s f num else s
      let s := if wait then waitLane s is f o num else s
      if arrive then pollArrivals s f else s) s

/-- BARARV (R420). -/
def execBararv (h : Head) (o : BodyK) (s : State) : Host.Outcome State Fault Refusal := barInstr s (.bararv h o) h o true false
/-- BARWT (R420). -/
def execBarwt (h : Head) (o : BodyK) (s : State) : Host.Outcome State Fault Refusal := barInstr s (.barwt h o) h o false true
/-- BARAW (R420). -/
def execBaraw (h : Head) (o : BodyK) (s : State) : Host.Outcome State Fault Refusal := barInstr s (.baraw h o) h o true true

end Sys2Proof.Machine
end

