-- ==== Sys2Proof/Machine/Queue.lean ====
section
/-!
DEFINITION. Queues a core's NI keeps (R220-R225, R233, R239-R246): sump rings, the code store's placing of objects (R63, R142), the sump
fibre, handler bindings, the outstanding-request table, stale messages.
-/
namespace Sys2Proof.Machine

/-! ## Bytes of records -/

/-- A posted fault record as 32 bytes (R296). -/
def faultRecBytes (r : FaultRec) : List Byte :=
  leBytes 8 r.va.toNat ++ leBytes 4 r.lanes.toNat ++ leBytes 4 r.pc.toNat ++ leBytes 1 r.fkind ++ leBytes 1 r.acc ++ leBytes 2 r.det ++
    leBytes 4 r.who.toNat ++ leBytes 8 r.tag.toNat

/-- The record that 32 bytes hold (R296). -/
def faultRecOf (b : List Byte) : FaultRec :=
  let at_ := fun i n => leNat ((b.drop i).take n)
  { va := BitVec.ofNat 64 (at_ 0 8), lanes := BitVec.ofNat 32 (at_ 8 4), pc := BitVec.ofNat 32 (at_ 12 4), fkind := at_ 16 1, acc := at_ 17 1,
    det := at_ 18 2, who := BitVec.ofNat 32 (at_ 20 4), tag := BitVec.ofNat 64 (at_ 24 8) }

/-- The number of a virtual channel (R27). -/
def vcNum : VC → Nat
  | .mreq => 0 | .mrsp => 1 | .ray => 2 | .hit => 3 | .page => 4 | .ureq => 5 | .ursp => 6 | .sys => 7

/-- The virtual channel of a number (R27). -/
def vcOf (n : Nat) : VC :=
  match n with
  | 0 => .mreq | 1 => .mrsp | 2 => .ray | 3 => .hit | 4 => .page | 5 => .ureq | 6 => .ursp | _ => .sys

/-- The entry header of a message (R222, R429): source, VC, CLASS, KIND and TAGS as in the flit header, MLEN, MARK, task and EPOS. -/
def entryHeader (m : Msg) (mark task epos : Nat) : Nat :=
  mark * 2 ^ 60 + task % 256 * 2 ^ 52 + m.spkg % 16 * 2 ^ 46 + placeX m.src * 2 ^ 40 + placeY m.src * 2 ^ 36 + vcNum m.vc * 2 ^ 33 +
    m.cls % 16 * 2 ^ 29 + m.kind % 32 * 2 ^ 24 + epos * 2 ^ 22 + (m.words.length - 1) % 16 * 2 ^ 18 + m.tags.toNat

/-- The 64-byte entries of a message in a sump ring (R222). -/
def messageEntries (m : Msg) (mark task : Nat) : List (List Byte) :=
  let pad := fun (n : Nat) (l : List Word) => (bytesOf l ++ List.replicate n 0).take n
  if m.words.length ≤ 14 then [leBytes 8 (entryHeader m mark task 0) ++ pad 56 m.words]
  else [leBytes 8 (entryHeader m mark task 1) ++ pad 56 (m.words.take 14), leBytes 8 (entryHeader m mark task 3) ++ pad 56 (m.words.drop 14)]

/-! ## Sump rings -/

/-- Bytes of a slice's memory as the NI reads them, through the page table (R222). -/
def niRead (s : State) (core slice : Nat) (a n : Nat) : Option (List Byte) :=
  if a / 2 ^ 48 ≠ 0 ∨ a < 0x10000 ∨ (rangeFails s core slice 1 .rd a n).isSome then none else some (virtRead s core slice 1 a n).1

/-- Writes bytes of a slice's memory as the NI writes them; none where they cannot be written. -/
def niWrite (s : State) (core slice : Nat) (a : Nat) (b : List Byte) : Option State :=
  if a / 2 ^ 48 ≠ 0 ∨ a < 0x10000 ∨ (rangeFails s core slice 1 .wr a b.length).isSome then none else some (virtWrite s core slice 1 a b 0)

/-- The sump descriptor of a slice (R222); none while CTL.SUMP is zero or names what cannot be read. -/
def sumpDesc (s : State) (core slice : Nat) : Option (List Byte) :=
  let a := (sliceCtl s core slice 0x106).toNat
  if a = 0 then none else niRead s core slice a 64

/-- AREA and RSIZE of a descriptor, where they are as R222 asks. -/
def sumpArea (d : List Byte) : Option (Nat × Nat) :=
  let area := leNat (d.take 8); let r := leNat ((d.drop 8).take 4)
  if area % 4096 = 0 ∧ 64 ≤ r ∧ r ≤ 65536 ∧ (List.range 17).any (fun k => r == 2 ^ k) then some (area, r) else none

/-- Writes entries into the ring whose header stands at `hdr` (R222): all or none; the state after, or the address that failed with
whether the header could be read. -/
def ringWrite (s : State) (core slice hdr base rsize : Nat) (es : List (List Byte)) : Except Nat State :=
  match niRead s core slice hdr 24 with
  | none => .error hdr
  | some h =>
    let w := leNat (h.take 8); let r := leNat ((h.drop 8).take 8)
    if rsize < (w + 2 ^ 64 - r) % 2 ^ 64 + es.length then .error hdr
    else
      let res := ((List.range es.length).zip es).foldl (fun (a : Except Nat State) e =>
        match a with
        | .ok s =>
          let at_ := base + (w + e.1) % rsize * 64
          (match niWrite s core slice at_ e.2 with
           | some s => .ok s
           | none => .error at_)
        | e => e) (.ok s)
      match res with
      | .ok s => (match niWrite s core slice hdr (leBytes 8 (w + es.length)) with | some s => .ok s | none => .error hdr)
      | .error a => .error a

/-- A lost spill (R222): LOST counts it where the header at `hdr` can be written, and it is logged with the address `a`. -/
def sumpLost (block : Bool) (s : State) (core slice hdr a : Nat) : State :=
  let s := match niRead s core slice hdr 24 with
    | some h => (niWrite s core slice (hdr + 16) (leBytes 8 (leNat ((h.drop 16).take 8) + 1))).getD s
    | none => s
  logErrorFrom block s 0x09 0x0B core core 0xFFFF slice (BitVec.ofNat 64 a)

/-- Spills entries to a core's sump ring, or to the pending-record ring of the slice (`core'` 576) (R222); whether they were written.
(DEDUCED, log 84) -/
def sumpSpill (s : State) (core slice core' : Nat) (es : List (List Byte)) : State × Bool :=
  match sumpDesc s core slice with
  | none => (logErrorFrom (decide (core' = 576)) s 0x09 0x0B core core 0xFFFF slice (sliceCtl s core slice 0x106), false)
  | some d =>
    let area := leNat (d.take 8); let r := leNat ((d.drop 8).take 4)
    let hdr := if core' < 576 then area + 64 * core' else area + 0x9000 + 576 * r * 64
    let base := if core' < 576 then area + 0x9000 + core' * r * 64 else hdr + 64
    match (if (sumpArea d).isSome then ringWrite s core slice hdr base r es else .error hdr) with
    | .ok s => (s, true)
    | .error a => (sumpLost (decide (core' = 576)) s core slice hdr a, false)

/-! ## The code store -/

/-- A field of a launch record: byte offset and bytes (R58). -/
def recField (r : List Word) (off n : Nat) : Nat :=
  ((r.getD (off / 4) 0).toNat + (r.getD (off / 4 + 1) 0).toNat * 2 ^ 32) / 2 ^ (8 * (off % 4)) % 2 ^ (8 * n)

/-- The cores of a cluster of a launch record, by rank (R38). -/
def rectOf (r : List Word) (corner : Nat) : List Nat :=
  (List.range (recField r 0x14 1 * recField r 0x15 1)).map fun k => corner + k / recField r 0x14 1 * 36 + k % recField r 0x14 1

/-- The cores of a task's placed clusters. -/
def taskCores (t : Task) : List Nat := t.corners.flatMap (rectOf t.record)

/-- Whether a code object of a core is in use: by a launch placed on the core, which holds it until the grid ends (R63, R66), by a resident team, or by
the running sump fibre (R142, R223). -/
def objectUsed (s : State) (core i : Nat) : Bool :=
  (match (getCore s core).objects[i]? with
   | some o => (getSlice s o.slice).tasks.any fun t => decide (o.code = pairOf (t.2.record.getD 0 0) (t.2.record.getD 1 0)) &&
       decide (o.ver = t.2.record.getD 2 0) && (taskCores t.2).contains core
   | none => false) ||
    (s.teams.any fun e => decide (e.1.1 = core) && decide (e.2.codeObj = i) && (tget (getSlice s e.2.slice).tasks e.2.task).isNone) ||
    (match getGroup s core 64 with | some g => decide (g.team = i) | none => false)

/-- The code object of a core with a launch's tag (R63, R223); an evicted object has no lines. -/
def findObject (k : Core) (slice : Nat) (code : DWord) (ver : Word) : Option Nat :=
  (List.range k.objects.length).find? fun i => match k.objects[i]? with
    | some o => decide (o.slice = slice ∧ o.code = code ∧ o.ver = ver ∧ o.lines ≠ 0)
    | none => false

/-- The lowest line at which `n` lines are free (R142). -/
def freeLines (k : Core) (n : Nat) : Option Nat :=
  let live := k.objects.filter fun o => decide (o.lines ≠ 0)
  (sortDedup (0 :: live.map fun o => o.first + o.lines)).find? fun a =>
    decide (a + n ≤ 8192) && live.all fun o => decide (a + n ≤ o.first ∨ o.first + o.lines ≤ a)

/-- Evicts the least recently started object that nobody uses (R63). -/
def evictObject (s : State) (core : Nat) : Option State :=
  let k := getCore s core
  let free := (List.range k.objects.length).filterMap fun i =>
    (k.objects[i]?).bind fun o => if o.lines ≠ 0 ∧ ¬ objectUsed s core i then some (o.started, i, o) else none
  match free.foldl (fun (b : Option (Nat × Nat × CodeObj)) e => match b with | some c => if e.1 < c.1 then some e else b | none => some e) none with
  | some (_, i, o) => some (putCore s core { k with
      objects := lset k.objects i { o with lines := 0 }
      code := k.code.filter fun l => ! (decide (o.first ≤ l.1) && decide (l.1 < o.first + o.lines))
      codeBad := k.codeBad.filter fun l => ! (decide (o.first ≤ l) && decide (l < o.first + o.lines)) })
  | none => none

/-- Reserves lines for an object, evicting as needed; its number on the core, or none where the room is short. -/
def placeObject : Nat → State → Nat → Nat → DWord → Word → Nat → Option (State × Nat)
  | 0, _, _, _, _, _, _ => none
  | fuel + 1, s, core, slice, code, ver, n =>
    let k := getCore s core
    match freeLines k n with
    | some a =>
      let (t, s) := freshId s
      some (modCore s core fun k => { k with objects := k.objects ++ [{ slice := slice, code := code, ver := ver, first := a, lines := n, started := t }] },
        k.objects.length)
    | none => (evictObject s core).bind fun s => placeObject fuel s core slice code ver n

/-- Writes a fetch line into the code store. -/
def writeLine (s : State) (core line : Nat) (words : List Word) : State :=
  modCore s core fun k => { k with code := tput k.code line words, codeBad := k.codeBad.filter fun l => decide (l ≠ line) }

/-! ## The sump fibre -/

/-- What a descriptor says of the sump fibre's code object: CODE, CODEVER, ENTRY and LINES, where they are as R223 asks. -/
def sumpCode (d : List Byte) : Option (DWord × Word × Nat × Nat) :=
  let code := leNat ((d.drop 16).take 8); let entry := leNat ((d.drop 28).take 2); let n := leNat ((d.drop 30).take 2)
  if code = 0 ∨ n = 0 ∨ 8192 < n ∨ n ≤ entry / 8 ∨ 4 < entry % 8 then none
  else some (BitVec.ofNat 64 code, BitVec.ofNat 32 (leNat ((d.drop 24).take 4)), entry, n)

/-- Sets the sump binding, index 0, of a core whose slice's descriptor names a code object, and else clears it (R242): A 32, the entry's PC once the
object is resident. Its GEN is kept. (DEDUCED, log 72) -/
def setSumpBinding (s : State) (core : Nat) : State :=
  match (getCore s core).slice with
  | none => s
  | some sl =>
    let old := bindingAt (getCore s core) 0
    let w := match (sumpDesc s core sl).bind sumpCode with
      | some (code, ver, entry, _) =>
        let pc := match (findObject (getCore s core) sl code ver).bind fun i => (getCore s core).objects[i]? with
          | some o => 64 * (o.first + entry / 8) + 12 * (entry % 8)
          | none => 0
        bindWord false (bindGen old) 0 4 pc
      | none => BitVec.ofNat 64 ((bindGen old).toNat * 2 ^ 54)
    if w = old then s else modCore s core fun k => { k with bindings := if w = 0 then tdel k.bindings 0 else tput k.bindings 0 w }

/-- Brings a sump object in from memory and places it (R223): its number, or false where the store has no room yet, or true where it cannot be
read. -/
def loadSump (s : State) (core slice : Nat) (code : DWord) (ver : Word) (n : Nat) : Except Bool (State × Nat) :=
  match findObject (getCore s core) slice code ver with
  | some i => .ok (s, i)
  | none =>
    match niRead s core slice code.toNat (64 * n) with
    | none => .error true
    | some b =>
      match placeObject ((getCore s core).objects.length + 1) s core slice code ver n with
      | none => .error false
      | some r =>
        let first := ((getCore r.1 core).objects[r.2]?.map CodeObj.first).getD 0
        .ok ((List.range n).foldl (fun s i => writeLine s core (first + i) (wordsOf ((b.drop (64 * i)).take 64))) r.1, r.2)

/-- Starts the core's sump fibre, unless it runs or its descriptor names none (R221, R223); while the code store has no room for its object, the start
waits. -/
def startSump (s : State) (core : Nat) : State :=
  let k := getCore s core
  match (if k.sumpOn then none else k.slice) with
  | none => s
  | some sl =>
    match (sumpDesc s core sl).bind sumpCode with
    | none => s
    | some (code, ver, entry, n) =>
      match loadSump s core sl code ver n with
      | .error true => logError s 0x09 0x0B core core 0xFFFF sl code
      | .error false => modCore s core fun k => { k with sumpAgain := true }
      | .ok (s, i) =>
        let first := ((getCore s core).objects[i]?.map CodeObj.first).getD 0
        let f : FRef := ⟨core, 64, 0⟩
        let s := { s with groups := tput s.groups (core, 64) { team := i, gid := 0, allot := 32, base := 0, kind := .sump } }
        let s := setSumpBinding (modCore s core fun k => { k with sumpOn := true, sumpAgain := false }) core
        createFibre s f 32 (BitVec.ofNat 32 (64 * (first + entry / 8) + 12 * (entry % 8))) (fsrNew 1 true false) [] Origin.none

/-- What every step ends with: waits and results settle, and a sump fibre that ended with its inbox still at its mark, or whose object had no room,
starts (R223). -/
def settleStep (s : State) : State :=
  let s := settleAll s
  s.cores.foldl (fun s e => if e.2.sumpAgain ∧ ¬ e.2.sumpOn then startSump (modCore s e.1 fun k => { k with sumpAgain := false }) e.1 else s) s

/-! ## Bindings -/

/-- The binding of a message (R244): its handler tag's entry, or for an untagged message its route class's default; none where it has none. -/
def bindingOf (s : State) (core slice cls : Nat) (tags : BitVec 18) : Option Nat :=
  let k := getCore s core
  let t := tags.toNat
  if fld t 16 15 = 1 then
    let i := t % 128
    if bindV (bindingAt k i) ∧ (bindGen (bindingAt k i)).toNat = fld t 14 7 ∧ t / 2 ^ 17 = 0 then some i else none
  else if fld t 17 15 ≠ 0 then none
  else
    let r := (sliceCtl s core slice (0x110 + cls % 16)).toNat
    let i := fld r 10 4
    if fld r 11 11 = 1 ∧ bindV (bindingAt k i) then some i else none

/-! ## Replies -/

/-- A message as it is bound when it comes (R244): the entry and its current GEN. -/
def bindMsg (s : State) (core : Nat) (m : Msg) : Msg :=
  let k := getCore s core
  { m with bound := (bindingOf s core (k.slice.getD 0) m.cls m.tags).map fun i => (i, bindGen (bindingAt k i)) }

/-- The binding of a message that leaves the inbox (R244): the entry it was bound to, while that stands as it stood; one that a mask let in unbound is
bound now. -/
def msgBinding (s : State) (core : Nat) (m : Msg) : Option Nat :=
  let k := getCore s core
  match m.bound with
  | some (i, g) => if bindV (bindingAt k i) ∧ bindGen (bindingAt k i) = g then some i else none
  | none => bindingOf s core (k.slice.getD 0) m.cls m.tags

/-- Sends a STALE, LINKLOSS or FAULT reply for a reply tag to its sender (R211, R424). -/
def sendFailed (s : State) (core dst dpkg : Nat) (tag : BitVec 18) (kind : Nat) : State :=
  let (p, s) := newPacket s .mrsp kind core dst dpkg 1 tag (.failed tag kind)
  { s with mesh := s.mesh ++ [p] }

/-- A reply with a tag reaches the core whose message asked for it: that message is answered (R66). -/
def answered (s : State) (core : Nat) (tag : BitVec 18) : State :=
  match s.slices.findSome? fun e => (e.2.tasks.find? fun t => t.2.owed.contains (core, tag)).map fun t => (e.1, t.1) with
  | some (sl, n) => modSlice s sl fun x => { x with tasks := x.tasks.map fun t =>
      if t.1 = n then (n, { t.2 with owed := t.2.owed.erase (core, tag) }) else t }
  | none => s

/-- Drops a message as stale (R41, R244): counted; its sender receives a STALE reply if it asked for one. -/
def dropStale (s : State) (core src spkg : Nat) (words : List Word) : State :=
  let s := bump s core 0x004 1
  match replyTagOf words with
  | some t => sendFailed s core src spkg t 0x07
  | none => s

/-- The lowest-cost free entry of the outstanding-request table: the first free one from a start the manual leaves open (R424).
(DESIGN CHOICE, log 52) -/
def freeRq (k : Core) (n : Nat) : Option Nat :=
  ((List.range 512).map fun i => (Config.rqStart n + i) % 512).find? fun i => (tget k.rq i).isNone

/-- A fibre reply arrives for an outstanding request (R239, R424): its effects are written at the run end, which frees its entry; one whose tag is no
fibre reply tag, or names no request that waits, is counted as stale. (DESIGN CHOICE, log 73) -/
def takeReply (s : State) (core : Nat) (tag : BitVec 18) (effs : RqEntry → List Eff) : State :=
  let i := tag.toNat % 512
  match (if tag.getLsbD 17 then tget (getCore s core).rq i else none) with
  | some r =>
    if r.gen = tag.extractLsb' 9 8 ∧ fibGen s r.f = r.gen ∧ ¬ r.done then
      let s := modCore s core fun k => { k with rq := tput k.rq i { r with done := true } }
      accDone (llDone s r.f r.ll 0 (effs r)) r.f r.ll
    else bump s core 0x004 1
  | none => bump s core 0x004 1

/-- The effects of a REPLY's words (R424). -/
def replyEffs (words : List Word) (r : RqEntry) : List Eff :=
  regsEff r.dst ((List.range r.words).map fun i => words.getD i 0) ++ predEff r.cdst false

/-- The effects of a STALE, LINKLOSS or FAULT reply (R424). -/
def failedEffs (kind : Nat) (r : RqEntry) : List Eff := regsEff r.dst [BitVec.ofNat 32 kind] ++ predEff r.cdst true

end Sys2Proof.Machine
end

