-- ==== Sys2Proof/Machine/Message.lean ====
section
/-!
DEFINITION. Messages, handler bindings and work-graph records (R421-R431), and the end of an activation: SEND, SENDR, REPLY, HBIND,
HUNBIND, CMASK, HEND, FEND (R357), MBOX, EMIT, NDONE.
-/
namespace Sys2Proof.Machine

/-! ## Sending -/

/-- Packets a fibre holds, in the send queue or on their way to it (R226). -/
def heldCount (s : State) (f : FRef) : Nat :=
  let k := getCore s f.core
  (k.sendQ.filter fun e => decide (e.holder = some f)).length +
    k.parts.foldl (fun n p => n + (p.2.buffer.filter fun e => decide (e.f = f) && match e.cmd with | .packet _ held => held | _ => false).length) 0

/-- Whether a packet goes to its own core's loop-back port (R224). -/
def isLoop (core : Nat) (p : Packet) : Bool := decide (p.dst = core) && decide (p.dpkg = p.spkg) && (match p.body with | .user _ => true | _ => false)

/-- Places of the request share taken or promised to SEND and SENDR (R225). -/
def requestUsed (s : State) (core : Nat) : Nat :=
  let k := getCore s core
  (k.sendQ.filter fun e => ! e.reply).length +
    k.parts.foldl (fun n p => n + (p.2.buffer.filter fun e => match e.cmd with
      | .packet p held => decide (p.vc = .ureq) && (held || ! isLoop core p)
      | .sendr p _ _ _ _ => decide (p.vc = .ureq) && ! isLoop core p
      | _ => false).length) 0

/-- Whether a message may not go to a destination (R422). -/
def destBad (s : State) (f : FRef) (d : Word) : Bool :=
  let c := d.toNat % 1024
  decide (d.toNat / 2 ^ 14 ≠ 0 ∨ 576 ≤ c) || (decide (fld d.toNat 13 10 = pkgNum s) && (getCore s c).slice != some (sliceOf s f))

/-- A user message as a packet: VC by its class's entry (R245, R422). -/
def userPacket (s : State) (f : FRef) (cls dst dpkg : Nat) (tag : BitVec 18) (words : List Word) : Packet × State :=
  let vc : VC := if (sliceCtl s f.core (sliceOf s f) (0x110 + cls)).getLsbD 12 then .ursp else .ureq
  let (p, s) := newPacket s vc 0x01 f.core dst dpkg 1 tag (.user words)
  ({ p with cls := cls }, s)

/-- The send-queue-full trap, counted (R225, R226). -/
def queueTrap (s : State) (f : FRef) (pc : Word) (detail : Nat) : State := takeTrap (bump s f.core 0x028 1) f pc (trapOf 5 detail)

/-- Puts a packet of SEND, REPLY, EMIT, HITPUT or RAYSEND into the issue buffer: held in an activation, else a release (R69, R186). -/
def sendPacket (s : State) (is : Issue) (eid : Nat) (f : FRef) (p : Packet) : State :=
  match getFib s f with
  | none => s
  | some x =>
    if fsrHA x then waitEntry (bufAdd s is.core is.part { entry := eid, f := f, pc := is.pc, acc := 0, cmd := .packet p true }) f eid
    else
      let (id, s) := freshId s
      let s := addAcc s f { plainAcc id .ms with rel := fibreBits }
      waitEntry (bufAdd s is.core is.part { entry := eid, f := f, pc := is.pc, acc := id, cmd := .packet p false }) f eid

/-- The same, refused where the fibre holds 16 packets already or a SEND's request share is full (R225, R226), and then by a trap of its own (R290). -/
def sendChecked (s : State) (is : Issue) (eid : Nat) (f : FRef) (p : Packet) (own : Option TrapInfo) : State :=
  match getFib s f with
  | none => s
  | some x =>
    if p.vc = .ureq ∧ (fsrHA x ∨ ! isLoop is.core p) ∧ 96 ≤ requestUsed s is.core then queueTrap s f is.pc 0
    else if fsrHA x ∧ 16 ≤ heldCount s f then queueTrap s f is.pc 1
    else match own with
      | some t => takeTrap s f is.pc t
      | none => sendPacket s is eid f p

/-- SEND of one lane (R423). -/
def sendLane (s : State) (is : Issue) (eid : Nat) (o : BodyK) (l : Nat) : State :=
  let f := is.fref l
  match getFib s f with
  | none => s
  | some x =>
    let t := if o.c = 0 then 0 else (regOf x o.c.toNat).toNat % 2 ^ 18
    let d := regOf x o.a.toNat
    let words := regsFrom x o.b.toNat (o.mlen.toNat + 1)
    let w := (words.getD 15 0).toNat
    let tagBad := t / 2 ^ 17 = 1 ∨ fld t 16 15 = 3 ∨ (o.mlen = 15#4 ∧ (w / 2 ^ 18 ≠ 0 ∨ fld w 17 15 ≠ 1))
    let (p, s) := userPacket s f o.cls.toNat (d.toNat % 1024) (fld d.toNat 13 10) (BitVec.ofNat 18 t) words
    sendChecked s is eid f p (if tagBad then some (trapOf 0 0x05) else if destBad s f d then some (trapOf 4 0x07) else none)

/-- SEND (R421, R423). -/
def execSend (h : Head) (o : BodyK) (s : State) : Host.Outcome State Fault Refusal :=
  onNamed s h [(1, o.a, 1), (2, o.b, o.mlen.toNat + 1), (3, o.c, 1)] fun is act s =>
    let (eid, s) := freshId s
    eachLane act (fun s l => sendLane s is eid o l) s

/-- SENDR of one lane (R424): sent at issue; its NI adds word 15 when the entry is accepted. (DEDUCED, log 9) -/
def sendrLane (s : State) (is : Issue) (eid : Nat) (o : BodyK) (l : Nat) : State :=
  let f := is.fref l
  match getFib s f with
  | none => s
  | some x =>
    let d := regOf x o.a.toNat
    if fsrRST x then takeTrap s f is.pc (trapOf 0 0x0E)
    else
      let words := (regsFrom x o.b.toNat (o.mlen.toNat + 1) ++ List.replicate 16 0).take 15
      let (p, s) := userPacket s f o.cls.toNat (d.toNat % 1024) (fld d.toNat 13 10) 0 words
      if p.vc = .ureq ∧ ! isLoop is.core p ∧ 96 ≤ requestUsed s is.core then queueTrap s f is.pc 0
      else if destBad s f d then takeTrap s f is.pc (trapOf 4 0x07)
      else
        let (id, s) := freshId s
        let s := modFib s f fun x => addLL x id
        let s := addAcc s f { plainAcc id .ms with acq := fibreBits, rel := fibreBits }
        waitEntry (bufAdd s is.core is.part
          { entry := eid, f := f, pc := is.pc, acc := id, cmd := .sendr p id o.d.toNat (o.num.toNat % 16 + 1) (predNum o.c) }) f eid

/-- SENDR (R421, R424). -/
def execSendr (h : Head) (o : BodyK) (s : State) : Host.Outcome State Fault Refusal :=
  onNamed s h [(0, o.d, o.num.toNat % 16 + 1), (1, o.a, 1), (2, o.b, o.mlen.toNat + 1)] fun is act s =>
    let (eid, s) := freshId s
    eachLane act (fun s l => sendrLane s is eid o l) s

/-- The core that a source word names, if any (R26, R83). -/
def srcCore (w : Word) : Nat := placeAt (fld w.toNat 9 4) (fld w.toNat 3 0)

/-- REPLY of one lane (R425): to the sender of the fibre's message, or a fault reply from the fault-service activation (R298). -/
def replyLane (s : State) (is : Issue) (eid : Nat) (o : BodyK) (l : Nat) : State :=
  let f := is.fref l
  match getFib s f with
  | none => s
  | some x =>
    let words := regsFrom x o.b.toNat (o.mlen.toNat + 1)
    match x.origin.faultSlot with
    | some (_, core, slot, gen) =>
      let (p, s) := newPacket s .sys 0x08 is.core core (pkgNum s) 1 (x.origin.word15.setWidth 18) (.faultAnswer slot gen (words.getD 0 0) (words.getD 1 0))
      sendChecked s is eid f p none
    | none =>
      let (p, s) := newPacket s .ursp 0x01 is.core (srcCore x.origin.src) (fld x.origin.src.toNat 13 10) 1 (x.origin.word15.setWidth 18) (.user words)
      sendChecked s is eid f p (if x.origin.hasReply then none else some (trapOf 0 0x05))

/-- REPLY (R421, R425). -/
def execReply (h : Head) (o : BodyK) (s : State) : Host.Outcome State Fault Refusal :=
  onNamed s h [(2, o.b, o.mlen.toNat + 1)] fun is act s =>
    let (eid, s) := freshId s
    eachLane act (fun s l => replyLane s is eid o l) s

/-! ## Bindings and the class mask -/

/-- A core's bindings as the changes still pending in its batches will leave them (R243). -/
def pendingBindings (s : State) (is : Issue) : Tbl Nat DWord :=
  let k := getCore s is.core
  let pend := (k.parts.flatMap fun p => match p.2.batch with | some b => b.cpend | none => []) ++ k.stoppedBatches.flatMap fun b => b.2.cpend
  pend.foldl (fun t e => match e.2 with | .bind n w => tput t n w | _ => t) k.bindings

/-- HBIND (R426): performed once for the lowest active lane; every active fibre gets the tag and the predicate. -/
def execHbind (h : Head) (o : BodyK) (s : State) : Host.Outcome State Fault Refusal :=
  signalled s h <| onActive s (.hbind h o) h fun is act s =>
    let f := is.fref (act.headD 0)
    match getFib s f, codeObjOf s f with
    | some x, some obj =>
      let fs := h.mod.getLsbD 1
      match regTarget obj (regOf x o.a.toNat) with
      | none => trapLanes s is act (trapOf 0 0x04)
      | some pc =>
        if ¬ isTarget s is.core obj pc then trapLanes s is act (trapOf 0 0x04)
        else if fs ∧ (fsrPRV x = 0 ∨ faultService s is.core (sliceOf s f) ≠ some is.core) then trapLanes s is act (trapOf 4 0x07)
        else
          let tbl := pendingBindings s is
          let free := if fs then (if bindV (tgetD tbl 1 0) then none else some 1)
            else (List.range 126).findSome? fun i => if bindV (tgetD tbl (i + 2) 0) then none else some (i + 2)
          let give := fun (s : State) (tag : Word) (ok : Bool) =>
            eachLane act (fun s l => modFib s (is.fref l) fun x => addPends x 2 (destEff o.d tag ++ statusEff o.c ok)) s
          match free, teamOf s f with
          | some i, some (n, _) =>
            let gen := bindGen (tgetD tbl i 0)
            give (addCorePend s is 2 (.bind i (bindWord (h.mod.getLsbD 0) gen n (o.num.toNat % 64) pc))) ((handlerTag gen i).setWidth 32) true
          | _, _ => give s 0 false
    | _, _ => s

/-- Takes a binding change that a core's batches have still to land out of them. -/
def dropBindPend (s : State) (is : Issue) (i : Nat) : State :=
  let cut := fun (b : Batch) => { b with cpend := b.cpend.filter fun e => match e.2 with | .bind n _ => decide (n ≠ i) | _ => true }
  modCore s is.core fun k => { k with
    parts := k.parts.map fun p => (p.1, { p.2 with batch := p.2.batch.map cut })
    stoppedBatches := k.stoppedBatches.map fun e => (e.1, cut e.2) }

/-- HUNBIND (R426, R243): performed once for the lowest active lane. (DEDUCED, log 16) -/
def execHunbind (h : Head) (o : BodyK) (s : State) : Host.Outcome State Fault Refusal :=
  signalled s h <| onActive s (.hunbind h o) h fun is act s =>
    let f := is.fref (act.headD 0)
    match getFib s f with
    | none => s
    | some x =>
      let t := (regOf x o.a.toNat).toNat
      let i := t % 128
      let w := tgetD (pendingBindings s is) i 0
      if (bindGen w).toNat ≠ fld t 14 7 then s
      else if i < 2 ∧ fsrPRV x = 0 then trapLanes s is act (trapOf 4 0x07)
      else if ¬ bindV w then s
      else if i = 0 ∨ (teamOf s f).map Prod.fst ≠ some (bindTeam w) then trapLanes s is act (trapOf 4 0x07)
      else landCore (dropBindPend s is i) is.core (.bind i (unbindWord w))

/-- CMASK (R427): the lanes' changes in ascending order; every fibre gets the mask as it stood before. -/
def execCmask (h : Head) (o : BodyK) (s : State) : Host.Outcome State Fault Refusal :=
  signalled s h <| onActive s (.cmask h o) h fun is act s =>
    let old := (getCore s is.core).classMask
    let new := act.foldl (fun (m : BitVec 16 × BitVec 16) l => match getFib s (is.fref l) with
      | some x =>
        let a := (regOf x o.a.toNat).setWidth 16; let b := (regOf x o.b.toNat).setWidth 16
        (m.1 &&& ~~~ b, (m.2 &&& ~~~ b) ||| (a &&& b))
      | none => m) (0xFFFF, 0)
    let s := eachLane act (fun s l => modFib s (is.fref l) fun x => addPends x 1 (destEff o.d (old.setWidth 32))) s
    addCorePend s is 1 (.cmask new.1 new.2)

/-! ## The end of an activation -/

/-- Keeps a combiner lane's result words until its wave is over (R413). -/
def keepResults (s : State) (f : FRef) (words : List Word) : State :=
  match getGroup s f.core f.slot with
  | some g =>
    (match g.kind with
     | .wave _ wid => modCore s f.core fun k => { k with waves := k.waves.map fun w => if w.wid = wid then { w with results := w.results ++ [(f.lane, words)] } else w }
     | _ => s)
  | none => s

/-- HEND of an activation with buffered output is a release at .sl (R195): its stores and atomics wait, and its messages are sent, after what came before. -/
def hendRelease (s : State) (f : FRef) : State :=
  match getFib s f with
  | none => s
  | some x =>
    if ¬ fsrRST x ∧ ! (getCore s f.core).sendQ.any fun e => decide (e.holder = some f) then s
    else
      let (id, s) := freshId s
      modFib s f fun x => dropFences (sentWrites s f) { x with accs := x.accs ++ [{ plainAcc id .ls with fence := some .rel }] }

/-- HEND of one fibre (R428): buffered output is performed, then the fibre ends; `fend` says that FEND ended a method lane, which
returns zeros (R413). (DEDUCED, log 17) -/
def hendFibre (s : State) (f : FRef) (fend : Bool) : State :=
  match getFib s f with
  | none => s
  | some x =>
    if ¬ fsrHA x then endFibre s f
    else
      let s := match x.origin.combine with
        | some q => keepResults s f (if fend then [] else regsFrom x 17 q.nres)
        | none => s
      let s := match x.origin.faultSlot with
        | some (j, _, _, _) => modCore s f.core fun k => { k with faultSlots := k.faultSlots.filter fun n => decide (n ≠ j) }
        | none => s
      let s := performHeld (hendRelease s f) f
      let s := modCore s f.core fun k => { k with
        redeliver := k.redeliver.filter fun e => decide (some e.1 ≠ x.origin.redeliver)
        sumpAgain := k.sumpAgain || decide (f.slot = 64 ∧ 224 ≤ k.inbox.length) }
      endFibre (modFib s f fun x => { x with commit := true }) f

/-- HEND (R428). -/
def execHend (h : Head) (o : BodyK) (s : State) : Host.Outcome State Fault Refusal :=
  onActive s (.hend h o) h fun is act s =>
    let (eid, s) := freshId (eachLane act (fun s l => hendFibre s (is.fref l) false) s)
    bufAdd s is.core is.part { entry := eid, f := is.fref (act.headD 0), pc := is.pc, acc := 0, cmd := .signal }

/-- FEND (R357). (DEDUCED, log 17) -/
def execFend (h : Head) (o : BodyS) (s : State) : Host.Outcome State Fault Refusal :=
  onActive s (.fend h o) h fun is act s => eachLane act (fun s l => hendFibre s (is.fref l) true) s

/-! ## The inbox -/

/-- MBOX (R429): the oldest message of the inbox, whatever its binding or mask. -/
def execMbox (h : Head) (o : BodyK) (s : State) : Host.Outcome State Fault Refusal :=
  signalled s h <| onNamed s h [(0, o.d, 18)] fun is act s => eachLane act (fun s l =>
    let f := is.fref l
    match getFib s f with
    | none => s
    | some x =>
      if fsrPRV x = 0 then takeTrap s f is.pc (trapOf 4 0x07)
      else
        let (id, s) := freshId s
        match (getCore s is.core).inbox with
        | [] => modFib s f fun x => addKnown x id (statusEff o.c false)
        | m :: rest =>
          let hd : DWord := BitVec.ofNat 64 (entryHeader m 0 0 0)
          let s := modCore s is.core fun k => { k with inbox := rest }
          modFib s f fun x => addKnown x id
            (regsEff o.d.toNat ([loHalf hd, hiHalf hd] ++ (m.words ++ List.replicate 16 0).take 16) ++ statusEff o.c true)) s

/-- The payload of a replayed entry (R222, R429): as many words as MLEN says; for a fault record its 8 words and the header's upper half, which holds its
place in its batch. -/
def replayWords (x : Fibre) (o : BodyK) (v : Nat) : List Word :=
  if fld v 35 33 = 7 ∧ fld v 28 24 = 7 then regsFrom x (o.d.toNat + 2) 8 ++ [BitVec.ofNat 32 (v / 2 ^ 32)]
  else regsFrom x (o.d.toNat + 2) (fld v 21 18 + 1)

/-- MBOX.rp (R429): a message with the header and words of registers enters the loop-back port. -/
def execMboxRp (h : Head) (o : BodyK) (s : State) : Host.Outcome State Fault Refusal :=
  onNamed s h [(0, o.d, 18)] fun is act s =>
    let (eid, s) := freshId s
    eachLane act (fun s l =>
      let f := is.fref l
      match getFib s f with
      | none => s
      | some x =>
        if fsrPRV x = 0 then takeTrap s f is.pc (trapOf 4 0x07)
        else
          let v := (pairSrc x 0 o.d).toNat
          let (id, s) := freshId s
          let s := modFib s f fun x => addKnown x id (statusEff o.c true)
          let (p, s) := newPacket s (vcOf (fld v 35 33)) (fld v 28 24) is.core is.core (pkgNum s) 1 (BitVec.ofNat 18 v)
            (.user (replayWords x o v))
          let p := { p with cls := fld v 32 29, src := placeAt (fld v 45 40) (fld v 39 36), spkg := fld v 49 46, dpkg := fld v 49 46 }
          waitEntry (bufAdd s is.core is.part (packetEntry eid f 0 p)) f eid) s

/-! ## Work-graph records -/

/-- The identity of queue `q` of the queue table in extent `k` of a task. -/
def queueId (k q : Nat) : Nat := q * 8 + k

/-- The record queue that EMIT and NDONE name, if R430's checks hold. -/
def emitQueue (s : State) (f : FRef) (k q : Nat) : Option Nat :=
  match tget (getSlice s (sliceOf s f)).tasks (extTask s f) with
  | none => none
  | some t =>
    match t.extents[k]? with
    | none => none
    | some e =>
      if e.acc.toNat / 16 % 16 ≠ 1 ∨ e.len < 32 * q + 32 then none
      else
        match tget (getSlice s (sliceOf s f)).recQueues (extTask s f, queueId k q) with
        | some r => if r.qkind = 3 ∧ ¬ t.closedQueues.contains (queueId k q) then some (queueId k q) else none
        | none => none

/-- Whether a queue passes R430's checks but NDONE has closed it (R431). -/
def queueClosed (s : State) (slice task q : Nat) : Bool :=
  match tget (getSlice s slice).tasks task with
  | some t => t.closedQueues.contains q
  | none => true

/-- EMIT of one lane (R430): a record to the queue's home once a credit is there. -/
def emitLane (s : State) (is : Issue) (eid : Nat) (o : BodyK) (l : Nat) : State :=
  let f := is.fref l
  match getFib s f with
  | none => s
  | some x =>
    if fsrRST x then takeTrap s f is.pc (trapOf 0 0x0E)
    else
      let k := o.num.toNat % 8
      let n := (regOf x o.a.toNat).toNat
      let q := emitQueue s f k n
      let home := ((tget (getSlice s (sliceOf s f)).recQueues (extTask s f, q.getD 0)).map RecQueue.home).getD is.core
      let words := (regsFrom x o.b.toNat (o.mlen.toNat + 1) ++ List.replicate 16 0).take 16
      let (p, s) := newPacket s .hit 0x03 is.core home (pkgNum s) 1 0 (.work (sliceOf s f) (extTask s f) (q.getD 0) words)
      sendChecked s is eid f p (if q.isNone then some (trapOf 4 0x02) else none)

/-- EMIT (R430). -/
def execEmit (h : Head) (o : BodyK) (s : State) : Host.Outcome State Fault Refusal :=
  onNamed s h [(1, o.a, 1), (2, o.b, o.mlen.toNat + 1)] fun is act s =>
    let (eid, s) := freshId s
    eachLane act (fun s l => emitLane s is eid o l) s

/-- NDONE (R430, R431): performed once for the lowest active lane, after the fibre's earlier EMITs. -/
def execNdone (h : Head) (o : BodyK) (s : State) : Host.Outcome State Fault Refusal :=
  onActive s (.ndone h o) h fun is act s =>
    let f := is.fref (act.headD 0)
    match getFib s f with
    | none => s
    | some x =>
      if fsrRST x then takeTrap s f is.pc (trapOf 0 0x0E)
      else
        let k := o.num.toNat % 8
        let n := (regOf x o.a.toNat).toNat
        if queueClosed s (sliceOf s f) (extTask s f) (queueId k n) ∧ (tget (getSlice s (sliceOf s f)).tasks (extTask s f)).isSome then s
        else
          match emitQueue s f k n with
          | none => takeTrap s f is.pc (trapOf 4 0x02)
          | some q =>
            let (eid, s) := freshId s
            let (id, s) := freshId s
            let s := addAcc s f { plainAcc id .ms with rel := fibreBits }
            waitEntry (bufAdd s is.core is.part { entry := eid, f := f, pc := is.pc, acc := id, cmd := .close (sliceOf s f) (extTask s f) q }) f eid

end Sys2Proof.Machine
end

