-- ==== Sys2Proof/Machine/Matrix.lean ====
section
/-!
DEFINITION. Group 6, matrix instructions at issue (R445-R459): leases, rings, MMA, MMAS, MZERO, MLDACC, MEPI, MWAIT, INFER. What a matrix
block does with the commands stands in Machine/Block.lean.
-/
namespace Sys2Proof.Machine

/-! ## Blocks, leases, rings -/

/-- A matrix block that holds nothing (R133). (DESIGN CHOICE, log 2) -/
def Block.fresh : Block := { acc := [], poison := [], seen := [], holder := [], requests := [], leases := [], turn := 0 }

/-- The matrix block of a quad. -/
def getBlock (s : State) (q : Nat) : Block := tgetD s.blocks q Block.fresh

/-- Replaces the matrix block of a quad. -/
def putBlock (s : State) (q : Nat) (b : Block) : State := { s with blocks := tput s.blocks q b }

/-- The lease of a team in its quad's block, with its slot (R448). -/
def leaseOf (s : State) (core team : Nat) : Option (Nat × Lease) :=
  (getBlock s (coreQuad core)).leases.find? fun e => decide (e.2.core = core) && decide (e.2.team = team) && ! e.2.ending

/-- A ring before RINGSET (R449). -/
def Ring.fresh : Ring := { base := 0, cap := 0, tsz := 0, head := 0, tail := 0 }

/-- A ring of a core. -/
def ringOf (s : State) (core r : Nat) : Ring := tgetD (getCore s core).rings r Ring.fresh

/-- Published tiles of a ring (R450). -/
def ringPublished (r : Ring) : Nat := (r.tail - r.head).toNat
/-- Free tiles of a ring (R450). -/
def ringFree (r : Ring) : Nat := r.cap - ringPublished r

/-- Stored elements of a vector: 32 dense, 16 or 8 under sparsity (R162, R451); `n` is 0 dense, 4 or 2. -/
def storedOf (n : Nat) : Nat := if n = 0 then 32 else 4 * n

/-- Bytes of a vector's elements (R451). -/
def vecBytes (f n : Nat) : Nat := storedOf n * fmtBits f / 8

/-- Size of a ring tile in 64-byte units (R451). -/
def tileUnits (f n : Nat) : Nat := (128 * vecBytes f n + (if f = 10 then 128 else 0) + (if n = 0 then 0 else 1024)) / 64

/-- The N of the sparse operand of MMAS (R452): for side A and side B, 0 where dense. -/
def sparseOf (opc sub : Nat) : Nat × Nat :=
  let n := if sub / 4 % 2 = 1 then 2 else 4
  if opc ≠ 1 then (0, 0) else if sub % 4 = 1 then (n, 0) else (0, n)

/-! ## Commands -/

/-- A matrix command with nothing set but its fibre and place. -/
def newMat (opc : Nat) (f : FRef) (team : Nat) (is : Issue) (id : Nat) : MatCmd :=
  { op := opc, f := f, team := team, pc := is.pc, acc := id, ll := 0, qa := 0, qb := 0, tile := 0, nt := 0, fa := 0, fb := 0, cidx := 0, sub := 0,
    addr := 0, stride := 0, scale := 0, dst := 0, i4t := 0, tokens := 0, step := 0, stopped := none, lanes := [], old := false, cut := false }

/-- A group 6 instruction (R433, R445): fibres with RST = 1 trap, the rest is the batch it acts for. -/
def onMatrix (s : State) (h : Head) (ops : Named) (k : Issue → List Nat → State → State) : Host.Outcome State Fault Refusal :=
  onNamed s h ops fun is act s =>
    let rst := fun l => match getFib s (is.fref l) with | some x => fsrRST x | none => false
    let s := trapLanes s is (act.filter rst) (trapOf 0 0x0E)
    let act := act.filter fun l => ! rst l
    if act.isEmpty then s else k is act s

/-- Whether a matrix command at `is` keeps the I4T table as it stands (R350): a TBLLD of its packet, or of the one before, has not landed yet. -/
def keepsTable (s : State) (is : Issue) : Bool :=
  let k := getCore s is.core
  match (getPart s is.core is.part).batch with
  | some b => b.cpend.any (fun e => match e.2 with | .i4t _ => true | _ => false) || (packetOpcs k 24 is.pc b.count).contains 0x183
  | none => false

/-- Puts a matrix command into the issue buffer (R53); its fibres wait at their run end until it is accepted. It goes to the quad's block by the issuing
core's own router. (DESIGN CHOICE, log 74) -/
def sendMat (s : State) (is : Issue) (lanes : List Nat) (c : MatCmd) : State :=
  let c := if keepsTable s is then { c with i4t := (getCore s is.core).i4t, old := true } else c
  let (eid, s) := freshId s
  let (p, s) := newPacket s .mreq 0x0A is.core is.core (pkgNum s) 1 0 (.matrix c)
  lanes.foldl (fun s l => waitEntry s (is.fref l) eid) (bufAdd s is.core is.part { entry := eid, f := c.f, pc := is.pc, acc := c.acc, cmd := .packet p false })

/-- A command of the issuing team's lease (R445): without one, or with tiles `first` to `last` outside it, the protection trap 0x0D. -/
def onLease (s : State) (is : Issue) (act : List Nat) (first last : Nat) (k : Nat → FRef → Fibre → State → State) : State :=
  let f := is.fref (act.headD 0)
  match getFib s f, teamOf s f with
  | some x, some (n, _) =>
    match leaseOf s is.core n with
    | some (_, l) => if l.first ≤ first ∧ last < l.first + l.count then k n f x s else trapLanes s is act (trapOf 4 0x0D)
    | none => trapLanes s is act (trapOf 4 0x0D)
  | _, _ => trapLanes s is act (trapOf 4 0x0D)

/-- A command of one path record for the issuing fibre, sent once (R445). -/
def matOnce (s : State) (is : Issue) (act : List Nat) (opc team : Nat) (f : FRef) (mk : MatCmd → MatCmd) : State :=
  let (id, s) := freshId s
  sendMat (addAcc s f (plainAcc id .mx)) is act (mk (newMat opc f team is id))

/-- Takes a power token from the issuing batch for a command (R55). -/
def takeToken (s : State) (is : Issue) : State × Nat :=
  match (getPart s is.core is.part).batch with
  | some b => (modPart s is.core is.part fun p => { p with batch := some { b with tokens := b.tokens - 1 } }, min 1 b.tokens)
  | none => (s, 0)

/-! ## Leases -/

/-- MLEASE (R447). -/
def execMlease (h : Head) (o : BodyX) (s : State) : Host.Outcome State Fault Refusal :=
  let i : Instr := .mlease h o
  onMatrix s h (namedOf i) fun is act s =>
    let f := is.fref (act.headD 0)
    if 63 < o.tile.toNat + o.nt.toNat then trapLanes s is act (trapOf 4 0x0D)
    else
      match teamOf s f with
      | none => trapLanes s is act (trapOf 4 0x0D)
      | some (n, _) =>
        match leaseOf s is.core n with
        | some (slot, _) =>
          eachLane act (fun s l =>
            let (id, s) := freshId s
            modFib s (is.fref l) fun x => addKnown x id (regsEff o.d.toNat [BitVec.ofNat 32 (0x100 + slot)])) s
        | none =>
          let (eid, s) := freshId s
          let (s, ws) := act.foldl (fun (a : State × List (FRef × Nat × Nat)) l =>
            let (id, s) := freshId a.1
            (modFib s (is.fref l) fun x => addLL x id, a.2 ++ [(is.fref l, id, o.d.toNat)])) (s, [])
          let (p, s) := newPacket s .mreq 0x0A is.core is.core (pkgNum s) 1 0 (.lease is.core n ws o.tile.toNat (o.nt.toNat + 1) none)
          waitEntry (bufAdd s is.core is.part { entry := eid, f := f, pc := is.pc, acc := 0, cmd := .packet p false }) f eid

/-- MREL (R448): follows the team's earlier commands to the block. -/
def execMrel (h : Head) (o : BodyX) (s : State) : Host.Outcome State Fault Refusal :=
  onMatrix s h (namedOf (.mrel h o)) fun is act s =>
    match (teamOf s (is.fref (act.headD 0))).bind fun t => leaseOf s is.core t.1 with
    | some (_, l) => onLease s is act l.first l.first fun n f _ s => matOnce s is act 6 n f id
    | none => trapLanes s is act (trapOf 4 0x0D)

/-! ## Rings -/

/-- RINGSET (R449): accepted once no accepted command names the ring. -/
def execRingset (h : Head) (o : BodyX) (s : State) : Host.Outcome State Fault Refusal :=
  onMatrix s h (namedOf (.ringset h o)) fun is act s =>
    let f := is.fref (act.headD 0)
    match getFib s f with
    | none => s
    | some x =>
      let base := (regOf x o.a.toNat).toNat; let v := (regOf x o.b.toNat).toNat
      let cap := v % 65536; let tsz := v / 65536
      if base % 64 ≠ 0 ∨ cap = 0 ∨ 4096 < cap ∨ tsz = 0 ∨ 128 < tsz ∨ cisternSize is.core < base + 64 * cap * tsz then
        trapLanes s is act (trapOf 4 0x03)
      else
        let (eid, s) := freshId s
        let (id, s) := freshId s
        let s := addAcc s f (plainAcc id .mx)
        waitEntry (bufAdd s is.core is.part { entry := eid, f := f, pc := is.pc, acc := id, cmd := .ringSet o.qa.toNat base cap tsz }) f eid

/-- RINGADV (R450): accepted once the count does not exceed the free tiles; a count of zero does nothing. -/
def execRingadv (h : Head) (o : BodyX) (s : State) : Host.Outcome State Fault Refusal :=
  onMatrix s h (namedOf (.ringadv h o)) fun is act s =>
    let f := is.fref (act.headD 0)
    match getFib s f with
    | none => s
    | some x =>
      let n := (regOf x o.a.toNat).toNat
      if n = 0 then s
      else
        let (eid, s) := freshId s
        let (id, s) := freshId s
        let s := addAcc s f (plainAcc id .mx)
        waitEntry (bufAdd s is.core is.part { entry := eid, f := f, pc := is.pc, acc := id, cmd := .ringAdv o.qa.toNat n }) f eid

/-- RINGQ (R450), per lane: sampled when the instruction reaches the block. -/
def execRingq (h : Head) (o : BodyX) (s : State) : Host.Outcome State Fault Refusal :=
  onMatrix s h (namedOf (.ringq h o)) fun is act s =>
    let (eid, s) := freshId s
    eachLane act (fun s l =>
      let f := is.fref l
      let (id, s) := freshId s
      let s := modFib s f fun x => addLL x id
      waitEntry (bufAdd s is.core is.part { entry := eid, f := f, pc := is.pc, acc := 0, cmd := .ringQ o.qa.toNat id o.d.toNat }) f eid) s

/-! ## Multiply and tiles -/

/-- MMA and MMAS (R452): each ring's tile size must be that of its format. -/
def mmaInstr (s : State) (i : Instr) (h : Head) (o : BodyX) (opc : Nat) : Host.Outcome State Fault Refusal :=
  onMatrix s h (namedOf i) fun is act s => onLease s is act o.tile.toNat o.tile.toNat fun n f _ s =>
    let sp := sparseOf opc o.sub.toNat
    let (s, tok) := takeToken s is
    let bad := if (ringOf s is.core o.qa.toNat).tsz ≠ tileUnits o.fa.toNat sp.1 then some o.qa.toNat
      else if (ringOf s is.core o.qb.toNat).tsz ≠ tileUnits o.fb.toNat sp.2 then some o.qb.toNat else none
    match bad with
    | some q => trapLanes (returnTokens s tok) is act { trapOf 10 0x04 with aux := BitVec.ofNat 64 q }
    | none => matOnce s is act opc n f fun c => { c with
        qa := o.qa.toNat, qb := o.qb.toNat, tile := o.tile.toNat, nt := o.nt.toNat, fa := o.fa.toNat, fb := o.fb.toNat
        cidx := o.cidx.toNat, sub := o.sub.toNat, tokens := tok }

/-- MMA (R452, R453). -/
def execMma (h : Head) (o : BodyX) (s : State) : Host.Outcome State Fault Refusal := mmaInstr s (.mma h o) h o 0
/-- MMAS (R452, R453). -/
def execMmas (h : Head) (o : BodyX) (s : State) : Host.Outcome State Fault Refusal := mmaInstr s (.mmas h o) h o 1

/-- MZERO (R455). -/
def execMzero (h : Head) (o : BodyX) (s : State) : Host.Outcome State Fault Refusal :=
  onMatrix s h (namedOf (.mzero h o)) fun is act s => onLease s is act o.tile.toNat (o.tile.toNat + o.nt.toNat) fun n f _ s =>
    matOnce s is act 2 n f fun c => { c with tile := o.tile.toNat, nt := o.nt.toNat, cidx := o.cidx.toNat }

/-- MEPI (R456). -/
def execMepi (h : Head) (o : BodyX) (s : State) : Host.Outcome State Fault Refusal :=
  onMatrix s h (namedOf (.mepi h o)) fun is act s => onLease s is act o.tile.toNat o.tile.toNat fun n f x s =>
    matOnce s is act 3 n f fun c => { c with
      tile := o.tile.toNat, fa := o.fa.toNat, cidx := o.cidx.toNat, sub := o.sub.toNat, addr := pairSrc x 0 o.a, stride := regOf x o.b.toNat
      scale := if o.d = 0 then 0x3F800000 else regOf x o.d.toNat }

/-- MLDACC (R455). -/
def execMldacc (h : Head) (o : BodyX) (s : State) : Host.Outcome State Fault Refusal :=
  onMatrix s h (namedOf (.mldacc h o)) fun is act s => onLease s is act o.tile.toNat o.tile.toNat fun n f x s =>
    matOnce s is act 4 n f fun c => { c with
      tile := o.tile.toNat, cidx := o.cidx.toNat, addr := pairSrc x 0 o.a, stride := regOf x o.b.toNat }

/-- MWAIT (R457), per lane. -/
def execMwait (h : Head) (o : BodyX) (s : State) : Host.Outcome State Fault Refusal :=
  signalled s h <| onMatrix s h (namedOf (.mwait h o)) fun is act s => eachLane act (fun s l =>
    let (id, s) := freshId s
    modFib s (is.fref l) fun x =>
      let x := addLL x id
      { x with waits := x.waits ++ [if o.cidx = 0 then .drained id o.d.toNat id false
          else .completion o.cidx.toNat ((regOf x o.a.toNat).setWidth 16) id o.d.toNat] }) s

/-! ## INFER -/

/-- The precise trap of an INFER lane's operands (R458). -/
def inferBad (core : Nat) (o : BodyX) (x : Fibre) : Option TrapInfo :=
  let w := pairSrc x 0 o.a
  let off := (regOf x o.b.toNat).toNat
  if w.toNat < 0x10000 then some (trapAt 3 0 w)
  else if w.toNat % 64 ≠ 0 then some (trapAt 2 0 w)
  else if off % 64 ≠ 0 then some (trapAt 2 0 (BitVec.ofNat 64 off))
  else if ¬ cisternOk core off (4 * (o.nt.toNat + 1) * fmtBits o.fa.toNat) then some (trapAt 4 0x03 (BitVec.ofNat 64 off))
  else none

/-- INFER (R458, R459): the lanes that pass form one command. -/
def execInfer (h : Head) (o : BodyX) (s : State) : Host.Outcome State Fault Refusal :=
  onMatrix s h [(0, o.d, o.sub.toNat + 1), (1, o.a, 2), (2, o.b, 1)] fun is act s =>
    onLease s is act o.tile.toNat o.tile.toNat fun n _ _ s =>
      let (s, lanes) := act.foldl (fun (a : State × List InferLane) l =>
        match getFib a.1 (is.fref l) with
        | none => a
        | some x =>
          match inferBad is.core o x with
          | some t => (takeTrap a.1 (is.fref l) is.pc t, a.2)
          | none =>
            let (id, s) := freshId a.1
            let s := addAcc (modFib s (is.fref l) fun x => addLL x id) (is.fref l) (plainAcc id .mx)
            (s, a.2 ++ [{ lane := l, ll := id, acc := id, x := (regOf x o.b.toNat).toNat, w := pairSrc x 0 o.a, step := 0, fault := none, done := false }])) (s, [])
      match lanes with
      | [] => s
      | l :: _ =>
        let (s, tok) := takeToken s is
        sendMat s is (lanes.map InferLane.lane) { newMat 5 (is.fref l.lane) n is l.acc with
          tile := o.tile.toNat, nt := o.nt.toNat, fa := o.fa.toNat, fb := o.fb.toNat, sub := o.sub.toNat, dst := o.d.toNat, tokens := tok, lanes := lanes }

end Sys2Proof.Machine
end

