-- ==== Sys2Proof/Machine/Block.lean ====
section
/-!
DEFINITION. The matrix blocks (R133-R135, R228-R230, R282, R284, R447-R459): lease requests and grants, the command queues, tile steps
with the arithmetic of a group, faults and completions. The device's steps LEASE_REQUEST, LEASE_GRANT, MATRIX_COMMAND, MATRIX_TILE_STEP,
MATRIX_WATCHDOG_EXPIRY.
-/
namespace Sys2Proof.Machine

/-! ## Accumulator memory -/

/-- Element (i, j) of a tile (R133); an element never written is +0. -/
def tileWord (b : Block) (t i j : Nat) : Word := tgetD (tgetD b.acc t []) (128 * i + j) 0

/-- A tile with every element given by a function. -/
def tileFill (v : Nat → Word) : Tbl Nat Word := (List.range 16384).filterMap fun e => if v e = 0 then none else some (e, v e)

/-- Replaces a tile. -/
def putTile (b : Block) (t : Nat) (v : Nat → Word) : Block := { b with acc := tput b.acc t (tileFill v) }

/-- Rows of a tile lose their poison with their data; poison that nobody has read is logged (R304). -/
def dropRows (s : State) (block core slice t : Nat) (mine : Nat → Bool) : State :=
  let b := getBlock s block
  let gone := b.poison.filter fun r => decide (r.1 = t) && mine r.2
  let s := putBlock s block { b with poison := b.poison.filter fun r => ! gone.contains r, seen := b.seen.filter fun r => ! gone.contains r }
  if gone.all fun r => b.seen.contains r then s else logError s 0x03 0x06 core core 0xFFFF slice 0

/-- The poison of a row has been carried on (R304). -/
def rowSeen (b : Block) (t row : Nat) : Block :=
  if b.poison.contains (t, row) ∧ ¬ b.seen.contains (t, row) then { b with seen := b.seen ++ [(t, row)] } else b

/-- Writes +0 to a tile and clears its poison (R455). -/
def zeroTile (s : State) (block core slice t : Nat) : State :=
  let s := dropRows s block core slice t fun _ => true
  let b := getBlock s block
  putBlock s block { b with acc := tdel b.acc t }

/-- Writes +0 to a row and clears its poison (R455, R456, R459). -/
def zeroRow (s : State) (block core slice t row : Nat) : State :=
  let s := dropRows s block core slice t fun r => r == row
  let b := getBlock s block
  putBlock s block { b with acc := tput b.acc t ((tgetD b.acc t []).filter fun e => decide (e.1 / 128 ≠ row)) }

/-- Marks rows of a tile poisoned (R304). -/
def poisonRows (b : Block) (t : Nat) (rows : List Nat) : Block :=
  { b with poison := b.poison ++ (rows.filter fun r => ! b.poison.contains (t, r)).map fun r => (t, r) }

/-! ## Operand tiles -/

/-- Element `k` of packed bytes (R149). -/
def packedElem (f : Nat) (b : List Byte) (k : Nat) : Nat :=
  match fmtBits f with
  | 16 => leNat ((b.drop (2 * k)).take 2)
  | 8 => (b.getD k 0).toNat
  | _ => (b.getD (k / 2) 0).toNat / 16 ^ (k % 2) % 16

/-- The kept positions that a metadata word names, if it is well-formed (R162). -/
def keptOf (n w : Nat) : Option (List Nat) :=
  let ix := (List.range n).map fun i => w / 8 ^ i % 8
  let rises := (List.range (n - 1)).all fun i => decide (ix.getD i 0 < ix.getD (i + 1) 0)
  if w / 8 ^ n = 0 ∧ rises then some ix else none

/-- Where the metadata of a vector lies in a sparse ring tile (R451). -/
def metaOff (f n v : Nat) : Nat := 128 * vecBytes f n + (if f = 10 then 128 else 0) + 8 * v

/-- The parts of a ring tile, as offset and length, that hold vector `v` (R160, R451): its elements, for Q4 its block's scale code and S, and its
metadata. -/
def vecParts (f n v : Nat) : List (Nat × Nat) :=
  let area := 128 * vecBytes f n
  [(v * vecBytes f n, vecBytes f n)] ++ (if f = 10 then [(area + v * storedOf n / 64, 1), (area + 64, 4)] else []) ++
    (if n = 0 then [] else [(metaOff f n v, 8)])

/-- The metadata words of a vector of a sparse ring tile (R451). -/
def metaWords (f n v : Nat) (tile : List Byte) : List Nat :=
  (List.range 4).map fun j => leNat ((tile.drop (metaOff f n v + 2 * j)).take 2)

/-- Whether a tile's metadata is well-formed (R162, R454). -/
def metaOk (f n : Nat) (tile : List Byte) (vs : List Nat) : Bool :=
  n == 0 || vs.all fun v => (metaWords f n v tile).all fun w => (keptOf n w).isSome

/-- The value of stored element `e` of vector `v` (R158, R159, R161, R164). -/
def elemValue (f n : Nat) (i4t : BitVec 128) (tile : List Byte) (v e : Nat) : Fv :=
  let bits := packedElem f ((tile.drop (v * vecBytes f n)).take (vecBytes f n)) e
  if f = 10 then
    let area := tile.drop (128 * vecBytes f n)
    let code := (area.getD ((v * storedOf n + e) / 64) 0).toNat
    let S : Word := BitVec.ofNat 32 (leNat ((area.drop 64).take 4))
    (sourceValue 10 false false i4t bits (q4Scale S code).1).1
  else (sourceValue f false false i4t bits 0).1

/-- The 32 positions of a vector; a dropped position has no value (R162). -/
def vecOf (f n : Nat) (i4t : BitVec 128) (tile : List Byte) (v : Nat) : List (Option Fv) :=
  if n = 0 then (List.range 32).map fun k => some (elemValue f n i4t tile v k)
  else
    let ms := metaWords f n v tile
    (List.range 32).map fun k =>
      match (keptOf n (ms.getD (k / 8) 0)).bind fun ix => ((List.range n).find? fun i => decide (ix.getD i 8 = k % 8)) with
      | some i => some (elemValue f n i4t tile v (k / 8 * n + i))
      | none => none

/-- The group sum G of two vectors as F32 bits (R164 steps 1 to 4, R165). -/
def groupBits (as bs : List (Option Fv)) : Nat :=
  let ps := (List.zip as bs).filterMap fun e => match e.1, e.2 with | some a, some b => some (mulV a b).1 | _, _ => none
  (deliver fmtF32 0 false (groupSum ps).v).1

/-- One accumulator addition (R164 step 5). -/
def accAdd (c : Word) (g : Nat) : Word := BitVec.ofNat 32 (fAdd fmtF32 0 false (decodeF fmtF32 false c.toNat) (decodeF fmtF32 false g)).1

/-! ## Leases -/

/-- Whether the lease request of a core that has come at one clock stands before that of another core and clock (R229). -/
def leaseBefore (c d : DWord) (i j : Nat) : Bool := decide (c < d) || (decide (c = d) && decide (i < j))

/-- Whether the re-entry of a lease is due, its clock over, and is not in the queue yet. -/
def reentryDue (s : State) (b : Block) (n : Nat) (l : Lease) : Bool :=
  ! l.ending && ! (b.requests.any fun r => r.slot == some n) && l.reentry.any fun t => decide (t ≠ s.clk)

/-- Appends re-entries of leases whose 16 commands have been accepted while the queue has room (R228, R229): re-entries and fresh requests enter in the
order of their clocks, in one clock the lower core's first. -/
def queueReentries (s : State) (q : Nat) (b : Block) : Block :=
  let fresh := s.mesh.filter fun p => p.arrived && decide (coreQuad p.dst = q) && (match p.body with | .lease _ _ _ _ _ _ => true | _ => false)
  let at' := fun (l : Lease) => l.reentry.getD 0
  let due := b.leases.filter fun l => reentryDue s b l.1 l.2 && ! (fresh.any fun p => leaseBefore p.came (at' l.2) p.src l.2.core)
  let due := if (match due with | [x, y] => leaseBefore (at' y.2) (at' x.2) y.2.core x.2.core | _ => false) then due.reverse else due
  due.foldl (fun b l => if b.requests.length < 8 then { b with requests := b.requests ++ [{
      core := l.2.core, team := l.2.team, waiters := [], first := l.2.first, count := l.2.count, slot := some l.1 }] } else b) b

/-- Ends a lease whose queue is empty, if it is ending (R448). -/
def endLease (b : Block) (slot : Nat) : Block :=
  match tget b.leases slot with
  | some l => if l.ending ∧ l.queue.isEmpty then { b with leases := tdel b.leases slot, requests := b.requests.filter fun r => r.slot ≠ some slot } else b
  | none => b

/-- Ends every lease that is ending with nothing queued, whatever step emptied it. -/
def endLeases (b : Block) : Block := endLease (endLease b 0) 1

/-- Whether an earlier lease request or re-entry waits for the same block; in one clock the lower core's is the earlier (R228, R229), so that clock must be
over. -/
def earlierLease (s : State) (p : Packet) : Bool :=
  let b := getBlock s (coreQuad p.dst)
  decide (p.came = s.clk) ||
  (b.leases.any fun l => reentryDue s b l.1 l.2 && leaseBefore (l.2.reentry.getD 0) p.came l.2.core p.src) || s.mesh.any fun e => e.arrived && cameBefore Packet.src e p && decide (coreQuad e.dst = coreQuad p.dst) && (match e.body with | .lease _ _ _ _ _ _ => true | _ => false)

/-- LEASE_REQUEST (R228, R447): the request enters its block's queue of 8, in arrival order. (DESIGN CHOICE, log 74) -/
def execLeaseRequest (id : Nat) (s : State) : Host.Outcome State Fault Refusal :=
  match arrivedPacket s id with
  | none => .next s
  | some p =>
    match p.body with
    | .lease core team ws first count _ =>
      let q := coreQuad core
      let b := getBlock s q
      .next (if ! earlierLease s p ∧ b.requests.length < 8 then
        putBlock (dropPacket s id) q { b with requests := b.requests ++ [{ core := core, team := team, waiters := ws, first := first, count := count, slot := none }] }
        else s)
    | _ => .next s

/-- The unique identity of a team, as tiles record it (R134). -/
def teamUid (s : State) (core team : Nat) : Nat := ((getTeam s core team).map Team.uid).getD 0

/-- LEASE_GRANT (R134, R228, R229, R447): the head request, when its re-entry is due or a slot and its tiles are free. -/
def execLeaseGrant (block : Nat) (s : State) : Host.Outcome State Fault Refusal :=
  let b := queueReentries s block (endLeases (getBlock s block))
  match b.requests with
  | [] => .next (if b = getBlock s block then s else putBlock s block b)
  | r :: rest =>
    match r.slot with
    | some sl =>
      let ls := b.leases.map fun l => (l.1, if l.1 = sl then { l.2 with acc := 0, reentry := none } else l.2)
      .next (putBlock s block { b with requests := rest, leases := ls })
    | none =>
      let free := [0, 1].find? fun i => (tget b.leases i).isNone
      let clear := b.leases.all fun l => decide (l.2.core = r.core ∧ l.2.team = r.team) || decide (l.2.first + l.2.count ≤ r.first ∨ r.first + r.count ≤ l.2.first)
      match (if clear then free else none) with
      | none => .next (putBlock s block b)
      | some sl =>
        let me := (((getTeam s r.core r.team).map Team.slice).getD 0, teamUid s r.core r.team)
        let tiles := (List.range r.count).map (r.first + ·)
        let s := tiles.foldl (fun s t => if tget b.holder t = some me then s else zeroTile s block r.core me.1 t) (putBlock s block b)
        let b := getBlock s block
        let b := { b with
          holder := tiles.foldl (fun h t => tput h t me) b.holder
          requests := rest
          leases := tput b.leases sl { core := r.core, team := r.team, first := r.first, count := r.count, acc := 0, queue := [], ending := false,
                                       reentry := none, watchdog := 0 } }
        let s := putBlock s block b
        .next (r.waiters.foldl (fun s w => llDone s w.1 w.2.1 0 (regsEff w.2.2 [BitVec.ofNat 32 sl])) s)

/-! ## Completion -/

/-- The first element that a stopped command has not written (R446): the elements of MZERO's tiles, or of the rows of MEPI and MLDACC; a product writes
its whole tile at every group. -/
def firstUnwritten (c : MatCmd) : Nat :=
  match c.op with
  | 2 => 16384 * (c.step / 64)
  | 3 | 4 => 128 * c.step
  | _ => 0

/-- A command leaves its queue with a status (R446, R453): tokens return, its entry is counted, its fibres' records go; a discarded INFER's lanes
no longer wait for its results. -/
def finishMat (s : State) (block slot : Nat) (c : MatCmd) (status : Nat) : State :=
  let b := getBlock s block
  let b := { b with leases := b.leases.map fun l => if l.1 = slot then (l.1, { l.2 with queue := l.2.queue.filter fun d => decide (d.acc ≠ c.acc), watchdog := 0 }) else l }
  let s := putBlock s block (endLease b slot)
  let s := countCompletion (returnTokens s c.tokens) c.f.core c.team c.cidx status (firstUnwritten c)
  let s := accDone s c.f c.acc
  c.lanes.foldl (fun s l =>
    let f : FRef := { c.f with lane := l.lane }
    accDone (if status = 0 ∨ l.done then s else modFib s f fun x => loseIds x [l.ll]) f l.acc) s

/-- MATRIX_COMMAND (R229, R282, R167, R350): the command is accepted into its lease's queue with the core's I4T table, or the one it was issued with; MREL ends the lease; a
command whose lease has gone is discarded. -/
def execMatrixCommand (id : Nat) (s : State) : Host.Outcome State Fault Refusal :=
  match arrivedPacket s id with
  | none => .next s
  | some p =>
    match p.body with
    | .matrix c =>
      let q := coreQuad c.f.core
      let b := getBlock s q
      let earlier := s.mesh.any fun e => e.arrived && decide (e.order < p.order) &&
        (match e.body with | .matrix d => decide (d.f.core = c.f.core ∧ d.team = c.team) | _ => false)
      if earlier then .next s
      else
        match leaseOf s c.f.core c.team with
        | none => .next (finishMat (dropPacket s id) q 2 c 2)
        | some (sl, l) =>
          if c.op = 6 then
            .next (accDone (putBlock (dropPacket s id) q (endLease { b with leases := tput b.leases sl { l with ending := true } } sl)) c.f c.acc)
          else if 32 ≤ l.queue.length ∨ 16 ≤ l.acc ∨ l.reentry.isSome then .next s
          else
            let l := { l with queue := l.queue ++ [{ c with i4t := if c.old then c.i4t else (getCore s c.f.core).i4t }], acc := l.acc + 1, reentry := if l.acc + 1 = 16 then some s.clk else none }
            .next (putBlock (dropPacket s id) q { b with leases := tput b.leases sl l })
    | _ => .next s

/-! ## Tile steps -/

/-- Where a ring's tile at its head begins in the cistern (R449). -/
def ringAt (s : State) (core q : Nat) : Nat :=
  let r := ringOf s core q
  r.base.toNat + 64 * r.tsz * (r.head.toNat % max r.cap 1)

/-- The bytes of the tile at a ring's head, and whether poison stands in them. -/
def ringTile (s : State) (core q : Nat) : List Byte × Nat :=
  cistRead s core (ringAt s core q) (64 * (ringOf s core q).tsz)

/-- Raises a matrix operand fault (R454): the command stops and the trap waits for its fibre's next boundary; without that fibre it goes to the
team's fibre of lowest s.fid, and without any to the team. The fibre that takes it. (DEDUCED, log 18) -/
def raiseMat (s : State) (c : MatCmd) (f : FRef) (detail : Nat) (addr : DWord) (ring step : Nat) : State × Option FRef :=
  let aux : DWord := BitVec.ofNat 64 (ring % 16 + step % 65536 * 65536)
  let live := fun (g : FRef) => match getFib s g with | some x => ! x.ended | none => false
  let low := ((teamFibres s f.core c.team).filter live).foldl (fun (b : Option FRef) g =>
    match b with
    | some e => if gidOf s g * 32 + g.lane < gidOf s e * 32 + e.lane then some g else b
    | none => some g) none
  let mine : Bool := live f && (match teamOf s f with | some (n, _) => decide (n = c.team) | none => false)
  match (if mine then some f else low) with
  | some g => (modFib s g fun x => { x with asyncTrap := some (10, detail, addr, aux) }, some g)
  | none => (teamFault s f.core c.team c.f c.pc (10 * 256 + detail), none)

/-- Replaces a command in its lease's queue. -/
def holdMat (s : State) (block slot : Nat) (c : MatCmd) : State :=
  let b := getBlock s block
  putBlock s block { b with leases := b.leases.map fun l =>
    if l.1 = slot then (l.1, { l.2 with queue := l.2.queue.map fun d => if d.acc = c.acc then c else d }) else l }

/-- A step of a command retires: its lease's watchdog starts anew (R284), and a command to be discarded goes at a group boundary (R453). -/
def putMat (s : State) (block slot : Nat) (c : MatCmd) : State :=
  if c.cut ∧ ¬ midGroup c then finishMat s block slot c 2
  else
    let s := holdMat s block slot c
    let b := getBlock s block
    putBlock s block { b with leases := b.leases.map fun l => if l.1 = slot then (l.1, { l.2 with watchdog := 0 }) else l }

/-- Stops a command on a fault; its lease's watchdog pauses at its count (R230, R284). -/
def faultMat (s : State) (block slot : Nat) (c : MatCmd) (detail : Nat) (addr : DWord) (ring : Nat) : State :=
  let (s, g) := raiseMat s c c.f detail addr ring c.step
  match g with
  | some g => holdMat s block slot { c with stopped := some g }
  | none => s

/-- The detail of a failed fetch (R454). -/
def fetchDetail : Tr → Nat
  | .page _ => 1
  | _ => 2

/-- The local cistern window address of an offset (R114). (DEDUCED, log 18) -/
def windowAddr (off : Nat) : DWord := BitVec.ofNat 64 (0xFFFFFFC00000 + off)

/-- One step of MMA and MMAS (R453): metadata is checked at a group's first step, the group is added and popped at its last. -/
def stepMma (s : State) (block slot : Nat) (c : MatCmd) : State :=
  let core := c.f.core
  let sp := sparseOf c.op c.sub
  let n := max 1 (groupSteps c)
  let (ta, pa) := ringTile s core c.qa
  let (tb, pb) := ringTile s core c.qb
  let vs := List.range 128
  if c.step % n = 0 ∧ ¬ metaOk c.fa sp.1 ta vs then faultMat s block slot c 3 (windowAddr (ringOf s core c.qa).base.toNat) c.qa
  else if c.step % n = 0 ∧ ¬ metaOk c.fb sp.2 tb vs then faultMat s block slot c 3 (windowAddr (ringOf s core c.qb).base.toNat) c.qb
  else
    let c' := { c with step := c.step + 1 }
    if (c.step + 1) % n ≠ 0 then putMat s block slot c'
    else
      let rows := vs.map fun i => vecOf c.fa sp.1 c.i4t ta i
      let cols := vs.map fun j => vecOf c.fb sp.2 c.i4t tb j
      let b := getBlock s block
      let b := putTile b c.tile fun e => accAdd (tileWord b c.tile (e / 128) (e % 128)) (groupBits (rows.getD (e / 128) []) (cols.getD (e % 128) []))
      let hit := fun (q f n v : Nat) => (vecParts f n v).any fun e => (cistRead s core (ringAt s core q + e.1) e.2).2 != 0
      let bad := if pb ≠ 0 ∧ vs.any (hit c.qb c.fb sp.2) then vs else if pa ≠ 0 then vs.filter (hit c.qa c.fa sp.1) else []
      let s := putBlock s block (poisonRows b c.tile bad)
      let pop := fun (s : State) q => modCore s core fun k => { k with rings := tput k.rings q { tgetD k.rings q Ring.fresh with head := (tgetD k.rings q Ring.fresh).head + 1 } }
      let s := pop (pop s c.qa) c.qb
      if (c.step + 1) / n = c.nt + 1 then finishMat s block slot c 0 else putMat s block slot c'

/-- The privilege that a command's fetches have: its team's. -/
def matPrv (s : State) (c : MatCmd) : Nat := ((getTeam s c.f.core c.team).map Team.prv).getD 0

/-- The slice of a command's team. -/
def matSlice (s : State) (c : MatCmd) : Nat := ((getTeam s c.f.core c.team).map Team.slice).getD 0

/-- The address of row `r` (R455, R456). -/
def matRow (c : MatCmd) (r : Nat) : DWord := c.addr + BitVec.ofNat 64 (r * c.stride.toNat)

/-- One row of MLDACC (R455). -/
def stepMldacc (s : State) (block slot : Nat) (c : MatCmd) : State :=
  let a := matRow c c.step
  if a.toNat % 4 ≠ 0 ∨ c.stride.toNat % 4 ≠ 0 then faultMat s block slot c 4 a 0
  else
    let bad := if a.toNat / 2 ^ 48 ≠ 0 then some (a.toNat, Tr.trap 4 1) else rangeFails s c.f.core (matSlice s c) (matPrv s c) .rd a.toNat 512
    match bad with
    | some (va, e) => faultMat s block slot c (fetchDetail e) (BitVec.ofNat 64 va) 0
    | none =>
      let (bytes, psn) := virtRead s c.f.core (matSlice s c) (matPrv s c) a.toNat 512
      let ws := wordsOf bytes
      let s := dropRows s block c.f.core (matSlice s c) c.tile fun r => r == c.step
      let b := getBlock s block
      let old := tgetD b.acc c.tile []
      let row := (List.range 128).filterMap fun j => let w := ws.getD j 0; if w = 0 then none else some (128 * c.step + j, w)
      let b := { b with acc := tput b.acc c.tile ((old.filter fun e => decide (e.1 / 128 ≠ c.step)) ++ row) }
      let s := putBlock s block (if psn ≠ 0 then poisonRows b c.tile [c.step] else b)
      if c.step = 127 then finishMat s block slot c 0 else putMat s block slot { c with step := c.step + 1 }

/-- Element width of MEPI's output format. -/
def mepiWidth (f : Nat) : Nat := if f = 2 then 4 else fmtBits f / 8

/-- One element of MEPI (R456). -/
def mepiElem (c : MatCmd) (w : Word) : Nat :=
  let v := (mulV (decodeF fmtF32 false w.toNat) (decodeF fmtF32 false c.scale.toNat)).1
  let v := if c.sub % 2 = 1 ∧ v.neg ∧ ¬ v.isNaN ∧ v ≠ .zero true then .zero false else v
  (convertTo c.fa false false false 0 (v, 0)).1 % 2 ^ (8 * mepiWidth c.fa)

/-- One row of MEPI (R456). -/
def stepMepi (s : State) (block slot : Nat) (c : MatCmd) : State :=
  let w := mepiWidth c.fa
  let a := matRow c c.step
  if a.toNat % w ≠ 0 ∨ c.stride.toNat % w ≠ 0 then faultMat s block slot c 4 a 0
  else
    let bad := if a.toNat / 2 ^ 48 ≠ 0 then some (a.toNat, Tr.trap 4 1) else rangeFails s c.f.core (matSlice s c) (matPrv s c) .wr a.toNat (128 * w)
    match bad with
    | some (va, e) => faultMat s block slot c (fetchDetail e) (BitVec.ofNat 64 va) 0
    | none =>
      let b := getBlock s block
      let bytes := (List.range 128).flatMap fun j => leBytes w (mepiElem c (tileWord b c.tile c.step j))
      let psn := b.poison.contains (c.tile, c.step)
      let s := virtWrite s c.f.core (matSlice s c) (matPrv s c) a.toNat bytes (if psn then 6 else 0)
      let s := putBlock s block (rowSeen (getBlock s block) c.tile c.step)
      let s := if c.sub / 4 % 2 = 1 then zeroRow s block c.f.core (matSlice s c) c.tile c.step else s
      if c.step = 127 then finishMat s block slot c 0 else putMat s block slot { c with step := c.step + 1 }

/-- One step of MZERO: a tile is zero after its 64 steps (R455). -/
def stepMzero (s : State) (block slot : Nat) (c : MatCmd) : State :=
  let s := if c.step % 64 = 63 then zeroTile s block c.f.core (matSlice s c) (c.tile + c.step / 64) else s
  if c.step + 1 = 64 * (c.nt + 1) then finishMat s block slot c 0 else putMat s block slot { c with step := c.step + 1 }

/-- The lanes of the pack that runs: the first, by lowest lane, that is neither done nor faulted (R459). -/
def packOf (c : MatCmd) : List (Nat × InferLane) :=
  let ls := (List.range c.lanes.length).zip c.lanes
  match ls.find? fun l => ! l.2.done && l.2.fault.isNone with
  | some l => ls.filter fun m => m.2.w = l.2.w && ! m.2.done
  | none => []

/-- Changes the lanes of a pack. -/
def modPack (c : MatCmd) (w : DWord) (g : InferLane → InferLane) : MatCmd := { c with lanes := c.lanes.map fun l => if l.w = w ∧ ¬ l.done then g l else l }

/-- The parts of an INFER weight tile that are read: columns 0 to N - 1, and for Q4 their scale codes and S (R451, R458). -/
def weightParts (c : MatCmd) : List (Nat × Nat) :=
  let area := 128 * vecBytes c.fb 0
  (0, (c.sub + 1) * vecBytes c.fb 0) :: (if c.fb = 10 then [(area, c.sub / 2 + 1), (area + 64, 4)] else [])

/-- One step of an INFER pack (R459): rows zeroed at its first step, a group's weights fetched at the group's first, added at its last. -/
def stepInfer (s : State) (block slot : Nat) (c : MatCmd) : State :=
  match packOf c with
  | [] => s
  | (i0, l0) :: rest =>
    let n := max 1 (groupSteps c)
    let g := l0.step / n
    let a := l0.w + BitVec.ofNat 64 (g * (64 * tileUnits c.fb 0))
    let parts := weightParts c
    let bad := if l0.step % n ≠ 0 then none else if a.toNat / 2 ^ 48 ≠ 0 then some (a.toNat, Tr.trap 4 1)
      else parts.findSome? fun e => rangeFails s c.f.core (matSlice s c) (matPrv s c) .rd (a.toNat + e.1) e.2
    match bad with
    | some (va, e) =>
      let (s, f) := raiseMat s c { c.f with lane := l0.lane } (fetchDetail e) (BitVec.ofNat 64 va) 0 l0.step
      if f.isSome then holdMat s block slot (modPack c l0.w fun l => { l with fault := f }) else s
    | none =>
      let pack := (i0, l0) :: rest
      let s := if l0.step = 0 then
          pack.foldl (fun s e => zeroRow s block c.f.core (matSlice s c) c.tile e.1) s
        else s
      if (l0.step + 1) % n ≠ 0 then putMat s block slot (modPack c l0.w fun l => { l with step := l.step + 1 })
      else
        let (tb, pb) := parts.foldl (fun (t : List Byte × Nat) e =>
          let (b, q) := virtRead s c.f.core (matSlice s c) (matPrv s c) (a.toNat + e.1) e.2
          (t.1 ++ List.replicate (e.1 - t.1.length) 0 ++ b, orPoison t.2 q)) ([], 0)
        let cols := (List.range (c.sub + 1)).map fun j => vecOf c.fb 0 c.i4t tb j
        let xb := 4 * fmtBits c.fa
        let b := pack.foldl (fun b e =>
          let (x, px) := cistRead s c.f.core (e.2.x + g * xb) xb
          let row := (List.range 32).map fun k => some (sourceValue c.fa false false c.i4t (packedElem c.fa x k) 0).1
          let b := (List.range (c.sub + 1)).foldl (fun b j =>
            { b with acc := tput b.acc c.tile (tput (tgetD b.acc c.tile []) (128 * e.1 + j) (accAdd (tileWord b c.tile e.1 j) (groupBits row (cols.getD j [])))) }) b
          if pb ≠ 0 ∨ px ≠ 0 then poisonRows b c.tile [e.1] else b) (getBlock s block)
        let s := putBlock s block b
        if g < c.nt then putMat s block slot (modPack c l0.w fun l => { l with step := l.step + 1 })
        else
          let s := pack.foldl (fun s e =>
            let f := { c.f with lane := e.2.lane }
            let s := putBlock s block (rowSeen (getBlock s block) c.tile e.1)
            llDone s f e.2.ll (if b.poison.contains (c.tile, e.1) then 6 else 0) (regsEff c.dst ((List.range (c.sub + 1)).map fun j => tileWord b c.tile e.1 j))) s
          let c := modPack c l0.w fun l => { l with done := true }
          if c.lanes.all fun l => l.done then finishMat s block slot c 0 else putMat s block slot c

/-- Whether the head command of a queue can step (R229). -/
def canStep (s : State) (c : MatCmd) : Bool :=
  ! cmdStuck c && (decide (1 < c.op) || (decide (0 < ringPublished (ringOf s c.f.core c.qa)) && decide (0 < ringPublished (ringOf s c.f.core c.qb))))

/-- Whether the step of a command from `s` to `u` met a fault, so that no tile step was taken (R288, R454): the command stops, a pack of it stops, or its
team is halted. -/
def stepFaulted (s u : State) (block : Nat) (c : MatCmd) : Bool :=
  let faults := fun (d : MatCmd) => (d.lanes.filter fun l => l.fault.isSome).length
  let halted := fun (v : State) => (getTeam v c.f.core c.team).any Team.halted
  match (getBlock u block).leases.findSome? fun l => l.2.queue.find? fun d => d.acc = c.acc with
  | some d => d.stopped.isSome || decide (faults c < faults d)
  | none => halted u && ! halted s

/-- MATRIX_TILE_STEP (R229, R453-R459): one step from the queue whose turn it is, or from the other if that one cannot step; of a context that is
being saved only the steps that complete an open group (R309, R453). -/
def execMatrixTileStep (block : Nat) (s : State) : Host.Outcome State Fault Refusal :=
  let b := getBlock s block
  let head := fun sl => if (quadCores block).any (underTest s 0x06) then none else (tget b.leases sl).bind fun l => match l.queue.head? with
    | some c => if canStep s c && (midGroup c || ! (getTeam s c.f.core c.team).any (saving s)) then some (sl, c) else none
    | none => none
  match (head (b.turn % 2)).or (head ((b.turn + 1) % 2)) with
  | none => .next s
  | some (sl, c) =>
    let s := putBlock s block { b with turn := (sl + 1) % 2 }
    let u := match c.op with
      | 0 | 1 => stepMma s block sl c
      | 2 => stepMzero s block sl c
      | 3 => stepMepi s block sl c
      | 4 => stepMldacc s block sl c
      | _ => stepInfer s block sl c
    .next (if stepFaulted s u block c then u else perfEvent u c.f.core 0x0F 1 none none)

/-! ## Watchdog -/

/-- MATRIX_WATCHDOG_EXPIRY (R284): the fibre that issued the head command raises the watchdog trap, the queued commands are discarded, the
lease is released. -/
def execMatrixWatchdogExpiry (block slot : Nat) (s : State) : Host.Outcome State Fault Refusal :=
  match tget (getBlock s block).leases slot with
  | none => .next s
  | some l =>
    let limit := (sliceCtl s l.core (((getTeam s l.core l.team).map Team.slice).getD 0) 0x109).toNat
    match l.queue.head? with
    | none => .next s
    | some c =>
      if limit = 0 ∨ l.watchdog.toNat < limit ∨ cmdStuck c ∨ c.cut then .next s
      else
        let s := bump s l.core 0x044 1
        let s := putBlock s block { getBlock s block with leases := tput (getBlock s block).leases slot { l with ending := true } }
        let s := l.queue.foldl (fun s c => if midGroup c then holdMat s block slot { c with cut := true } else finishMat s block slot c 2) s
        .next (modFib s c.f fun x => if x.ended then x else { x with asyncTrap := some (9, 1 + slot, 0, 0) })

end Sys2Proof.Machine
end

