-- ==== Sys2Proof/Machine/Ray.lean ====
section
/-!
DEFINITION. Rays (R123, R264-R268, R460-R467, R477, R478): the instructions TRV, RAYSEND, HITPUT and BASIN, the exact tests of a traversal
pipe, one node visit, and what becomes of a ray at the end of a treelet.
-/
namespace Sys2Proof.Machine

/-! ## Exact values -/

/-- The exact value of a decoded number; an infinity stands as a value beyond every finite one; none for a NaN. -/
def ratOf : Fv → Option Rat
  | .nan _ => none
  | .inf n => some (if n then -(2 ^ 1000 : Nat) else ((2 ^ 1000 : Nat) : Rat))
  | .zero _ => some 0
  | .fin n m e => some (if 0 ≤ e then (sgn n (m * 2 ^ e.toNat) : Rat) else mkRat (sgn n m) (2 ^ (-e).toNat))

/-- The exact value of an F32 word. -/
def ratF32 (w : Word) : Option Rat := ratOf (decodeF fmtF32 false w.toNat)

/-- The exact value of a finite F32 word. -/
def finF32 (w : Word) : Option Rat :=
  match decodeF fmtF32 false w.toNat with
  | .inf _ => none
  | v => ratOf v

/-- A fraction rounded to F32 by RNE (R462, R478). -/
def roundRat (q : Rat) : Word :=
  if q.num = 0 then 0
  else
    let (n, x, st) := quotient fmtF32 q.num.natAbs 0 q.den 0
    BitVec.ofNat 32 (roundTo fmtF32 0 false (decide (q.num < 0)) n x st).1

/-- All of a list's values, if each has one. -/
def allSome {α : Type} : List (Option α) → Option (List α)
  | [] => some []
  | none :: _ => none
  | some a :: t => (allSome t).map (a :: ·)

/-! ## Ray words -/

/-- Word `i` of a ray. -/
def rayW (w : List Word) (i : Nat) : Word := w.getD i 0

/-- TREELET of a ray. -/
def rayTreelet (w : List Word) : Nat := fld (rayW w 8).toNat 11 0
/-- NODE of a ray. -/
def rayNode (w : List Word) : Nat := fld (rayW w 8).toNat 31 12
/-- STATUS of a ray. -/
def rayStatus (w : List Word) : Nat := fld (rayW w 15).toNat 31 24
/-- NPEND of a ray. -/
def rayPending (w : List Word) : Nat := fld (rayW w 14).toNat 27 24
/-- TASK and QUEUE of a ray. -/
def rayQueue (w : List Word) : Nat × Nat := (fld (rayW w 9).toNat 7 0, fld (rayW w 9).toNat 23 8)
/-- HPRIM of a ray; 0xF_FFFF names none. -/
def rayPrim (w : List Word) : Nat := fld (rayW w 13).toNat 31 12

/-- Replaces bits [hi:lo] of word `i`. -/
def setField (w : List Word) (i hi lo v : Nat) : List Word :=
  let x := (rayW w i).toNat
  lset w i (BitVec.ofNat 32 (x - fld x hi lo * 2 ^ lo + v % 2 ^ (hi + 1 - lo) * 2 ^ lo))

/-- A ray with its STATUS set. -/
def setStatus (w : List Word) (st : Nat) : List Word := setField w 15 31 24 st

/-- A ray's words with a treelet and NODE 0. -/
def setTreelet (w : List Word) (t : Nat) : List Word := lset w 8 (BitVec.ofNat 32 (t % 4096))

/-- Word and lowest bit of pending entry `k`. -/
def pendingAt (k : Nat) : Nat × Nat := (14 + k / 2, 12 * (k % 2))

/-- Pushes a treelet onto the pending list (R462). -/
def pushPending (w : List Word) (t : Nat) : List Word :=
  let k := rayPending w; let p := pendingAt k
  setField (setField w p.1 (p.2 + 11) p.2 t) 14 27 24 (k + 1)

/-- Takes the newest pending entry into TREELET, NODE 0, and clears its bits (R462, R478). -/
def popPending (w : List Word) : List Word :=
  let k := rayPending w - 1; let p := pendingAt k
  let t := fld (rayW w p.1).toNat (p.2 + 11) p.2
  setTreelet (setField (setField w p.1 (p.2 + 11) p.2 0) 14 27 24 k) t

/-- The final record of a ray that ended with `st`, with the barycentrics of its hit (R460, R462, R478). (DESIGN CHOICE, log 47) -/
def finalWords (w : List Word) (st : Nat) (uv : Word × Word) : List Word :=
  let w := setTreelet (setStatus w st) (rayTreelet w)
  if st = 1 then lset (lset w 6 uv.1) 11 uv.2 else w

/-! ## Record queues -/

/-- The extent of a task that holds its queue table (R214, R261): the lowest with that access kind. -/
def queueTable (t : Task) : Option Nat :=
  (List.range t.extents.length).find? fun k => match t.extents[k]? with | some e => e.acc.toNat / 16 % 16 == 1 | none => false

/-- The hit queue that (TASK, QUEUE) names in a slice, with its consumer core (R214, R460). -/
def hitQueue (s : State) (slice task q : Nat) : Option (Nat × Nat) :=
  match tget (getSlice s slice).tasks task with
  | none => none
  | some t =>
    (queueTable t).bind fun k =>
      match tget (getSlice s slice).recQueues (task, queueId k q) with
      | some r => if r.qkind = 1 then some (queueId k q, r.target.toNat % 1024) else none
      | none => none

/-- Credits a core holds for a queue (R215). -/
def creditsOf (s : State) (core slice task q : Nat) : Nat := ((tget (getCore s core).credits (slice, task, q)).map Prod.fst).getD 0

/-- A core that has no credit of a queue asks its home for a batch (R215), once. (DESIGN CHOICE, log 14) -/
def askCredit (s : State) (core slice task q : Nat) : State :=
  match tget (getSlice s slice).recQueues (task, q) with
  | none => s
  | some rq =>
    let asked := s.mesh.any fun p => decide (p.src = core) && p.body == .credits slice task q 0
    if asked ∨ 0 < creditsOf s core slice task q then s else emit s .mreq 0x03 core rq.home 1 0 (.credits slice task q 0)

/-- Spends one credit of a core for a record that it sends now (R215). -/
def spendCredit (s : State) (core slice task q : Nat) : State :=
  modCore s core fun k => { k with credits := tput k.credits (slice, task, q) (((tget k.credits (slice, task, q)).map Prod.fst).getD 0 - 1, s.clk) }

/-! ## Treelets and the directory -/

/-- The local table entry of a treelet, if resident (R264). -/
def treeletEntry (k : Core) (t : Nat) : Option (Nat × DWord) :=
  k.treelets.find? fun e => e.2.getLsbD 63 && decide (fld e.2.toNat 62 51 = t)

/-- The valid replicas of a treelet in a core's directory copy, by replica index (R265). -/
def replicas (k : Core) (t : Nat) : List Nat :=
  let d := (tgetD k.directory t 0).toNat
  (List.range 4).filterMap fun j => if fld d (60 + j) (60 + j) = 1 then some (fld d (29 + 10 * j) (20 + 10 * j)) else none

/-- The replica that a ray leaving `core` for treelet `t` goes to (R265): fewest links, then lower index; `but` is left out. -/
def chooseReplica (s : State) (core t : Nat) (but : Option Nat) : Option Nat :=
  ((replicas (getCore s core) t).filter fun c => some c ≠ but).foldl (fun (b : Option Nat) c =>
    match b with
    | some d => if meshDist core c < meshDist core d then some c else b
    | none => some c) none

/-! ## Traversal sets -/

/-- Whether a traversal image's fields hold legal codes (R267, R268). -/
def tdsLegal (w : List DWord) : Bool :=
  let d := (w.getD 0 0).toNat
  decide (1 ≤ fld d 63 60 ∧ fld d 63 60 ≤ 4 ∧ fld d 59 58 ≠ 3 ∧ fld d 57 56 ≠ 3 ∧ fld d 55 54 < 2 ∧ fld d 53 52 ≠ 3 ∧
    ¬ (fld d 50 49 = 3) ∧ fld d 47 46 ≠ 3)

/-- Arity of a set. -/
def tdsArity (d : DWord) : Nat := 2 ^ (fld d.toNat 59 58 + 1)

/-! ## Tests -/

/-- A box as its six exact bounds, min x, y, z then max x, y, z; none where a bound is a NaN. -/
abbrev Bounds := Option (List Rat)

/-- The parameters t at which the line is inside one axis of the closed box; none if nowhere. -/
def slab (o d lo hi a b : Rat) : Option (Rat × Rat) :=
  if d = 0 then (if lo ≤ o ∧ o ≤ hi then some (a, b) else none)
  else
    let x := (lo - o) / d; let y := (hi - o) / d
    some (max a (min x y), min b (max x y))

/-- The entry distance of a box, if the segment from TMIN to `limit` meets it (R462, R477). -/
def boxEntry (org dir : List Rat) (tmin limit : Rat) (b : List Rat) : Option Rat :=
  let r := (List.range 3).foldl (fun (r : Option (Rat × Rat)) i => r.bind fun (r : Rat × Rat) =>
    slab (org.getD i 0) (dir.getD i 0) (b.getD i 0) (b.getD (3 + i) 0) r.1 r.2) (some (tmin, limit))
  r.bind fun (r : Rat × Rat) => if r.1 ≤ r.2 then some r.1 else none

/-- Vector difference. -/
def vsub (a b : List Rat) : List Rat := (List.range 3).map fun i => a.getD i 0 - b.getD i 0
/-- Dot product. -/
def vdot (a b : List Rat) : Rat := a.getD 0 0 * b.getD 0 0 + a.getD 1 0 * b.getD 1 0 + a.getD 2 0 * b.getD 2 0
/-- Cross product. -/
def vcross (a b : List Rat) : List Rat :=
  [a.getD 1 0 * b.getD 2 0 - a.getD 2 0 * b.getD 1 0, a.getD 2 0 * b.getD 0 0 - a.getD 0 0 * b.getD 2 0,
   a.getD 0 0 * b.getD 1 0 - a.getD 1 0 * b.getD 0 0]

/-- The point where a ray's line meets a triangle's plane (R478): t and the exact barycentrics u and v. -/
def planeHit (org dir v0 v1 v2 : List Rat) : Option (Rat × Rat × Rat) :=
  let e1 := vsub v1 v0; let e2 := vsub v2 v0
  let n := vcross e1 e2
  let dn := vdot dir n
  if dn = 0 then none
  else
    let t := vdot (vsub v0 org) n / dn
    let p := (List.range 3).map fun i => org.getD i 0 + t * dir.getD i 0 - v0.getD i 0
    let nn := vdot n n
    some (t, vdot (vcross p e2) n / nn, vdot (vcross e1 p) n / nn)

/-- The exact hit of a ray's line on a triangle (R268, R462, R478): t, u and v, where the point lies inside and no culling drops it. -/
def triangleHit (desc : DWord) (org dir v0 v1 v2 : List Rat) : Option (Rat × Rat × Rat) :=
  let dn := vdot dir (vcross (vsub v1 v0) (vsub v2 v0))
  if (dn < 0 ∧ desc.getLsbD 50) ∨ (0 < dn ∧ desc.getLsbD 49) then none
  else (planeHit org dir v0 v1 v2).bind fun q =>
    let inside : Bool := if desc.getLsbD 48 then decide (0 ≤ q.2.1 ∧ 0 ≤ q.2.2 ∧ q.2.1 + q.2.2 ≤ 1) else decide (0 < q.2.1 ∧ 0 < q.2.2 ∧ q.2.1 + q.2.2 < 1)
    if inside then some q else none

/-! ## Nodes -/

/-- A child of a node: KIND, the value (the node or primitive offset, the treelet), primitives of a leaf, its box. -/
structure Child where
  kind : Nat
  value : Nat
  count : Nat
  box : Bounds

/-- The box of child `k` in a node's bytes (R461). -/
def childBox (desc : DWord) (b : List Byte) (k : Nat) : Bounds :=
  let base := 8 + 4 * tdsArity desc
  let num := fun o n => leNat ((b.drop o).take n)
  match fld desc.toNat 57 56 with
  | 0 => allSome ((List.range 6).map fun i => ratOf (decodeF fmtF32 false (num (base + 24 * k + 4 * i) 4)))
  | 1 => allSome ((List.range 6).map fun i => ratOf (decodeF fmtF16 false (num (base + 12 * k + 2 * i) 2)))
  | _ =>
    (allSome ((List.range 6).map fun i => ratOf (decodeF fmtF32 false (num (base + 4 * i) 4)))).map fun p =>
      (List.range 6).map fun i =>
        let lo := p.getD (i % 3) 0; let w := p.getD (i % 3 + 3) 0 - lo
        let q := num (base + 24 + 6 * k + i) 1
        lo + ((q + i / 3 : Nat) : Rat) * w / 256

/-- Bytes of a node's content under a set (R461). -/
def nodeBytes (desc : DWord) : Nat :=
  let a := tdsArity desc
  8 + 4 * a + (match fld desc.toNat 57 56 with | 0 => 24 * a | 1 => 12 * a | _ => 24 + 6 * a)

/-- The children in use of a node, if it is well-formed (R461). -/
def nodeOf (desc : DWord) (b : List Byte) : Option (List Child) :=
  let d := desc.toNat
  let word := fun o => leNat ((b.drop o).take 4)
  let n := word 0
  if n = 0 ∨ tdsArity desc < n ∨ word 4 ≠ 0 ∨ 64 * fld d 63 60 < nodeBytes desc then none
  else
    let first := fld (word 8) 19 0
    allSome ((List.range n).map fun k =>
      let c := word (8 + 4 * k)
      let v := fld c 29 0
      let box := childBox desc b k
      match fld c 31 30 with
      | 0 => if v = 0 then some ⟨0, 0, 0, box⟩ else none
      | 1 =>
        if fld d 55 54 = 1 then some ⟨1, first + k * fld d 63 60, 0, box⟩
        else if v / 2 ^ 20 = 0 then some ⟨1, v, 0, box⟩ else none
      | 2 => some ⟨2, v % 2 ^ 20, v / 2 ^ 20 + 1, box⟩
      | _ => if v / 2 ^ 12 = 0 then some ⟨3, v, 0, box⟩ else none)

/-! ## A traversal pipe -/

/-- A ray as a pipe runs it: its words, next node, node stack, accepted hit, the count of free values asked for, and the status it
has ended with (0 while it runs). -/
structure Pipe where
  w : List Word
  next : Option Nat
  stack : List (Nat × List Nat)
  best : Option RayHit
  free : Nat
  st : Nat

/-- What a pipe reads: the core, the treelet's entry and its descriptor set. -/
structure TreeletIn where
  core : Nat
  entry : DWord
  desc : DWord

/-- Bytes of a treelet from an offset in 64-byte units, with whether they are poisoned; none beyond its size. -/
def treeletRead (s : State) (t : TreeletIn) (unit n : Nat) : Option (List Byte × Bool) :=
  if 64 * fld t.entry.toNat 31 16 < 64 * unit + n then none
  else
    let r := cistRead s t.core (64 * fld t.entry.toNat 47 32 + 64 * unit) n
    some (r.1, r.2 != 0)

/-- Origin, direction, TMIN and TMAX of a ray; none where one is not a number, or the line is not finite. -/
def rayLine (w : List Word) : Option (List Rat × List Rat × Rat × Rat) :=
  match allSome ((List.range 3).map fun i => finF32 (rayW w i)), allSome ((List.range 3).map fun i => finF32 (rayW w (3 + i))),
      ratF32 (rayW w 6), ratF32 (rayW w 7) with
  | some o, some d, some a, some b => some (o, d, a, b)
  | _, _, _, _ => none

/-- The exact t up to which hits count: the accepted hit's, else TMAX (R462). -/
def rayLimit (p : Pipe) (tmax : Rat) : Rat :=
  match p.best with
  | some b => mkRat b.num b.den
  | none => tmax

/-- The entry distance of a box for a ray, with the pipe after it: exact, or a free value where an input is not a number. (DESIGN CHOICE, log 46) -/
def testBox (p : Pipe) (b : Bounds) : Option Rat × Pipe :=
  match rayLine p.w, b with
  | some (o, d, a, m), some l => (boxEntry o d a (rayLimit p m) l, p)
  | _, _ =>
    let r := Config.oddBox p.free
    (if r.1 then some (r.2 : Rat) else none, { p with free := p.free + 1 })

/-- Accepts a hit, or ends the ray with it as its candidate (R462). -/
def takeHit (t : TreeletIn) (p : Pipe) (prim : Nat) (tw : Word) (exact : Option Rat) (u v : Word) : Pipe :=
  let w := setField (setField p.w 13 11 0 (fld t.entry.toNat 62 51)) 13 31 12 prim
  if t.desc.getLsbD 51 then { p with w := w, st := 3 }
  else
    { p with
      w := lset w 7 tw
      best := exact.map fun q => { num := q.num, den := q.den, u := u, v := v }
      st := if t.desc.getLsbD 45 then 1 else 0 }

/-- Whether a hit at `q` counts: inside the open interval, or equal to the accepted hit's t at a lower (treelet, primitive) (R462). -/
def hitCounts (t : TreeletIn) (p : Pipe) (tmin tmax q : Rat) (prim : Nat) : Bool :=
  let limit := rayLimit p tmax
  let old := fld (rayW p.w 13).toNat 11 0 * 2 ^ 20 + rayPrim p.w
  decide (tmin < q) && (decide (q < limit) ||
    (decide (q = limit) && decide (rayPrim p.w ≠ 0xFFFFF) && decide (fld t.entry.toNat 62 51 * 2 ^ 20 + prim < old)))

/-- A hit whose values the manual leaves open: a packed triangle, or one with a value that is not finite. (DESIGN CHOICE, log 45) -/
def oddHit (t : TreeletIn) (p : Pipe) (prim : Nat) : Pipe :=
  let r := Config.packedTest p.free
  let p := { p with free := p.free + 1 }
  if r.1 then takeHit t p prim r.2.1 (finF32 r.2.1) r.2.2.1 r.2.2.2 else p

/-- The vertices of an F32 triangle (R268). -/
def triangleVerts (b : List Byte) : Option (List (List Rat)) :=
  allSome ((List.range 3).map fun k => allSome ((List.range 3).map fun i => finF32 (BitVec.ofNat 32 (leNat ((b.drop (12 * k + 4 * i)).take 4)))))

/-- The exact barycentrics, rounded, of the point where a ray's line meets the triangle that HTL and HPRIM name (R462, R478); none where the treelet is
resident nowhere in the slice, or what they name is no F32 triangle that the line meets. -/
def namedUv (s : State) (core : Nat) (w : List Word) : Option (Word × Word) :=
  let h := (rayW w 13).toNat
  let sl := ((getCore s core).slice).getD 0
  let at' := (core :: (getSlice s sl).cores).findSome? fun c => (treeletEntry (getCore s c) (fld h 11 0)).map fun e => (c, e.2)
  at'.bind fun (c, e) => (tget (getSlice s sl).tdsets (fld e.toNat 50 48)).bind fun d =>
    if fld d.toNat 53 52 ≠ 0 ∨ 64 * fld e.toNat 31 16 < 4 * fld h 31 12 + 36 then none
    else
      let (b, psn) := cistRead s c (64 * fld e.toNat 47 32 + 4 * fld h 31 12) 36
      match psn, rayLine w, triangleVerts b with
      | 0, some (o, dir, _, _), some [v0, v1, v2] => (planeHit o dir v0 v1 v2).map fun q => (roundRat q.2.1, roundRat q.2.2)
      | _, _, _ => none

/-- The test of one F32 triangle (R462). -/
def testTriangle (t : TreeletIn) (p : Pipe) (b : List Byte) (prim : Nat) : Pipe :=
  match rayLine p.w, triangleVerts b with
  | some (o, d, a, m), some [v0, v1, v2] =>
    (match triangleHit t.desc o d v0 v1 v2 with
     | some (q, u, v) => if hitCounts t p a m q prim then takeHit t p prim (roundRat q) (some q) (roundRat u) (roundRat v) else p
     | none => p)
  | _, _ => oddHit t p prim

/-- The primitive tests of a leaf, in stored order (R268, R477). -/
def testLeaf (s : State) (t : TreeletIn) (p : Pipe) (o count : Nat) : Pipe :=
  match fld t.desc.toNat 53 52 with
  | 2 => { p with w := setField (setField p.w 13 11 0 (fld t.entry.toNat 62 51)) 13 31 12 (16 * o), st := 3 }
  | 0 =>
    match treeletRead s t o (36 * count) with
    | none => { p with st := 5 }
    | some (b, psn) =>
      if psn then { p with st := 6 }
      else (List.range count).foldl (fun p i => if p.st ≠ 0 then p else testTriangle t p ((b.drop (36 * i)).take 36) (16 * o + 9 * i)) p
  | _ =>
    match treeletRead s t o (64 * ((count + 7) / 8)) with
    | none => { p with st := 5 }
    | some (_, psn) =>
      if psn then { p with st := 6 }
      else (List.range count).foldl (fun p i => if p.st ≠ 0 then p else oddHit t p (16 * (o + i / 8) + 2 * (i % 8))) p

/-- The children of a node, read from the treelet: none with the status that ends the ray (R461, R304). -/
def readNode (s : State) (t : TreeletIn) (node : Nat) : Except Nat (List Child) :=
  match treeletRead s t node (64 * fld t.desc.toNat 63 60) with
  | none => .error 5
  | some (b, psn) =>
    if psn then .error 6
    else match nodeOf t.desc b with
      | some l => .ok l
      | none => .error 5

/-- Insertion of a child by rank, equal ranks in child order. -/
def insRank (c : Nat) (q : Rat) : List (Nat × Rat) → List (Nat × Rat)
  | [] => [(c, q)]
  | e :: t => if e.2 ≤ q then e :: insRank c q t else (c, q) :: e :: t

/-- The order in which a node's children are done (R268, R477). -/
def childOrder (t : TreeletIn) (p : Pipe) (l : List Child) : List Nat × Pipe :=
  let all := List.range l.length
  match fld t.desc.toNat 47 46 with
  | 1 => (all, p)
  | 2 =>
    let sign := fun i => if (rayW p.w (3 + i)).getLsbD 31 then 2 ^ i else 0
    let m := (sign 0 + sign 1 + sign 2) % tdsArity t.desc
    ((sortNat (all.map fun c => c ^^^ m)).map fun r => r ^^^ m, p)
  | _ =>
    let r := ((List.range l.length).zip l).foldl (fun (a : List (Nat × Rat) × List Nat × Pipe) e =>
      let (q, p) := testBox a.2.2 e.2.box
      match q with
      | some q => (insRank e.1 q a.1, a.2.1, p)
      | none => (a.1, a.2.1 ++ [e.1], p)) ([], [], p)
    (r.1.map Prod.fst ++ r.2.1, r.2.2)

/-- Does the children left on the stack until an inner node is entered, the ray ends, or the treelet is done (R462, R477). -/
def runKids (s : State) (t : TreeletIn) : Nat → Pipe → Pipe
  | 0, p => p
  | fuel + 1, p =>
    match p.stack with
    | [] => p
    | (_, []) :: rest => runKids s t fuel { p with stack := rest }
    | (node, k :: ks) :: rest =>
      let p := { p with stack := (node, ks) :: rest }
      match readNode s t node with
      | .error st => { p with st := st }
      | .ok l =>
        match l[k]? with
        | none => runKids s t fuel p
        | some c =>
          if c.kind = 0 then runKids s t fuel p
          else
            let (q, p) := testBox p c.box
            if q.isNone then runKids s t fuel p
            else if c.kind = 1 then { p with next := some c.value }
            else if c.kind = 2 then
              let p := testLeaf s t p c.value c.count
              if p.st ≠ 0 then p else runKids s t fuel p
            else if 4 ≤ rayPending p.w then { p with st := 7 }
            else runKids s t fuel { p with w := pushPending p.w c.value }

/-- One node visit (R462, R477): the node is read, its children are put in order and done as far as they go; when nothing is left the
treelet is done: the newest pending treelet is next, or the ray ends. -/
def visitNode (s : State) (t : TreeletIn) (p : Pipe) : Pipe :=
  let node := p.next.getD (rayNode p.w)
  match readNode s t node with
  | .error st => { p with st := st }
  | .ok l =>
    let (order, p) := childOrder t p l
    let p := { p with next := none, stack := (node, order) :: p.stack }
    let p := runKids s t (p.stack.foldl (fun n e => n + e.2.length + 1) 1) p
    if p.st ≠ 0 ∨ p.next.isSome then p
    else if 0 < rayPending p.w then { p with w := popPending p.w }
    else { p with st := if rayPrim p.w = 0xFFFFF then 2 else 1 }

/-! ## Rays in their slots -/

/-- Replaces or frees a ray slot. -/
def putRay (s : State) (core n : Nat) (r : Option RaySlot) : State :=
  modCore s core fun k => { k with rays := match r with | some r => tput k.rays n r | none => tdel k.rays n }

/-- The lowest free ray slot (R123). -/
def freeRay (k : Core) : Option Nat := (List.range (k.rays.length + 1)).find? fun i => decide (i < 4096) && (tget k.rays i).isNone

/-- A ray that enters a slot. -/
def newRay (words : List Word) (forwards : Nat) (best : Option RayHit) (owner : Option (FRef × Nat × Nat × Nat)) : RaySlot :=
  { words := words, next := none, stack := [], best := best, forwards := forwards, owner := owner }

/-- TRV is over (R463): its registers take the ray as it stands, then D the status or 0x08. -/
def endTrv (s : State) (o : FRef × Nat × Nat × Nat) (words : List Word) (st : Nat) : State :=
  accDone (llDone s o.1 o.2.1 0 (regsEff o.2.2.2 words ++ regsEff o.2.2.1 [BitVec.ofNat 32 st])) o.1 o.2.1

/-- Sends a ray from a pipe on RAY (R265, R266). -/
def emitRay (s : State) (core dst : Nat) (words : List Word) (forwards : Nat) (best : Option RayHit) : State :=
  emit s .ray 0x01 core dst 1 0 (.ray words forwards best)

/-- The final record of a ray leaves its slot (R460): dropped where its queue is unknown, parked without a credit. -/
def sendFinal (s : State) (core n : Nat) (r : RaySlot) : State :=
  match r.owner with
  | some o => endTrv (putRay s core n none) o r.words (rayStatus r.words)
  | none =>
    let sl := ((getCore s core).slice).getD 0
    let q := rayQueue r.words
    match hitQueue s sl q.1 q.2 with
    | none => bump (putRay s core n none) core 0x004 1
    | some (id, dst) =>
      if creditsOf s core sl q.1 id = 0 then askCredit (putRay s core n (some r)) core sl q.1 id
      else emit (spendCredit (putRay s core n none) core sl q.1 id) .hit 0x01 core dst 1 0 (.hit sl q.1 id r.words)

/-- A ray in slot `n` ends with a status; a hit accepted before the ray came here is the one that its words name (R464, R478). (DESIGN CHOICE, log 47) -/
def finishRay (s : State) (core n : Nat) (r : RaySlot) (st : Nat) : State :=
  let (k, s) := freshFree s
  let uv := match r.best with
    | some b => (b.u, b.v)
    | none => (namedUv s core r.words).getD (Config.barycentric k)
  sendFinal s core n { r with words := finalWords r.words st uv }

/-- A ray whose treelet is not resident leaves its core (R463, R265, R266): a TRV stops, others are forwarded or end. `but` is the core
itself where the treelet was expected there. -/
def leaveCore (s : State) (core n : Nat) (r : RaySlot) (but : Option Nat) : State :=
  match r.owner with
  | some o => endTrv (putRay s core n none) o r.words 8
  | none =>
    match (if 4 ≤ r.forwards then none else chooseReplica s core (rayTreelet r.words) but) with
    | some d => emitRay (putRay s core n none) core d r.words (r.forwards + (if but.isSome then 1 else 0)) r.best
    | none => finishRay s core n r 4

/-! ## TRV, RAYSEND, HITPUT -/

/-- TRV of one lane (R463): the ray waits in the issue buffer for a ray slot. -/
def trvLane (s : State) (is : Issue) (eid : Nat) (o : BodyX) (l : Nat) : State :=
  let f := is.fref l
  match getFib s f with
  | none => s
  | some x =>
    let (id, s) := freshId s
    let s := modFib s f fun x => addLL x id
    let s := addAcc s f { plainAcc id .tr with writes := false }
    waitEntry (bufAdd s is.core is.part
      { entry := eid, f := f, pc := is.pc, acc := id, cmd := .ray (regsFrom x o.b.toNat 16) (some (f, id, o.d.toNat, o.b.toNat)) }) f eid

/-- TRV (R463). -/
def execTrv (h : Head) (o : BodyX) (s : State) : Host.Outcome State Fault Refusal :=
  onNamed s h [(0, o.d, 1), (2, o.b, 16)] fun is act s =>
    let (eid, s) := freshId s
    eachLane act (fun s l => trvLane s is eid o l) s

/-- A hit record of a fibre goes to its queue's consumer (R464). -/
def sendHit (s : State) (is : Issue) (eid : Nat) (f : FRef) (words : List Word) (q : Nat × Nat) (own : Option TrapInfo) : State :=
  let sl := sliceOf s f
  let (p, s) := newPacket s .hit 0x01 is.core q.2 (pkgNum s) 1 0 (.hit sl (rayQueue words).1 q.1 words)
  sendChecked s is eid f p own

/-- RAYSEND of one lane (R464, R265): to the nearest replica, or its final record where the directory has none. -/
def raysendLane (s : State) (is : Issue) (eid : Nat) (o : BodyK) (l : Nat) : State :=
  let f := is.fref l
  match getFib s f with
  | none => s
  | some x =>
    let w := setStatus (regsFrom x o.b.toNat 16) 0
    match chooseReplica s is.core (rayTreelet w) none with
    | some d =>
      if fsrHA x ∧ 16 ≤ heldCount s f then queueTrap s f is.pc 1
      else
        let (p, s) := newPacket s .ray 0x01 is.core d (pkgNum s) 1 0 (.ray w 0 none)
        waitEntry (bufAdd s is.core is.part { entry := eid, f := f, pc := is.pc, acc := 0, cmd := .packet p (fsrHA x) }) f eid
    | none =>
      let w := finalWords w 4 (0, 0)
      match hitQueue s (sliceOf s f) (rayQueue w).1 (rayQueue w).2 with
      | some q => sendHit s is eid f w q none
      | none => bump s is.core 0x004 1

/-- RAYSEND (R464). -/
def execRaysend (h : Head) (o : BodyK) (s : State) : Host.Outcome State Fault Refusal :=
  onNamed s h [(2, o.b, 16)] fun is act s =>
    let (eid, s) := freshId s
    eachLane act (fun s l => raysendLane s is eid o l) s

/-- RAYSEND.local of one lane (R464): the ray enters a ray slot of this core; an activation holds it until HEND as a packet to its own core (R69, R433).
(DEDUCED, log 85) -/
def raysendLocalLane (s : State) (is : Issue) (eid : Nat) (o : BodyK) (l : Nat) : State :=
  let f := is.fref l
  match getFib s f with
  | none => s
  | some x =>
    let w := setStatus (regsFrom x o.b.toNat 16) 0
    if ¬ fsrHA x then waitEntry (bufAdd s is.core is.part { entry := eid, f := f, pc := is.pc, acc := 0, cmd := .ray w none }) f eid
    else if 16 ≤ heldCount s f then queueTrap s f is.pc 1
    else
      let (p, s) := newPacket s .ray 0x01 is.core is.core (pkgNum s) 1 0 (.ray w 0 none)
      waitEntry (bufAdd s is.core is.part { entry := eid, f := f, pc := is.pc, acc := 0, cmd := .packet p true }) f eid

/-- RAYSEND.local (R464). -/
def execRaysendLocal (h : Head) (o : BodyK) (s : State) : Host.Outcome State Fault Refusal :=
  onNamed s h [(2, o.b, 16)] fun is act s =>
    let (eid, s) := freshId s
    eachLane act (fun s l => raysendLocalLane s is eid o l) s

/-- HITPUT (R464). -/
def execHitput (h : Head) (o : BodyK) (s : State) : Host.Outcome State Fault Refusal :=
  onNamed s h [(2, o.b, 16)] fun is act s =>
    let (eid, s) := freshId s
    eachLane act (fun s l =>
      let f := is.fref l
      match getFib s f with
      | none => s
      | some x =>
        let w := regsFrom x o.b.toNat 16
        let q := hitQueue s (sliceOf s f) (rayQueue w).1 (rayQueue w).2
        sendHit s is eid f w (q.getD (0, 0)) (if rayStatus w = 0 then some (trapOf 0 0x05) else if q.isNone then some (trapOf 4 0x02) else none)) s

/-! ## BASIN -/

/-- A basin bin at reset (R218). -/
def Bin.fresh : Bin := { pc := none, records := [], threshold := 32, timeout := 4096, due := false }

/-- A bin of a core's basin. -/
def binOf (k : Core) (n : Nat) : Bin := tgetD k.bins n Bin.fresh

/-- Fibres' worth of a bin's records (R70, R71). -/
def binFibres (b : Bin) : Nat := b.records.foldl (fun n r => n + if r.pixel then 4 else 1) 0

/-- Stores a bin's settings (R218, R467); a bin that already holds as many records as the new threshold forms its wave (R70). -/
def setBin (s : State) (core n : Nat) (threshold timeout : Word) : State :=
  modCore s core fun k =>
    let b := binOf k n
    let m := min 32 (max 1 threshold.toNat)
    { k with bins := tput k.bins n { b with threshold := m, timeout := if timeout = 0 then 1 else timeout, due := b.due || decide (m ≤ binFibres b) } }

/-- BASIN of bins `ns` (R53, R467): the lanes' settings, in ascending order, go to the basin by the issue buffer. -/
def basinInstr (s : State) (i : Instr) (h : Head) (o : BodyS) (ns : List Nat) : Host.Outcome State Fault Refusal :=
  onActive s i h fun is act s =>
    let (eid, s) := freshId s
    eachLane act (fun s l =>
      let f := is.fref l
      match getFib s f with
      | some x =>
        waitEntry (bufAdd s is.core is.part
          { entry := eid, f := f, pc := is.pc, acc := 0, cmd := .basin ns (regOf x o.a.toNat) (regOf x o.b.toNat) }) f eid
      | none => s) s

/-- BASIN (R467). -/
def execBasin (h : Head) (o : BodyS) (s : State) : Host.Outcome State Fault Refusal := basinInstr s (.basin h o) h o [o.imm.toNat % 32]
/-- BASIN.all (R467). -/
def execBasinAll (h : Head) (o : BodyS) (s : State) : Host.Outcome State Fault Refusal := basinInstr s (.basinAll h o) h o (List.range 32)

/-- Whether a fibre at user level may not own the basin, which another live team owns (R467). -/
def basinTaken (s : State) (f : FRef) (team : Nat) : Bool :=
  ((getFib s f).any fun x => decide (fsrPRV x = 0)) && (getCore s f.core).basinOwner.any fun m =>
    decide (m ≠ team) && (getTeam s f.core m).any fun t => ! t.halted

/-- The basin takes an owner (R467), unless another live team has come to own it meanwhile. -/
def ownBasin (s : State) (f : FRef) (pc : Word) (team : Nat) : State :=
  if basinTaken s f team then takeTrap s f pc (trapOf 4 0x07) else modCore s f.core fun k => { k with basinOwner := some team }

/-- BASIN.own (R53, R467): refused at user level while another live team owns the basin. -/
def execBasinOwn (h : Head) (o : BodyS) (s : State) : Host.Outcome State Fault Refusal :=
  onActive s (.basinOwn h o) h fun is act s =>
    let (eid, s) := freshId s
    eachLane act (fun s l =>
      let f := is.fref l
      match teamOf s f with
      | some (n, _) =>
        if basinTaken s f n then takeTrap s f is.pc (trapOf 4 0x07)
        else waitEntry (bufAdd s is.core is.part { entry := eid, f := f, pc := is.pc, acc := 0, cmd := .basinOwn n }) f eid
      | none => s) s

end Sys2Proof.Machine
end

