-- ==== Sys2Proof/Machine/Pump.lean ====
section
/-!
DEFINITION. Treelet loads, the directory, raster state, DISCARD, pumps and encoders at issue (R138, R465, R466, R470-R475). What the
engines do with the commands stands with the device's steps.
-/
namespace Sys2Proof.Machine

/-- Whether a fibre's RST refuses an engine command (R433). -/
def rstTrap (s : State) (f : FRef) (pc : Word) (x : Fibre) (k : State → State) : State :=
  if fsrRST x then takeTrap s f pc (trapOf 0 0x0E) else k s

/-- A command that completes at once with ST 0x03 and changes nothing (R465, R473, R475). -/
def refuseCommand (s : State) (f : FRef) (cidx : Nat) : State :=
  match teamOf s f with
  | some (n, _) => countCompletion s f.core n cidx 3 0
  | none => s

/-! ## TLOAD -/

/-- The table entry a treelet will fill: the one that holds its ID, else the lowest free one (R465). -/
def tloadSlot (k : Core) (t : Nat) : Option Nat :=
  match k.treelets.find? fun e => fld e.2.toNat 62 51 = t with
  | some e => some e.1
  | none => (List.range 64).find? fun i => (tget k.treelets i).isNone

/-- A TLOAD command of a fibre. -/
def tloadCmd (s : State) (kind : Nat) (f : FRef) (x : Fibre) (o : BodyX) (acc size : Nat) : TloadCmd :=
  { kind := kind, f := f, team := ((teamOf s f).map Prod.fst).getD 64, cidx := o.cidx.toNat, acc := acc, slice := sliceOf s f, prv := fsrPRV x,
    src := pairSrc x 0 o.a, off := if kind = 0 then (regOf x o.b.toNat).toNat else 0, size := size, d := regOf x o.d.toNat }

/-- Puts a TLOAD command into the issue buffer. -/
def sendTload (s : State) (is : Issue) (eid : Nat) (f : FRef) (mk : Nat → TloadCmd) : State :=
  let (id, s) := freshId s
  let s := addAcc s f (plainAcc id .tr)
  waitEntry (bufAdd s is.core is.part { entry := eid, f := f, pc := is.pc, acc := id, cmd := .tload (mk id) }) f eid

/-- TLOAD of one lane, treelet form (R465). -/
def tloadLane (s : State) (is : Issue) (eid : Nat) (i : Instr) (o : BodyX) (l : Nat) : State :=
  let f := is.fref l
  match getFib s f with
  | none => s
  | some x => rstTrap s f is.pc x fun s =>
    let d := (regOf x o.d.toNat).toNat
    let size := if fld d 15 15 = 1 then 0 else 64 * fld d 31 16
    let off := (regOf x o.b.toNat).toNat
    match checkBlock s f x .rd (pairSrc x 0 o.a) 0 64 with
    | some (va, e) => addrFails s f is.pc va e .tr 0 i
    | none =>
      if off % 64 ≠ 0 then takeTrap s f is.pc (trapAt 2 0 (BitVec.ofNat 64 off))
      else if 0x3C0000 < off + size then takeTrap s f is.pc (trapAt 4 0x03 (BitVec.ofNat 64 off))
      else
        match checkBlock s f x .rd (pairSrc x 0 o.a) size 64 with
        | some (va, e) => addrFails s f is.pc va e .tr 0 i
        | none => if size = 0 then refuseCommand s f o.cidx.toNat else sendTload s is eid f fun id => tloadCmd s 0 f x o id size

/-- TLOAD (R465). -/
def execTload (h : Head) (o : BodyX) (s : State) : Host.Outcome State Fault Refusal :=
  onActive s (.tload h o) h fun is act s =>
    let (eid, s) := freshId s
    eachLane act (fun s l => tloadLane s is eid (.tload h o) o l) s

/-- A descriptor form of TLOAD, of one lane (R465): `bits` bits of D name the set. -/
def tdescLane (s : State) (is : Issue) (eid : Nat) (i : Instr) (o : BodyX) (kind bits l : Nat) : State :=
  let f := is.fref l
  match getFib s f with
  | none => s
  | some x => rstTrap s f is.pc x fun s =>
    if fsrPRV x = 0 then takeTrap s f is.pc (trapOf 4 0x07)
    else
      match checkBlock s f x .rd (pairSrc x 0 o.a) 32 1 with
      | some (va, e) => addrFails s f is.pc va e .tr 0 i
      | none =>
        if (regOf x o.d.toNat).toNat / 2 ^ bits ≠ 0 then refuseCommand s f o.cidx.toNat
        else sendTload s is eid f fun id => tloadCmd s kind f x o id 32

/-- TLOAD.tds (R465, R467). -/
def execTloadTds (h : Head) (o : BodyX) (s : State) : Host.Outcome State Fault Refusal :=
  onActive s (.tloadTds h o) h fun is act s =>
    let (eid, s) := freshId s
    eachLane act (fun s l => tdescLane s is eid (.tloadTds h o) o 1 3 l) s

/-- TLOAD.rds (R465, R467). -/
def execTloadRds (h : Head) (o : BodyX) (s : State) : Host.Outcome State Fault Refusal :=
  onActive s (.tloadRds h o) h fun is act s =>
    let (eid, s) := freshId s
    eachLane act (fun s l => tdescLane s is eid (.tloadRds h o) o 2 4 l) s

/-! ## TOWN -/

/-- TOWN of one lane (R466): the write goes to router (17, 0), which serialises it. (DEDUCED, log 13) -/
def townLane (s : State) (is : Issue) (eid : Nat) (o : BodyX) (l : Nat) : State :=
  let f := is.fref l
  match getFib s f with
  | none => s
  | some x => rstTrap s f is.pc x fun s =>
    let b := (regOf x o.b.toNat).toNat
    let v := (pairSrc x 0 o.a).toNat
    let sl := sliceOf s f
    let bad := (List.range 4).any fun j =>
      let c := fld v (29 + 10 * j) (20 + 10 * j)
      decide (fld v (60 + j) (60 + j) = 1) && ! (decide (c < 576) && isRay c && (getCore s c).slice == some sl)
    if b / 2 ^ 12 ≠ 0 then takeTrap s f is.pc (trapOf 4 0x0E)
    else if bad then takeTrap s f is.pc (trapOf 4 0x07)
    else
      let (id, s) := freshId s
      let s := addAcc s f (plainAcc id .tr)
      let (p, s) := newPacket s .sys 0x09 is.core hostPort (pkgNum s) 1 0
        (.town sl b (BitVec.ofNat 64 (v / 2 ^ 20 * 2 ^ 20)) [] f (((teamOf s f).map Prod.fst).getD 64) o.cidx.toNat id)
      waitEntry (bufAdd s is.core is.part (packetEntry eid f id p)) f eid

/-- TOWN (R466). -/
def execTown (h : Head) (o : BodyX) (s : State) : Host.Outcome State Fault Refusal :=
  onActive s (.town h o) h fun is act s =>
    let (eid, s) := freshId s
    eachLane act (fun s l => townLane s is eid o l) s

/-! ## RATE and DISCARD -/

/-- RATE of one lane (R470). -/
def rateLane (s : State) (is : Issue) (eid : Nat) (o : BodyS) (l : Nat) : State :=
  let f := is.fref l
  match getFib s f with
  | none => s
  | some x =>
    let img := pairSrc x 0 o.a
    if img.toNat / 2 ^ 48 ≠ 0 then takeTrap s f is.pc (trapAt 4 0x01 img)
    else if img.toNat % 64 ≠ 0 then takeTrap s f is.pc (trapAt 2 0 img)
    else
      let (id, s) := freshId s
      let s := addAcc s f (plainAcc id .ls)
      let (p, s) := newPacket s .sys 0x09 is.core hostPort (pkgNum s) 1 0 (.rate (sliceOf s f) (o.imm.toNat % 64) img (regOf x o.b.toNat) f id)
      waitEntry (bufAdd s is.core is.part (packetEntry eid f id p)) f eid

/-- RATE (R470). -/
def execRate (h : Head) (o : BodyS) (s : State) : Host.Outcome State Fault Refusal :=
  onActive s (.rate h o) h fun is act s =>
    let (eid, s) := freshId s
    eachLane act (fun s l => rateLane s is eid o l) s

/-- An implicit OSLEAVE of a section that a fibre holds (R72, R471). -/
def leaveSection (s : State) (is : Issue) (eid : Nat) (f : FRef) (key : DWord) (seq : Word) : State :=
  match getFib s f with
  | none => s
  | some x =>
    let (id, s) := freshId s
    let s := modFib s f fun x => { x with heldKeys := x.heldKeys.filter fun k => k.1 ≠ key }
    sendSection (addAcc s f { plainAcc id .ms with rel := sectionBits }) is eid 1 f x id key seq

/-- DISCARD of one lane (R72, R471): the section keyed by the pixel is left or skipped, every other held section is left, and the fibre
ends; a fibre without a pixel ends as by FEND. -/
def discardLane (s : State) (is : Issue) (eid : Nat) (l : Nat) : State :=
  let f := is.fref l
  match getFib s f with
  | none => s
  | some x =>
    match x.origin.pixelKey with
    | none => hendFibre s f true
    | some key =>
      let s :=
        if x.origin.pixelLeft ∨ (x.heldKeys.any fun k => k.1 = key) then s
        else
          let (id, s) := freshId s
          sendSection (addAcc s f (plainAcc id .ms)) is eid 2 f x id key x.origin.seq
      endFibre (x.heldKeys.foldl (fun s k => leaveSection s is eid f k.1 k.2) s) f

/-- DISCARD (R471). -/
def execDiscard (h : Head) (o : BodyS) (s : State) : Host.Outcome State Fault Refusal :=
  onActive s (.discard h o) h fun is act s =>
    let (eid, s) := freshId s
    eachLane act (fun s l => discardLane s is eid l) s

/-! ## PUMP -/

/-- Bytes per element of a pump format (R472). -/
def pumpWidth (fmt : Nat) : Nat := if fmt = 2 then 4 else 2

/-- Whether a command's words are well-formed (R472). -/
def pumpFormed (w : List Word) : Bool :=
  let w0 := (rayW w 0).toNat
  let opc := w0 % 16
  let zero := fun (l : List Nat) => l.all fun i => rayW w i == 0
  decide (w0 / 256 = 0 ∧ opc ≤ 4 ∧ 2 ≤ w0 / 16 ∧ w0 / 16 ≤ 4) && (opc == 0 || opc == 3 || zero [4, 5]) && (opc == 4 || zero [8, 9]) &&
    zero [10, 11, 12, 13, 14, 15]

/-- What checking one operand range of a PUMP comes to (R138, R391, R473): its target, or the failure; a page under migration. -/
inductive PumpTarget where
  | ok (pa : Nat)
  | fails (va : Nat) (e : Tr)
  | moving (pa : Nat)

/-- Whether an address lies in a page under migration (R140). -/
def migrates (s : State) (pa : Nat) : Bool :=
  s.slices.any fun e => match e.2.migration with | some m => decide (m.oldPa ≤ pa ∧ pa < m.oldPa + m.bytes) | none => false

/-- Checks one operand range: aligned, translated with its rights, in one page with WT, in the pump's reach. -/
def pumpRange (s : State) (f : FRef) (x : Fibre) (a : DWord) (n al : Nat) (rd wr : Bool) (stack : Option Nat) : PumpTarget :=
  let sl := sliceOf s f
  match (if rd then checkBlock s f x .rd a n al else none).or (if wr then checkBlock s f x .wr a n al else none) with
  | some (va, e) => .fails va e
  | none =>
    let reach : PumpTarget := .fails a.toNat (.trap 4 0x09)
    match translate s f.core sl (fsrPRV x) a 1 (if rd then .rd else .wr) false, pageOf s f.core sl a.toNat with
    | .ok t, .ok e =>
      (match t.loc with
       | .phys pa =>
         if vpnOf e.big a.toNat ≠ vpnOf e.big (a.toNat + n - 1) ∨ ¬ e.wt ∨ ¬ isLocalHbm pa ∨ inWindow a.toNat ∨
             (match stack with | some k => decide (k ≠ stackOf pa) | none => false) = true then reach
         else if migrates s pa then .moving pa
         else .ok pa
       | .cist _ _ => reach)
    | _, _ => reach

/-- The granules of a range with their homes (R139). -/
def granuleHomes (s : State) (f : FRef) (x : Fibre) (a : DWord) (n : Nat) : List (Nat × Nat) :=
  if n = 0 then []
  else (List.range ((a.toNat % 2048 + n + 2047) / 2048)).filterMap fun k =>
    match translate s f.core (sliceOf s f) (fsrPRV x) (BitVec.ofNat 64 (if k = 0 then a.toNat else (a.toNat / 2048 + k) * 2048)) 1 .wr false with
    | .ok t => (match t.loc with | .phys pa => some (pa / 2048, t.home) | .cist _ _ => none)
    | _ => none

/-- The operand ranges of a PUMP in the order of their words: address, bytes, alignment, read, written (R472, R473). -/
def pumpOperands (w : List Word) : List (DWord × Nat × Nat × Bool × Bool) :=
  let opc := (rayW w 0).toNat % 16
  let width := pumpWidth ((rayW w 0).toNat / 16)
  let bytes := width * (rayW w 1).toNat
  let y : DWord := pairOf (rayW w 2) (rayW w 3); let x : DWord := pairOf (rayW w 4) (rayW w 5); let r : DWord := pairOf (rayW w 8) (rayW w 9)
  (if bytes = 0 then [] else
    [(y, bytes, width, decide (opc = 0 ∨ opc = 1 ∨ opc = 4), decide (opc ≠ 4))] ++ (if opc = 0 ∨ opc = 3 then [(x, bytes, width, true, false)] else [])) ++
    (if opc = 4 then [(r, 4, 4, false, true)] else [])

/-- The place of an operand's check in R473: first the traps of R391 in the order of R290, then the pump's reach, then pages not present, then pages under
migration. -/
def pumpRank : PumpTarget → Nat
  | .fails _ (.trap 4 0x09) => 10
  | .fails _ (.page _) => 11
  | .fails _ e => trRank e
  | .moving _ => 12
  | .ok _ => 13

/-- Checks a PUMP's operands (R290, R473): the physical addresses in their order, or the failure whose check comes first, with whether its operand is
written. -/
def pumpCheck (s : State) (f : FRef) (x : Fibre) (ops : List (DWord × Nat × Nat × Bool × Bool)) : Except (PumpTarget × Bool) (List Nat) :=
  let stack := ops.head?.bind fun o => match translate s f.core (sliceOf s f) (fsrPRV x) o.1 1 (if o.2.2.2.1 then .rd else .wr) false with
    | .ok t => (match t.loc with | .phys pa => some (stackOf pa) | .cist _ _ => none)
    | _ => none
  let found := ops.map fun (a, n, al, rd, wr) => (pumpRange s f x a n al rd wr stack, wr)
  match found.foldl (fun (b : Option (PumpTarget × Bool)) e => match b with
      | some d => if pumpRank e.1 < pumpRank d.1 then some e else b
      | none => some e) none with
  | some (.ok _, _) | none => .ok (found.filterMap fun e => match e.1 with | .ok pa => some pa | _ => none)
  | some e => .error e

/-- PUMP of one lane (R472, R473); `held` is the record that keeps its place in program order when it is done again. -/
def pumpLane (s : State) (is : Issue) (eid : Nat) (i : Instr) (o : BodyX) (l : Nat) : State :=
  let f := is.fref l
  match getFib s f with
  | none => s
  | some x => rstTrap s f is.pc x fun s =>
    let w := regsFrom x o.b.toNat 16
    if ¬ pumpFormed w then refuseCommand s f o.cidx.toNat
    else
      let ops := pumpOperands w
      match pumpCheck s f x ops with
      | .error (.fails va e, wr) => addrFails s f is.pc va e .pm (if wr then 1 else 0) i
      | .error (.moving pa, _) =>
        let (id, s) := freshId s
        modFib (addAcc s f (plainAcc id .pm)) f fun x => { x with waits := x.waits ++ [.migrating is.pc i x.regs id pa] }
      | .error (.ok _, _) => s
      | .ok pas =>
        let opc := (rayW w 0).toNat % 16
        let n := (rayW w 1).toNat
        let written := if opc = 4 then ops.getLast? else ops.head?
        let empty := decide (n = 0)
        let y := if empty then 0 else pas.getD 0 0
        let r := if opc = 4 then pas.getLastD 0 else 0
        let (id, s) := freshId s
        let s := addAcc s f (plainAcc id .pm)
        let c : PumpCmd := {
          op := opc, fmt := (rayW w 0).toNat / 16, n := n, y := y, x := if opc = 4 then 0 else pas.getD 1 0, r := r, alpha := rayW w 6
          beta := rayW w 7, f := f, slice := sliceOf s f, who := whoWord (taskOf s f) x.gen f.slot f.core, team := ((teamOf s f).map Prod.fst).getD 64, cidx := o.cidx.toNat, acc := id, seq := id, status := 0, first := 0,
          acks := 0, homes := match written with | some (a, b, _) => granuleHomes s f x a b | none => [], running := false, finished := false }
        if ops.isEmpty then accDone (countCompletion s is.core c.team c.cidx 0 0) f id
        else
          let (p, s) := newPacket s .mreq 0x09 is.core (stackRouter (stackOf (pas.headD 0))) (pkgNum s) 1 (replyTag x.gen id) (.pumpCmd c)
          waitEntry (bufAdd s is.core is.part (packetEntry eid f id p)) f eid

/-- PUMP (R472, R473). -/
def execPump (h : Head) (o : BodyX) (s : State) : Host.Outcome State Fault Refusal :=
  onNamed s h [(2, o.b, 16)] fun is act s =>
    let (eid, s) := freshId s
    eachLane act (fun s l => pumpLane s is eid (.pump h o) o l) s

/-- PUMPW (R474), per lane. -/
def execPumpw (h : Head) (o : BodyX) (s : State) : Host.Outcome State Fault Refusal :=
  signalled s h <| onActive s (.pumpw h o) h fun is act s => eachLane act (fun s l =>
    let (id, s) := freshId s
    modFib s (is.fref l) fun x =>
      let x := addLL x id
      { x with waits := x.waits ++ [if o.cidx = 0 then .drained id o.d.toNat id true
          else .completion o.cidx.toNat ((regOf x o.a.toNat).setWidth 16) id o.d.toNat] }) s

/-! ## ENCQ -/

/-- ENCQ of one lane (R475): the descriptor is checked for reading; the encoder reads it when it comes to the frame. (DESIGN CHOICE, log 12) -/
def encqLane (s : State) (is : Issue) (eid : Nat) (i : Instr) (o : BodyX) (l : Nat) : State :=
  let f := is.fref l
  match getFib s f with
  | none => s
  | some x => rstTrap s f is.pc x fun s =>
    let sl := sliceOf s f
    match checkBlock s f x .rd (pairSrc x 0 o.a) 64 1 with
    | some (va, e) => addrFails s f is.pc va e .ls 0 i
    | none =>
      if ¬ (getSlice s sl).enc.getLsbD 7 then takeTrap s f is.pc (trapOf 4 0x07)
      else
        waitEntry (bufAdd s is.core is.part { entry := eid, f := f, pc := is.pc, acc := 0, cmd := .frame sl {
          desc := pairSrc x 0 o.a, f := f, team := ((teamOf s f).map Prod.fst).getD 64, uid := ((teamOf s f).map fun t => t.2.uid).getD 0
          prv := fsrPRV x, cidx := o.cidx.toNat } }) f eid

/-- ENCQ (R475). -/
def execEncq (h : Head) (o : BodyX) (s : State) : Host.Outcome State Fault Refusal :=
  onActive s (.encq h o) h fun is act s =>
    let (eid, s) := freshId s
    eachLane act (fun s l => encqLane s is eid (.encq h o) o l) s

end Sys2Proof.Machine
end

