-- ==== Sys2Proof/Machine/Router.lean ====
section
/-!
DEFINITION. The routers (R22-R32, R194, R199, R200, R207-R209, R211, R227, R275, R410): ports, routes, buffers with their credits, the
arbitration of an output port, and the merging of reads and of reductions. PACKET_HOP itself stands with the device's steps.
-/
namespace Sys2Proof.Machine

/-! ## Ports and routes -/

/-- The neighbour of a router on a side (0 west, 1 east, 2 north, 3 south), if the package has it (R25). -/
def neighbour (c side : Nat) : Option Nat :=
  let x := coreX c; let y := coreY c
  match side with
  | 0 => if x = 0 then none else some (coreAt (x - 1) y)
  | 1 => if x = 35 then none else some (coreAt (x + 1) y)
  | 2 => if y = 0 then none else some (coreAt x (y - 1))
  | _ => if y = 15 then none else some (coreAt x (y + 1))

/-- The side by which the next router is entered. -/
def oppositeSide (side : Nat) : Nat := match side with | 0 => 1 | 1 => 0 | 2 => 3 | _ => 2

/-- Whether a router has an attachment port (R22-R24). -/
def hasAttachment (c : Nat) : Bool :=
  decide (c = hostPort) || c == rasterRouter 1 || c == rasterRouter 4 || (List.range 16).any (fun k => c == stackRouter k) ||
    (List.range 12).any fun k => c == spanRouter k

/-- Whether a packet's body goes to a block that is attached to its destination router. (DESIGN CHOICE, log 7) -/
def toAttachment : Body → Bool
  | .pumpCmd _ | .migBlock _ _ _ _ | .launch _ _ _ _ _ | .error _ | .rate _ _ _ _ _ _ => true
  | .faultAnswer slot _ _ _ => decide (64 ≤ slot ∧ slot < 320)
  | .invalAck stack _ _ => decide (stack < 16)
  | _ => false

/-- The input port by which a packet enters its source router: 5 the attachment port, 4 the local port (R25). -/
def entryPort (p : Packet) : Nat := if p.side = 9 then 5 else 4

/-- The output port by which a packet leaves the mesh at its destination. -/
def exitPort (p : Packet) : Nat := if hasAttachment p.pos ∧ toAttachment p.body then 5 else 4

/-- The port along a row, then a column (R29); none at the destination. -/
def stepXY (c d : Nat) : Option Nat :=
  if coreX d < coreX c then some 0 else if coreX c < coreX d then some 1
  else if coreY d < coreY c then some 2 else if coreY c < coreY d then some 3 else none

/-- The port along a column, then a row. -/
def stepYX (c d : Nat) : Option Nat :=
  if coreY d < coreY c then some 2 else if coreY c < coreY d then some 3
  else if coreX d < coreX c then some 0 else if coreX c < coreX d then some 1 else none

/-- Whether a VC keeps two buffer halves and takes its route from its class (R29). -/
def classRouted (v : VC) : Bool := v == .ureq || v == .ursp

/-- A packet that enters its source router: its route is fixed by its class's entry there (R29, R245, R275); one for another package takes
XY (R30); a pinned port that is absent is counted. A pinned-port packet stands in the YX half at its source. (DESIGN CHOICE, log 7) -/
def chooseRoute (s : State) (p : Packet) : Packet × State :=
  if ! classRouted p.vc || decide (p.dpkg ≠ pkgNum s) then (p, s)
  else
    let r := (sliceCtl s p.src (((getCore s p.src).slice).getD 0) (0x110 + p.cls % 16)).toNat
    match r % 4 with
    | 1 => ({ p with yxHalf := true }, s)
    | 2 => if (neighbour p.src (r / 4 % 4)).isSome then ({ p with pinned := some (r / 4 % 4), yxHalf := true }, s) else (p, bump s p.src 0x008 1)
    | _ => (p, s)

/-- Whether a packet stands in its source router's own input buffer. -/
def atSource (p : Packet) : Bool := decide (p.pos = p.src) && (p.side == 4 || p.side == 5)

/-- The output port that a packet takes next: 0-3 a mesh port, 7 the span port, else the port of its destination (R29, R30). -/
def nextPort (s : State) (p : Packet) : Nat :=
  let d := match p.pinned with
    | some side => if atSource p then some side else stepXY p.pos p.dst
    | none => if p.yxHalf then stepYX p.pos p.dst else stepXY p.pos p.dst
  d.getD (if p.dpkg ≠ pkgNum s then 7 else exitPort p)

/-! ## Buffers -/

/-- Whether `q` stands in the buffer in which `p` stands: one VC, or half of it, of one port, or in the same place before its router (R225, R227). -/
def sameBuffer (p q : Packet) : Bool :=
  decide (q.pos = p.pos) && decide (q.side = p.side) && decide (q.vc = p.vc) && q.yxHalf == p.yxHalf && q.arrived == p.arrived &&
    (decide (p.side ≠ 6 ∧ p.side ≠ 9) || (decide (q.cls = p.cls) && entryPort q == entryPort p))

/-- Flits of a buffer of a VC, or of a half of it (R208, R227). -/
def bufferSize (side : Nat) (v : VC) : Nat := if side = 7 then 64 else if classRouted v then 4 else 8

/-- The (VC, KIND) pairs of R210. -/
def listedKind (v : VC) (k : Nat) : Bool :=
  match v with
  | .mreq => decide (1 ≤ k ∧ k ≤ 0x0A)
  | .mrsp => decide (1 ≤ k ∧ k ≤ 9)
  | .ray => k == 1
  | .hit => decide (1 ≤ k ∧ k ≤ 3)
  | .page => decide (1 ≤ k ∧ k ≤ 2)
  | .ureq | .ursp => k == 1
  | .sys => decide (1 ≤ k ∧ k ≤ 0x12)

/-- Whether a lane is a remote atomic (R273). -/
def remoteRmw (s : State) (p : Packet) (q : LaneReq) : Bool := decide (p.spkg ≠ pkgNum s) && (q.op.kind == .atomic || q.op.kind == .reduce)

/-- Whether a replay filter entry is still valid: 64,000 ns have not passed since its performance (R273). -/
def fresh (s : State) (r : ReplayEntry) : Bool := decide ((loHalf s.time - r.t).toNat < 64000)

/-- The recorded result of a remote atomic that the home has performed (R203, R273). -/
def replayed (s : State) (home : Nat) (p : Packet) (q : LaneReq) : Option DWord :=
  ((getCore s home).replay.find? fun r => fresh s r && some r.rid == q.op.retryId && decide (r.spkg = p.spkg) && decide (r.score = p.src)).map ReplayEntry.res

/-- Whether the filter has no room for the remote atomics of a request (R273). -/
def filterFull (s : State) (home : Nat) (p : Packet) (l : List LaneReq) : Bool :=
  let new := (l.filter fun q => remoteRmw s p q && (replayed s home p q).isNone).length
  decide (new ≠ 0) && decide (4096 < ((getCore s home).replay.filter (fresh s)).length + new)

/-- The packets that wait in the ejection buffer while their queue is full (R208, R220, R231, R232, R251, R273); every other is taken by its unit.
(DESIGN CHOICE, log 7) -/
def waitsInRouter (s : State) (p : Packet) : Bool :=
  match p.body with
  | .user _ | .combine _ _ _ _ _ _ _ _ _ _ | .cmbreg _ _ _ _ _ _ _ | .ordered _ _ _ _ _ _ | .pumpCmd _ => true
  | .atomic l | .reduce l => filterFull s p.dst p l
  | _ => false

/-- Whether an ejected packet stands behind one that waits in its buffer (R209). -/
def ejectBlocked (s : State) (p : Packet) : Bool :=
  s.mesh.any fun q => sameBuffer p q && decide (q.order < p.order) && waitsInRouter s q

/-- Whether an ejected packet still takes flits of its buffer. -/
def stillEjected (s : State) (p : Packet) : Bool := waitsInRouter s p || ejectBlocked s p

/-- Whether a packet, as it would stand, has room in the buffer that it would enter (R227): a packet longer than the buffer takes all of it.
(DESIGN CHOICE, log 7) -/
def hasRoom (s : State) (p : Packet) : Bool :=
  let used := (s.mesh.filter fun q => decide (q.id ≠ p.id) && sameBuffer p q && (! q.arrived || stillEjected s q)).foldl (fun n q => n + q.flits) 0
  decide (used = 0) || decide (used + p.flits ≤ bufferSize p.side p.vc)

/-- Whether an earlier packet stands in the same buffer (R209). -/
def notFirst (s : State) (p : Packet) : Bool := s.mesh.any fun q => sameBuffer p q && decide (q.order < p.order)

/-- A packet as it would stand after leaving by a port (R29). -/
def movedBy (p : Packet) (port : Nat) : Option Packet :=
  if port = 7 then some { p with side := 7 }
  else if 4 ≤ port then some { p with side := port, arrived := true }
  else (neighbour p.pos port).map fun c => { p with pos := c, side := oppositeSide port, yxHalf := p.yxHalf && (p.pinned.isNone || atSource p) }

/-! ## Arbitration -/

/-- Whether a packet may be granted an output port: it is the first of its buffer, and downstream has credit (R31, R227). -/
def ready (s : State) (p : Packet) (port : Nat) : Bool :=
  ! p.arrived && decide (p.side < 6) && decide (nextPort s p = port) && ! notFirst s p &&
    (match movedBy p port with | some q => hasRoom s q | none => false)

/-- How far a number stands behind the one to be served next. -/
def turnsTo (n next size : Nat) : Nat := (n % size + size - next % size) % size

/-- The key of an output port's turn among the input ports of a VC, on VC 5 and 6 one for each class (R31). -/
def sideTurn (port : Nat) (p : Packet) : Nat × Nat := (port, if classRouted p.vc then 100 + 16 * vcNum p.vc + p.cls % 16 else 2 + 2 * vcNum p.vc)

/-- The rank of a packet at an output port of its router (R31): the VC whose turn it is, then on VC 5 and 6 the class, then the input port. -/
def portRank (k : Core) (port : Nat) (p : Packet) : Nat :=
  let v := vcNum p.vc
  turnsTo v (tgetD k.arb (port, 0) 0) 8 * 256 +
    (if classRouted p.vc then turnsTo p.cls (tgetD k.arb (port, 1 + 2 * v) 0) 16 else 0) * 16 + turnsTo p.side (tgetD k.arb (sideTurn port p) 0) 8

/-- Whether an output port grants this packet (R31): no other ready packet's turn comes before. -/
def granted (s : State) (p : Packet) (port : Nat) : Bool :=
  let k := getCore s p.pos
  ready s p port && s.mesh.all fun q => decide (q.id = p.id) || decide (q.pos ≠ p.pos) || ! ready s q port ||
    decide (portRank k port p < portRank k port q) || (portRank k port p == portRank k port q && decide (p.order < q.order))

/-- The turns of an output port after a grant (R31). -/
def turnTaken (s : State) (p : Packet) (port : Nat) : State :=
  let v := vcNum p.vc
  modCore s p.pos fun k => { k with
    arb := tput (tput (tput k.arb (port, 0) (v + 1)) (port, 1 + 2 * v) (p.cls + 1)) (sideTurn port p) (p.side + 1) }

/-! ## Requests -/

/-- The lanes of a memory request. -/
def bodyLanes : Body → List LaneReq
  | .read l | .write l | .atomic l | .reduce l => l
  | _ => []

/-- The piece (PA ÷ 64) that a request is for; none for a cistern. -/
def reqPiece (l : List LaneReq) : Option Nat :=
  match l.head?.map LaneReq.loc with
  | some (.phys pa) => some (pa / 64)
  | _ => none

/-- The cores whose lanes a request carries: a merged one has more than one. -/
def reqCores (p : Packet) : List Nat := ((bodyLanes p.body).map fun q => q.f.core).dedup

/-- Whether two lane requests touch the same bytes. -/
def lanesMeet (a b : LaneReq) : Bool := locsMeet (some a.loc) a.op.size (some b.loc) b.op.size

/-- Whether two requests have a source in common. -/
def sameSource (p q : Packet) : Bool := decide (p.spkg = q.spkg) && (reqCores p).any fun c => (reqCores q).contains c

/-! ## Merging -/

/-- Whether a lane is a relaxed load (R200). -/
def plainLoad (q : LaneReq) : Bool := q.op.kind == .load && ! q.op.acq && ! q.op.rem

/-- Whether a fibre belongs to a combiner wave, whose packets its rollback drops (R197). -/
def waveFibre (s : State) (f : FRef) : Bool :=
  match (getGroup s f.core f.slot).map Group.kind with | some (.wave _ _) => true | _ => false

/-- Whether a lane is a reduction that a router may merge (R32, R199, R410). -/
def plainReduction (s : State) (q : LaneReq) : Bool :=
  (q.op.kind == .reduce || (q.op.kind == .atomic && decide (q.op.dst = 0))) && (decide (q.op.opc ≤ 7) || (decide (10 ≤ q.op.opc) && decide (q.op.opc ≤ 12))) &&
    ! q.op.acq && ! q.op.rel && ! q.op.rem && q.op.retryId.isNone && ! q.op.stat && ! waveFibre s q.f

/-- Whether two lanes reduce the same address with the same operation and data type (R32). -/
def alike (a b : LaneReq) : Bool := decide (a.loc = b.loc) && decide (a.op.opc = b.op.opc) && decide (a.op.size = b.op.size)

/-- Whether the router may merge a packet into an older one of its buffer (R32, R199, R200): reads of one piece, or reductions alike; neither
entered in deterministic mode, and no request of the newer one's sources for the same piece stands between. (DESIGN CHOICE, log 7) -/
def mergeable (s : State) (old new : Packet) : Bool :=
  let a := bodyLanes old.body; let b := bodyLanes new.body
  let alone := fun (r : Packet) => ! (sameBuffer new r && decide (old.order < r.order) && decide (r.order < new.order) && sameSource new r &&
    reqPiece (bodyLanes r.body) == reqPiece b)
  sameBuffer new old && decide (old.order < new.order) && ! new.arrived && decide (new.side < 6) && ! old.noMerge && ! new.noMerge &&
    decide (old.dst = new.dst ∧ old.dpkg = new.dpkg ∧ old.spkg = new.spkg) && (reqPiece b).isSome && reqPiece a == reqPiece b && s.mesh.all alone &&
    ((new.vc == .mreq && a.all plainLoad && b.all plainLoad) ||
     (a.all (plainReduction s) && b.all (plainReduction s) && decide (a.length = b.length) && (a.zip b).all fun e => alike e.1 e.2))

/-- The operand of a reduction. -/
def operandOf (q : LaneReq) : Nat := wordsNat q.op.data % 2 ^ (8 * q.op.size)

/-- The lanes of two merged requests (R199, R200): the loads side by side; or each older reduction with the combined operand, and the newer one,
which has been joined to it. -/
def mergedLanes (a b : List LaneReq) : List LaneReq :=
  if a.all plainLoad then a ++ b
  else (a.zip b).map (fun e => { e.1 with op := { e.1.op with
      data := wordsOf (leBytes 8 (atomNew e.1.op.opc e.1.op.size (operandOf e.1) (operandOf e.2) 0)) } }) ++
    b.map fun q => { q with op := { q.op with kind := .joined } }

/-- The body of a merged request. -/
def mergedBody (old : Body) (l : List LaneReq) : Body :=
  match old with
  | .read _ => .read l
  | .atomic _ => .atomic l
  | _ => .reduce l

/-- A packet that has just entered a buffer is merged into the oldest one it may be merged into, if the router does so (R32). -/
def mergeIn (s : State) (id : Nat) : State :=
  match getPacket s id with
  | none => s
  | some p =>
    match s.mesh.find? fun q => mergeable s q p with
    | none => s
    | some q =>
      let (n, s) := freshFree s
      if Config.merges n then setBody (dropPacket s id) q.id (mergedBody q.body (mergedLanes (bodyLanes q.body) (bodyLanes p.body))) else s

/-- Puts a packet, as it will stand, into its buffer (R32, R209): it comes last there, and deterministic mode as its router has it now governs
its merging. -/
def enterBuffer (s : State) (p : Packet) : State :=
  let (n, s) := freshId s
  let p := { p with order := n, came := s.clk, noMerge := (ctlCopy s p.pos 0x002).getLsbD 0 }
  mergeIn { s with mesh := s.mesh.map fun q => if q.id = p.id then p else q } p.id

/-- A packet as its source NI hands it to the router (R26, R30, R104, R321): for another package, on its way to the span port that the routing
configuration names now; none where it names no router or no port. -/
def addressed (s : State) (p : Packet) : Option Packet :=
  if 576 ≤ p.dst then none
  else if p.dpkg = pkgNum s then some p
  else (spanPort s p.src p.dpkg).map fun n => { p with dst := spanRouter n }

/-- A packet that stands before its source router enters it on credit, with its route (R26, R225, R227, R275, R321); one that names no router, or no
reachable package, is dropped and counted. -/
def enterRouter (s : State) (p : Packet) : State :=
  match addressed s p with
  | none => bump (dropPacket s p.id) p.src 0x008 1
  | some d =>
    if notFirst s p then s
    else
      let (q, s') := chooseRoute s { d with side := entryPort p }
      if hasRoom s q then enterBuffer s' q else s

end Sys2Proof.Machine
end

