-- ==== Sys2Proof/Machine/DevIssue.lean ====
section
/-!
DEFINITION. The device's steps around a core's issue (R46-R55, R97, R180, R220-R226, R242-R246, R279, R283, R295, R359, R372, R405): batches,
issue buffers, results, tokens, claims, timed waits, the NI's queues, handler groups, the copy engine, team ends.
-/
namespace Sys2Proof.Machine

/-! ## Batches, tokens, claims -/

/-- BATCH_FORM (R46, R47, R53, R54). -/
def execBatchForm (core part : Nat) (s : State) : Host.Outcome State Fault Refusal := .next (formBatch s core part)

/-- Grants the head request, and then the next, while the pool covers them, at most `n` in all (R281). -/
def grantTokens : Nat → State → State
  | 0, s => s
  | n + 1, s =>
    match s.tokenQ with
    | [] => s
    | (core, slot, pc, size) :: rest =>
      let k := runTokens (getCore s core) 24 (BitVec.ofNat 32 pc) 0
      if s.tokensUsed + k ≤ size then
        grantTokens n { s with
          tokensUsed := s.tokensUsed + k, tokenQ := rest, tokenHeld := s.tokenHeld ++ [(core, slot, pc, k)], tokGr := s.tokGr + 1
          tokensNow := (s.clk, (if s.tokensNow.1 = s.clk then s.tokensNow.2 else 0) + 1) }
      else s

/-- TOKEN_GRANT (R55, R107, R281): returns are counted first; then up to four requests of a clock are granted from the head on. -/
def execTokenGrant (s : State) : Host.Outcome State Fault Refusal :=
  let s := reclaimTokens s
  .next (grantTokens (4 - if s.tokensNow.1 = s.clk then s.tokensNow.2 else 0) s)

/-- CLAIM_GRANT (R97). -/
def execClaimGrant (core : Nat) (s : State) : Host.Outcome State Fault Refusal := .next (grantClaim s core)

/-! ## Issue buffers -/

/-- The access records whose order an entry must keep (R176-R190). -/
def entryAccs (e : BufEntry) : List (FRef × Nat) :=
  match e.cmd with
  | .packet p _ =>
    (match p.body with
     | .read l | .write l | .atomic l | .reduce l => l.map fun q => (q.f, q.acc)
     | .matrix c => (c.f, c.acc) :: c.lanes.map fun l => ({ c.f with lane := l.lane }, l.acc)
     | _ => [(e.f, e.acc)])
  | _ => [(e.f, e.acc)]

/-- Whether a LAUNCH's release is met: its fibre's earlier fibre-path accesses are performed, with what a FENCEP has put before them and what other
fibres of the core have sent (R181, R371). -/
def releaseMet (s : State) (f : FRef) (x : Fibre) (ord : Nat) : Bool :=
  (x.accs.all fun a => ! (decide (a.ord < ord) && ((a.fence.isNone && isFibrePath a.path) || (a.fence.map feedsFibre).getD false))) &&
    (sentWrites s f).all fun b => ! (decide (b.ord < ord) && isFibrePath b.path)

/-- Whether the trap frame that a TRET reads is free of earlier accesses of its fibre (R176, R366). -/
def frameFree (s : State) (f : FRef) : Bool :=
  match getFib s f with
  | some x => ! stackHeld s f x false (frameAddr s f) 64
  | none => true

/-- Whether a copy command of a fibre that comes earlier in program order still waits for its page, or in the issue buffer (R176). -/
def copyBefore (s : State) (f : FRef) (acc : Nat) : Bool :=
  match getFib s f with
  | none => false
  | some x =>
    let ord := ((x.accs.find? fun a => a.id = acc).map Acc.ord).getD acc
    let queued := fun (n : Nat) => (getPart s f.core (slotPart f.slot)).buffer.any fun d => decide (d.acc = n) && (match d.cmd with | .copy _ => true | _ => false)
    x.accs.any fun a => a.path == .cp && decide (a.ord < ord) && (decide (a.size ≠ 0) || queued a.id)

/-- Whether no earlier access of its fibres holds an entry back (R185); what comes at the run end waits for it (R50, R366). -/
def entryMayGo (s : State) (e : BufEntry) : Bool :=
  (entryAccs e).all (fun a => match getFib s a.1 with
    | some x => decide (a.2 = 0) || mayGo s a.1 x a.2
    | none => true) &&
  (match e.cmd with
   | .launch _ _ _ _ => (match getFib s e.f with | some x => releaseMet s e.f x e.acc | none => true)
   | .copy c => ! copyBefore s e.f c.acc
   | .refill => runOver s e.f
   | .frameRead => runOver s e.f && frameFree s e.f
   | _ => true)

/-- Whether a packet takes a place of the reply share (R225). -/
def isReplyShare (p : Packet) : Bool :=
  match p.vc with
  | .ursp | .hit => true
  | _ => (match p.body with | .faultAnswer _ _ _ _ => true | _ => false)

/-- The unit that an entry is for: entries of one unit are accepted in arrival order (R53). -/
def unitOf (core : Nat) (e : BufEntry) : Nat :=
  match e.cmd with
  | .packet p held =>
    (match p.body with
     | .matrix _ => 4
     | .lease _ _ _ _ _ _ => 5
     | _ => if ! held && isLoop core p then 3 else if isReplyShare p then 2 else 1)
  | .sendr p _ _ _ _ => if p.vc = .ursp then 2 else 1
  | .copy _ => 6
  | .ray _ _ => 7
  | .launch _ _ _ _ => 8
  | .frame _ _ => 9
  | .close _ _ _ => 13
  | .ringSet _ _ _ _ | .ringAdv _ _ | .ringQ _ _ _ => 4
  | .tload _ => 10
  | .spill _ _ | .refill | .frameRead | .signal => 1000 + e.entry
  | .basin _ _ _ | .basinOwn _ => 12

/-- Removes entry `n` of a partition's buffer. -/
def popEntry (s : State) (core part n : Nat) : State :=
  modPart s core part fun p => { p with buffer := p.buffer.take n ++ p.buffer.drop (n + 1) }

/-- Places taken of a share of a send queue. -/
def shareUsed (k : Core) (reply : Bool) : Nat := (k.sendQ.filter fun e => e.reply == reply).length

/-- A packet as a message of its own core's loop-back port (R224). (DESIGN CHOICE, log 53) -/
def msgOf (s : State) (p : Packet) (words : List Word) : Msg × State :=
  let (n, s) := freshFree s
  ({ src := p.src, spkg := p.spkg, vc := p.vc, kind := p.kind, cls := p.cls, tags := p.tags, words := words, seq := Config.messageSeq n,
     clock := s.clk, retries := 0, bound := none }, s)

/-- Puts a packet into a share of the send queue, if it has room (R225). -/
def toSendQ (s : State) (core : Nat) (p : Packet) (owner : FRef) (holder : Option FRef) : Option State :=
  let k := getCore s core
  let reply := isReplyShare p
  if (if reply then 32 else 96) ≤ shareUsed k reply then none
  else
    let s := putCore s core { k with sendQ := k.sendQ ++ [{ packet := p, owner := owner, reply := reply, holder := holder }] }
    some (highWater s core 0x038 (k.sendQ.length + 1))

/-- A message enters its own core's loop-back port, if it has room (R224). (DEDUCED, log 57) -/
def toLoop (s : State) (core : Nat) (p : Packet) (words : List Word) : Option State :=
  if 16 ≤ (getCore s core).loopback.length then none
  else
    let (m, s) := msgOf s p words
    some (modCore s core fun k => { k with loopback := k.loopback ++ [m] })

/-- Whether commands of a core that name a ring stand in its block, or on their way to it (R449). -/
def ringNamed (s : State) (core ring : Nat) : Bool :=
  let names := fun (c : MatCmd) => decide (c.f.core = core) && decide (c.op < 2) && (c.qa == ring || c.qb == ring)
  (getBlock s (coreQuad core)).leases.any (fun l => l.2.queue.any names) ||
    s.mesh.any fun p => match p.body with | .matrix c => names c | _ => false

/-- Lease requests of a core that are queued or on their way (R228). -/
def leasesAsked (s : State) (core : Nat) : Nat :=
  ((getBlock s (coreQuad core)).requests.filter fun r => decide (r.core = core) && r.slot.isNone).length +
    (s.mesh.filter fun p => match p.body with | .lease c _ _ _ _ _ => decide (c = core) | _ => false).length

/-- The request kinds that leave their record in place until an acknowledgement or result comes (R180). -/
def awaitsReply : Body → Bool
  | .user _ | .faultAnswer _ _ _ _ | .hit _ _ _ _ | .work _ _ _ _ | .ray _ _ _ => false
  | _ => true

/-- The credit that a fibre's record needs (R215, R216): none where the packet is no record. -/
def creditFor (p : Packet) : Option (Nat × Nat × Nat) := recQueueOf p.body

/-- Puts a packet into the mesh, before its source router. -/
def inject (s : State) (p : Packet) : State :=
  let (n, s) := freshId s
  { s with mesh := s.mesh ++ [{ p with order := n }] }

/-- Whether a lease takes a further command of its team, those on their way counted (R229); MREL, or a command whose lease has gone, always goes. -/
def matRoom (s : State) (core : Nat) (c : MatCmd) : Bool :=
  let coming := (s.mesh.filter fun p => match p.body with
    | .matrix d => decide (d.f.core = core) && decide (d.team = c.team) && decide (d.op ≠ 6)
    | _ => false).length
  match leaseOf s core c.team with
  | some (_, l) => decide (c.op = 6) || (decide (l.queue.length + coming < 32) && decide (l.acc + coming < 16) && l.reentry.isNone)
  | none => true

/-- The accesses of a request have left their core (R181). -/
def markSent (s : State) (lanes : List LaneReq) : State :=
  lanes.foldl (fun s q => modFib s q.f fun x => { x with accs := x.accs.map fun a => if a.id = q.acc then { a with sent := true } else a }) s

/-- A packet has been taken by its NI: a held one owes its reply from HEND on, another from now on (R66, R181, R195). -/
def packetTaken (s : State) (e : BufEntry) (p : Packet) (held : Bool) : State :=
  if held then s
  else
    let s := markSent (if e.acc = 0 then s else oweReply s e.f p) (bodyLanes p.body)
    if awaitsReply p.body then s else accDone s e.f e.acc

/-- A packet entry is accepted (R53, R215, R224, R225, R228, R229), or waits: none while its unit has no room; without a credit, which it asks
for, its entry stays. -/
def acceptPacket (s : State) (core : Nat) (e : BufEntry) (p : Packet) (held : Bool) : Option State :=
  match p.body with
  | .matrix c => if matRoom s core c then some (inject s p) else none
  | .lease _ _ _ _ _ _ => if 2 ≤ leasesAsked s core then none else some (inject s p)
  | _ =>
    match creditFor p with
    | some (sl, t, q) =>
      if queueClosed s sl t q ∧ (match p.body with | .work _ _ _ _ => true | _ => false) = true then
        some (takeTrap (accDone s e.f e.acc) e.f e.pc (trapOf 4 0x02))
      else if creditsOf s core sl t q = 0 then none
      else (toSendQ s core p e.f (if held then some e.f else none)).map fun s => packetTaken (spendCredit s core sl t q) e p held
    | none =>
      match (if ! held && isLoop core p then (match p.body with | .user w => some w | _ => none) else none) with
      | some w => (toLoop s core p w).map fun s =>
          packetTaken (if e.acc ≠ 0 ∧ p.vc = .ursp then answered s core p.tags else s) e p held
      | none => (toSendQ s core p e.f (if held then some e.f else none)).map fun s => packetTaken s e p held

/-- A SENDR entry is accepted (R424): its NI takes an entry of the outstanding-request table and adds word 15. -/
def acceptSendr (s : State) (core : Nat) (e : BufEntry) (p : Packet) (ll dst words cdst : Nat) : Option State :=
  let (n, s) := freshFree s
  match freeRq (getCore s core) n, p.body with
  | some i, .user w =>
    let gen := fibGen s e.f
    let full := w ++ [(replyTag gen i).setWidth 32]
    let p := { p with body := .user full }
    (if isLoop core p then toLoop s core p full else toSendQ s core p e.f none).map fun s =>
      modCore (oweReply s e.f p) core fun k => { k with
        rq := tput k.rq i { f := e.f, gen := gen, ll := ll, dst := dst, words := words, cdst := cdst, done := false } }
  | _, _ => none

/-- The largest block of a treelet transfer: 15 flits of payload after a head flit's, in 64-byte units (R26). -/
def treeletBlock : Nat := 1024

/-- Sends the next block of a TLOAD from its source (R264, R465). -/
def sendTreeletBlock (s : State) (c : TloadCmd) (off : Nat) : State :=
  let n := min treeletBlock (c.size - off)
  let (b, psn) := virtRead s c.f.core c.slice c.prv (c.src.toNat + off) n
  emit s .page 0x01 c.f.core c.f.core ((n + 63) / 64) 0 (.treelet c off b psn)

/-- A TLOAD is accepted (R465): the table entry is reserved, the transfer begins; a full table refuses it. -/
def acceptTload (s : State) (core : Nat) (c : TloadCmd) : State :=
  if c.kind ≠ 0 then sendTreeletBlock s c 0
  else
    let id := c.d.toNat % 4096
    match tloadSlot (getCore s core) id with
    | none => accDone (countCompletion s core c.team c.cidx 3 0) c.f c.acc
    | some i => sendTreeletBlock (modCore s core fun k => { k with treelets := tput k.treelets i (BitVec.ofNat 64 (id * 2 ^ 51)) }) c 0

/-- A LAUNCH is accepted (R371): the record is read and goes to the sequencer with the level it got. (DEDUCED, log 64) -/
def acceptLaunch (s : State) (core : Nat) (f : FRef) (addr : DWord) (level ll dst : Nat) : State :=
  let prv := ((getFib s f).map fsrPRV).getD 0
  let rec_ := wordsOf (virtRead s core (sliceOf s f) prv addr.toNat 256).1
  let w := (rec_.getD 4 0).toNat
  let rec_ := lset rec_ 4 (BitVec.ofNat 32 (w - fld w 6 5 * 32 + level % 4 * 32))
  emit s .sys 0x01 core hostPort 4 0 (.launch (sliceOf s f) level rec_ none (some (f, ll, dst)))

/-- An issue-buffer entry is accepted by its unit; none while the unit has no room (R53). -/
def acceptCmd (s : State) (core : Nat) (e : BufEntry) : Option State :=
  match e.cmd with
  | .packet p held => acceptPacket s core e p held
  | .sendr p ll dst words cdst => acceptSendr s core e p ll dst words cdst
  | .copy c => if 16 ≤ (getCore s core).copyQ.length then none else some (modCore s core fun k => { k with copyQ := k.copyQ ++ [c] })
  | .ray w owner => (freeRay (getCore s core)).map fun n => putRay s core n (some (newRay w 0 none owner))
  | .launch a level ll dst => some (acceptLaunch s core e.f a level ll dst)
  | .frame sl x => some (modSlice s sl fun y => { y with frames := y.frames ++ [x] })
  | .close sl t q =>
    some (accDone (modSlice s sl fun x => { x with tasks := x.tasks.map fun e =>
      if e.1 = t then (e.1, { e.2 with closedQueues := if e.2.closedQueues.contains q then e.2.closedQueues else e.2.closedQueues ++ [q] }) else e }) e.f e.acc)
  | .ringSet r base cap tsz =>
    if ringNamed s core r then none
    else some (accDone (modCore s core fun k => { k with rings := tput k.rings r { base := BitVec.ofNat 32 base, cap := cap, tsz := tsz, head := 0, tail := 0 } }) e.f e.acc)
  | .ringAdv r n =>
    let g := ringOf s core r
    if ringFree g < n then none
    else some (accDone (modCore s core fun k => { k with rings := tput k.rings r { g with tail := g.tail + BitVec.ofNat 32 n } }) e.f e.acc)
  | .ringQ r ll dst =>
    let g := ringOf s core r
    some (llDone s e.f ll 0 (regsEff dst [BitVec.ofNat 32 (ringPublished g * 65536 + ringFree g % 65536)]))
  | .tload c => some (acceptTload s core c)
  | .spill a v => some (spillNow s e.f e.pc a v e.acc)
  | .refill => some (accDone (refillNow s e.f e.pc) e.f e.acc)
  | .frameRead => some (accDone (readFrame s e.f) e.f e.acc)
  | .basin ns th limit => some (ns.foldl (fun s n => setBin s core n th limit) s)
  | .basinOwn team => some (ownBasin s e.f e.pc team)
  | .signal => some s

/-- Whether a fibre's trap frame waits behind its earlier accesses (R293, R312). -/
def framePending (s : State) (f : FRef) : Bool :=
  match getFib s f with
  | some x => x.waits.any fun w => match w with | .stack _ (.frame _ _ _) => true | _ => false
  | none => false

/-- Whether an entry is saved unissued, its context being saved (R309); what a trap frame waits for is still issued (R312). -/
def entrySaved (s : State) (e : BufEntry) : Bool := ((teamOf s e.f).any fun t => saving s t.2) && ! framePending s e.f

/-- ISSUE_BUFFER_ACCEPT (R53, R185): the `n`-th entry of a partition's buffer leaves, if it is the first for its unit that may go and the unit
has room; one without a credit asks for it (R215); the entries of a context that is being saved stay (R309), but for those of a fibre that holds back
the frame of its trap, which is written first (R312). -/
def execIssueBufferAccept (core part n : Nat) (s : State) : Host.Outcome State Fault Refusal :=
  let buf := (getPart s core part).buffer
  match buf[n]? with
  | none => .next s
  | some e =>
    if entrySaved s e || ! entryMayGo s e || ((buf.take n).any fun d => unitOf core d == unitOf core e && entryMayGo s d && ! entrySaved s d) then .next s
    else
      let asked := match e.cmd with
        | .packet p _ => (match creditFor p with | some (sl, t, q) => askCredit s core sl t q | none => s)
        | _ => s
      .next ((acceptCmd (popEntry s core part n) core e).getD asked)

/-! ## Results -/

/-- Whether a fibre still awaits one of these identities under the generation that a reply names (R41). -/
def awaited (s : State) (f : FRef) (gen : Option (BitVec 8)) (ids : List Nat) : Bool :=
  match getFib s f with
  | some x => (gen.all fun g => decide (g = x.gen)) && ((x.lls.any fun l => ids.contains l.id) || x.accs.any fun a => ids.contains a.id)
  | none => false

/-- LONG_LATENCY_RESULT (R48, R66, R239, R286, R412, R424): a reply reaches its requester; the value is written after the run end. One for a fibre that
is gone, or of an older generation, is counted as stale. -/
def execLongLatencyResult (id : Nat) (s : State) : Host.Outcome State Fault Refusal :=
  match arrivedPacket s id with
  | none => .next s
  | some p =>
    let t := dropPacket s id
    match p.body with
    | .results f gen ll acc psn effs =>
      .next (if awaited s f (some gen) [ll, acc] then accDone (llDone t f ll psn effs) f acc else bump t p.dst 0x004 1)
    | .combineDone f gen acc ll effs =>
      .next (if awaited s f (some gen) [ll, acc] then accDone (llDone t f ll 0 effs) f acc else bump t p.dst 0x004 1)
    | .failed tag kind => .next (takeReply (answered t p.dst tag) p.dst tag (failedEffs kind))
    | .user words => .next (if p.tags.getLsbD 17 then takeReply (answered t p.dst p.tags) p.dst p.tags (replyEffs words) else s)
    | _ => .next s

/-- WRITE_ACKNOWLEDGEMENT (R180, R286): the write, or the part of a range operation, is performed. -/
def execWriteAcknowledgement (id : Nat) (s : State) : Host.Outcome State Fault Refusal :=
  match arrivedPacket s id with
  | some p => (match p.body with
    | .ack f acc => .next (if awaited s f none [acc] then accDone (dropPacket s id) f acc else bump (dropPacket s id) p.dst 0x004 1)
    | _ => .next s)
  | none => .next s

/-- ENGINE_COMPLETION (R446). -/
def execEngineCompletion (id : Nat) (s : State) : Host.Outcome State Fault Refusal :=
  match arrivedPacket s id with
  | some p => (match p.body with
    | .engineDone team cidx st first acc f => .next (accDone (countCompletion (dropPacket s id) f.core team cidx st first) f acc)
    | _ => .next s)
  | none => .next s

/-! ## Timed waits -/

/-- Whether s.clk has reached a limit. -/
def reached (s : State) (limit : DWord) : Bool := decide ((s.clk - limit).toNat < 2 ^ 63)

/-- PARK_TIMEOUT (R359): WK stays as it is. (DESIGN CHOICE, log 27) -/
def execParkTimeout (core slot lane : Nat) (s : State) : Host.Outcome State Fault Refusal :=
  let f : FRef := ⟨core, slot, lane⟩
  match (getFib s f).bind fun x => x.waits.find? fun w => match w with | .park _ (some l) => reached s l | _ => false with
  | some w => .next (dropWait s f w)
  | none => .next s

/-- BARRIER_WAIT_TIMEOUT (R73, R279, R420): the wait ends once the clock of its limit is over, so that a phase completing in that clock still returns
"completed". -/
def execBarrierWaitTimeout (core slot lane : Nat) (s : State) : Host.Outcome State Fault Refusal :=
  let f : FRef := ⟨core, slot, lane⟩
  match getFib s f with
  | none => .next s
  | some x =>
    match x.waits.find? fun w => match w with | .barrier _ _ _ (some l) _ _ _ => reached s (l + 1) | _ => false with
    | some (.barrier pc num parity lim ll dst acc) => .next (endBarWait s f (.barrier pc num parity lim ll dst acc) (barDone s f x num parity))
    | _ => .next s

/-- QUIESCE_TIMEOUT (R372). -/
def execQuiesceTimeout (core slot lane : Nat) (s : State) : Host.Outcome State Fault Refusal :=
  let f : FRef := ⟨core, slot, lane⟩
  match (getFib s f).bind fun x => x.waits.find? fun w => match w with | .quiesce _ (some l) _ _ => reached s l | _ => false with
  | some (.quiesce c lim ll dst) =>
    .next (llDone (dropWait s f (.quiesce c lim ll dst)) f ll 0 (regsEff dst [BitVec.ofNat 32 (otherTeams s c f)]))
  | _ => .next s

/-! ## Team watchdog and team end -/

/-- The PC, result and record of a wait that the watchdog withdraws (R283). -/
def watchedWait : Wait → Option (Word × Option (Nat × Nat))
  | .park pc _ => some (pc, none)
  | .fwait pc _ ll _ => some (pc, some (ll, ll))
  | .barrier pc _ _ _ ll _ acc => some (pc, some (ll, acc))
  | .ordered pc _ _ _ ll acc => some (pc, some (ll, acc))
  | _ => none

/-- Withdraws a fibre's wait, with its result and record. -/
def withdrawWait (s : State) (f : FRef) (w : Wait) : State :=
  match watchedWait w with
  | some (_, some (ll, acc)) => accDone (dropLL (dropWait s f w) f ll) f acc
  | _ => dropWait s f w

/-- TEAM_WATCHDOG_EXPIRY (R283): every wait of a parked fibre is withdrawn, and it traps at the first of them. -/
def execTeamWatchdogExpiry (core team : Nat) (s : State) : Host.Outcome State Fault Refusal :=
  match getTeam s core team with
  | none => .next s
  | some t =>
    let limit := (sliceCtl s core t.slice 0x108).toNat
    if limit = 0 ∨ t.watchdog.toNat < limit ∨ t.halted then .next s
    else
      let s := bump s core 0x044 1
      let parked := (teamFibres s core team).filterMap fun f => (getFib s f).bind fun x =>
        (if x.ended then none else x.waits.find? fun w => (watchedWait w).isSome).map fun w => (f, w, x.waits.filter fun w => (watchedWait w).isSome)
      let s := modTeam s core team fun t => { t with watchdog := 0 }
      .next (if parked.isEmpty then teamFault s core team (teamHead s core team) (faultPc s (teamHead s core team)) 0xFF04
        else parked.foldl (fun s e => takeTrap (e.2.2.foldl (fun s w => withdrawWait s e.1 w) s) e.1 (((watchedWait e.2.1).map Prod.fst).getD 0) (trapOf 9 0)) s)

/-- TEAM_END (R41, R243, R295): the team's fibres are killed, its allotments and lanes are freed as their results return, its bindings'
generations advance. -/
def execTeamEnd (core team : Nat) (s : State) : Host.Outcome State Fault Refusal :=
  match getTeam s core team with
  | none => .next s
  | some _ =>
    let s := modTeam (freeBindings (haltTeam s core team) core team) core team fun t => { t with ending := true }
    let s := modCore s core fun k => { k with stoppedBatches := k.stoppedBatches.filter fun e => ! ((teamSlots s core team).contains e.2.slot) }
    let s := (teamFibres s core team).foldl killFibre s
    .next (if (teamFibres s core team).isEmpty then endTeam s core team else s)

/-! ## Messages -/

/-- Whether a class is masked on a core (R246). -/
def classMasked (k : Core) (cls : Nat) : Bool := k.classMask.getLsbD (cls % 16)

/-- The saved context that holds a binding which a message's tag names, if any (R310). -/
def savedBinding (s : State) (core : Nat) (slice : Nat) (tags : BitVec 18) : Option Nat :=
  if fld tags.toNat 16 15 ≠ 1 ∨ tags.getLsbD 17 then none
  else ((getSlice s slice).saved.find? fun v =>
    match tget v.cores core with
    | some c => (match tget c.bindings (tags.toNat % 128) with
      | some w => bindV w && decide ((bindGen w).toNat = fld tags.toNat 14 7)
      | none => false)
    | none => false).map Saved.task

/-- A message enters the inbox (R220, R221). -/
def enterInbox (s : State) (core : Nat) (m : Msg) : State :=
  let s := modCore s core fun k => { k with inbox := k.inbox ++ [m] }
  let n := (getCore s core).inbox.length
  let s := highWater s core 0x034 n
  if 224 ≤ n then startSump s core else s

/-- An inbox spill to the core's sump ring, counted (R221, R222). -/
def spillMessage (s : State) (core slice : Nat) (m : Msg) : State :=
  let (s, ok) := sumpSpill (bump s core 0x02C 1) core slice core (messageEntries m 0 0)
  if ok then s
  else match replyTagOf m.words with
    | some t => sendFailed s core m.src m.spkg t 0x07
    | none => s

/-- Whether a fibre still has a result or an access of one of these identities. -/
def awaitsAny (v : Tbl FRef Fibre) (f : FRef) (ids : List Nat) : Bool :=
  match tget v f with
  | some x => x.lls.any (fun l => ids.contains l.id) || x.accs.any fun a => ids.contains a.id
  | none => false

/-- The fibre that a reply is for, with the identities it may end. -/
def replyFor (s : State) (p : Packet) : Option (FRef × List Nat) :=
  let rq := fun (tag : BitVec 18) => match tget (getCore s p.dst).rq (tag.toNat % 512) with
    | some r => if r.gen = tag.extractLsb' 9 8 then some (r.f, [r.ll]) else none
    | none => none
  match p.body with
  | .results f _ ll acc _ _ | .combineDone f _ acc ll _ => some (f, [ll, acc])
  | .ack f acc | .secAnswer f _ acc _ _ _ | .engineDone _ _ _ _ acc f => some (f, [acc])
  | .failed tag _ => rq tag
  | .user _ => if p.tags.getLsbD 17 then rq p.tags else none
  | _ => none

/-- The saved context, by slice and task, that an arriving packet belongs to (R205, R232, R310, R312). (DESIGN CHOICE, log 34) -/
def savedFor (s : State) (p : Packet) : Option (Nat × Nat) :=
  let mine := fun (sl : Nat) (v : Saved) => v.complete && (match p.body with
    | .completion a t _ _ | .barArrive a t _ _ => decide (a = sl ∧ t = v.task)
    | _ => (match replyFor s p with | some (f, ids) => awaitsAny v.fibres f ids | none => false))
  s.slices.findSome? fun e => (e.2.saved.find? (mine e.1)).map fun v => (e.1, v.task)

/-- A packet for a saved context goes into its message log (R310); a user message that finds the log full goes to the destination core's sump
ring. -/
def keepMessage (s : State) (sl task : Nat) (p : Packet) : State :=
  let add := modSlice s sl fun x => { x with saved := x.saved.map fun v => if v.task = task then { v with messages := v.messages ++ [p] } else v }
  match p.body, (getSlice s sl).saved.find? fun v => v.task = task with
  | .user words, some v =>
    let used := (v.messages.filter fun q => decide (q.dst = p.dst) && ! q.tags.getLsbD 17 && (match q.body with | .user _ => true | _ => false)).length
    if p.tags.getLsbD 17 ∨ used < tgetD v.logs p.dst 0 then add
    else
      let (m, s) := msgOf s p words
      let (s, ok) := sumpSpill s p.dst sl p.dst (messageEntries m 3 task)
      if ok then s
      else match replyTagOf words with
        | some t => sendFailed s p.dst p.src p.spkg t 0x07
        | none => s
  | _, _ => add

/-- What an NI does with a message (R220, R221, R239, R242, R244, R246): a fibre reply goes to registers, one that finds its binding, or whose class is
masked, to the inbox, where one bound to the sump binding starts the sump fibre; none where it must wait. -/
def takeMessage (s : State) (core : Nat) (m : Msg) (limit : Nat) : Option State :=
  let k := getCore s core
  let m := bindMsg s core m
  let masked := classMasked k m.cls
  if m.tags.getLsbD 17 then some (takeReply s core m.tags (replyEffs m.words))
  else if fld m.tags.toNat 16 15 = 3 then some (bump s core 0x008 1)
  else if masked ∨ m.bound.isSome then
    if k.inbox.length < limit then
      let s := enterInbox s core m
      some (if ¬ masked ∧ m.bound.map Prod.fst = some 0 then startSump s core else s)
    else if m.vc = .ursp ∧ limit = 256 then some (spillMessage s core (k.slice.getD 0) m)
    else none
  else some (dropStale s core m.src m.spkg m.words)

/-- Whether a packet asks for credits, which its home keeps while it has none (R215). -/
def asksCredit : Body → Bool
  | .credits _ _ _ n => decide (n = 0)
  | _ => false

/-- Whether the unit that an ejected packet is for has taken it, though it still waits there: a move while another runs, a promotion while writes are
outstanding (R28, R140, R192). -/
def heldByUnit : Body → Bool
  | .migrate _ _ _ _ _ | .promote _ _ _ => true
  | _ => false

/-- Whether an ejected packet must wait (R194, R209): an earlier packet of its stream still stands at the destination, or one that waits stands
before it in its buffer. -/
def earlierWaits (s : State) (p : Packet) : Bool :=
  ejectBlocked s p || s.mesh.any fun q => q.arrived && decide (q.dst = p.dst) && decide (q.src = p.src) && decide (q.spkg = p.spkg) &&
    decide (q.vc = p.vc) && decide (q.cls = p.cls) && decide (q.order < p.order) && ! asksCredit q.body && (decide (q.kind = p.kind) || ! heldByUnit q.body)

/-- Whether a packet of the same KIND, from any source, has come to the destination before this one: the queue that takes the kind takes them in arrival
order, the lower source core first in one clock (R208, R209, R233, R235, R236). -/
def behindSame (s : State) (p : Packet) : Bool :=
  s.mesh.any fun q => q.arrived && decide (q.id ≠ p.id) && decide (q.dst = p.dst) && decide (q.vc = p.vc) && decide (q.kind = p.kind) && cameBefore Packet.src q p

/-- Whether URSP offers a message to the NI to which this one is offered on UREQ (R220). -/
def replyOffered (s : State) (p : Packet) : Bool :=
  p.vc == .ureq && s.mesh.any fun q => q.arrived && q.vc == .ursp && decide (q.dst = p.dst) && (match q.body with | .user _ => true | _ => false)

/-- USER_MESSAGE (R66, R220, R221, R239, R244, R310): a message arriving at an NI; a reply answers the message that asked for it. -/
def execUserMessage (id : Nat) (s : State) : Host.Outcome State Fault Refusal :=
  match arrivedPacket s id with
  | none => .next s
  | some p =>
    match p.body with
    | .user words =>
      if earlierWaits s p ∨ replyOffered s p ∨ underTest s 0x0B p.dst then .next s
      else
        let sl := ((getCore s p.dst).slice).getD 0
        match savedBinding s p.dst sl p.tags with
        | some task =>
          .next (keepMessage (dropPacket s id) sl task p)
        | none =>
          let (m, s') := msgOf s p words
          .next (((takeMessage (dropPacket s' id) p.dst m 256).map fun s => if p.vc = .ursp then answered s p.dst p.tags else s).getD s)
    | _ => .next s

/-- Whether a WHO word names a core's sump fibre. (DESIGN CHOICE, log 71) -/
def sumpWho (s : State) (w : Word) : Bool :=
  decide (fld w.toNat 31 24 = 0xFF) && (match getFib s ⟨w.toNat % 1024, 64, 0⟩ with | some x => decide (x.gen.toNat = fld w.toNat 23 16) | none => false)

/-- A fault batch that cannot be delivered (R222, R297): every team with a fibre named in it takes a team fault, and so does the sump fibre. -/
def batchLost (s : State) (recs : List FaultRec) : State :=
  let named := recs.filter fun r => decide (r.lanes ≠ 0)
  let sumps := (named.filter fun r => sumpWho s r.who).map fun r => r.who.toNat % 1024
  let teams := named.filterMap fun r =>
    let w := r.who.toNat
    let f : FRef := ⟨w % 1024, fld w 15 10, ((List.range 32).find? fun l => r.lanes.getLsbD l).getD 0⟩
    if sumpWho s r.who then none else (getGroup s f.core f.slot).map fun g => (f, g.team, r.pc)
  let s := sumps.dedup.foldl (fun s c => fibreTeamFault s ⟨c, 64, 0⟩ 0xFF08) s
  teams.foldl (fun s t => teamFault s t.1.core t.2.1 t.1 t.2.2 0xFF08) s

/-- The sump-ring entries of a fault batch (R222). -/
def batchEntries (s : State) (src : Nat) (recs : List FaultRec) : List (List Byte) :=
  ((List.range recs.length).zip recs).map fun e =>
    let h := 2 ^ 60 + (recs.length - 1) % 32 * 2 ^ 55 + e.1 % 32 * 2 ^ 50 + pkgNum s * 2 ^ 46 + placeX src * 2 ^ 40 + placeY src * 2 ^ 36 +
      vcNum .sys * 2 ^ 33 + 7 * 2 ^ 24
    leBytes 8 h ++ faultRecBytes e.2 ++ List.replicate 24 0

/-- A batch comes to a core's fault queue of 64 (R233): a full one spills it to the core's sump ring; a lost one is undeliverable. -/
def enqueueBatch (s : State) (core slice src : Nat) (recs : List FaultRec) : State :=
  if (getCore s core).faultQ.length < 64 then modCore s core fun k => { k with faultQ := k.faultQ ++ [recs] }
  else
    let (s, ok) := sumpSpill s core slice core (batchEntries s src recs)
    if ok then bumpSlice s slice 0x008 1 else batchLost s recs

/-- A replayed record of a spilled fault batch (R233, R429): the batch is delivered once its last record has come. (DEDUCED, log 57) -/
def replayRecord (s : State) (core : Nat) (m : Msg) : State :=
  let place := (m.words.getD 8 0).toNat
  let recs := (if fld place 22 18 = 0 then [] else (getCore s core).faultPart) ++ [faultRecOf (bytesOf (m.words.take 8))]
  if recs.length ≤ fld place 27 23 then modCore s core fun k => { k with faultPart := recs }
  else enqueueBatch (modCore s core fun k => { k with faultPart := [] }) core ((getCore s core).slice.getD 0) m.src recs

/-- A replayed message of another kind than those a sump ring holds (R211, R224): a pair that R210 does not list is dropped and counted; a ray or a
failed reply is delivered as it would come by the mesh; the manual gives no payload for the others, which have no effect. (DEDUCED, log 57) -/
def replayOther (s : State) (core : Nat) (m : Msg) : State :=
  let come := fun (b : Body) =>
    let (p, s) := newPacket s m.vc m.kind m.src core (pkgNum s) 1 m.tags b
    { s with mesh := s.mesh ++ [{ p with spkg := m.spkg, pos := core, side := 4, arrived := true }] }
  if ! listedKind m.vc m.kind then
    let s := bump s core 0x008 1
    match replyTagOf m.words with
    | some t => sendFailed s core m.src m.spkg t 0x07
    | none => s
  else
    match m.vc, m.kind with
    | .ray, 1 => come (.ray ((m.words ++ List.replicate 16 0).take 16) 0 none)
    | .mrsp, 6 | .mrsp, 7 | .mrsp, 8 => come (.failed m.tags m.kind)
    | _, _ => s

/-- LOOPBACK_TRANSFER (R224): the port's first message moves on while the inbox holds fewer than 192; a replayed fault record goes to the
fault queue (R233). (DEDUCED, log 57) -/
def execLoopbackTransfer (core : Nat) (s : State) : Host.Outcome State Fault Refusal :=
  let k := getCore s core
  match k.loopback with
  | [] => .next s
  | m :: rest =>
    if 192 ≤ k.inbox.length ∨ underTest s 0x0B core then .next s
    else
      let s := putCore s core { k with loopback := rest }
      match m.vc, m.kind with
      | .ureq, 1 | .ursp, 1 =>
        let (p, t) := newPacket s m.vc m.kind m.src core (pkgNum s) 1 m.tags (.user m.words)
        let p := { p with cls := m.cls, spkg := m.spkg, pos := core, side := 4, arrived := true }
        (match ((savedBinding s core (k.slice.getD 0) m.tags).map fun n => (k.slice.getD 0, n)).or (savedFor s p) with
         | some (sl, task) => .next (keepMessage t sl task p)
         | none => .next ((takeMessage s core { m with clock := s.clk } 192).getD s))
      | .sys, 7 => .next (replayRecord s core m)
      | _, _ => .next (replayOther s core m)

/-- A send-queue entry that may be injected now (R225): not held, first of its VC and class, with room in its router's local buffer, or in the loop-back
port where it goes to its own core; the packet as it would stand there, and the state that has chosen its route. -/
def injectable (s : State) (core n : Nat) : Option (Packet × State) :=
  let k := getCore s core
  match k.sendQ[n]? with
  | none => none
  | some e =>
    let p := e.packet
    if e.holder.isSome ∨ ((k.sendQ.take n).any fun d => d.holder.isNone && decide (d.packet.vc = p.vc) && decide (d.packet.cls = p.cls)) then none
    else
      let d := addressed s p
      let r := chooseRoute s { d.getD p with side := 4 }
      if d.isNone then some r
      else if isLoop core p then (if (getCore s core).loopback.length < 16 then some r else none)
      else if hasRoom s r.1 then some r else none

/-- Whether another entry's VC, or class, comes before this one's in turn (R31, R225); key 8 counts the turns of injection. -/
def injectLater (s : State) (core n : Nat) (p : Packet) : Bool :=
  let k := getCore s core
  (List.range k.sendQ.length).any fun m => m != n && (match injectable s core m with
    | some (q, _) => decide (portRank k 8 q < portRank k 8 p)
    | none => false)

/-- SEND_QUEUE_INJECT (R26, R31, R211, R225-R227, R321): a packet that may go, and whose turn it is, enters its router, or the loop-back port when it
goes to its own core; one that names no router, or is for a package that no port reaches, is dropped and counted. -/
def execSendQueueInject (core n : Nat) (s : State) : Host.Outcome State Fault Refusal :=
  let k := getCore s core
  match injectable s core n, k.sendQ[n]? with
  | some (p, routed), some e =>
    let gone := fun (s : State) => modCore s core fun k => { k with sendQ := k.sendQ.take n ++ k.sendQ.drop (n + 1) }
    if underTest s 0x0B core then .next s
    else if (addressed s e.packet).isNone then .next (bump (gone s) core 0x008 1)
    else
      match (if isLoop core p then (match p.body with | .user w => some w | _ => none) else none) with
      | some w => .next ((toLoop (gone s) core e.packet w).getD s)
      | none =>
        if injectLater s core n p then .next s
        else
          let s := turnTaken (gone routed) p 8
          .next (enterBuffer { s with mesh := s.mesh ++ [p] } p)
  | _, _ => .next s

/-! ## Handler groups -/

/-- The word that s.src reads for a message's source (R83). -/
def srcWord (core pkg : Nat) : Word := BitVec.ofNat 32 (pkg % 16 * 1024 + placeX core * 16 + placeY core)

/-- What a message gives its activation (R69, R83). -/
def originOf (m : Msg) (binding : Nat) (redeliver : Option Nat) : Origin :=
  { Origin.none with
    src := srcWord m.src m.spkg, tag := m.tags, seq := m.seq, cls := m.cls, mlen := m.words.length, word15 := m.words.getD 15 0
    hasReply := (replyTagOf m.words).isSome, binding := binding, redeliver := redeliver }

/-- Takes messages that no longer have their binding out of the inbox (R244). -/
def purgeStale (s : State) (core : Nat) : State :=
  let stale := fun (m : Msg) => ! classMasked (getCore s core) m.cls && (msgBinding s core m).isNone
  let out := (getCore s core).inbox.filter stale
  let s := modCore s core fun k => { k with inbox := k.inbox.filter fun m => ! stale m }
  out.foldl (fun s m => dropStale s core m.src m.spkg m.words) s

/-- Creates one activation in lane `l` of a handler group; a restartable one keeps its message while the redelivery store has room (R299). -/
def startActivation (s : State) (f : FRef) (w : DWord) (prv binding : Nat) (m : Msg) : State :=
  let rst := bindRst w && decide ((getCore s f.core).redeliver.length < 64)
  let (id, s) := freshId s
  let s := if rst then modCore s f.core fun k => { k with redeliver := k.redeliver ++ [(id, m)] } else s
  createFibre s f (8 * bindAreg w) (bindPc w) (fsrNew prv true rst) ((m.words ++ List.replicate 16 0).take 16) (originOf m binding (if rst then some id else none))

/-- Whether a handler group can be formed for a binding now (R57, R68): a live team, and registers. -/
def canForm (s : State) (core binding : Nat) : Bool :=
  let w := bindingAt (getCore s core) binding
  decide (binding ≠ 0) && admits s core (32 * (8 * bindAreg w)) && (match getTeam s core (bindTeam w) with
    | some t => ! t.halted && ! t.stopped
    | none => false)

/-- The messages of a core that may start activations, with their bindings, in arrival order (R57, R246). -/
def startable (s : State) (core : Nat) : List (Msg × Nat) :=
  (getCore s core).inbox.filterMap fun m =>
    if classMasked (getCore s core) m.cls then none
    else (msgBinding s core m).bind fun b => if canForm s core b then some (m, b) else none

/-- The messages that a group of a binding takes (R57, R68): up to 32 in arrival order, within 8 clocks of the first, none ahead of an earlier one of
its class that has another binding. -/
def groupMessages (l : List (Msg × Nat)) (binding : Nat) : List Msg :=
  let inOrder := fun (e : Msg × Nat) => (l.takeWhile fun d => d != e).all fun d => decide (d.2 = binding) || decide (d.1.cls ≠ e.1.cls)
  match l.filter fun e => decide (e.2 = binding) with
  | [] => []
  | e0 :: rest => (((e0 :: rest).take 32).takeWhile fun e => decide ((e.1.clock - e0.1.clock).toNat ≤ 8) && inOrder e).map Prod.fst

/-- The class and the binding whose messages start next (R57): the classes present take turns. -/
def nextStart (l : List (Msg × Nat)) (last : Nat) : Option (Nat × Nat) :=
  (List.range 16).findSome? fun i =>
    (l.find? fun e => e.1.cls % 16 = (last + 1 + i) % 16).bind fun e =>
      if (groupMessages l e.2).isEmpty then none else some ((last + 1 + i) % 16, e.2)

/-- HANDLER_GROUP_FORM (R57, R68, R94, R244): messages of the binding whose turn it is, once a slot and the registers are free. -/
def execHandlerGroupForm (core binding : Nat) (s : State) : Host.Outcome State Fault Refusal :=
  let s := purgeStale s core
  let l := startable s core
  match nextStart l (getCore s core).lastClass, freeSlot s core with
  | some (cls, b), some slot =>
    if b ≠ binding ∨ underTest s 0x0B core then .next s
    else
      let take := groupMessages l binding
      let w := bindingAt (getCore s core) binding
      let prv := ((getTeam s core (bindTeam w)).map Team.prv).getD 0
      let s := modCore s core fun k => { k with inbox := k.inbox.filter fun m => ! take.contains m, lastClass := cls }
      let s := makeGroup s core slot { team := bindTeam w, gid := 64 + slot, allot := 8 * bindAreg w, base := 0, kind := .handler binding }
      .next (((List.range take.length).zip take).foldl (fun s e => startActivation s ⟨core, slot, e.1⟩ w prv binding e.2) s)
  | _, _ => .next s

/-! ## The copy engine -/

/-- One 8-byte word (or the last bytes) of a copy; an overlapped word of the source may be read as it stood or as written (R405). -/
def copyWord (s : State) (core slice prv : Nat) (snap : State) (overlap : Bool) (src dst n : Nat) : State :=
  let (k, s) := freshFree s
  let (b, psn) := virtRead (if overlap && ! Config.seesNew k then snap else s) core slice prv src n
  virtWrite s core slice prv dst b psn

/-- Copies a row in 8-byte words. (DESIGN CHOICE, log 49) -/
def copyRow (s : State) (core slice prv src dst n : Nat) : State :=
  let overlap := decide (src < dst + n ∧ dst < src + n)
  (List.range ((n + 7) / 8)).foldl (fun t i => copyWord t core slice prv s overlap (src + 8 * i) (dst + 8 * i) (min 8 (n - 8 * i))) s

/-- The index words of a GATH. -/
def gathIndex (s : State) (core slice prv : Nat) (c : CopyCmd) (i : Nat) : Nat := leNat (virtRead s core slice prv (c.index.toNat + 4 * i) 4).1

/-- The address of element `i` of a GATH. -/
def gathAddr (s : State) (slice prv : Nat) (c : CopyCmd) (i : Nat) : Nat := c.src.toNat + gathIndex s c.f.core slice prv c i * c.elem

/-- The first element of a GATH whose check fails (R405). -/
def gathFails (s : State) (slice prv : Nat) (c : CopyCmd) : Option (Nat × Nat × Tr × Right) :=
  let region := regionOf c.src.toNat
  (List.range c.rows).findSome? fun i =>
    let a := gathAddr s slice prv c i
    (if a / 2 ^ 48 ≠ 0 then some (a, Tr.trap 4 1) else if a < 0x10000 then some (a, Tr.trap 3 0)
      else if a % c.elem ≠ 0 then some (a, Tr.trap 2 0) else if regionOf a ≠ region ∨ regionOf (a + c.elem - 1) ≠ region then some (a, Tr.trap 4 3)
      else rangeFails s c.f.core slice prv .rd a c.elem).map fun e => (i, e.1, e.2, Right.rd)

/-- The rows of a copy and the bytes of each (R403, R405): a GATH's are its elements. -/
def copyRows (c : CopyCmd) : Nat × Nat := (if c.kind = 0 then 1 else c.rows, if c.kind = 2 then c.elem else c.rowBytes)

/-- Source and destination of row `r` of a copy. -/
def copyPlace (s : State) (slice prv : Nat) (c : CopyCmd) (r : Nat) : Nat × Nat :=
  match c.kind with
  | 0 => (c.src.toNat, c.dst.toNat)
  | 1 => (c.src.toNat + r * c.srcStride, c.dst.toNat + r * c.dstStride)
  | _ => (gathAddr s slice prv c r, c.dst.toNat + r * c.elem)

/-- The next bytes of a command, as source, destination and count (R405): up to 64 of one row, or a whole row that overlaps itself. (DESIGN CHOICE,
log 49) -/
def copyChunk (s : State) (slice prv : Nat) (c : CopyCmd) : Nat × Nat × Nat :=
  let n := (copyRows c).2
  let a := copyPlace s slice prv c (c.pos / n)
  let off := c.pos % n
  (a.1 + off, a.2 + off, if a.1 < a.2 + n ∧ a.2 < a.1 + n then n - off else min 64 (n - off))

/-- Whether a place that an engine goes to must be waited for: its page migrates (R405), or a channel that it needs is paused (R308). -/
def placeHeld (s : State) (core slice prv : Nat) (r : Right) (va : Nat) : Bool :=
  match translate s core slice prv (BitVec.ofNat 64 va) 1 r false with
  | .ok t => (match t.loc with
    | .phys pa => migrates s pa || channelPaused s pa || evictPaused s t.home (pa / 64)
    | .cist _ _ => false)
  | _ => false

/-- Whether the copy engine waits before the next bytes of a command (R308, R405). -/
def copyHeld (s : State) (core slice prv : Nat) (c : CopyCmd) : Bool :=
  let (a, d, n) := copyChunk s slice prv c
  (partsOf (n / 64 + 2) a n).any (fun p => placeHeld s core slice prv .rd p.1) || (partsOf (n / 64 + 2) d n).any fun p => placeHeld s core slice prv .wr p.1

/-- The next bytes of a command are copied (R405); the bytes it has copied then. (DESIGN CHOICE, log 49) -/
def copyPart (s : State) (core slice prv : Nat) (c : CopyCmd) : State × Nat :=
  let (a, d, n) := copyChunk s slice prv c
  (copyRow s core slice prv a d n, c.pos + n)

/-- COPY_COMMAND_RUN (R225, R404, R405): the copy engine's first command goes on by one request, for which the send queue has a place. A page gone since
issue is posted with the issuing fibre's WHO, and the fibre parks on its mailbox; the command stays. A GATH stops before an element that fails.
(DESIGN CHOICE, log 49) (DESIGN CHOICE, log 86) -/
def execCopyCommandRun (core : Nat) (s : State) : Host.Outcome State Fault Refusal :=
  match (getCore s core).copyQ with
  | [] => .next s
  | c :: rest =>
    let done := fun (s : State) => accDone (modCore s core fun k => { k with copyQ := rest }) c.f c.acc
    match getFib s c.f with
    | none => .next (done s)
    | some x =>
      let parked := x.waits.any fun w => match w with | .mailbox pc _ _ => decide (pc = c.pc) | _ => false
      let sl := sliceOf s c.f
      let total := (copyRows c).1 * (copyRows c).2
      let late := if c.kind = 2 then gathFails s sl (fsrPRV x) c else none
      let next := c.pos / max 1 (copyRows c).2
      match (copyFails s c.f x c).map (fun e => (0, e)) |>.or late with
      | some (n, va, .trap cl d, _) =>
        if n ≤ next then
          .next (modFib (done s) c.f fun x => { x with asyncTrap := some (cl, d, BitVec.ofNat 64 va, c.pc.setWidth 64) })
        else if 96 ≤ shareUsed (getCore s core) false ∨ copyHeld s core sl (fsrPRV x) c then .next s
        else
          let r := copyPart s core sl (fsrPRV x) c
          .next (modCore r.1 core fun k => { k with copyQ := { c with pos := r.2 } :: rest })
      | some (_, va, .page k, r) =>
        .next (if parked then s else postPageFaults s core c.f.slot c.pc (copyAcc r) [(c.f.lane, BitVec.ofNat 64 va, k, .engine)])
      | some (_, _, .ok _, _) => .next s
      | none =>
        if total ≤ c.pos then .next (done s)
        else if 96 ≤ shareUsed (getCore s core) false ∨ copyHeld s core sl (fsrPRV x) c then .next s
        else
          let r := copyPart s core sl (fsrPRV x) c
          .next (if total ≤ r.2 then done r.1 else modCore r.1 core fun k => { k with copyQ := { c with pos := r.2 } :: rest })

end Sys2Proof.Machine
end

