-- ==== Sys2Proof/Machine/Auto.lean ====
section
/-!
DEFINITION. Whose turn it is when the schedule is empty, and the placing of one instruction for `State.withFetchWord`.
-/
namespace Sys2Proof.Machine

/-- The step that takes a packet on: a hop, or what its kind asks for at its destination (R210). -/
def packetStep (s : State) (p : Packet) : Instr :=
  if ! p.arrived then .packetHop p.id
  else
    match p.body with
    | .read _ => .readRequest p.id
    | .write _ => .writeRequest p.id
    | .atomic _ => .atomicRequest p.id
    | .reduce _ => .reductionRequest p.id
    | .combine _ _ _ _ _ _ _ _ _ _ | .cmbreg _ _ _ _ _ _ _ => .combineRequest p.id
    | .ordered _ _ _ _ _ _ => .sectionRequest p.id
    | .barArrive _ _ _ _ | .barSet _ _ _ _ _ _ _ _ => .barrierArrivalPacket p.id
    | .range _ _ _ _ _ => .rangeRequest p.id
    | .pumpCmd _ => .pumpCommand p.id
    | .lease _ _ _ _ _ _ => .leaseRequest p.id
    | .matrix _ => .matrixCommand p.id
    | .results _ _ _ _ _ _ | .failed _ _ | .combineDone _ _ _ _ _ => .longLatencyResult p.id
    | .ack _ _ => .writeAcknowledgement p.id
    | .secAnswer _ _ _ _ _ _ => .sectionGrant p.id
    | .engineDone _ _ _ _ _ _ => .engineCompletion p.id
    | .ray _ _ _ => .rayMessage p.id
    | .hit _ _ _ _ | .pixel _ _ _ _ _ _ _ => .hitRecord p.id
    | .work _ _ _ _ => .workGraphRecord p.id
    | .treelet _ _ _ _ => .treeletTransfer p.id
    | .migBlock _ _ _ _ => .migrationBlock p.id
    | .user _ => if p.tags.getLsbD 17 then .longLatencyResult p.id else .userMessage p.id
    | .launch _ _ _ _ _ => .launchMessage p.id
    | .codeLine _ _ _ _ => .codeLine p.id
    | .shape _ _ _ _ => .shapeStore p.id
    | .start _ _ _ _ => .startMessage p.id
    | .shoot _ _ _ _ => .shootDown p.id
    | .shootAck _ _ => .shootDownAcknowledgement p.id
    | .faults _ _ => .faultBatch p.id
    | .faultAnswer _ _ _ _ => .faultReply p.id
    | .ctl _ _ taken _ _ => .controlRegisterBroadcast p.id (((List.range 576).find? fun c => ! taken.contains c).getD 0)
    | .town sl _ _ taken _ _ _ _ => .controlRegisterBroadcast p.id (((getSlice s sl).cores.find? fun c => ! taken.contains c).getD 0)
    | .rate _ _ _ _ _ _ => .controlRegisterBroadcast p.id 0
    | .promote _ _ _ => .promotionRequest p.id
    | .promoteAck _ _ _ => .promotionAcknowledgement p.id
    | .inval _ _ _ _ => .pumpInvalidation p.id
    | .invalAck _ _ _ => .invalidationAcknowledgement p.id
    | .error _ => .errorLogEntry p.id
    | .migrate _ _ _ _ _ => .migrationControl p.id
    | .probe _ _ _ _ _ _ _ _ _ => .sectionDeadlockProbe p.id
    | .withdraw _ _ _ _ => .sectionWaitWithdrawal p.id
    | .completion _ _ _ _ => .barrierCompletion p.id
    | .credits sl t q n => if n = 0 then .creditBatchTake p.src sl t q else .creditReturn p.id

/-- The device's own steps that a core has work for. -/
def coreWork (c : Nat) (k : Core) : List Instr :=
  let nth := fun (n : Nat) (f : Nat → Instr) => (List.range n).map f
  (k.parts.flatMap fun p => nth p.2.buffer.length (.issueBufferAccept c p.1)) ++ (if k.claims.isEmpty then [] else [.claimGrant c]) ++
    nth k.sendQ.length (.sendQueueInject c) ++ (if k.loopback.isEmpty then [] else [.loopbackTransfer c]) ++
    (if k.inbox.isEmpty then [] else k.bindings.map fun b => .handlerGroupForm c b.1) ++ k.homeWait.map (.l2FillComplete c) ++
    nth k.walks.length (.tlbWalkComplete c) ++ (k.codeBad.map fun l => .codeRefetchComplete c l true) ++
    nth k.waves.length (.combinerWaveClose c) ++ nth k.waves.length (.combinerWaveStart c) ++
    (if k.copyQ.isEmpty then [] else [.copyCommandRun c]) ++ (k.rays.map fun r => .traversalNodeVisit c r.1) ++ nth k.spilled.length (.ringToBasinMove c) ++
    (k.bins.map fun b => .shadingWaveForm c b.1) ++
    (if k.faultQ.isEmpty then [] else [.faultServiceActivation c]) ++ (if k.shootQ.isEmpty then [] else [.shootDownProcess c])

/-- The device's own steps that a slice has work for. -/
def sliceWork (n : Nat) (x : Slice) : List Instr :=
  (if x.queues.isEmpty ∧ x.pending.isEmpty ∧ x.pendSpill.isEmpty ∧ x.tasks.all (fun t => t.2.started && ! t.2.past) then [] else [.launchPlacement n]) ++
    (x.tasks.map fun t => .gridEnd n t.1) ++ (if x.frames.isEmpty then [] else [.encoderFrameComplete (x.enc.toNat % 8)]) ++
    (if x.migration.isSome then [.migrationPassEnd n] else []) ++ (if x.saved.any fun v => ! v.complete then [.preemptionSaveComplete n] else []) ++
    (match x.ccmd with
     | w :: _ => (match w.toNat % 8 with
       | 1 => [.ccmdPreempt n] | 2 => [.ccmdResume n] | 3 => [.ccmdDebugStop n] | 4 => [.ccmdDebugResume n] | _ => [.ccmdSingleStep n])
     | [] => [])

/-- What has work now: partitions with a batch or a ready candidate, and the device's own steps but those that the host or a time brings on.
(DESIGN CHOICE, log 27) -/
def workList (s : State) : List Turn :=
  let parts := s.cores.flatMap fun e => (List.range 8).filterMap fun p =>
    if (getPart s e.1 p).batch.isSome ∨ ¬ (candidates s e.1 p).isEmpty ∨ (e.2.stoppedBatches.any fun b => b.1 = p) then some (Turn.issue e.1 p) else none
  let device : List Instr :=
    s.mesh.map (packetStep s) ++ (if s.tokenQ.isEmpty then [] else [.tokenGrant]) ++ (if s.ckpt = 1 then [.ckptStart] else []) ++ (s.cores.flatMap fun e => coreWork e.1 e.2) ++
      (s.slices.flatMap fun e => sliceWork e.1 e.2) ++
      (s.blocks.flatMap fun b => (if b.2.requests.isEmpty ∧ b.2.leases.isEmpty then [] else [.leaseGrant b.1, .matrixTileStep b.1])) ++
      (s.stackUnits.flatMap fun u => (List.range u.2.queue.length).flatMap fun n => [.pumpCommandStart u.1 n, .pumpCommandComplete u.1 n])
  parts ++ device.map Turn.device

/-- The turn taken when the schedule is empty: the partition whose turn it was while it has a batch, else what has work, each in its turn by the
clock. -/
def autoTurn (s : State) : Turn :=
  if (getPart s s.turn.1 s.turn.2).batch.isSome then .issue s.turn.1 s.turn.2
  else
    let l := workList s
    (l[s.clk.toNat % max 1 l.length]?).getD (.issue s.turn.1 s.turn.2)

/-- The next turn, taken off the schedule. (DESIGN CHOICE, log 3) -/
def takeTurn (s : State) : Turn × State :=
  match s.schedule with
  | t :: rest => (t, { s with schedule := rest })
  | [] => (autoTurn s, s)

/-- The core that an instruction is placed on: a ray core for one that needs it, else a shade core (R21, R341). -/
def placeCore (w : Bits96) : Nat :=
  match ofOpcode (w.extractLsb' 86 10) (headOf w) w with
  | some i => if i.needsRay = some true then 12 else 0
  | none => 0

/-- The team of a placed instruction: one core, one cluster, one group, package privilege. -/
def placedTeam : Team :=
  { uid := 0, slice := 0, task := 0, prv := 2, crank := 0, cluster := 0, gridx := 0, gridy := 0, gridz := 0, gx := 1, gy := 1, gz := 1, cw := 1,
    ch := 1, corner := 0, allot := 256, shape := 0, codeObj := 0, entry := 0, vectors := [], completions := [], watchdog := 0,
    halted := false, stopped := false, ending := false, stoppedAt := 0, banks := [], heard := false }

/-- The fetch line that holds an instruction in slot 0, marked, with its run-end bit, the line's engine hint and its parity bits (R142, R326). -/
def placedLine (w : Bits96) : List Word :=
  let ws : List Word := [w.extractLsb' 0 32, w.extractLsb' 32 32, w.extractLsb' 64 32] ++ List.replicate 12 0
  let lw : Word := BitVec.ofNat 32 (2 ^ 13 + 2 ^ 8 + (if isEng (w.toNat / 2 ^ 86) then 2 ^ 7 else 0))
  ws ++ [lw ||| BitVec.ofNat 32 (lineParity ws * 2 ^ 24)]

/-- Places one instruction (see `State.withFetchWord`). (DESIGN CHOICE, log 6) -/
def placeWord (s : State) (w : Bits96) : State :=
  let c := placeCore w
  let tok := if drawsToken (w.toNat / 2 ^ 86) then 1 else 0
  let s := modSlice s 0 fun x => { x with cores := [c], stackMask := 0xFFFF }
  let s := modCore s c fun k => { k with
    slice := some 0
    poolFree := 131072 - 32 * 256
    code := [(0, placedLine w)]
    objects := [{ slice := 0, code := 0, ver := 0, first := 0, lines := 1, started := 0 }]
    parts := [(0, { Partition.idle with batch := some {
      slot := 0, lanes := [0], pc := 0, count := 0, line := none, atPacket := true, runEnd := false, packetEnd := false, tokens := tok, cpend := [],
      seen := [], live := [], stepped := false } })] }
  { s with
    groups := [((c, 0), { team := 0, gid := 0, allot := 256, base := 0, kind := .start })]
    teams := [((c, 0), placedTeam)]
    fibres := [(⟨c, 0, 0⟩, newFibre 256 0 1 (fsrNew 2 false false) [] Origin.none)]
    tokensUsed := s.tokensUsed + tok
    turn := (c, 0)
    schedule := [] }

end Sys2Proof.Machine
end

