-- ==== Sys2Proof/Machine/DevMesh.lean ====
section
/-!
DEFINITION. The mesh and the homes (R26-R32, R126-R132, R142, R180, R192-R200, R227, R236, R258, R260, R273, R400): the hop of a packet,
requests at their homes, fills, promotions, walks, code refetch, control-register broadcasts, the error logger.
-/
namespace Sys2Proof.Machine

/-! ## Packet hops -/

/-- Whether a packet's sender awaits an answer to it. -/
def awaitsAnswer (b : Body) : Bool :=
  match b with
  | .read _ | .write _ | .atomic _ | .reduce _ | .combine _ _ _ _ _ _ _ _ _ _ | .cmbreg _ _ _ _ _ _ _ | .ordered _ _ _ _ _ _ | .range _ _ _ _ _ => true
  | .user w => (replyTagOf w).isSome
  | _ => false

/-- A packet leaves the package by its span port, and its place in the port's buffer is free (R30, R227); one whose answer is awaited stays known until
the link is lost. (DEDUCED, log 58) -/
def leaveSpan (s : State) (p : Packet) : State :=
  if awaitsAnswer p.body then { s with mesh := s.mesh.map fun q => if q.id = p.id then { q with side := 10 } else q } else dropPacket s p.id

/-- A launch window by function and number (R316, R317): (0, 0) is the package window, (n + 1, w) window w of slice n. -/
def getWindow (s : State) (w : Nat × Nat) : Window :=
  match w.1 with
  | 0 => s.pkgWindow
  | n + 1 => tgetD (getSlice s n).windows w.2 { record := [], sent := 0, field := 0, cause := 0, waiting := [] }

/-- Replaces a launch window. -/
def putWindow (s : State) (w : Nat × Nat) (x : Window) : State :=
  match w.1 with
  | 0 => { s with pkgWindow := x }
  | n + 1 => modSlice s n fun y => { y with windows := tput y.windows w.2 x }

/-- The launch message of a doorbell leaves the host port (R317). -/
def sendDoorbell (s : State) (w : Nat × Nat) (slice level : Nat) (record : List Word) : State :=
  emitFrom true s .sys 0x01 hostPort hostPort 4 0 (.launch slice level record (some w) none)

/-- Once a window's launch message has entered its router, the next waiting doorbell of the window sends (R317). -/
def nextDoorbell (s : State) (p : Packet) : State :=
  match p.body with
  | .launch _ _ _ (some w) _ =>
    if s.mesh.any fun q => decide (q.id = p.id) && decide (q.side = 6 ∨ q.side = 9) then s
    else
      match (getWindow s w).waiting with
      | (sl, lvl, r) :: rest => sendDoorbell (putWindow s w { getWindow s w with waiting := rest }) w sl lvl r
      | [] => s
  | _ => s

/-- PACKET_HOP (R25-R32, R209, R211, R227, R310, R317): a packet enters its source router, goes one link on, or leaves the mesh at its destination, where an
output port grants it; at the NI a pair that R210 does not list is dropped and counted. A reply to a saved context is kept in its message log. One
for another package leaves by its span port. (DESIGN CHOICE, log 7) (DEDUCED, log 58) -/
def execPacketHop (id : Nat) (s : State) : Host.Outcome State Fault Refusal :=
  match getPacket s id with
  | none => .next s
  | some p =>
    if p.arrived ∨ p.side = 10 ∨ underTest s 0x08 p.pos then .next s
    else if p.side = 6 ∨ p.side = 9 then .next (nextDoorbell (enterRouter s p) p)
    else if p.side = 7 then .next (if notFirst s p then s else leaveSpan s p)
    else
      let port := nextPort s p
      if ! granted s p port then .next s
      else
        let s := turnTaken s p port
        match movedBy p port with
        | none => .next s
        | some q =>
          if q.arrived ∧ ! listedKind p.vc p.kind then
            let s := bump (dropPacket s id) p.dst 0x008 1
            .next (match p.body with
              | .user w => (match replyTagOf w with | some t => sendFailed s p.dst p.src p.spkg t 0x07 | none => s)
              | _ => s)
          else
            match (if q.arrived then savedFor s q else none) with
            | some (sl, task) => .next (keepMessage (dropPacket s id) sl task q)
            | none => .next (enterBuffer s q)

/-! ## Requests at a home -/

/-- Whether a request of the same source for the same bytes is still on its way to, or held for, the old place of a page whose entry has been switched: its
old home forwards it first (R202). -/
def heldBefore (s : State) (p : Packet) : Bool :=
  s.slices.any fun e => match e.2.migration with
    | some m => m.switched && (m.held ++ s.mesh ++ s.cores.flatMap fun k => k.2.sendQ.map SendEntry.packet).any fun q => sameSource p q &&
        (bodyLanes q.body).any fun a => decide (moveLoc m a.loc ≠ a.loc) && (bodyLanes p.body).any fun b => lanesMeet { a with loc := moveLoc m a.loc } b
    | none => false

/-- Whether a request may not be served yet: one that waits stands before it in its buffer (R209), or an earlier request of the same source for the same
bytes (R176, R202). -/
def requestBlocked (s : State) (p : Packet) : Bool :=
  ejectBlocked s p || heldBefore s p || s.mesh.any fun q => q.arrived && decide (q.dst = p.dst) && decide (q.order < p.order) && sameSource p q &&
    (bodyLanes q.body).any fun a => (bodyLanes p.body).any fun b => lanesMeet a b

/-- The slice whose move of a page, since its switch, holds the requests for a piece, which its old home will forward (R141, R144). -/
def migrationHolds (s : State) (pc : Nat) : Option Nat :=
  (s.slices.find? fun e => match e.2.migration with
    | some m => m.switched && decide (m.oldPa / 64 ≤ pc) && decide (pc < (m.oldPa + m.bytes) / 64)
    | none => false).map Prod.fst

/-- Whether the lanes of a store cover a whole piece (R128). -/
def coversPiece (l : List LaneReq) : Bool :=
  (List.range 64).all fun i => l.any fun q => match q.loc with
    | .phys pa => decide (pa % 64 ≤ i) && decide (i < pa % 64 + q.op.size)
    | .cist _ _ => false

/-- Whether a scope is narrower than .pk (R178, R193). -/
def narrowScope (n : Nat) : Bool := decide (n < 7)

/-- Whether a lane is a release narrower than .pk, as its place raises its scope (R179, R193). -/
def narrowRelease (s : State) (q : LaneReq) : Bool := q.op.rel && narrowScope (effScope s (some q.loc) q.op.scope)

/-- The promotion that a request needs first (R192, R193): the tagged core. -/
def promotionNeeded (s : State) (p : Packet) (pc : Piece) (l : List LaneReq) : Option Nat :=
  let t := pc.promo.toNat
  if t = 0x3FF ∨ t = p.src then none
  else if l.any fun q => (q.op.rem && q.op.acq) || narrowRelease s q then some t
  else none

/-- The promotion tag after a release (R193): a narrower one names its core; one of .pk or wider by the tagged core clears it. -/
def promoAfter (s : State) (p : Packet) (old : BitVec 10) (l : List LaneReq) : BitVec 10 :=
  l.foldl (fun (t : BitVec 10) q =>
    if ! q.op.rel then t
    else if narrowRelease s q then BitVec.ofNat 10 p.src
    else if t.toNat = p.src then 0x3FF else t) old

/-- Writes a piece's promotion tag; of an absent piece, the tag is owed until its core has been promoted (R193). -/
def setPromo (s : State) (home pc : Nat) (t : BitVec 10) : State :=
  modCore s home fun k => { k with
    l2 := k.l2.map fun e =>
      if e.g = pc / 32 then { e with pieces := e.pieces.map fun x => if x.1 = pc % 32 then (x.1, { x.2 with promo := t }) else x } else e
    promoOwed := if (l2Piece k pc).isSome ∨ t = 0x3FF then k.promoOwed else k.promoOwed ++ [(pc, t.toNat)] }

/-- The core that an absent piece's tag named when it left (R193). -/
def promoOwing (s : State) (home pc : Nat) : Option Nat := ((getCore s home).promoOwed.find? fun e => e.1 = pc).map Prod.snd

/-- Whether a promotion of a piece is under way. -/
def promoting (s : State) (home pc : Nat) : Bool :=
  s.mesh.any fun q => match q.body with
    | .promote h c _ => decide (h = home ∧ c = pc)
    | .promoteAck c _ _ => decide (q.dst = home ∧ c = pc)
    | _ => false

/-- Asks a core to promote its narrower releases of a piece, once (R192, R193). -/
def askPromotion (s : State) (home pc core : Nat) : State :=
  if promoting s home pc then s else emit s .sys 0x0A home core 1 0 (.promote home pc false)

/-- Answers the lanes of a served request (R48, R180): results where the lane awaits any, else the acknowledgement. -/
def answerLane (s : State) (home kind : Nat) (q : LaneReq) (effs : List Eff) (psn : Nat) : State :=
  if q.ll ≠ 0 then sendResults s kind home q.f q.gen q.ll q.acc psn effs else sendAck s home q.f q.acc

/-- Performs one lane at its home and answers it, with the replay filter for a remote atomic (R199, R203, R273). (DEDUCED, log 63) -/
def performLane (s : State) (home kind : Nat) (p : Packet) (q : LaneReq) : State :=
  match (if remoteRmw s p q then replayed s home p q else none) with
  | some v => answerLane s home kind q (atomEffs q.op (q.op.retryId.getD 0) v.toNat) 0
  | none =>
    let old := leNat (locRead s home q.loc q.op.size).1
    let (s, effs, psn) := serveLane s home q
    let s := if remoteRmw s p q then modCore s home fun k => { k with replay := k.replay.filter (fresh s) ++ [{
        rid := q.op.retryId.getD 0, spkg := p.spkg, score := p.src, res := BitVec.ofNat 64 old, t := loHalf s.time }] } else s
    answerLane s home kind q (if remoteRmw s p q then atomEffs q.op (q.op.retryId.getD 0) old else effs) psn

/-- A store that covers its piece is performed as one write, without a fetch (R128). -/
def performWhole (s : State) (home pc : Nat) (l : List LaneReq) : State :=
  let data := l.foldl (fun d q => match q.loc with | .phys pa => spliceBytes d (pa % 64) (storeBytes q.op) | .cist _ _ => d) (List.replicate 64 0)
  let wt := l.any LaneReq.wt; let bcmp := l.any LaneReq.bcmp
  l.foldl (fun s q => answerLane s home 2 q [] 0) (homeWrite s home (pc * 64) data wt bcmp 0)

/-- A request waits for the fetch of its absent piece, a miss (R128, R288); its home has taken it. A piece that has gone again before the request is
served is fetched again. -/
def awaitFill (s : State) (p : Packet) (pc : Nat) : State :=
  let s := if p.side = 8 then s else perfEvent { s with mesh := s.mesh.map fun q => if q.id = p.id then { q with side := 8 } else q } p.dst 0x0A 1 none none
  modCore s p.dst fun k => { k with homeWait := if k.homeWait.contains pc then k.homeWait else k.homeWait ++ [pc] }

/-- A request translated before its home's L2 slice was retired (R120): every lane's access is posted as "home retired", and its fibre parks. -/
def homeRetired (s : State) (p : Packet) (l : List LaneReq) : State :=
  l.foldl (fun s q =>
    let s := modFib s q.f fun x => { x with accs := x.accs.map fun a => if a.id = q.acc then { a with loc := none, sent := false } else a }
    postPageFaults s q.f.core q.f.slot q.op.pc (accOfOp q.op) [(q.f.lane, eaOf s q.f q.op, 2, .mem q)]) (dropPacket s p.id)

/-- A range operation, COMBINE or CMBREG that comes to a home whose L2 slice is retired (R120): its access is posted as "home retired", and its fibre parks
until the instruction is done again. -/
def postRetired (s : State) (p : Packet) (f : FRef) (acc code : Nat) : State :=
  let s := dropPacket s p.id
  match (getFib s f).bind fun x => (x.accs.find? fun a => a.id = acc).bind Acc.redo with
  | some (pc, va, i, regs) => postPageFaults s f.core f.slot pc code [(f.lane, va, 2, .instr i regs acc)]
  | none => s

/-- Whether a .rem acquire may not be performed yet: a narrower release of the same piece that arrived in its clock goes first (R207). -/
def tieWaits (s : State) (p : Packet) (l : List LaneReq) : Bool :=
  (l.any fun q => q.op.rem && q.op.acq) && (decide (p.came = s.clk) || s.mesh.any fun r => r.arrived && decide (r.dst = p.dst) && decide (r.came = p.came) &&
    decide (r.src ≠ p.src) && reqPiece (bodyLanes r.body) == reqPiece l && (bodyLanes r.body).any (narrowRelease s))

/-- Whether a PIN of another piece of the same set came to the home before this request (R144). -/
def pinBefore (s : State) (p : Packet) (pc : Nat) : Bool :=
  s.mesh.any fun q => q.arrived && decide (q.dst = p.dst) && decide (q.came ≠ p.came) && decide (q.order < p.order) && (match q.body with
    | .range 3 _ _ pcs _ => pcs.any fun c => decide (l2Set (c / 32) = l2Set (pc / 32))
    | _ => false)

/-- Whether a home's L2 slice, its data or its tags, is under self-test (R305). -/
def l2Testing (s : State) (home : Nat) : Bool := underTest s 0x02 home || underTest s 0x03 home

/-- A narrower release of the tagged core, issued after a promotion of the piece reached that core, outlives the acknowledgement (R192, R193). -/
def renewTag (s : State) (p : Packet) (pc : Nat) (l : List LaneReq) : State :=
  let after := fun (stamp : Nat) => l.any fun q => narrowRelease s q && decide (stamp < q.acc)
  { s with mesh := s.mesh.map fun q => match q.body with
      | .promote h c false => if h = p.dst ∧ c = pc ∧ q.dst = p.src ∧ q.arrived ∧ after q.order then { q with body := .promote h c true } else q
      | .promoteAck c n false => if q.dst = p.dst ∧ c = pc ∧ q.src = p.src ∧ after n then { q with body := .promoteAck c n true } else q
      | _ => q }

/-- Performs a request whose piece is absent and has no place, or needs none (R128, R193, R288): a miss. -/
def serveAbsent (s : State) (p : Packet) (l : List LaneReq) (kind pc : Nat) : State :=
  let s := if p.side = 8 then s else perfEvent s p.dst 0x0A 1 none none
  let t := dropPacket s p.id
  let t := if kind = 2 ∧ coversPiece l then performWhole t p.dst pc l
    else l.foldl (fun s q => performLane s p.dst kind p q) (if kind = 1 then bump t p.dst 0x00C 1 else t)
  match l.any (narrowRelease s), promoAfter s p 0x3FF l with
  | true, tag => setPromo (renewTag t p pc l) p.dst pc tag
  | false, _ => t

/-- Performs a request on its present piece (R193, R288): a hit, unless it has waited for the piece. -/
def servePresent (s : State) (p : Packet) (l : List LaneReq) (kind pc : Nat) (x : Piece) : State :=
  let s := l2Touch s p.dst (pc / 32)
  let s := if p.side = 8 then s else perfEvent s p.dst 0x09 1 none none
  let t := dropPacket s p.id
  let t := if kind = 2 ∧ coversPiece l then performWhole t p.dst pc l else l.foldl (fun s q => performLane s p.dst kind p q) t
  if l.any fun q => q.op.rel then setPromo (renewTag t p pc l) p.dst pc (promoAfter s p x.promo l) else t

/-- Serves a request for a paged piece (R120, R128, R137, R141, R144, R192, R193, R207, R305). -/
def servePiece (s : State) (p : Packet) (l : List LaneReq) (kind pc : Nat) : State :=
  let home := p.dst
  if (getCore s home).l2Failed then homeRetired s p l
  else if l2Testing s home ∨ tieWaits s p l then s
  else if (channelPaused s (pc * 64) ∧ ((l2Piece (getCore s home) pc).isNone ∨ l.any LaneReq.wt)) ∨ (kind ≠ 1 ∧ evictPaused s home pc) then s
  else
    match migrationHolds s pc with
    | some sl => modSlice (dropPacket s p.id) sl fun x => { x with migration := x.migration.map fun m => { m with held := m.held ++ [p] } }
    | none =>
      match l2Piece (getCore s home) pc with
      | none =>
        if pinBefore s p pc then s
        else
          match promoOwing s home pc with
          | some c => askPromotion s home pc c
          | none => if ! (decide (kind = 2) && coversPiece l) && l2CanFill s home pc then awaitFill s p pc else serveAbsent s p l kind pc
      | some x =>
        match promotionNeeded s p x l with
        | some c => askPromotion s home pc c
        | none => servePresent s p l kind pc x

/-- Serves a request packet of kind `kind` at its home, or leaves it waiting (R128, R176, R199, R200, R273). -/
def serveRequest (s : State) (p : Packet) (l : List LaneReq) (kind : Nat) : State :=
  if requestBlocked s p ∨ filterFull s p.dst p l then s
  else
    match reqPiece l with
    | none => l.foldl (fun s q => performLane s p.dst kind p q) (dropPacket s p.id)
    | some pc => servePiece s p l kind pc

/-- READ_REQUEST (R128, R174, R192, R200). -/
def execReadRequest (id : Nat) (s : State) : Host.Outcome State Fault Refusal :=
  match arrivedPacket s id with
  | some p => (match p.body with | .read l => .next (serveRequest s p l 1) | _ => .next s)
  | none => .next s

/-- WRITE_REQUEST (R128, R130, R141, R193). -/
def execWriteRequest (id : Nat) (s : State) : Host.Outcome State Fault Refusal :=
  match arrivedPacket s id with
  | some p => (match p.body with | .write l => .next (serveRequest s p l 2) | _ => .next s)
  | none => .next s

/-- ATOMIC_REQUEST (R199, R203, R273). -/
def execAtomicRequest (id : Nat) (s : State) : Host.Outcome State Fault Refusal :=
  match arrivedPacket s id with
  | some p => (match p.body with | .atomic l => .next (serveRequest s p l 3) | _ => .next s)
  | none => .next s

/-- REDUCTION_REQUEST (R199, R203, R273). -/
def execReductionRequest (id : Nat) (s : State) : Host.Outcome State Fault Refusal :=
  match arrivedPacket s id with
  | some p => (match p.body with | .reduce l => .next (serveRequest s p l 3) | _ => .next s)
  | none => .next s

/-- L2_FILL_COMPLETE (R126-R128, R136): the piece comes in, with evictions as needed; a retired slice takes none (R120). -/
def execL2FillComplete (core piece : Nat) (s : State) : Host.Outcome State Fault Refusal :=
  let mine := s.mesh.filter fun q => q.arrived && decide (q.dst = core) && decide (q.side = 8) && reqPiece (bodyLanes q.body) == some piece
  if (getCore s core).homeWait.contains piece ∧ ! channelPaused s (piece * 64) ∧ ! evictPaused s core piece ∧ ! l2Testing s core then
    let s := modCore s core fun k => { k with homeWait := k.homeWait.filter fun n => decide (n ≠ piece) }
    .next (if (getCore s core).l2Failed ∨ ((l2Piece (getCore s core) piece).isNone ∧ ! l2CanFill s core piece) then s else l2Fill s core piece (mine.any fun q => (bodyLanes q.body).any LaneReq.bcmp))
  else .next s

/-- PIN of the pieces of one granule (R129): refused and counted, or each piece is pinned. -/
def pinGranule (s : State) (home g : Nat) (pcs : List Nat) (bcmp : Bool) : State :=
  if pinRefused s home g pcs then bump s home 0x010 1 else pcs.foldl (fun s pc => l2Pin s home pc bcmp) s

/-- A home's part of a range operation (R400): 0 PREF, 1 FLUSH, 2 INVL, 3 PIN, 4 UNPIN. -/
def rangePart (s : State) (home opc : Nat) (pcs : List Nat) (bcmp : Bool) : State :=
  match opc with
  | 0 => pcs.foldl (fun s pc => if (l2Piece (getCore s home) pc).isSome ∨ l2CanFill s home pc then l2Fill s home pc bcmp else s) s
  | 1 => l2Flush s home pcs
  | 2 => l2Invalidate s home pcs
  | 3 => (pcs.map (· / 32)).dedup.foldl (fun s g => pinGranule s home g (pcs.filter fun pc => decide (pc / 32 = g)) bcmp) s
  | _ => pcs.foldl (fun s pc => l2Unpin s home pc) s

/-- Whether a request that came before must be served first: of the same source for a piece of the range, and before a PIN any that waits for a piece of
one of its sets (R144). -/
def rangeBlocked (s : State) (p : Packet) (opc : Nat) (pcs : List Nat) : Bool :=
  ejectBlocked s p || s.mesh.any fun q => q.arrived && decide (q.dst = p.dst) && (match reqPiece (bodyLanes q.body) with
    | some pc => (decide (q.order < p.order) && (reqCores q).contains p.src && pcs.contains pc) ||
        (decide (opc = 3) && (decide (q.order < p.order) || decide (q.came = p.came)) && pcs.any fun c => decide (l2Set (c / 32) = l2Set (pc / 32)))
    | none => false)

/-- Whether a range operation waits: its slice is under test or a channel that it needs is paused (R305, R308), or a PIN meets a page under
migration (R144). -/
def rangeWaits (s : State) (p : Packet) (opc : Nat) (pcs : List Nat) : Bool :=
  rangeBlocked s p opc pcs || l2Testing s p.dst || (decide (opc ≠ 4) && pcs.any fun pc => channelPaused s (pc * 64) || ((opc == 0 || opc == 3) && evictPaused s p.dst pc)) ||
    (decide (opc = 3) && pcs.any fun pc => migrates s (pc * 64))

/-- The first absent piece that a PREF or PIN would bring in while its tag is owed a promotion (R193). -/
def rangeOwes (s : State) (home opc : Nat) (pcs : List Nat) : Option (Nat × Nat) :=
  if opc ≠ 0 ∧ opc ≠ 3 then none
  else pcs.findSome? fun pc => if (l2Piece (getCore s home) pc).isSome then none else (promoOwing s home pc).map fun c => (pc, c)

/-- RANGE_REQUEST (R129, R130, R144, R193, R305, R400). -/
def execRangeRequest (id : Nat) (s : State) : Host.Outcome State Fault Refusal :=
  match arrivedPacket s id with
  | some p => (match p.body with
    | .range opc f acc pcs bcmp =>
      if rangeWaits s p opc pcs then .next s
      else
        match rangeOwes s p.dst opc pcs with
        | some (pc, c) => .next (askPromotion s p.dst pc c)
        | none =>
          if (getCore s p.dst).l2Failed then .next (if acc = 0 then dropPacket s id else postRetired s p f acc (accCode .ls 0))
          else
            let t := rangePart (dropPacket s id) p.dst opc pcs bcmp
            .next (if acc = 0 then t else sendAck t p.dst f acc)
    | _ => .next s)
  | none => .next s

/-! ## Promotion -/

/-- Whether a core's fibres still have writes outstanding that they issued before a promotion request came (R192), also ones whose page is still to come. -/
def writesBefore (s : State) (core ord : Nat) : Bool :=
  s.fibres.any fun e => decide (e.1.core = core) && e.2.accs.any fun a => a.writes && a.fence.isNone && isFibrePath a.path && a.arrive.isNone &&
    decide (a.size ≠ 0) && decide (a.ord < ord)

/-- PROMOTION_REQUEST (R192, R205): once the core's earlier writes are performed, it acknowledges. -/
def execPromotionRequest (id : Nat) (s : State) : Host.Outcome State Fault Refusal :=
  match arrivedPacket s id with
  | some p => (match p.body with
    | .promote home pc again =>
      .next (if writesBefore s p.dst p.order then s else emit (dropPacket s id) .sys 0x0B p.dst home 1 0 (.promoteAck pc p.order again))
    | _ => .next s)
  | none => .next s

/-- The packets that wait at a home for a piece, in order. -/
def waitingFor (s : State) (home pc : Nat) : List Packet :=
  s.mesh.filter fun q => q.arrived && decide (q.dst = home) && reqPiece (bodyLanes q.body) == some pc

/-- PROMOTION_ACKNOWLEDGEMENT (R192, R193): the tag clears, unless a later release of the core stands under it, and the waiting acquire or release is
performed. -/
def execPromotionAcknowledgement (id : Nat) (s : State) : Host.Outcome State Fault Refusal :=
  match arrivedPacket s id with
  | some p => (match p.body with
    | .promoteAck pc _ again =>
      let s := if again then dropPacket s id
        else setPromo (modCore (dropPacket s id) p.dst fun k => { k with promoOwed := k.promoOwed.filter fun e => e.1 ≠ pc }) p.dst pc 0x3FF
      .next ((waitingFor s p.dst pc).foldl (fun s q => match q.body with
        | .read l => serveRequest s q l 1
        | .write l => serveRequest s q l 2
        | .atomic l | .reduce l => serveRequest s q l 3
        | _ => s) s)
    | _ => .next s)
  | none => .next s

/-! ## Walks, code, filters -/

/-- TLB_WALK_COMPLETE (R117, R256-R260, R319): a leaf whose page passes the physical checks fills the TLB; any other outcome is found again by
the access. -/
def execTlbWalkComplete (core n : Nat) (s : State) : Host.Outcome State Fault Refusal :=
  match (getCore s core).walks[n]? with
  | none => .next s
  | some (slice, va) =>
    let s := modCore s core fun k => { k with walks := k.walks.take n ++ k.walks.drop (n + 1) }
    .next (match pageOf s core slice va.toNat with | .ok e => tlbFill s core e | .error _ => s)

/-- The code object that holds a line of a core's store. -/
def lineObject (k : Core) (line : Nat) : Option CodeObj := k.objects.find? fun o => decide (o.first ≤ line) && decide (line < o.first + o.lines)

/-- FETCH_PARITY_ERROR (R142, R305, R327): a bit of a line has changed. -/
def execFetchParityError (core line : Nat) (s : State) : Host.Outcome State Fault Refusal :=
  match lineObject (getCore s core) line with
  | none => .next s
  | some o =>
    .next (if (getCore s core).codeBad.contains line then s else parityError s core line o.slice)

/-- A line has been refetched (R328, R350): a batch that stands in it has it checked again. -/
def checkAgain (s : State) (core line : Nat) : State :=
  let again := fun (b : Batch) => if b.line = some line then { b with line := none } else b
  modCore s core fun k => { k with
    parts := k.parts.map fun p => (p.1, { p.2 with batch := p.2.batch.map again })
    stoppedBatches := k.stoppedBatches.map fun b => (b.1, again b.2) }

/-- CODE_REFETCH_COMPLETE (R142, R304): the line read from CODE again; a second parity error is uncorrectable, consumed by the batches that
fetch the line. -/
def execCodeRefetchComplete (core line : Nat) (good : Bool) (s : State) : Host.Outcome State Fault Refusal :=
  let k := getCore s core
  match (if k.codeBad.contains line then lineObject k line else none) with
  | none => .next s
  | some o =>
    match (if good then niRead s core o.slice (o.code.toNat + 64 * (line - o.first)) 64 else none).filter fun b => parityOk (wordsOf b) with
    | some b => .next (checkAgain (writeLine s core line (wordsOf b)) core line)
    | none =>
      let fs : List FRef := k.parts.flatMap fun p => match p.2.batch with
        | some b => if b.pc.toNat / 64 = line then b.lanes.map fun l => ⟨core, b.slot, l⟩ else []
        | none => []
      .next (if fs.isEmpty then logError s 0x03 0x05 core core 0xFFFF o.slice (BitVec.ofNat 64 line) else fs.foldl (fun s f => consumeError s f 0x05) s)

/-- REPLAY_FILTER_EXPIRY (R273): an entry is freed 64,000 ns after its performance. -/
def execReplayFilterExpiry (core n : Nat) (s : State) : Host.Outcome State Fault Refusal :=
  match (getCore s core).replay[n]? with
  | none => .next s
  | some r =>
    .next (if fresh s r then s
      else modCore s core fun k => { k with replay := k.replay.take n ++ k.replay.drop (n + 1) })

/-! ## The error logger -/

/-- The 64 bytes of an error-log entry (R237). -/
def errorBytes (e : ErrEntry) : List Byte :=
  leBytes 8 e.time.toNat ++ leBytes 1 e.ekind ++ leBytes 1 e.struct ++ leBytes 2 e.core ++ leBytes 2 e.stack ++ leBytes 2 (e.slice % 8) ++
    leBytes 8 e.addr.toNat ++ leBytes 8 e.synd.toNat ++ (bytesOf e.detail ++ List.replicate 32 0).take 32

/-- Writes one entry into the ring, or drops and counts it (R236); MSI-X vector 0 of PF0 tells of it (R314). -/
def logEntry (s : State) (e : ErrEntry) : State :=
  let a := (ctlHome s 0x006).toNat
  let d := (memRead s a 64).1
  let word := fun i => leNat ((d.drop i).take 8)
  let base := word 0; let size := leNat ((d.drop 8).take 4)
  let w := word 0x10; let r := word 0x18
  if size ≠ 0 ∧ (w + 2 ^ 64 - r) % 2 ^ 64 < size then
    let s := memWrite s (base + w % size * 64) (errorBytes e) 0 false
    let s := memWrite s (a + 0x10) (leBytes 8 (w + 1)) 0 false
    { s with msix := s.msix ++ [(0, 0)] }
  else memWrite s (a + 0x20) (leBytes 8 (word 0x20 + 1)) 0 false

/-- Entries kept while CTL.ERRQ was zero are written once it is set (R110). -/
def flushEarly (s : State) : State :=
  if ctlHome s 0x006 = 0 then s else s.earlyErrors.foldl logEntry { s with earlyErrors := [] }

/-- ERROR_LOG_ENTRY (R110, R236, R237, R314): in arrival order, once the clock of the arrival is over, so that a write to RIDX of that clock counts first. -/
def execErrorLogEntry (id : Nat) (s : State) : Host.Outcome State Fault Refusal :=
  match arrivedPacket s id with
  | some p => (match p.body with
    | .error e =>
      if p.came = s.clk ∨ earlierWaits s p ∨ behindSame s p then .next s
      else
        let s := flushEarly (dropPacket s id)
        .next (if ctlHome s 0x006 ≠ 0 then logEntry s e
          else if s.earlyErrors.length < 16 then { s with earlyErrors := s.earlyErrors ++ [e] } else s)
    | _ => .next s)
  | none => .next s

/-! ## Shared registers -/

/-- The key of the shared thing that a broadcast writes: two writes of one key keep their order (R102). -/
def broadcastKey : Body → Option (Nat × Nat)
  | .ctl key _ _ _ _ => some (0, key)
  | .town sl b _ _ _ _ _ _ => some (1 + sl, b)
  | _ => none

/-- The cores that have taken a broadcast. (DEDUCED, log 20) -/
def takenBy : Body → List Nat
  | .ctl _ _ l _ _ => l
  | .town _ _ _ l _ _ _ _ => l
  | _ => []

/-- Whether an earlier write of the same key must be taken by a core first, or be serialised first (R102, R111): one not yet serialised waits for an
earlier one that is not either, and for every serialised one that the core has still to take. -/
def broadcastBlocked (s : State) (p : Packet) (core : Nat) : Bool :=
  s.mesh.any fun q => q.arrived && decide (q.id ≠ p.id) && (broadcastKey q.body).isSome && broadcastKey q.body == broadcastKey p.body &&
    (match (takenBy p.body).isEmpty, (takenBy q.body).isEmpty with
     | true, true => decide (q.order < p.order)
     | true, false => ! (takenBy q.body).contains core
     | false, true => false
     | false, false => decide (q.order < p.order) && ! (takenBy q.body).contains core)

/-- A broadcast that (17, 0) begins takes its place in the order of serialisation. -/
def serialised (s : State) (id : Nat) (b : Body) : State :=
  let (n, s) := freshId s
  { s with mesh := s.mesh.map fun q => if q.id = id then { q with order := n, body := b } else q }

/-- A core's copy of a shared register takes a serialised write (R102); the writer's own write of it that has not landed yet is over, and the sump binding
follows CTL.SUMP (R242). -/
def takeControl (s : State) (core key : Nat) (v : DWord) (f : FRef) (acc : Nat) : State :=
  let keep := fun (b : Batch) => { b with cpend := b.cpend.filter fun e => ! (match e.2 with
    | .ctl k _ a => decide (core = f.core) && decide (k = key) && decide (a = acc)
    | _ => false) }
  let s := modCore (ctlSetCopy s core key v) core fun k => { k with
    parts := k.parts.map fun p => (p.1, { p.2 with batch := p.2.batch.map keep })
    stoppedBatches := k.stoppedBatches.map fun b => (b.1, keep b.2) }
  let s := { s with slices := s.slices.map fun e => (e.1, { e.2 with saved := e.2.saved.map fun v => { v with
    cores := v.cores.map fun c => if c.1 = core then (c.1, { c.2 with batches := c.2.batches.map fun b => (b.1, keep b.2) }) else c } }) }
  if key % 0x1000 = 0x106 ∧ (getCore s core).slice = some (key / 0x1000) then setSumpBinding s core else s

/-- Writes a shading-rate entry in both raster sequencers of a slice (R271, R470). -/
def setRate (s : State) (slice n : Nat) (img : DWord) (w : Word) : State :=
  let e : BitVec 80 := img.setWidth 48 ++ (w &&& 0xFFFF1FFF#32)
  [1, 4].foldl (fun s d =>
    let r := tgetD s.raster (d, slice) { sets := [], rates := [] }
    { s with raster := tput s.raster (d, slice) { r with rates := tput r.rates n e } }) s

/-- CONTROL_REGISTER_BROADCAST (R102, R104, R466, R470): (17, 0) serialises a write on its first copy, and each core takes it in that order; the
writer's record goes once every copy holds it. (DEDUCED, log 13) (DEDUCED, log 20) -/
def execControlRegisterBroadcast (id core : Nat) (s : State) : Host.Outcome State Fault Refusal :=
  match arrivedPacket s id with
  | none => .next s
  | some p =>
    match p.body with
    | .ctl key v taken f acc =>
      if 576 ≤ core ∨ taken.contains core ∨ broadcastBlocked s p core then .next s
      else
        let s := if taken.isEmpty then flushEarly (ctlSerialise s key v) else s
        let s := takeControl s core key v f acc
        if taken.length = 575 then .next (accDone (dropPacket s id) f acc)
        else .next (if taken.isEmpty then serialised s id (.ctl key v [core] f acc) else setBody s id (.ctl key v (core :: taken) f acc))
    | .town sl b v taken f team cidx acc =>
      if ¬ (getSlice s sl).cores.contains core ∨ taken.contains core ∨ broadcastBlocked s p core then .next s
      else
        let s := modCore s core fun k => { k with directory := if v = 0 then tdel k.directory b else tput k.directory b v }
        if (getSlice s sl).cores.all fun c => decide (c = core) || taken.contains c then
          .next (accDone (countCompletion (dropPacket s id) f.core team cidx 0 0) f acc)
        else .next (if taken.isEmpty then serialised s id (.town sl b v [core] f team cidx acc) else setBody s id (.town sl b v (core :: taken) f team cidx acc))
    | .rate sl n img w f acc => .next (accDone (setRate (dropPacket s id) sl n img w) f acc)
    | _ => .next s

end Sys2Proof.Machine
end

