-- ==== Sys2Proof/Machine/DevSync.lean ====
section
/-!
DEFINITION. The homes' part of combining, ordered sections and barriers (R196-R198, R231, R247-R252, R277, R278, R285, R411-R420, R492).
-/
namespace Sys2Proof.Machine

/-! ## Combining -/

/-- The registered object at a physical address (R247). -/
def objectAt (k : Core) (pa : Nat) : Option CombObj := k.objectsTable.find? fun o => o.pa = pa

/-- Whether a request's arguments and results match an object's entry (R412). -/
def shapeMatches (o : CombObj) (q : CombReq) : Bool := decide (q.args.length = o.narg + 1) && decide (q.nres = o.nres + 1)

/-- A request joins its object's open wave, or opens one (R231); a wave of 32 lanes closes. -/
def joinWave (s : State) (home : Nat) (q : CombReq) : State :=
  let k := getCore s home
  match k.waves.find? fun w => decide (w.pa = q.pa) && ! w.closed with
  | some w =>
    let w' := { w with lanes := w.lanes ++ [q] }
    putCore s home { k with waves := k.waves.map fun v => if v.wid = w.wid then w' else v }
  | none =>
    let (id, s) := freshId s
    modCore s home fun k => { k with waves := k.waves ++ [{
      wid := id, pa := q.pa, lanes := [q], closed := false, opened := s.clk, running := false, entry := none, results := [] }] }

/-- A wave closes (R231), counted (R288); the object's entry in force now is the one it runs under (R275). -/
def closeWave (s : State) (home wid : Nat) : State :=
  match (getCore s home).waves.find? fun w => decide (w.wid = wid) && ! w.closed with
  | some w =>
    let s := modCore s home fun k => { k with waves := k.waves.map fun v => if v.wid = wid then { v with closed := true, entry := objectAt k w.pa } else v }
    perfEvent (perfEvent s home 0x0B 1 none none) home 0x0C w.lanes.length none none
  | none => s

/-- Closes the waves of a home that hold 32 lanes. -/
def closeFull (s : State) (home : Nat) : State :=
  ((getCore s home).waves.filter fun w => ! w.closed && decide (32 ≤ w.lanes.length)).foldl (fun s w => closeWave s home w.wid) s

/-- A COMBINE at its home (R231, R197, R412): answered FAULT at once, or packed into a wave; a full queue leaves it waiting. -/
def combineArrives (s : State) (p : Packet) (q : CombReq) : State :=
  let home := p.dst
  match objectAt (getCore s home) q.pa with
  | none => combineReply (dropPacket s p.id) home q true []
  | some o =>
    if o.poisoned ∨ ! shapeMatches o q then combineReply (dropPacket s p.id) home q true []
    else if 256 ≤ wellheadUsed (getCore s home) then s
    else closeFull (joinWave (dropPacket s p.id) home q) home

/-- The object entry that a CMBREG descriptor asks for (R414). -/
def objectOf (pa : Nat) (gen : BitVec 8) (desc : Word) : CombObj :=
  let d := desc.toNat
  { pa := pa, poisoned := false, bidx := fld d 6 0, bgen := gen, len := fld d 11 7, narg := fld d 14 12, nres := fld d 17 15 }

/-- CMBREG at the object's home (R248, R414): the entry is filled or rewritten; C := 0 where the binding is not valid or the table is full. Binding 0
starts the sump fibre and nothing else (R242), so no object takes it. (DEDUCED, log 90) -/
def registerObject (s : State) (home pa : Nat) (desc : Word) : State × Bool :=
  let k := getCore s home
  let b := bindingAt k (fld desc.toNat 6 0)
  let o := objectOf pa (bindGen b) desc
  if ! bindV b ∨ fld desc.toNat 6 0 = 0 then (s, false)
  else if (objectAt k pa).isSome then (putCore s home { k with objectsTable := k.objectsTable.map fun e => if e.pa = pa then o else e }, true)
  else if 64 ≤ k.objectsTable.length then (s, false)
  else
    let s := { s with cores := s.cores.map fun e => (e.1, { e.2 with objectsTable := e.2.objectsTable.filter fun e => decide (e.pa ≠ pa) }) }
    (modCore s home fun k => { k with objectsTable := k.objectsTable ++ [o] }, true)

/-- The core that still has the entry of an object whose page has moved to this home (R202). (DESIGN CHOICE, log 56) -/
def objectKept (s : State) (home pa : Nat) : Option Nat :=
  if (objectAt (getCore s home) pa).isSome then none else (s.cores.find? fun e => (objectAt e.2 pa).isSome).map Prod.fst

/-- A packet that has come to one core goes on to another. -/
def forwardPacket (s : State) (p : Packet) (core : Nat) : State :=
  { s with mesh := s.mesh.map fun q => if q.id = p.id then { q with dst := core, arrived := false, side := 6, pinned := none } else q }

/-- Whether a wellhead request must wait (R207, R209, R231): another came before it, in one clock the one of the lower core, so that clock must be
over. -/
def combineWaits (s : State) (p : Packet) : Bool :=
  decide (p.came = s.clk) || s.mesh.any fun q => q.arrived && decide (q.dst = p.dst) && cameBefore Packet.src q p && (match q.body with
    | .combine _ _ _ _ _ _ _ _ _ _ | .cmbreg _ _ _ _ _ _ _ => true
    | _ => false)

/-- COMBINE_REQUEST (R202, R231, R248, R412, R414): requests enter in arrival order; that for an object whose page has moved goes to its entry. -/
def execCombineRequest (id : Nat) (s : State) : Host.Outcome State Fault Refusal :=
  match arrivedPacket s id with
  | none => .next s
  | some p =>
    match p.body with
    | .combine f gen acc ll dst cdst base pa args nres =>
      .next (if combineWaits s p ∨ underTest s 0x0C p.dst then s
        else if (getCore s p.dst).l2Failed then postRetired s p f acc (accCode .ms 2)
        else match objectKept s p.dst pa with
        | some c => forwardPacket s p c
        | none => combineArrives s p { f := f, gen := gen, acc := acc, ll := ll, dst := dst, cdst := cdst, base := base, pa := pa, args := args, nres := nres })
    | .cmbreg f gen acc ll cdst pa desc =>
      if combineWaits s p then .next s
      else if (getCore s p.dst).l2Failed then .next (postRetired s p f acc (accCode .ms 2))
      else
        let (s, ok) := registerObject (dropPacket s id) p.dst pa desc
        .next (sendResults s 0x02 p.dst f gen ll acc 0 (predEff cdst ok))
    | _ => .next s

/-- Whether a request that came in time for an open wave is still to join it (R231). -/
def laneInTime (s : State) (core : Nat) (w : Wave) : Bool :=
  decide (wellheadUsed (getCore s core) < 256) && s.mesh.any fun q => q.arrived && decide (q.dst = core) && (match q.body with
    | .combine _ _ _ _ _ _ _ pa _ _ => decide (pa = w.pa) && decide ((q.came - w.opened).toNat ≤ 16 ∨ q.came < w.opened)
    | _ => false)

/-- COMBINER_WAVE_CLOSE (R231): the `n`-th wave, 16 clocks after its first lane joined; a lane that has arrived in that clock joins first. -/
def execCombinerWaveClose (core n : Nat) (s : State) : Host.Outcome State Fault Refusal :=
  match (getCore s core).waves[n]? with
  | some w => .next (if w.closed ∨ (s.clk - w.opened).toNat ≤ 16 ∨ laneInTime s core w = true then s else closeWave s core w.wid)
  | none => .next s

/-- Answers every lane of a wave with FAULT and removes it. -/
def faultWave (s : State) (core : Nat) (w : Wave) : State :=
  let s := modCore s core fun k => { k with waves := k.waves.filter fun v => decide (v.wid ≠ w.wid) }
  w.lanes.foldl (fun s q => combineReply s core q true []) s

/-- What a method fibre's origin holds (R413): its requester; its s.tag, s.seq, s.class and s.mlen read zero. (DESIGN CHOICE, log 96) -/
def methodOrigin (s : State) (q : CombReq) (binding : Nat) : Origin :=
  { Origin.none with src := srcWord q.f.core (pkgNum s), binding := binding, combine := some q }

/-- The payload words g1-g16 of a method fibre (R413). -/
def methodArgs (s : State) (lanes : Nat) (q : CombReq) : List Word :=
  [BitVec.ofNat 32 lanes, loHalf q.base, hiHalf q.base, srcWord q.f.core (pkgNum s)] ++ (q.args ++ List.replicate 8 0).take 8 ++ List.replicate 4 0

/-- The method of a wave starts (R413): a handler group of the binding, one lane per request, HA = 1 and RST = 0. -/
def runWave (s : State) (core slot : Nat) (w : Wave) (o : CombObj) : State :=
  let b := bindingAt (getCore s core) o.bidx
  let prv := ((getTeam s core (bindTeam b)).map Team.prv).getD 0
  let out := w.lanes.filter fun q => ! shapeMatches o q
  let ins := w.lanes.filter (shapeMatches o)
  let s := out.foldl (fun s q => combineReply s core q true []) s
  if ins.isEmpty then modCore s core fun k => { k with waves := k.waves.filter fun v => decide (v.wid ≠ w.wid) }
  else
    let s := modCore s core fun k => { k with waves := k.waves.map fun v => if v.wid = w.wid then { v with running := true, lanes := ins } else v }
    let s := makeGroup s core slot { team := bindTeam b, gid := 64 + slot, allot := 8 * bindAreg b, base := 0, kind := .wave w.pa w.wid }
    ((List.range ins.length).zip ins).foldl (fun s e =>
      createFibre s ⟨core, slot, e.1⟩ (8 * bindAreg b) (bindPc b) (fsrNew prv true false) (methodArgs s ins.length e.2) (methodOrigin s e.2 o.bidx)) s

/-- Whether a core's binding of an index and GEN belongs to a saved context, to which it will return (R310, R311). -/
def bindingSaved (s : State) (core i : Nat) (gen : BitVec 8) : Bool :=
  s.slices.any fun e => e.2.saved.any fun v => match (tget v.cores core).bind fun c => tget c.bindings i with
    | some w => v.complete && bindV w && (bindGen w == gen)
    | none => false

/-- COMBINER_WAVE_START (R196, R197, R231, R248, R275, R413): the `n`-th wave, closed, first of its object, fewer than 4 running, under the entry that
stood when it closed; an object poisoned since, or an entry whose binding has gone, answers FAULT; one whose binding is saved with its context waits.
(DESIGN CHOICE, log 34) (DEDUCED, log 90) -/
def execCombinerWaveStart (core n : Nat) (s : State) : Host.Outcome State Fault Refusal :=
  let k := getCore s core
  match k.waves[n]? with
  | none => .next s
  | some w =>
    if ! w.closed || w.running || ((k.waves.take n).any fun v => decide (v.pa = w.pa)) then .next s
    else
      match w.entry, objectAt k w.pa with
      | some o, some now =>
        let b := bindingAt k o.bidx
        if o.poisoned ∨ now.poisoned then .next (faultWave s core w)
        else if bindingSaved s core o.bidx o.bgen then .next s
        else if ! bindV b || bindGen b != o.bgen then
          .next (faultWave (putCore s core { k with objectsTable := k.objectsTable.filter fun e => decide (e ≠ o) }) core w)
        else if 4 ≤ (k.waves.filter fun v => v.running).length then .next s
        else
          match freeSlot s core with
          | none => .next s
          | some slot =>
            if admits s core (32 * (8 * bindAreg b)) && (match getTeam s core (bindTeam b) with | some t => ! t.stopped && ! t.halted | none => false) then
              .next (runWave s core slot w o)
            else .next s
      | _, _ => .next (faultWave s core w)

/-! ## The spill region of section keys -/

/-- The hash of a key (R249). -/
def keyHash (key : DWord) : Nat :=
  let k := key.toNat
  (k % 65536) ^^^ (k / 2 ^ 16 % 65536) ^^^ (k / 2 ^ 32 % 65536) ^^^ (k / 2 ^ 48 % 65536)

/-- The address of a slot of a home's spill region (R252). -/
def spillSlot (s : State) (home i : Nat) : Nat :=
  let sl := (getCore s home).slice.getD 0
  (sliceCtl s home sl 0x103 + BitVec.ofNat 64 (0x01000000 + home * 0x00100000 + 16 * i)).toNat

/-- What probing the region gives: the slot found with its 16 bytes, no slot, or the address that cannot be reached. -/
inductive Probe where
  | found (slot : Nat) (bytes : List Byte)
  | absent
  | unusable (va : Nat)
  deriving DecidableEq, Repr

/-- Probes the region linearly from a slot for one whose bytes satisfy a test (R252). (DEDUCED, log 22) -/
def probeRegion (s : State) (home : Nat) (want : List Byte → Bool) : Nat → Nat → Probe
  | 0, _ => .absent
  | fuel + 1, i =>
    let va := spillSlot s home (i % 65536)
    match niRead s home ((getCore s home).slice.getD 0) va 16 with
    | none => .unusable va
    | some b => if want b then .found (i % 65536) b else probeRegion s home want fuel (i + 1)

/-- Whether a slot holds a key. (DEDUCED, log 22) -/
def slotHolds (key : DWord) (b : List Byte) : Bool := decide (leNat (b.take 8) = key.toNat) && decide (leNat (b.drop 8) ≠ 0)
/-- Whether a slot is free. -/
def slotFree (b : List Byte) : Bool := b.all fun x => x == 0

/-- Writes a slot of the region; none where it cannot be written. -/
def writeSlot (s : State) (home i : Nat) (b : List Byte) : Option State := niWrite s home ((getCore s home).slice.getD 0) (spillSlot s home i) b

/-- The 16 bytes of a spilled entry (R252). -/
def spillBytes (e : SecEntry) : List Byte :=
  leBytes 8 e.key.toNat ++ leBytes 8 (e.next.toNat * 2 ^ 32 + 2 ^ 31 + (if e.abn then 2 ^ 29 else 0))

/-! ## Section entries -/

/-- The entry of a key that has none yet (R250, R252). -/
def SecEntry.fresh (key : DWord) : SecEntry := { key := key, next := 0, held := false, abn := false, holder := ⟨0, 0, 0⟩, hgen := 0 }

/-- The entry of a key in a home's table. -/
def secOf (s : State) (home : Nat) (key : DWord) : Option SecEntry := (getCore s home).sections.find? fun e => e.key = key

/-- Puts an entry first in its home's table: the most recently used stands first. -/
def putSec (s : State) (home : Nat) (e : SecEntry) : State :=
  modCore s home fun k => { k with sections := e :: k.sections.filter fun d => decide (d.key ≠ e.key) }

/-- Removes a key's entry from the table. -/
def delSec (s : State) (home : Nat) (key : DWord) : State := modCore s home fun k => { k with sections := k.sections.filter fun d => decide (d.key ≠ key) }

/-- Whether an entry is idle (R252). -/
def secIdle (k : Core) (e : SecEntry) : Bool := ! e.held && ! (k.waiters.any fun w => w.key = e.key)

/-- Frees an idle entry with nothing to keep (R252). -/
def dropEmpty (s : State) (home : Nat) (key : DWord) : State :=
  match secOf s home key with
  | some e => if secIdle (getCore s home) e ∧ e.next = 0 ∧ ¬ e.abn then delSec s home key else s
  | none => s

/-- How a request comes by its key's entry: the state with it; it waits; or the region is full, with the address if it could not be reached. -/
inductive Entry where
  | ready (s : State) (e : SecEntry)
  | wait
  | full (bad : Option Nat)

/-- Whether a request for a key has arrived at its home: it is served before the entry could be spilled (R275). -/
def keyAsked (s : State) (home : Nat) (key : DWord) : Bool :=
  s.mesh.any fun q => q.arrived && decide (q.dst = home) && (match q.body with | .ordered _ _ _ _ k _ => decide (k = key) | _ => false)

/-- Makes a place in the table (R252, R275): a free one, or that of the least recently used idle entry for whose key no request stands, spilled. -/
def makeRoom (s : State) (home : Nat) : Entry :=
  let k := getCore s home
  let dummy := SecEntry.fresh 0
  if k.sections.length < 512 then .ready s dummy
  else
    match (k.sections.filter fun e => secIdle k e && ! keyAsked s home e.key).getLast? with
    | none => .wait
    | some v =>
      if v.next = 0 ∧ ¬ v.abn then .ready (delSec s home v.key) dummy
      else match probeRegion s home slotFree 65536 (keyHash v.key % 65536) with
      | .absent => .full none
      | .unusable va => .full (some va)
      | .found i _ =>
        (match writeSlot s home i (spillBytes v) with
         | some s => .ready (delSec s home v.key) dummy
         | none => .full (some (spillSlot s home i)))

/-- The entry that a request for a key uses (R252): from the table, from the spill region, or started at NEXT = 0. -/
def needEntry (s : State) (home : Nat) (key : DWord) : Entry :=
  match secOf s home key with
  | some e => .ready s e
  | none =>
    match probeRegion s home (slotHolds key) 65536 (keyHash key % 65536) with
    | .unusable va => .full (some va)
    | .absent =>
      (match makeRoom s home with
       | .ready s _ => let e := SecEntry.fresh key; .ready (putSec s home e) e
       | r => r)
    | .found i b =>
      (match makeRoom s home with
       | .ready s _ =>
         let v := leNat (b.drop 8)
         let e := { SecEntry.fresh key with next := BitVec.ofNat 32 (v / 2 ^ 32), abn := decide (v / 2 ^ 29 % 2 = 1) }
         (match writeSlot s home i (List.replicate 16 0) with
          | some s => .ready (putSec s home e) e
          | none => .full (some (spillSlot s home i)))
       | r => r)

/-- Sends a home's answer to a fibre: 0 grant, 1 grant with ABANDONED, 2 stale, 3 spill full, 4 skip recorded, 5 stale skip, 6 skip of the own sequence,
7 deadlock. -/
def answerSection (s : State) (home : Nat) (f : FRef) (gen : BitVec 8) (acc : Nat) (key : DWord) (seq : Word) (a : Nat) : State :=
  emit s .mrsp 0x05 home f.core 1 (replyTag gen acc) (.secAnswer f gen acc key seq a)

/-- Grants a section to an entrant (R250), counted (R288). -/
def grantSection (s : State) (home : Nat) (e : SecEntry) (f : FRef) (gen : BitVec 8) (acc : Nat) (seq : Word) : State :=
  let s := putSec s home { e with held := true, abn := false, holder := f, hgen := gen, next := seq + 1 }
  perfEvent (answerSection s home f gen acc e.key seq (if e.abn then 1 else 0)) home 0x0D 1 none none

/-- Removes one waiter. -/
def dropWaiter (s : State) (home : Nat) (w : Waiter) : State := modCore s home fun k => { k with waiters := k.waiters.erase w }

/-- After a change of an entry that is not held (R250, R251): NEXT passes recorded skips one by one; an entrant whose sequence it reaches is
granted. -/
def passSection (home : Nat) (key : DWord) : Nat → State → State
  | 0, s => s
  | fuel + 1, s =>
    match secOf s home key with
    | none => s
    | some e =>
      if e.held then s
      else
        match (getCore s home).waiters.find? fun w => decide (w.key = key) && decide (w.seq = e.next) with
        | none => s
        | some w =>
          let s := dropWaiter s home w
          if w.skip then passSection home key fuel (putSec s home { e with next := e.next + 1, abn := e.abn || w.abn })
          else grantSection s home e w.f w.gen w.acc w.seq

/-- Passes skips and grants as far as they reach, then frees an entry with nothing to keep. -/
def settleSection (s : State) (home : Nat) (key : DWord) : State :=
  dropEmpty (passSection home key ((getCore s home).waiters.length + 1) s) home key

/-- Whether a sequence has passed (R250). -/
def seqPassed (e : SecEntry) (n : Word) : Bool := (n - e.next).getLsbD 31

/-- The timeout of a home's section waits (R285): larger values act as 0x0080_0000; zero disables probing (R105). -/
def sectionTimeout (s : State) (home : Nat) : Nat := min (sliceCtl s home ((getCore s home).slice.getD 0) 0x107).toNat 0x00800000

/-- Whether the waiter list is full (R251): a mark of a killed fibre's skip takes no place. -/
def waitersFull (k : Core) : Bool := decide (2048 ≤ (k.waiters.filter fun w => ! (w.skip && w.abn)).length)

/-- Records a waiter, with the timeout in force now (R104, R251). -/
def addWaiter (s : State) (home : Nat) (skip : Bool) (key : DWord) (seq : Word) (f : FRef) (gen : BitVec 8) (acc : Nat) : State :=
  modCore s home fun k => { k with waiters := k.waiters ++ [{
    skip := skip, abn := false, key := key, seq := seq, f := f, gen := gen, wstart := s.clk.extractLsb' 0 24, acc := acc, came := s.clk
    period := sectionTimeout s home }] }

/-- An enter with its entry at hand (R250, R416); none while the waiter list is full. -/
def enterSection (s : State) (home : Nat) (e : SecEntry) (f : FRef) (gen : BitVec 8) (acc : Nat) (n : Word) : Option State :=
  if seqPassed e n then some (answerSection s home f gen acc e.key n 2)
  else if n = e.next ∧ ¬ e.held then some (grantSection s home e f gen acc n)
  else if waitersFull (getCore s home) then none
  else some (addWaiter s home false e.key n f gen acc)

/-- A skip with its entry at hand (R250, R417); none while the waiter list is full. -/
def skipSection (s : State) (home : Nat) (e : SecEntry) (f : FRef) (gen : BitVec 8) (acc : Nat) (n : Word) : Option State :=
  if e.held ∧ e.holder = f ∧ e.hgen = gen ∧ n = e.next - 1 then some (answerSection s home f gen acc e.key n 6)
  else if seqPassed e n then some (answerSection s home f gen acc e.key n 5)
  else if n = e.next ∧ ¬ e.held then some (answerSection (putSec s home { e with next := e.next + 1 }) home f gen acc e.key n 4)
  else if waitersFull (getCore s home) then none
  else some (answerSection (addWaiter s home true e.key n f gen acc) home f gen acc e.key n 4)

/-- A leave or an abandonment by the holder (R250, R417): HELD clears; an abandonment sets ABN. -/
def homeLeave (s : State) (home : Nat) (key : DWord) (f : FRef) (gen : BitVec 8) (abandon : Bool) : State :=
  match secOf s home key with
  | some e =>
    if e.held ∧ e.holder = f ∧ e.hgen = gen then settleSection (putSec s home { e with held := false, abn := e.abn || abandon }) home key else s
  | none => s

/-- SECTION_REQUEST (R249-R252, R416, R417): 0 enter, 1 leave, 2 skip, 3 abandonment. -/
def execSectionRequest (id : Nat) (s : State) : Host.Outcome State Fault Refusal :=
  match arrivedPacket s id with
  | none => .next s
  | some p =>
    match p.body with
    | .ordered opc f gen acc key seq =>
      if earlierWaits s p ∨ underTest s 0x0C p.dst then .next s
      else if opc = 1 then .next (sendAck (homeLeave (dropPacket s id) p.dst key f gen false) p.dst f acc)
      else if opc = 3 then .next (homeLeave (dropPacket s id) p.dst key f gen true)
      else
        (match needEntry s p.dst key with
         | .wait => .next s
         | .full bad =>
           let s := dropPacket s id
           let s := match bad with
             | some va => logError s 0x03 0x0C p.dst p.dst 0xFFFF ((getCore s p.dst).slice.getD 0) (BitVec.ofNat 64 va)
             | none => s
           .next (answerSection s p.dst f gen acc key seq 3)
         | .ready s' e =>
           match (if opc = 0 then enterSection s' p.dst e f gen acc seq else skipSection s' p.dst e f gen acc seq) with
           | some t => .next (settleSection (dropPacket t id) p.dst key)
           | none => .next s)
    | _ => .next s

/-! ## Answers at the fibre -/

/-- The wait that a section answer ends, with the PC of its instruction and the result it brings. -/
def sectionWait (x : Fibre) (acc : Nat) : Option (Wait × Word × Option (Nat × Nat)) :=
  x.waits.findSome? fun w => match w with
    | .ordered pc k n dst ll a => if a = acc then some (.ordered pc k n dst ll a, pc, some (ll, dst)) else none
    | .skip pc k n a => if a = acc then some (.skip pc k n a, pc, none) else none
    | _ => none

/-- The trap of an answer that is no grant and no acknowledgement (R250, R252, R285, R417). -/
def sectionDetail (a : Nat) : Nat := match a with | 2 | 5 => 4 | 3 => 5 | 6 => 2 | _ => 1

/-- SECTION_GRANT (R250, R416, R417): a grant is taken by the fibre that waits for it, else returned as an abandonment; any other answer acts at the run
end. -/
def execSectionGrant (id : Nat) (s : State) : Host.Outcome State Fault Refusal :=
  match arrivedPacket s id with
  | none => .next s
  | some p =>
    match p.body with
    | .secAnswer f gen acc key seq a =>
      let s' := dropPacket s id
      (match (match getFib s f with | some x => if x.gen = gen then sectionWait x acc else none | none => none) with
       | none =>
         .next (if a < 2 then emit s' .mreq 0x06 f.core (sectionHome s (((getCore s f.core).slice).getD 0) key) 1 (replyTag gen 0) (.ordered 3 f gen 0 key seq)
           else bump s' f.core 0x004 1)
       | some (w, pc, res) =>
         match a, res with
         | 0, some (ll, dst) | 1, some (ll, dst) =>
           let t := dropRst (dropWait s' f w) f
           let t := modFib t f fun x => { x with heldKeys := x.heldKeys ++ [(key, seq)] }
           .next (accDone (llDone t f ll 0 (predEff dst (a == 1))) f acc)
         | 4, none => .next (accDone (dropWait s' f w) f acc)
         | _, _ =>
           if inBatch s f then .next s
           else
             let t := accDone (dropWait s' f w) f acc
             let t := match res with | some (ll, _) => dropLL t f ll | none => t
             .next (takeTrap t f pc { trapOf 7 (sectionDetail a) with aux := key }))
    | _ => .next s

/-! ## Deadlock probes -/

/-- Whether a waiter's age stands still: its team is stopped, or its context saved (R285, R313). -/
def agePaused (s : State) (f : FRef) (gen : BitVec 8) : Bool :=
  match getFib s f, teamOf s f with
  | some x, some (_, t) => decide (x.gen = gen) && t.stopped || decide (x.gen ≠ gen)
  | _, _ => true

/-- SECTION_TIMEOUT_PROBE (R104, R285, R286, R492): the `n`-th waiter of a home reaches its timeout: WSTART restarts, and a probe goes to the holder's core,
counted. A key without a holder gets no probe: nothing is counted, and WSTART restarts all the same. (DESIGN CHOICE, log 89) -/
def execSectionTimeoutProbe (core n : Nat) (s : State) : Host.Outcome State Fault Refusal :=
  match (getCore s core).waiters[n]? with
  | none => .next s
  | some w =>
    let now : BitVec 24 := s.clk.extractLsb' 0 24
    if w.skip ∨ agePaused s w.f w.gen ∨ w.period = 0 ∨ (now - w.wstart).toNat < w.period then .next s
    else
      let s := modCore s core fun k => { k with waiters := k.waiters.map fun v => if v = w then { v with wstart := now } else v }
      match secOf s core w.key with
      | some e =>
        .next (if e.held then emit (bump s core 0x048 1) .sys 0x11 core e.holder.core 1 0 (.probe core w.key w.f now e.holder e.hgen 0 [] none) else s)
      | none => .next s

/-- The key on which a fibre of a generation waits in OSENT. -/
def waitedKey (s : State) (f : FRef) (gen : BitVec 8) : Option DWord :=
  (getFib s f).bind fun x => if x.gen = gen then x.waits.findSome? fun w => match w with | .ordered _ k _ _ _ _ => some k | _ => none else none

/-- The entrant of a key that a fibre of a generation is in a home's waiter list (R251). -/
def entrantOf (s : State) (home : Nat) (f : FRef) (gen : BitVec 8) (key : DWord) : Option Waiter :=
  (getCore s home).waiters.find? fun w => ! w.skip && decide (w.f = f) && decide (w.gen = gen) && decide (w.key = key)

/-- Withdraws a waiter of a home, if it still waits with the same entry, and raises its deadlock trap (R492 steps 5 and 6). -/
def withdrawWaiter (s : State) (home : Nat) (f : FRef) (gen : BitVec 8) (key : DWord) (seq : Word) : State :=
  match (getCore s home).waiters.find? fun w => ! w.skip && decide (w.f = f) && decide (w.gen = gen) && decide (w.key = key) && decide (w.seq = seq) with
  | some w => settleSection (answerSection (dropWaiter s home w) home f w.gen w.acc key w.seq 7) home key
  | none => s

/-- A probe at the home of the next key (R492 steps 3 to 5): at the starting home it ends, and closes a cycle if it has come back to its waiter, which
still waits with the same WSTART. `look` and `gen` are the holder last looked at, `next` the key it waits on. -/
def probeAtHome (s : State) (here home : Nat) (key : DWord) (f : FRef) (wstart : BitVec 24) (look : FRef) (gen : BitVec 8) (hops : Nat)
    (chain : List ProbeLink) (next : DWord) : State :=
  match entrantOf s here look gen next with
  | none => s
  | some w =>
    if here = home then
      (if look = f ∧ next = key ∧ w.wstart = wstart then
        chain.foldl (fun s c => emit s .sys 0x12 here c.home 1 0 (.withdraw c.f c.gen c.key c.seq)) (withdrawWaiter s here f gen key w.seq)
      else s)
    else
      match secOf s here next with
      | some e =>
        if hops < 4 ∧ e.held then
          emit s .sys 0x11 here e.holder.core 1 0 (.probe home key f wstart e.holder e.hgen hops (chain ++ [⟨here, look, gen, next, w.seq⟩]) none)
        else s
      | none => s

/-- SECTION_DEADLOCK_PROBE (R492): at a holder's core it goes on to the home of the key that fibre waits on, or ends; at a home as above. -/
def execSectionDeadlockProbe (id : Nat) (s : State) : Host.Outcome State Fault Refusal :=
  match arrivedPacket s id with
  | none => .next s
  | some p =>
    match p.body with
    | .probe home key f wstart look gen hops chain goal =>
      let t := dropPacket s id
      (match goal with
       | some next => .next (probeAtHome t p.dst home key f wstart look gen hops chain next)
       | none =>
         match waitedKey s look gen with
         | some k => .next (emit t .sys 0x11 p.dst (sectionHome s (sliceOf s look) k) 1 0 (.probe home key f wstart look gen (hops + 1) chain (some k)))
         | none => .next t)
    | _ => .next s

/-- SECTION_WAIT_WITHDRAWAL (R492 step 6). -/
def execSectionWaitWithdrawal (id : Nat) (s : State) : Host.Outcome State Fault Refusal :=
  match arrivedPacket s id with
  | some p => (match p.body with
    | .withdraw f gen key seq => .next (withdrawWaiter (dropPacket s id) p.dst f gen key seq)
    | _ => .next s)
  | none => .next s

/-! ## Barriers -/

/-- The team of a cluster on a core. -/
def clusterTeam (s : State) (core slice task cluster : Nat) : Option (Nat × Team) :=
  (s.teams.find? fun e => decide (e.1.1 = core) && decide (e.2.slice = slice) && decide (e.2.task = task) && decide (e.2.cluster = cluster)).map fun e => (e.1.2, e.2)

/-- Whether a launch still has cores that are to take their start message. -/
def stillStarting (s : State) (slice task : Nat) : Bool :=
  match tget (getSlice s slice).tasks task with
  | some t => decide (t.starting ≠ 0)
  | none => false

/-- The slots of a cluster barrier that BARINIT has just written (R277, R418). -/
def Barrier.start (mask : BitVec 7) (lexp texp : Nat) : Barrier :=
  { v := true, cluster := true, ph := false, mask := mask, lcnt := 0, lexp := lexp, lnext := 0, texp := texp, tcnt := 0 }

/-- The cores of a cluster of a launch (CW × CH, R60). -/
def clusterSize (s : State) (slice task : Nat) : Nat :=
  match tget (getSlice s slice).tasks task with
  | some t => recField t.record 0x14 1 * recField t.record 0x15 1
  | none => 0

/-- An arrival counts in a lead slot, and the last of a phase resets it (R278): the slot, and whether the phase is complete. -/
def leadCounts (b : Barrier) : Barrier × Bool :=
  if b.tcnt + 1 < b.texp then ({ b with tcnt := b.tcnt + 1 }, false) else ({ b with tcnt := 0 }, true)

/-- Writes a lead slot that has outlived the lead core's team (R277); other cores hold none. -/
def setLead (s : State) (core slice task cluster num : Nat) (b : Barrier) : State :=
  modSlice s slice fun x => { x with
    tasks := x.tasks.map fun e =>
      if e.1 = task ∧ e.2.corners[cluster]? = some core then (e.1, { e.2 with leads := tput e.2.leads (cluster, num) b }) else e }

/-- An arrival at a lead core whose team has ended (R278): its lead slot counts on, and the completion goes to the cluster's cores. -/
def arriveLead (s : State) (lead slice task cluster num : Nat) : State :=
  match tget (getSlice s slice).tasks task with
  | none => s
  | some t =>
    match tget t.leads (cluster, num) with
    | none => s
    | some b =>
      let (b', last) := leadCounts b
      let s := setLead s lead slice task cluster num b'
      let cw := recField t.record 0x14 1
      if last then ((List.range (cw * recField t.record 0x15 1)).map fun r => lead + r / cw * 36 + r % cw).foldl (fun s c =>
        emit s .mrsp 0x02 lead c 1 0 (.completion slice task cluster num)) s
      else s

/-- BARRIER_ARRIVAL_PACKET (R277, R278, R418): an arrival counts at the lead, and the last sends the completion to every core; a BARINIT of another
core of the cluster writes this core's slots. -/
def execBarrierArrivalPacket (id : Nat) (s : State) : Host.Outcome State Fault Refusal :=
  match arrivedPacket s id with
  | none => .next s
  | some p =>
    match p.body with
    | .barArrive sl task cl num =>
      (match clusterTeam s p.dst sl task cl with
       | none => .next (arriveLead (dropPacket s id) p.dst sl task cl num)
       | some (n, t) =>
         let (b, last) := leadCounts (barOf s p.dst n num)
         let s := putBar (dropPacket s id) p.dst n num b
         .next (if last then (clusterCores t).foldl (fun s c => emit s .mrsp 0x02 p.dst c 1 0 (.completion sl task cl num)) s else s))
    | .barSet sl task cl num mask lexp acc f =>
      (match clusterTeam s p.dst sl task cl with
       | none => .next (if stillStarting s sl task then s
           else sendAck (setLead (dropPacket s id) p.dst sl task cl num (Barrier.start mask lexp (clusterSize s sl task))) p.dst f acc)
       | some (n, t) => .next (sendAck (initBar (dropPacket s id) p.dst n num (Barrier.start mask lexp (t.cw * t.ch))) p.dst f acc))
    | _ => .next s

/-- BARRIER_COMPLETION (R278, R420). (DESIGN CHOICE, log 15) -/
def execBarrierCompletion (id : Nat) (s : State) : Host.Outcome State Fault Refusal :=
  match arrivedPacket s id with
  | none => .next s
  | some p =>
    match p.body with
    | .completion sl task cl num =>
      (match clusterTeam s p.dst sl task cl with
       | some (n, _) => .next (barComplete (dropPacket s id) p.dst n num)
       | none => .next (dropPacket s id))
    | _ => .next s

end Sys2Proof.Machine
end

