-- ==== Sys2Proof/Machine/DevLaunch.lean ====
section
/-!
DEFINITION. The launch path (R58-R67, R87, R212-R217, R261, R262, R274, R280, R317, R371): doorbells, record checks, launch queues, placement,
translation of extents, code and shape stores, start messages, work-graph records, grid ends, completion counters.
-/
namespace Sys2Proof.Machine

/-! ## The launch record -/

/-- Priority of a record. -/
def recPrio (r : List Word) : Nat := recField r 0x10 1 % 8
/-- Privilege a record asks for. -/
def recLvl (r : List Word) : Nat := fld (recField r 0x10 1) 6 5
/-- Groups per team. -/
def recGroups (r : List Word) : Nat := (recField r 0x12 2 + 31) / 32
/-- Clusters of the grid. -/
def recClusters (r : List Word) : Nat := recField r 0x18 2 * recField r 0x1A 2 * recField r 0x1C 2
/-- Extents declared. -/
def recExtents (r : List Word) : Nat := recField r 0x16 2 % 16
/-- Sets the level of a record (R87). -/
def setLevel (r : List Word) (level : Nat) : List Word :=
  let w := (r.getD 4 0).toNat
  lset r 4 (BitVec.ofNat 32 (w - fld w 6 5 * 32 + level % 4 * 32))

/-- Whether a dependence field is out of range (R58, R280), valid or not; index 0xFFFF, which names no counter, only where the dependence is
valid. (DEDUCED, log 87) -/
def depBad (d : Nat) : Bool := decide (fld d 62 48 ≠ 0) || decide (4096 ≤ fld d 47 32 ∧ (fld d 47 32 ≠ 0xFFFF ∨ fld d 63 63 = 1))

/-- Whether an extent descriptor is out of range (R261). -/
def extBad (base acc : Nat) : Bool := decide (base % 64 ≠ 0 ∨ base / 2 ^ 48 ≠ 0 ∨ acc / 256 ≠ 0 ∨ acc / 8 % 2 ≠ 0 ∨ 1 < acc / 16 % 16)

/-- The record offset of the first field that is out of range (R58, R59). (DEDUCED, log 87) -/
def badField (r : List Word) : Option Nat :=
  let f := recField r
  let e := f 0x0E 2; let c := f 0x10 1
  let tests : List (Nat × Bool) :=
    [(0x00, decide (f 0 8 % 64 ≠ 0)), (0x0C, decide (f 0x0C 2 = 0 ∨ 8192 < f 0x0C 2)), (0x0E, decide (f 0x0C 2 ≤ e / 8 ∨ 4 < e % 8)),
     (0x10, decide (128 ≤ c ∨ fld c 6 5 = 3 ∨ fld c 4 3 = 3)), (0x11, decide (f 0x11 1 = 0 ∨ 32 < f 0x11 1)), (0x12, decide (f 0x12 2 = 0 ∨ 2048 < f 0x12 2)),
     (0x14, decide (f 0x14 1 = 0 ∨ 12 < f 0x14 1)), (0x15, decide (f 0x15 1 = 0 ∨ 12 < f 0x15 1 ∨ 12 < f 0x14 1 * f 0x15 1)),
     (0x16, decide (16 ≤ f 0x16 2 ∨ 8 < f 0x16 2 % 16)), (0x18, decide (f 0x18 2 = 0)), (0x1A, decide (f 0x1A 2 = 0)), (0x1C, decide (f 0x1C 2 = 0)),
     (0x1E, decide (4096 ≤ f 0x1E 2 ∧ f 0x1E 2 ≠ 0xFFFF))] ++
    ((List.range 4).map fun k => (0x20 + 8 * k, depBad (f (0x20 + 8 * k) 8))) ++
    [(0x48, decide (64 < f 0x48 2)), (0x4A, decide (f 0x4A 2 ≠ 0)), (0x4C, decide (f 0x4C 4 % 64 ≠ 0))] ++
    ((List.range 5).map fun k => (0x6C, decide (f (0x6C + 4 * k) 4 ≠ 0))) ++
    ((List.range (min 8 (recExtents r))).map fun k => (0x80 + 16 * k, extBad (f (0x80 + 16 * k) 8) (f (0x8E + 16 * k) 2)))
  (tests.find? fun t => t.2).map Prod.fst

/-! ## Where clusters fit -/

/-- The first corner, in ascending core number, whose rectangle lies in the slice, meets no used core and passes a test on every core (R61).
(DESIGN CHOICE, log 75) -/
def findCorner (s : State) (slice : Nat) (r : List Word) (used : List Nat) (ok : Nat → Bool) : Option Nat :=
  let cs := sortNat (getSlice s slice).cores
  cs.find? fun c => decide (coreX c + recField r 0x14 1 ≤ 36 ∧ coreY c + recField r 0x15 1 ≤ 16) &&
    (rectOf r c).all fun k => cs.contains k && ! used.contains k && ok k

/-- Whether a core could hold a team of a record if it were empty (R59, R61): its kind, slots, registers, and cistern for the shape record. -/
def coreSuits (s : State) (r : List Word) (c : Nat) : Bool :=
  let kind := fld (recField r 0x10 1) 4 3
  ! (getCore s c).retired && (decide (kind = 0) || (decide (kind = 1) == isRay c)) && decide (recGroups r ≤ 64) &&
    decide (32 * (8 * recField r 0x11 1) * recGroups r ≤ 131072) &&
    (decide (recField r 0x48 2 = 0) || cisternOk c (recField r 0x4C 4) (64 * recField r 0x48 2))

/-- Whether `n` clusters fit the slice when it is empty (R59), placed first-fit as R61 places them. (DESIGN CHOICE, log 75) -/
def packs (s : State) (slice : Nat) (r : List Word) : Nat → List Nat → Bool
  | 0, _ => true
  | n + 1, used =>
    match findCorner s slice r used (coreSuits s r) with
    | some c => packs s slice r n (used ++ rectOf r c)
    | none => false

/-- Whether a record's clusters fit the slice at all (R59). -/
def gridFits (s : State) (slice : Nat) (r : List Word) : Bool :=
  decide (recClusters r ≤ (getSlice s slice).cores.length) && packs s slice r (recClusters r) []

/-! ## Record queue tables -/

/-- A queue descriptor, if it keeps the table of R214. -/
def queueDesc (s : State) (slice : Nat) (b : List Byte) : Option RecQueue :=
  let f := fun (o n : Nat) => leNat ((b.drop o).take n)
  let cap := f 8 4; let kind := f 0x0E 1; let tgt := f 0x10 8
  if f 0 8 % 64 = 0 ∧ 64 ≤ cap ∧ cap ≤ 2 ^ 20 ∧ (List.range 21).any (fun k => cap == 2 ^ k) ∧ (getSlice s slice).cores.contains (f 0x0C 2) ∧
      (1 ≤ kind ∧ kind ≤ 3) ∧ f 0x0F 1 = 0 ∧ f 0x18 8 = 0 ∧ (if kind = 3 then tgt / 2 ^ 48 = 0 else tgt / 2 ^ 10 = 0) then
    some { ring := BitVec.ofNat 64 (f 0 8), cap := cap, home := f 0x0C 2, qkind := kind, target := BitVec.ofNat 64 tgt, credits := cap, written := 0 }
  else none

/-- The extents of a record that declare queue tables: number, base, queues. -/
def queueExtents (r : List Word) : List (Nat × Nat × Nat) :=
  (List.range (min 8 (recExtents r))).filterMap fun k =>
    if fld (recField r (0x8E + 16 * k) 2) 7 4 = 1 then some (k, recField r (0x80 + 16 * k) 8, recField r (0x88 + 16 * k) 6 / 32) else none

/-- The descriptors of a record's queue tables that can be read: extent, queue, and what the descriptor gives. (DEDUCED, log 64) -/
def readQueues (s : State) (slice : Nat) (r : List Word) : List (Nat × Nat × Option RecQueue) :=
  (queueExtents r).flatMap fun e => (List.range e.2.2).filterMap fun q =>
    (niRead s hostPort slice (e.2.1 + 32 * q) 32).map fun b => (e.1, q, queueDesc s slice b)

/-! ## Refusals -/

/-- A refusal shows in the window's LSTAT (R317), whose FIELD keeps the last rejection's offset where a queue was full, and, where `post` says so, as a launch-error record and MSI-X vector 0 (R59, R213, R296, R314).
(DESIGN CHOICE, log 91) (DESIGN CHOICE, log 92) -/
def refuseLaunch (s : State) (slice task : Nat) (window : Option (Nat × Nat)) (cause field : Nat) (post : Bool) : State :=
  let s := match window with
    | some w =>
      let x := getWindow s w
      putWindow s w { x with field := if cause = 1 then x.field else BitVec.ofNat 16 field, cause := BitVec.ofNat 8 cause }
    | none => s
  if ¬ post then s
  else
    let s := postFaultsFrom true s hostPort slice [{ va := 0, lanes := 0, pc := 0, fkind := 3, acc := 0, det := field, who := whoWord task 0 0 hostPort, tag := 0 }]
    { s with msix := s.msix ++ [((match window with | some (0, _) => 0 | _ => slice + 1), 0)] }

/-! ## Doorbells and arrival -/

/-- The launch window that a function's window number names (R315, R316), with its slice and level (R87): of PF0, 0 is the package window and the others
are those of slice SLSEL; of VFk, 0 is the system window and 1-8 the user windows. -/
def windowOf (s : State) (fn window : Nat) : Option ((Nat × Nat) × Nat × Nat) :=
  let lvl := fun (w : Nat) => if w = 0 then 1 else 0
  if fn = 0 then
    (if window = 0 then some ((0, 0), s.slsel % 8, 2) else if window ≤ 9 then some ((s.slsel % 8 + 1, window - 1), s.slsel % 8, lvl (window - 1)) else none)
  else if fn ≤ 8 ∧ window ≤ 8 then some ((fn, window), fn - 1, lvl window) else none

/-- LAUNCH_DOORBELL (R87, R317): the record goes to the sequencer as it stands now, once the window's previous message has left the host port. -/
def execLaunchDoorbell (fn window : Nat) (s : State) : Host.Outcome State Fault Refusal :=
  match (if s.imageGood then windowOf s fn window else none) with
  | none => .next s
  | some (w, slice, lvl) =>
    let x := getWindow s w
    let r := setLevel ((x.record ++ List.replicate 64 0).take 64) lvl
    if s.mesh.any fun p => decide (p.side = 6 ∨ p.side = 9) && (match p.body with | .launch _ _ _ v _ => v == some w | _ => false) then
      .next (putWindow s w { x with sent := x.sent + 1, waiting := x.waiting ++ [(slice, lvl, r)] })
    else .next (sendDoorbell (putWindow s w { x with sent := x.sent + 1 }) w slice lvl r)

/-- Answers a LAUNCH (R371): 0 queued, 1 full, 2 rejected. -/
def answerLaunch (s : State) (reply : Option (FRef × Nat × Nat)) (v : Nat) : State :=
  match reply with
  | some (f, ll, dst) =>
    emitFrom true s .mrsp 0x02 hostPort f.core 1 (replyTag (fibGen s f) ll) (.results f (fibGen s f) ll 0 0 (regsEff dst [BitVec.ofNat 32 v]))
  | none => s

/-- Why the sequencer rejects a record (R59, R214): the field it names. -/
def rejects (s : State) (slice : Nat) (r : List Word) : Option Nat :=
  match badField r with
  | some f => some f
  | none =>
    if ! gridFits s slice r then some 0x18
    else ((readQueues s slice r).find? fun q => q.2.2.isNone).map fun q => 0x80 + 16 * q.1

/-- Appends a record to the queue of its priority. -/
def enqueueLaunch (s : State) (slice : Nat) (q : Queued) : State :=
  modSlice s slice fun x => { x with queues := tput x.queues (recPrio q.record) (tgetD x.queues (recPrio q.record) [] ++ [q]) }

/-- Whether the queue of a record's priority is full (R212). -/
def launchFull (s : State) (slice : Nat) (r : List Word) : Bool := decide (16 ≤ (tgetD (getSlice s slice).queues (recPrio r) []).length)

/-- LAUNCH_MESSAGE (R59, R212, R213, R287, R323, R371). LQREF also counts the launches that a checkpoint refuses. (DESIGN CHOICE, log 91) -/
def execLaunchMessage (id : Nat) (s : State) : Host.Outcome State Fault Refusal :=
  match arrivedPacket s id with
  | none => .next s
  | some p =>
    match p.body with
    | .launch slice _ r window reply =>
      let t := dropPacket s id
      match rejects s slice r with
      | some f => .next (answerLaunch (refuseLaunch t slice 0 window 2 f true) reply 2)
      | none =>
        if launchFull s slice r ∨ s.ckpt ≠ 0 then
          .next (answerLaunch (refuseLaunch (bumpSlice t slice 0x000 1) slice 0 window 1 0 reply.isNone) reply 1)
        else .next (answerLaunch (enqueueLaunch t slice { record := r, window := window, node := none }) reply 0)
    | _ => .next s

/-! ## Placement -/

/-- Whether every valid dependence of a record holds (R60). -/
def depsHold (s : State) (slice : Nat) (r : List Word) : Bool :=
  (List.range 4).all fun k =>
    let d := recField r (0x20 + 8 * k) 8
    decide (d / 2 ^ 63 = 0) || decide (d % 2 ^ 32 ≤ (tgetD (getSlice s slice).dones (fld d 47 32) 0).toNat)

/-- The number under which an unplaced head of priority `p` stands among the tasks: placed ones have 0-255 (R262). -/
def headKey (p : Nat) : Nat := 256 + p

/-- Free group slots of a core. -/
def slotsFree (s : State) (c : Nat) : List Nat := (List.range 64).filter fun i => (getGroup s c i).isNone

/-- The lowest team number of a core that is not in use. -/
def teamFree (s : State) (c : Nat) : Option Nat := (List.range 64).find? fun i => (getTeam s c i).isNone

/-- Whether a core's code store can take a record's object, evicting as needed (R63). -/
def codeFits (s : State) (slice : Nat) (r : List Word) (c : Nat) : Bool :=
  let code := pairOf (r.getD 0 0) (r.getD 1 0)
  (findObject (getCore s c) slice code (r.getD 2 0)).isSome ||
    (placeObject ((getCore s c).objects.length + 1) s c slice code (r.getD 2 0) (recField r 0x0C 2)).isSome

/-- Whether a core can take a team of a record now (R61, R63, R97, R372). -/
def coreTakes (s : State) (slice : Nat) (r : List Word) (c : Nat) : Bool :=
  coreSuits s r c && ! (getCore s c).closed && decide (recGroups r ≤ (slotsFree s c).length) && (teamFree s c).isSome &&
    admits s c (32 * (8 * recField r 0x11 1) * recGroups r) && codeFits s slice r c

/-- Reserves a team of a launch on a core (R61, R480): its number, groups in the lowest free slots, registers. -/
def reserveTeam (s : State) (slice task : Nat) (t : Task) (cluster corner rank c : Nat) : State :=
  let r := t.record
  let n := (teamFree s c).getD 0
  let gx := recField r 0x18 2; let gy := recField r 0x1A 2
  let (uid, s) := freshId s
  let s := modCore s c fun k => { k with
    barriers := k.barriers.filter fun b => decide (b.1.1 ≠ n) }
  let s := { s with teams := tput s.teams (c, n) {
    uid := uid, slice := slice, task := task, prv := t.prv, crank := rank, cluster := cluster, gridx := cluster % gx, gridy := cluster / gx % gy,
    gridz := cluster / (gx * gy), gx := gx, gy := gy, gz := recField r 0x1C 2, cw := recField r 0x14 1, ch := recField r 0x15 1, corner := corner,
    allot := 8 * recField r 0x11 1, shape := if recField r 0x48 2 = 0 then 0 else BitVec.ofNat 32 (recField r 0x4C 4), codeObj := 0, entry := 0,
    vectors := [], completions := [], watchdog := 0, heard := false, halted := false, stopped := false, ending := false, stoppedAt := 0, banks := [] } }
  (((slotsFree s c).take (recGroups r)).zip (List.range (recGroups r))).foldl (fun s e =>
    takeGroup s c e.1 { team := n, gid := e.2, allot := 8 * recField r 0x11 1, base := 0, kind := .start }) s

/-- Places as many of a head's remaining clusters as fit, in order; reservations are kept (R61). -/
def placeClusters (s : State) (slice key : Nat) : Nat → State
  | 0 => s
  | fuel + 1 =>
    match tget (getSlice s slice).tasks key with
    | none => s
    | some t =>
      if recClusters t.record ≤ t.corners.length then s
      else
        match findCorner s slice t.record (taskCores t) (coreTakes s slice t.record) with
        | none => s
        | some corner =>
          let s := ((List.range (rectOf t.record corner).length).zip (rectOf t.record corner)).foldl (fun s e =>
            reserveTeam s slice key t t.corners.length corner e.1 e.2) s
          placeClusters (modSlice s slice fun x => { x with tasks := tput x.tasks key { t with corners := t.corners ++ [corner] } }) slice key fuel

/-- The lowest free task number of a slice (R262). -/
def freeTask (x : Slice) : Option Nat := (List.range 256).find? fun i => (tget x.tasks i).isNone && ! x.saved.any fun v => v.task = i

/-- Gives a launch whose clusters are all placed its task number, and takes its record off its queue (R212, R262). -/
def numberTask (s : State) (slice p : Nat) : State :=
  match tget (getSlice s slice).tasks (headKey p), freeTask (getSlice s slice) with
  | some t, some n =>
    if t.corners.length < recClusters t.record then s
    else
      let s := modSlice s slice fun x => { x with
        tasks := tput (tdel x.tasks (headKey p)) n { t with placed := true }
        queues := tput x.queues p ((tgetD x.queues p []).drop 1) }
      { s with teams := s.teams.map fun e => if e.2.slice = slice ∧ e.2.task = headKey p then (e.1, { e.2 with task := n }) else e }
  | _, _ => s

/-- Serves the eligible head of the highest priority (R60, R61); while a checkpoint stands none is placed (R323). -/
def serveQueues (s : State) (slice : Nat) : State :=
  if s.ckpt.getLsbD 1 then s
  else match [7, 6, 5, 4, 3, 2, 1, 0].find? fun p => match tgetD (getSlice s slice).queues p [] with
      | q :: _ => depsHold s slice q.record
      | [] => false with
  | none => s
  | some p =>
    match tgetD (getSlice s slice).queues p [] with
    | [] => s
    | q :: _ =>
      let s := if (tget (getSlice s slice).tasks (headKey p)).isSome then s
        else modSlice s slice fun x => { x with tasks := tput x.tasks (headKey p) {
          record := q.record, window := q.window, prv := recLvl q.record, corners := [], placed := false, extents := [], waiting := false, started := false,
          starting := 0, closedQueues := [], saved := false, node := q.node, owed := [], leads := [], past := false } }
      numberTask (placeClusters s slice (headKey p) (recClusters q.record)) slice p

/-! ## Translation of extents -/

/-- The page of an address as a run of its own (R262), if the rights of ACC hold there (R261). -/
def pageRun (s : State) (slice acc off va : Nat) : Except (Nat × Tr) ExtRun :=
  if va < 0x10000 then .error (va, .trap 3 0)
  else if 0xFFFF00000000 ≤ va then .error (va, .trap 4 0x03)
  else
    match pageOf s hostPort slice va with
    | .error e => .error (va, e)
    | .ok e =>
      if (acc % 2 = 1 ∧ ¬ e.rd) ∨ (acc / 2 % 2 = 1 ∧ ¬ e.wr) ∨ (acc / 4 % 2 = 1 ∧ ¬ (e.rd && e.wr)) then .error (va, .trap 4 0x06)
      else .ok { off := off, pfn := if e.big then e.pfn / 32 * 32 + va / 2 ^ 16 % 32 else e.pfn, npg := 1, home := e.home, hm := e.hm, wt := e.wt, bcmp := e.bcmp, usr := e.usr }

/-- Appends a page to the runs of an extent, the last run first. -/
def addRun (runs : List ExtRun) (p : ExtRun) : List ExtRun :=
  match runs with
  | r :: rest =>
    if r.pfn + r.npg = p.pfn ∧ r.home = p.home ∧ r.hm = p.hm ∧ r.wt = p.wt ∧ r.bcmp = p.bcmp ∧ r.usr = p.usr then { r with npg := r.npg + 1 } :: rest
    else p :: r :: rest
  | [] => [p]

/-- The runs of `n` further pages from page number `page` on. -/
def extentRuns (s : State) (slice acc base : Nat) : Nat → Nat → List ExtRun → Except (Nat × Tr) (List ExtRun)
  | 0, _, runs => .ok runs.reverse
  | n + 1, page, runs =>
    match pageRun s slice acc (page * 65536 - base) (max (page * 65536) base) with
    | .error e => .error e
    | .ok r => extentRuns s slice acc base n (page + 1) (addRun runs r)

/-- Translates extent `k` of a record (R262). -/
def translateExtent (s : State) (slice : Nat) (r : List Word) (k : Nat) : Except (Nat × Tr) Extent :=
  let base := recField r (0x80 + 16 * k) 8; let len := recField r (0x88 + 16 * k) 6; let acc := recField r (0x8E + 16 * k) 2
  let pages := if len = 0 then 0 else (base + len - 1) / 65536 - base / 65536 + 1
  match extentRuns s slice acc base pages (base / 65536) [] with
  | .ok runs => .ok { base := BitVec.ofNat 64 base, len := len, acc := BitVec.ofNat 16 acc, runs := runs }
  | .error e => .error e

/-- What continuing a placed launch finds: a page to be posted, a failing record offset, or its extents, queues, code and shape bytes. -/
inductive Ready where
  | page (va kind : Nat)
  | violation (field : Nat)
  | ok (extents : List Extent) (code shape : List Byte)

/-- Reads a range that the sequencer needs, or says why it cannot (R62-R64). -/
def readFor (s : State) (slice a n field : Nat) : Except Ready (List Byte) :=
  if a / 2 ^ 48 ≠ 0 ∨ (n ≠ 0 ∧ a < 0x10000) then .error (.violation field)
  else
    match rangeFails s hostPort slice 1 .rd a n with
    | some (va, .page k) => .error (.page va k)
    | some _ => .error (.violation field)
    | none => .ok (virtRead s hostPort slice 1 a n).1

/-- Translates every extent and reads the queue tables, code and shape record of a launch (R62-R64, R214, R262). A fragmented extent ends the launch as an
access violation at its descriptor's offset. (DESIGN CHOICE, log 92) -/
def readyLaunch (s : State) (slice : Nat) (r : List Word) : Ready :=
  let exts := (List.range (min 8 (recExtents r))).foldl (fun (a : Except Ready (List Extent)) k =>
    match a with
    | .error e => .error e
    | .ok l =>
      match translateExtent s slice r k with
      | .error (va, .page kind) => .error (.page va kind)
      | .error _ => .error (.violation (0x80 + 16 * k))
      | .ok x => if 520 < x.runs.length then .error (.violation (0x80 + 16 * k)) else .ok (l ++ [x])) (.ok [])
  match exts with
  | .error e => e
  | .ok l =>
    match ((readQueues s slice r).find? fun q => q.2.2.isNone) with
    | some q => .violation (0x80 + 16 * q.1)
    | none =>
      match readFor s slice (recField r 0 8) (64 * recField r 0x0C 2) 0 with
      | .error e => e
      | .ok code =>
        if recField r 0x48 2 = 0 then .ok l code []
        else
          match readFor s slice (recField r 0x40 8) (64 * recField r 0x48 2) 0x40 with
          | .error e => e
          | .ok shape => .ok l code shape

/-! ## Code, shape and start -/

/-- The 16 bytes of a run (R262). -/
def runBytes (r : ExtRun) : List Byte :=
  let b := fun (v : Bool) (k : Nat) => if v then 2 ^ k else 0
  leBytes 16 (r.off * 2 ^ 80 + r.pfn * 2 ^ 48 + r.npg % 2 ^ 32 * 2 ^ 16 + r.home % 1024 * 64 + b r.hm 5 + b r.wt 4 + b r.bcmp 3 + b r.usr 2)

/-- Writes the runs from the 9th on to the extent area (R262). -/
def spillRuns (s : State) (slice task k : Nat) (x : Extent) : State :=
  let a := (sliceCtl s hostPort slice 0x103).toNat + task * 0x10000 + k * 0x2000
  ((List.range (x.runs.length - 8)).zip (x.runs.drop 8)).foldl (fun s e => (niWrite s hostPort slice (a + 16 * e.1) (runBytes e.2)).getD s) s

/-- Sends a core what a launch needs there: the code lines if it lacks the object, the shape record, and its start message (R63-R65). -/
def sendStart (s : State) (slice task cluster rank c : Nat) (t : Task) (code shape : List Byte) : State :=
  let r := t.record
  let obj := pairOf (r.getD 0 0) (r.getD 1 0); let n := recField r 0x0C 2
  let s :=
    match findObject (getCore s c) slice obj (r.getD 2 0) with
    | some i =>
      let (k, s) := freshId s
      modCore s c fun q => { q with objects := match q.objects[i]? with | some o => lset q.objects i { o with started := k } | none => q.objects }
    | none =>
      match placeObject ((getCore s c).objects.length + 1) s c slice obj (r.getD 2 0) n with
      | none => s
      | some (s, i) =>
        let first := ((getCore s c).objects[i]?.map CodeObj.first).getD 0
        (List.range n).foldl (fun s j => emitFrom true s .sys 0x02 hostPort c 1 0 (.codeLine slice task (first + j) (wordsOf ((code.drop (64 * j)).take 64)))) s
  let s := (List.range (shape.length / 64)).foldl (fun s j =>
    emitFrom true s .sys 0x03 hostPort c 1 0 (.shape slice task (recField r 0x4C 4 + 64 * j) ((shape.drop (64 * j)).take 64))) s
  emitFrom true s .sys 0x04 hostPort c 1 0 (.start slice task cluster rank)

/-- The teams of a launch. -/
def launchTeams (s : State) (slice task : Nat) : List ((Nat × Nat) × Team) := s.teams.filter fun e => decide (e.2.slice = slice) && decide (e.2.task = task)

/-- Nothing of a record queue's credits is left in the cores or on the way (R215). -/
def dropCredits (s : State) (slice : Nat) (mine : Nat → Nat → Bool) : State :=
  { s with
    cores := s.cores.map fun e => (e.1, { e.2 with credits := e.2.credits.filter fun c => ! (decide (c.1.1 = slice) && mine c.1.2.1 c.1.2.2) })
    mesh := s.mesh.filter fun p => match p.body with | .credits sl t q _ => ! (decide (sl = slice) && mine t q) | _ => true }

/-- The records of a launch's queues that are still to be consumed no longer belong to a queue: they return no credit (R215); a draw for one goes no further. -/
def forgetRecords (s : State) (slice task : Nat) : State :=
  let rec' := fun (r : BasinRec) => if r.slice = slice ∧ r.task = task then { r with task := 1000 } else r
  let body := fun (b : Body) => match b with
    | .hit a t q w => if a = slice ∧ t = task then .hit a 1000 q w else b
    | .pixel a t q e w c n => if a = slice ∧ t = task then .pixel a 1000 q e w c n else b
    | b => b
  { s with
    draws := s.draws.filter fun r => ! (decide (r.spec.slice = slice) && decide (r.spec.task = task))
    mesh := s.mesh.map fun p => { p with body := body p.body }
    cores := s.cores.map fun e => (e.1, { e.2 with
      bins := e.2.bins.map fun b => (b.1, { b.2 with records := b.2.records.map rec' })
      spilled := e.2.spilled.map rec'
      sendQ := e.2.sendQ.map fun q => { q with packet := { q.packet with body := body q.packet.body } } }) }

/-- Ends the teams of a launch, with the marks of its invalid runs. -/
def dropTeams (s : State) (slice task : Nat) : State :=
  let s := (launchTeams s slice task).foldl (fun s e => endTeam s e.1.1 e.1.2) s
  { s with cores := s.cores.map fun e => (e.1, { e.2 with
    runsInvalid := e.2.runsInvalid.filter fun v => ! (decide (v.1 = slice) && decide (v.2.1 = task)) }) }

/-- Removes a launch with its teams, record queues, credits and marks of invalid runs; the senders of its pending records are told STALE (R67), of
the spilled ones as they come up. -/
def dropTask (s : State) (slice task : Nat) : State :=
  let s := forgetRecords (dropTeams s slice task) slice task
  let lost := (getSlice s slice).pending.filter fun q => decide (q.task = task)
  let s := modSlice s slice fun x => { x with
    tasks := tdel x.tasks task
    recQueues := x.recQueues.filter fun q => decide (q.1.1 ≠ task)
    pending := x.pending.filter fun q => decide (q.task ≠ task)
    pendSpill := x.pendSpill.map fun e => e.map fun d => if d.1 = task then (1000, d.2) else d }
  lost.foldl (fun s e => sendFailed s hostPort e.src (pkgNum s) e.tags 0x07) (dropCredits s slice fun t _ => decide (t = task))

/-- Goes on with a placed launch (R62-R65): a page not present is posted, a violation ends the launch, else everything is sent. (DEDUCED, log 25) -/
def continueLaunch (s : State) (slice task : Nat) (t : Task) : State :=
  match readyLaunch s slice t.record with
  | .page va k =>
    let s := modSlice s slice fun x => { x with tasks := tput x.tasks task { t with waiting := true } }
    postFaultsFrom true s hostPort slice [{
      va := BitVec.ofNat 64 va, lanes := 0, pc := 0, fkind := k, acc := 0, det := 0, who := whoWord task 0 0 hostPort, tag := 0 }]
  | .violation f => dropTask (refuseLaunch s slice task t.window 3 f true) slice task
  | .ok exts code shape =>
    if ¬ ((taskCores t).all fun c => codeFits s slice t.record c) then s
    else
      let qs := readQueues s slice t.record
      let s := ((List.range exts.length).zip exts).foldl (fun s e => spillRuns s slice task e.1 e.2) s
      let s := modSlice s slice fun x => { x with
        tasks := tput x.tasks task { t with extents := exts, started := true, starting := (taskCores t).length }
        recQueues := qs.foldl (fun l q => match q.2.2 with | some d => tput l (task, queueId q.1 q.2.1) d | none => l) x.recQueues }
      ((List.range t.corners.length).zip t.corners).foldl (fun s e =>
        ((List.range (rectOf t.record e.2).length).zip (rectOf t.record e.2)).foldl (fun s k => sendStart s slice task e.1 k.1 k.2 t code shape) s) s

/-- CODE_LINE (R63). -/
def execCodeLine (id : Nat) (s : State) : Host.Outcome State Fault Refusal :=
  match arrivedPacket s id with
  | some p => (match p.body with
    | .codeLine _ _ line words => .next (if earlierWaits s p then s else writeLine (dropPacket s id) p.dst line words)
    | _ => .next s)
  | none => .next s

/-- SHAPE_STORE (R64). -/
def execShapeStore (id : Nat) (s : State) : Host.Outcome State Fault Refusal :=
  match arrivedPacket s id with
  | some p => (match p.body with
    | .shape _ _ off bytes => .next (if earlierWaits s p then s else cistWrite (dropPacket s id) p.dst off bytes 0)
    | _ => .next s)
  | none => .next s

/-- A team's trap vectors, copied from CTL.TRAPBASE (R274); a table that cannot be read leaves every entry invalid. (DESIGN CHOICE, log 21) -/
def loadVectors (s : State) (core slice : Nat) : List DWord :=
  let a := (sliceCtl s core slice 0x101).toNat
  if a = 0 then List.replicate 16 0
  else match niRead s core slice a 128 with
    | some b => dwordsOf b
    | none => List.replicate 16 0

/-- The fibres of a starting team's group (R40, R58): lanes 0-31 of slots in ascending order; the slot's generation goes up by one. -/
def startGroup (s : State) (c sl gid : Nat) (t : Team) (pc : Word) (args : List Word) (fibres : Nat) : State :=
  let s := bumpGen s c sl
  (List.range (min 32 (fibres - 32 * gid))).foldl (fun s l => createFibre s ⟨c, sl, l⟩ t.allot pc (fsrNew t.prv false false) args Origin.none) s

/-- START_MESSAGE (R40, R65, R87, R274, R446): acted on once every code line and shape store before it has been written. -/
def execStartMessage (id : Nat) (s : State) : Host.Outcome State Fault Refusal :=
  match arrivedPacket s id with
  | none => .next s
  | some p =>
    match p.body with
    | .start slice task cluster _ =>
      if earlierWaits s p then .next s
      else
        let c := p.dst
        match tget (getSlice s slice).tasks task with
        | none => .next (dropPacket s id)
        | some k =>
          let s := modSlice (dropPacket s id) slice fun x => { x with tasks := tput x.tasks task { k with starting := k.starting - 1 } }
          match clusterTeam s c slice task cluster with
          | none => .next s
          | some (n, t) =>
            let r := k.record
            let i := (findObject (getCore s c) slice (pairOf (r.getD 0 0) (r.getD 1 0)) (r.getD 2 0)).getD 0
            let first := ((getCore s c).objects[i]?.map CodeObj.first).getD 0
            let e := recField r 0x0E 2
            let pc : Word := BitVec.ofNat 32 (64 * (first + e / 8) + 12 * (e % 8))
            let s := modTeam s c n fun t => { t with codeObj := i, entry := pc, vectors := loadVectors s c slice }
            let args := (List.range 7).map fun j => r.getD (20 + j) 0
            .next (if k.node.isSome ∨ t.halted then s
              else (teamSlots s c n).foldl (fun s sl => startGroup s c sl (((getGroup s c sl).map Group.gid).getD 0) t pc args (recField r 0x12 2)) s)
    | _ => .next s

/-! ## Work-graph records -/

/-- The node task of a queue: its number and state. (DESIGN CHOICE, log 54) -/
def nodeTask (s : State) (slice task q : Nat) : Option (Nat × Task) := (getSlice s slice).tasks.find? fun e => e.2.node = some (task, q)

/-- Whether a node launch record of a queue waits in a launch queue. -/
def nodeQueued (s : State) (slice task q : Nat) : Bool := (getSlice s slice).queues.any fun l => l.2.any fun e => e.node == some (task, q)

/-- Queues the node launch record that a queue descriptor names, at the lower of its level and the declaring launch's (R87, R214); none where it is
rejected, `some` of an unchanged state where its queue is full. -/
def queueNode (s : State) (slice task q : Nat) (t : Task) (target : DWord) : Option State :=
  if (nodeTask s slice task q).isSome ∨ nodeQueued s slice task q then some s
  else
    match niRead s hostPort slice (Config.nodeRecord slice task (fld target.toNat 47 32)) 256 with
    | none => none
    | some b =>
      let r := wordsOf b
      let r := setLevel r (min (recLvl r) t.prv)
      if (rejects s slice r).isSome then none
      else if launchFull s slice r then some s
      else some (enqueueLaunch s slice { record := r, window := none, node := some (task, q) })

/-- A place for one more fibre in a team of a node task: slot, lane, and the group index if the group must be made (R40, R61). (DESIGN CHOICE, log 76) -/
def nodePlace (s : State) (core team allot fibres : Nat) : Option (Nat × Nat × Option Nat) :=
  (List.range ((fibres + 31) / 32)).findSome? fun gid =>
    match s.groups.find? fun e => decide (e.1.1 = core) && decide (e.2.team = team) && decide (e.2.gid = gid) && e.2.kind == .start with
    | some e => ((List.range (min 32 (fibres - 32 * gid))).find? fun l => (getFib s ⟨core, e.1.2, l⟩).isNone).map fun l => (e.1.2, l, none)
    | none => if admits s core (32 * allot) then (freeSlot s core).map fun sl => (sl, 0, some gid) else none

/-- Delivers a record to its node task (R40, R67): a fibre in the first team that has a place, in its lowest free lane; none where no team has. (DESIGN
CHOICE, log 76) -/
def deliverNode (s : State) (slice node : Nat) (k : Task) (target : DWord) (words : List Word) : Option State :=
  (launchTeams s slice node).findSome? fun e =>
    let c := e.1.1; let t := e.2
    if t.halted ∨ t.stopped then none
    else
      (nodePlace s c e.1.2 t.allot (recField k.record 0x12 2)).map fun p =>
        let s := match p.2.2 with | some gid => makeGroup s c p.1 { team := e.1.2, gid := gid, allot := t.allot, base := 0, kind := .start } | none => bumpGen s c p.1
        let pc := (((getCore s c).objects[t.codeObj]?).bind fun o => regTarget o (target.setWidth 32)).getD 0
        createFibre s ⟨c, p.1, p.2.1⟩ t.allot (BitVec.ofNat 32 pc) (fsrNew t.prv false false) words Origin.none

/-- A pending record as a message, for the spill ring. -/
def workMsg (s : State) (e : PendRec) : Msg :=
  { src := e.src, spkg := pkgNum s, vc := .hit, kind := 3, cls := 0, tags := e.tags, words := e.words, seq := 0, clock := s.clk, retries := 0, bound := none }

/-- A record for a task that has exited is dropped, its credit returned, its sender told STALE (R67). -/
def dropRecord (s : State) (p : Packet) (slice task q : Nat) : State := sendFailed (returnCredits s p.dst slice task q 1) p.dst p.src p.spkg p.tags 0x07

/-- A record that cannot be delivered yet waits (R67, R217): in the pending queue, or spilled where it is full or earlier records of its node stand in
the spill. Where the ring cannot take it, the spill is lost as R222 lays down, and its credit goes back. (DEDUCED, log 84) -/
def pendRecord (s : State) (slice : Nat) (p : Packet) (e : PendRec) : State :=
  let x := getSlice s slice
  if x.pending.length < 256 ∧ ¬ x.pendSpill.contains (some (e.task, e.queue)) then putSlice s slice { x with pending := x.pending ++ [e] }
  else
    let (s, ok) := sumpSpill (bumpSlice s slice 0x004 1) hostPort slice 576 (messageEntries (workMsg s e) 2 e.task)
    if ok then modSlice s slice fun x => { x with pendSpill := x.pendSpill ++ [some (e.task, e.queue)] }
    else dropRecord s p slice e.task e.queue

/-- Delivers a record to its node task if that runs and has a place (R67). -/
def deliverNow (s : State) (slice task q : Nat) (words : List Word) : Option State :=
  match nodeTask s slice task q, tget (getSlice s slice).recQueues (task, q) with
  | some (n, k), some rq => if k.started ∧ k.starting = 0 ∧ ¬ k.saved then deliverNode s slice n k rq.target words else none
  | _, _ => none

/-- WORK_GRAPH_RECORD (R28, R40, R67, R214, R215, R217): the record starts a fibre of its node task, or is kept; its node is placed first.
(DEDUCED, log 84) -/
def execWorkGraphRecord (id : Nat) (s : State) : Host.Outcome State Fault Refusal :=
  match arrivedPacket s id with
  | none => .next s
  | some p =>
    match p.body with
    | .work slice task q words =>
      if earlierWaits s p then .next s
      else
        let x := getSlice s slice
        let t' := dropPacket s id
        let keep := fun (n : Nat) => keepMessage t' slice n p
        let e : PendRec := { task := task, queue := q, words := words, src := p.src, tags := p.tags }
        match x.saved.find? fun v => v.task = task with
        | some v => .next (keep v.task)
        | none =>
          match tget x.tasks task, tget x.recQueues (task, q) with
          | some t, some rq =>
            let waits := x.pending.any (fun d => decide (d.task = task) && decide (d.queue = q)) || x.pendSpill.contains (some (task, q))
            (match nodeTask s slice task q with
             | some (n, k) =>
               if k.saved then .next (keep n)
               else
                 match (if waits then none else deliverNow t' slice task q words) with
                 | some u => .next (returnCredits u p.dst slice task q 1)
                 | none => .next (pendRecord t' slice p e)
             | none =>
               match queueNode t' slice task q t rq.target with
               | some u => .next (pendRecord u slice p e)
               | none => .next (dropRecord (refuseLaunch t' slice task none 2 0 true) p slice task q))
          | _, _ => .next (dropRecord t' p slice task q)
    | _ => .next s

/-- A pending record whose node has not been queued yet, its launch queue having been full, asks again (R67, R213). -/
def askNode (s : State) (slice : Nat) (e : PendRec) : State :=
  match tget (getSlice s slice).tasks e.task, tget (getSlice s slice).recQueues (e.task, e.queue) with
  | some t, some rq => (queueNode s slice e.task e.queue t rq.target).getD s
  | _, _ => s

/-- Delivers the pending records of placed node tasks, in arrival order for each (R217). -/
def deliverPending (s : State) (slice : Nat) : State :=
  ((getSlice s slice).pending.foldl (fun (a : State × List (Nat × Nat)) e =>
    if a.2.contains (e.task, e.queue) then a
    else
      match deliverNow a.1 slice e.task e.queue e.words with
      | some u =>
        let home := ((tget (getSlice u slice).recQueues (e.task, e.queue)).map RecQueue.home).getD hostPort
        (returnCredits (modSlice u slice fun x => { x with pending := x.pending.erase e }) home slice e.task e.queue 1, a.2)
      | none => (askNode a.1 slice e, a.2 ++ [(e.task, e.queue)])) (s, [])).1

/-- The words of the `n`-th record of the pending-record ring from its RIDX on, with its entry header (R222). -/
def spilledWords (s : State) (slice area r i n : Nat) : Nat × List Word :=
  let raw := fun (j : Nat) => (niRead s hostPort slice (area + 0x9000 + 576 * r * 64 + 64 + (i + 2 * n + j) % r * 64) 64).getD []
  (leNat ((raw 0).take 8), (wordsOf ((raw 0).drop 8)).take 14 ++ (wordsOf ((raw 1).drop 8)).take 2)

/-- Takes the `n`-th record of the pending-record ring if it may go now (R67, R217): the first of its node in the ring, none of its node in the queue, and
its node task takes it, or its queue is gone, so that it is dropped, its sender told STALE. -/
def takeSpilled (s : State) (slice area r i n : Nat) : Option State :=
  let x := getSlice s slice
  match (x.pendSpill[n]?).getD none with
  | none => none
  | some (task, q) =>
    if (x.pendSpill.take n).contains (some (task, q)) ∨ x.pending.any fun e => decide (e.task = task) && decide (e.queue = q) then none
    else
      let (h, words) := spilledWords s slice area r i n
      let taken := fun (s : State) => modSlice s slice fun x => { x with pendSpill := lset x.pendSpill n none }
      match tget x.recQueues (task, q) with
      | none => some (sendFailed (taken s) hostPort (placeAt (fld h 45 40) (fld h 39 36)) (fld h 49 46) (BitVec.ofNat 18 h) 0x07)
      | some rq => (deliverNow s slice task q words).map fun u => returnCredits (taken u) rq.home slice task q 1

/-- Delivers the first record of the pending-record ring that may go (R67, R217), and moves RIDX past the places that are done with (R222). -/
def deliverSpilled (s : State) (slice : Nat) : State :=
  match (sumpDesc s hostPort slice).bind sumpArea with
  | some (area, r) =>
    let hdr := area + 0x9000 + 576 * r * 64
    (match niRead s hostPort slice (hdr + 8) 8 with
     | none => s
     | some b =>
       let l := (getSlice s slice).pendSpill
       let s := ((List.range l.length).findSome? (takeSpilled s slice area r (leNat b))).getD s
       let k := ((getSlice s slice).pendSpill.takeWhile Option.isNone).length
       if k = 0 then s
       else match niWrite s hostPort slice (hdr + 8) (leBytes 8 (leNat b + 2 * k)) with
         | some s => modSlice s slice fun x => { x with pendSpill := x.pendSpill.drop k }
         | none => s)
  | none => s

/-- Whether a queue still has records between send and consumption (R215), those kept for a saved launch among them (R67). -/
def queueBusy (s : State) (slice task q : Nat) : Bool :=
  let hit := fun (b : Body) => match b with | .work a t n _ => decide (a = slice) && decide (t = task) && decide (n = q) | _ => false
  let x := getSlice s slice
  x.pending.any (fun e => decide (e.task = task) && decide (e.queue = q)) || x.pendSpill.contains (some (task, q)) ||
    s.mesh.any (fun p => hit p.body) || (s.cores.any fun k => k.2.sendQ.any fun e => hit e.packet.body) ||
    x.saved.any fun v => v.messages.any fun p => hit p.body

/-- The node queues of a launch whose node task lives or may still be placed (R67). -/
def liveQueues (s : State) (slice task : Nat) : List Nat :=
  ((getSlice s slice).recQueues.filter fun e => decide (e.1.1 = task) && decide (e.2.qkind = 3) &&
    ((nodeTask s slice task e.1.2).isSome || nodeQueued s slice task e.1.2 || queueBusy s slice task e.1.2)).map fun e => e.1.2

/-- The grid of a launch ends (R66, R67): it goes, but while node tasks of its queues live, its node queues stay, closed. -/
def endLaunch (s : State) (slice task : Nat) : State :=
  let live := liveQueues s slice task
  if live.isEmpty then dropTask s slice task
  else
    let s := forgetRecords (dropTeams s slice task) slice task
    let s := modSlice s slice fun x => { x with
      tasks := x.tasks.map fun e => if e.1 = task then (e.1, { e.2 with past := true, closedQueues := live }) else e
      recQueues := x.recQueues.filter fun q => decide (q.1.1 ≠ task) || live.contains q.1.2 }
    dropCredits s slice fun t q => decide (t = task) && ! live.contains q

/-- Removes the launches whose grid has ended once no node task of theirs lives. -/
def reapTasks (s : State) (slice : Nat) : State :=
  ((getSlice s slice).tasks.filter fun e => e.2.past && (liveQueues s slice e.1).isEmpty).foldl (fun s e => dropTask s slice e.1) s

/-- LAUNCH_PLACEMENT (R60-R65, R212, R217, R262): a placed launch whose translation may go on goes on; else the queues are served; pending records of placed
tasks are delivered. -/
def execLaunchPlacement (slice : Nat) (s : State) : Host.Outcome State Fault Refusal :=
  let s := reapTasks (deliverSpilled (deliverPending s slice) slice) slice
  match (getSlice s slice).tasks.find? fun e => e.2.placed && ! e.2.started && ! e.2.waiting && ! e.2.saved with
  | some (n, t) => .next (continueLaunch s slice n t)
  | none => .next (serveQueues s slice)

/-! ## Grid end -/

/-- Whether a launch has ended (R66, R431): its start messages are taken, no group of its teams is left, every message that asked for a reply has been answered, and a node task's queue is closed
and empty. -/
def gridOver (s : State) (slice task : Nat) (t : Task) : Bool :=
  t.started && ! t.past && decide (t.starting = 0) && ! t.saved && ((launchTeams s slice task).all fun e =>
      (teamSlots s e.1.1 e.1.2).all fun sl => t.node.isSome && (lanesOf s e.1.1 sl).isEmpty) && t.owed.isEmpty &&
    (match t.node with
     | some (d, q) => queueClosed s slice d q && ! queueBusy s slice d q
     | none => true)

/-- GRID_END (R66, R280, R314, R431): DONE is raised, the launch's teams, bindings and record queues go. -/
def execGridEnd (slice task : Nat) (s : State) : Host.Outcome State Fault Refusal :=
  match tget (getSlice s slice).tasks task with
  | none => .next s
  | some t =>
    if ! gridOver s slice task t then .next s
    else
      let n := recField t.record 0x1E 2
      let s := endLaunch s slice task
      let s := modSlice s slice fun x => { x with
        dones := if n < 4096 then tput x.dones n (tgetD x.dones n 0 + 1) else x.dones
        recQueues := match t.node with | some d => tdel x.recQueues d | none => x.recQueues }
      let s := match t.node with | some d => dropCredits s slice fun t q => decide ((t, q) = d) | none => s
      .next { s with msix := s.msix ++ [(slice + 1, 1)] }

/-- COMPLETION_COUNTER_WRITE (R280): a host write sets a completion counter. -/
def execCompletionCounterWrite (slice index : Nat) (value : BitVec 32) (s : State) : Host.Outcome State Fault Refusal :=
  .next (if slice < 8 ∧ index < 4096 ∧ s.imageGood then modSlice s slice fun x => { x with dones := tput x.dones index value } else s)

end Sys2Proof.Machine
end

