-- ==== Sys2Proof/Machine/DevRay.lean ====
section
/-!
DEFINITION. The device's steps of tracing and shading (R70, R71, R215, R216, R218, R219, R264-R272, R460-R467, R471, R477-R479): rays in pipes, hit and
pixel records, basins and shading waves, credits, treelet transfers, descriptor images, draws.
-/
namespace Sys2Proof.Machine

/-! ## Rays -/

/-- RAY_MESSAGE (R123, R266): a ray whose treelet is resident takes a ray slot; another is forwarded or ends. (DEDUCED, log 85) -/
def execRayMessage (id : Nat) (s : State) : Host.Outcome State Fault Refusal :=
  match arrivedPacket s id with
  | none => .next s
  | some p =>
    match p.body with
    | .ray words forwards best =>
      (match (if earlierWaits s p then none else freeRay (getCore s p.dst)) with
       | none => .next s
       | some n =>
         let r := newRay words forwards best none
         let t := putRay (dropPacket s id) p.dst n (some r)
         .next (if (treeletEntry (getCore s p.dst) (rayTreelet words)).isSome then t else leaveCore t p.dst n r (some p.dst)))
    | _ => .next s

/-- TRAVERSAL_NODE_VISIT (R267, R462, R463, R477): slot `n` of a core: a ray that waits for a credit tries again; another visits its next node. -/
def execTraversalNodeVisit (core n : Nat) (s : State) : Host.Outcome State Fault Refusal :=
  let k := getCore s core
  match (if underTest s 0x0D core then none else tget k.rays n) with
  | none => .next s
  | some r =>
    if rayStatus r.words ≠ 0 then .next (sendFinal s core n r)
    else
      match treeletEntry k (rayTreelet r.words) with
      | none => .next (leaveCore s core n r (some core))
      | some (_, e) =>
        match tget (getSlice s (k.slice.getD 0)).tdsets (fld e.toNat 50 48) with
        | none => .next (finishRay s core n r 5)
        | some d =>
          let p := visitNode s { core := core, entry := e, desc := d } { w := r.words, next := r.next, stack := r.stack, best := r.best, free := s.free, st := 0 }
          let s := perfEvent { s with free := p.free } core 0x0E 1 none none
          let r' := { r with words := p.w, next := p.next, stack := p.stack, best := p.best }
          let moved := decide (rayTreelet p.w ≠ rayTreelet r.words)
          .next (if p.st ≠ 0 then finishRay s core n r' p.st
            else if moved && (treeletEntry k (rayTreelet p.w)).isNone then leaveCore s core n { r' with forwards := 0 } none
            else putRay s core n (some { r' with forwards := if moved then 0 else r.forwards }))

/-! ## Basins -/

/-- The bin entry offset of a hit record (R460). -/
def hitEntry (w : List Word) : Word :=
  BitVec.ofNat 32 (fld (rayW w (if rayStatus w = 1 ∨ rayStatus w = 3 then 10 else 11)).toNat 18 0)

/-- Records in a core's bins. -/
def basinUsed (k : Core) : Nat := k.bins.foldl (fun n b => n + b.2.records.length) 0

/-- The bin that a record of an entry takes: the one bound to it, else the free bin of lowest number (R218). -/
def binFor (k : Core) (pc : Word) : Option Nat :=
  match (List.range 32).find? fun n => (binOf k n).pc == some pc with
  | some n => some n
  | none => (List.range 32).find? fun n => (binOf k n).pc.isNone

/-- Whether the basin can take a record now. -/
def binTakes (k : Core) (r : BasinRec) : Bool := decide (basinUsed k < 1024) && (binFor k r.entry).isSome

/-- A record enters its bin; at the threshold the bin's wave is due (R70, R218). -/
def enterBin (s : State) (core : Nat) (r : BasinRec) : State :=
  let k := getCore s core
  match binFor k r.entry with
  | none => s
  | some n =>
    let b := binOf k n
    let b := { b with pc := some r.entry, records := b.records ++ [{ r with arrived := s.clk }] }
    let s := putCore s core { k with bins := tput k.bins n { b with due := b.due || decide (b.threshold ≤ binFibres b) } }
    highWater s core 0x03C (basinUsed k + 1)

/-- The address of a record's place in its queue's ring (R214, R219). -/
def ringAddr (q : RecQueue) (pos : Nat) : Nat := (q.ring + BitVec.ofNat 64 (pos % max q.cap 1 * 64)).toNat

/-- Writes a record to the ring of its queue (R219); a lost record returns its credit. -/
def spillRecord (s : State) (core : Nat) (r : BasinRec) : State :=
  let s := bump s core 0x030 1
  match tget (getSlice s r.slice).recQueues (r.task, r.queue) with
  | none => s
  | some q =>
    match niWrite s core r.slice (ringAddr q r.pos) (bytesOf r.words) with
    | some s => modCore s core fun k => { k with spilled := k.spilled ++ [r] }
    | none =>
      logError (returnCredits s core r.slice r.task r.queue 1) 0x09 0x0B core core 0xFFFF r.slice (BitVec.ofNat 64 (ringAddr q r.pos))

/-- Whether two records belong to one queue. -/
def sameQueue (a b : BasinRec) : Bool := decide (a.slice = b.slice) && decide (a.task = b.task) && decide (a.queue = b.queue)

/-- HIT_RECORD (R70, R71, R218, R219): a hit or pixel start record enters the basin, or its queue's ring. -/
def execHitRecord (id : Nat) (s : State) : Host.Outcome State Fault Refusal :=
  match arrivedPacket s id with
  | none => .next s
  | some p =>
    let take := fun (sl t q : Nat) (r : BasinRec) =>
      let pos := ((tget (getSlice s sl).recQueues (t, q)).map RecQueue.written).getD 0
      let s := modSlice (dropPacket s id) sl fun x => { x with recQueues := x.recQueues.map fun e => if e.1 = (t, q) then (e.1, { e.2 with written := e.2.written + 1 }) else e }
      let r := { r with arrived := s.clk, slice := sl, task := t, queue := q, pos := pos }
      if (getCore s p.dst).spilled.any (sameQueue r) ∨ ¬ binTakes (getCore s p.dst) r then spillRecord s p.dst r else enterBin s p.dst r
    if earlierWaits s p then .next s
    else
      match p.body with
      | .hit sl t q words =>
        .next (take sl t q { arrived := 0, pixel := false, entry := hitEntry words, words := words, cov := [], seq := 0, slice := sl, task := t, queue := q, pos := 0 })
      | .pixel sl t q entry words cov seq =>
        .next (take sl t q { arrived := 0, pixel := true, entry := entry, words := words, cov := cov, seq := seq, slice := sl, task := t, queue := q, pos := 0 })
      | _ => .next s

/-- RING_TO_BASIN_MOVE (R219): the `n`-th record of the core's rings moves into the basin, if it is the oldest that can. -/
def execRingToBasinMove (core n : Nat) (s : State) : Host.Outcome State Fault Refusal :=
  let k := getCore s core
  let can := fun (i : Nat) => match k.spilled[i]? with
    | some r => binTakes k r && ! ((k.spilled.take i).any (sameQueue r))
    | none => false
  match k.spilled[n]? with
  | none => .next s
  | some r =>
    if ! can n || ((List.range n).any can) then .next s
    else
      let s := putCore s core { k with spilled := k.spilled.take n ++ k.spilled.drop (n + 1) }
      let words := match (tget (getSlice s r.slice).recQueues (r.task, r.queue)).bind fun q => niRead s core r.slice (ringAddr q r.pos) 64 with
        | some b => wordsOf b
        | none => r.words
      .next (enterBin s core { r with words := words })

/-- BASIN_BIN_TIMEOUT (R70): the oldest record has waited longer than the bin's timeout. -/
def execBasinBinTimeout (core bin : Nat) (s : State) : Host.Outcome State Fault Refusal :=
  let k := getCore s core
  let b := binOf k bin
  match b.records with
  | [] => .next s
  | r :: _ => .next (if b.timeout.toNat < (s.clk - r.arrived).toNat ∧ ¬ b.due then putCore s core { k with bins := tput k.bins bin { b with due := true } } else s)

/-- The records a wave takes (R70, R71): oldest first, of one kind, up to 32 fibres or 8 quads. (DESIGN CHOICE, log 77) -/
def waveRecords (b : Bin) : List BasinRec :=
  match b.records with
  | [] => []
  | r :: _ => (b.records.takeWhile fun e => e.pixel == r.pixel).take (if r.pixel then 8 else 32)

/-- What a pixel start record gives each of its four fibres (R71, R83, R471). -/
def pixelOrigin (r : BasinRec) (i : Nat) : Origin :=
  { Origin.none with
    seq := r.seq, cov := r.cov.getD i 0, helper := decide (r.cov.getD i 0 = 0), pixelKey := some (pairOf (r.words.getD 14 0) (r.words.getD 15 0)) }

/-- SHADING_WAVE_FORM (R40, R70, R71, R94, R215, R467, R479): a due wave takes a group slot and registers; its records are consumed. -/
def execShadingWaveForm (core bin : Nat) (s : State) : Host.Outcome State Fault Refusal :=
  let k := getCore s core
  let b := binOf k bin
  match (if b.due then k.basinOwner.bind fun n => (getTeam s core n).map fun t => (n, t) else none), freeSlot s core with
  | some (n, t), some slot =>
    let rs := waveRecords b
    if t.halted ∨ t.stopped ∨ rs.isEmpty ∨ ¬ admits s core (32 * t.allot) then .next s
    else
      let first := ((codeOf s core t).map CodeObj.first).getD 0
      let left := b.records.drop rs.length
      let b' := { b with records := left, pc := if left.isEmpty then none else b.pc }
      let s := modCore s core fun k => { k with bins := tput k.bins bin { b' with due := ! left.isEmpty && decide (b'.threshold ≤ binFibres b') } }
      let s := makeGroup s core slot { team := n, gid := 64 + slot, allot := t.allot, base := 0, kind := .shading bin }
      let lanes : List (BasinRec × Nat) := rs.flatMap fun r => if r.pixel then (List.range 4).map fun i => (r, i) else [(r, 0)]
      let s := ((List.range lanes.length).zip lanes).foldl (fun s e =>
        let r := e.2.1
        createFibre s ⟨core, slot, e.1⟩ t.allot (BitVec.ofNat 32 (64 * first + r.entry.toNat)) (fsrNew t.prv false false) r.words
          (if r.pixel then pixelOrigin r e.2.2 else Origin.none)) s
      let s := rs.foldl (fun s r => returnCredits s core r.slice r.task r.queue 1) s
      .next (perfEvent s core 0x10 1 none none)
  | _, _ => .next s

/-! ## Credits -/

/-- Changes the home's state of a record queue. -/
def modQueue (s : State) (slice task q : Nat) (f : RecQueue → RecQueue) : State :=
  modSlice s slice fun x => { x with recQueues := x.recQueues.map fun e => if e.1 = (task, q) then (e.1, f e.2) else e }

/-- The request of a core's NI for credits of a queue that has reached the home (R215). -/
def creditAsk (s : State) (core slice task queue : Nat) : Option Packet :=
  s.mesh.find? fun p => p.arrived && decide (p.src = core) && (p.body == .credits slice task queue 0)

/-- Whether credits of a queue have come back to the home and are not counted yet (R215). -/
def creditsBack (s : State) (slice task queue : Nat) : Bool :=
  s.mesh.any fun p => p.arrived && match p.body with | .credits a b c n => decide (a = slice ∧ b = task ∧ c = queue ∧ n ≠ 0) | _ => false

/-- CREDIT_BATCH_TAKE (R215): the home answers an NI's request with a batch of 8, up to 16 held; credits that have come back are counted first.
(DESIGN CHOICE, log 14) -/
def execCreditBatchTake (core slice task queue : Nat) (s : State) : Host.Outcome State Fault Refusal :=
  match creditAsk s core slice task queue, tget (getSlice s slice).recQueues (task, queue) with
  | some p, some q =>
    let held := creditsOf s core slice task queue
    if creditsBack s slice task queue ∨ q.credits < 8 then .next s
    else if 8 < held then .next (dropPacket s p.id)
    else
      .next (modCore (modQueue (dropPacket s p.id) slice task queue fun q => { q with credits := q.credits - 8 }) core fun k => { k with
        credits := tput k.credits (slice, task, queue) (held + 8, s.clk) })
  | some p, none => .next (dropPacket s p.id)
  | none, _ => .next s

/-- CREDIT_IDLE_RETURN (R215): credits of a queue that no record has used for 1,024 clocks go back. (DESIGN CHOICE, log 14) -/
def execCreditIdleReturn (core slice task queue : Nat) (s : State) : Host.Outcome State Fault Refusal :=
  match tget (getCore s core).credits (slice, task, queue) with
  | none => .next s
  | some (n, last) =>
    if (s.clk - last).toNat < 1024 ∨ n = 0 then .next s
    else .next (returnCredits (modCore s core fun k => { k with credits := tdel k.credits (slice, task, queue) }) core slice task queue n)

/-- CREDIT_RETURN (R215): credits reach the home; a request for some is CREDIT_BATCH_TAKE's. -/
def execCreditReturn (id : Nat) (s : State) : Host.Outcome State Fault Refusal :=
  match arrivedPacket s id with
  | some p => (match p.body with
    | .credits sl t q n => .next (if n = 0 then s else modQueue (dropPacket s id) sl t q fun q => { q with credits := q.credits + n })
    | _ => .next s)
  | none => .next s

/-! ## Treelets and descriptor sets -/

/-- Whether a raster image's fields hold legal codes; its reserved bits are ignored (R9, R267, R269). -/
def rdsLegal (w : List DWord) : Bool :=
  let d := (w.getD 0 0).toNat
  decide (fld d 63 62 ≠ 3 ∧ fld d 61 59 ≤ 4 ∧ fld d 58 57 ≠ 3 ∧ fld d 56 55 ≠ 3)

/-- Loads a raster set of a die; reserved bits stay zero (R9, R267, R269). -/
def setRaster (s : State) (die slice n : Nat) (w : List DWord) : State :=
  let r := tgetD s.raster (die, slice) { sets := [], rates := [] }
  { s with raster := tput s.raster (die, slice) { r with sets := tput r.sets n (lset (w.take 3) 0 (w.getD 0 0 >>> 55 <<< 55)) } }

/-- Loads a traversal set; reserved bits stay zero (R9, R267, R268). -/
def setTraversal (s : State) (slice n : Nat) (w : List DWord) : State :=
  modSlice s slice fun x => { x with tdsets := tput x.tdsets n (w.getD 0 0 >>> 45 <<< 45) }

/-- A TLOAD is over, with its status (R446, R465). -/
def endTload (s : State) (c : TloadCmd) (st : Nat) : State := accDone (countCompletion s c.f.core c.team c.cidx st 0) c.f c.acc

/-- The descriptor form: the image is loaded, or refused with ST 0x03. -/
def loadImage (s : State) (c : TloadCmd) (bytes : List Byte) : State :=
  let w := dwordsOf bytes; let d := c.d.toNat
  if c.kind = 1 then
    (if d / 8 = 0 ∧ tdsLegal w then endTload (setTraversal s c.slice (d % 8) w) c 0 else endTload s c 3)
  else if d / 16 = 0 ∧ rdsLegal w then endTload (setRaster s (if d / 8 = 0 then 1 else 4) c.slice (d % 8) w) c 0
  else endTload s c 3

/-- The table entry of a loaded treelet (R264, R465). -/
def treeletWord (c : TloadCmd) : DWord :=
  let d := c.d.toNat
  BitVec.ofNat 64 (2 ^ 63 + d % 4096 * 2 ^ 51 + fld d 14 12 * 2 ^ 48 + c.off / 64 * 2 ^ 32 + fld d 31 16 * 2 ^ 16)

/-- TREELET_TRANSFER (R264, R267, R303, R465): a block is written; the next leaves, and the last fills the entry. -/
def execTreeletTransfer (id : Nat) (s : State) : Host.Outcome State Fault Refusal :=
  match arrivedPacket s id with
  | none => .next s
  | some p =>
    match p.body with
    | .treelet c off bytes psn =>
      let s := dropPacket s id
      if c.kind ≠ 0 then .next (loadImage s c bytes)
      else
        let s := cistWrite s p.dst (c.off + off) bytes psn
        if off + bytes.length < c.size then .next (sendTreeletBlock s c (off + bytes.length))
        else
          let id := c.d.toNat % 4096
          let slot := match (getCore s p.dst).treelets.find? fun e => decide (fld e.2.toNat 62 51 = id) && ! e.2.getLsbD 63 with
            | some e => some e.1
            | none => tloadSlot (getCore s p.dst) id
          .next (match slot with
            | some i => endTload (modCore s p.dst fun k => { k with treelets := tput k.treelets i (treeletWord c) }) c 0
            | none => endTload s c 3)
    | _ => .next s

/-- DESCRIPTOR_IMAGE_WRITE (R267, R316): the host writes the 32-byte image of a set, which is loaded whole, or left as it was. (DESIGN CHOICE, log 40) -/
def execDescriptorImageWrite (slice offset : Nat) (image : BitVec 256) (s : State) : Host.Outcome State Fault Refusal :=
  let n := offset % 0x100 / 32
  let img := (List.range 4).map fun i => image.extractLsb' (64 * i) 64
  if offset % 32 ≠ 0 ∨ 0x300 ≤ offset ∨ ! s.imageGood then .next s
  else if offset < 0x100 then .next (if tdsLegal img then setTraversal s slice n img else s)
  else .next (if rdsLegal img then setRaster s (if offset < 0x200 then 1 else 4) slice n img else s)

/-! ## Draws -/

/-- One axis of a rate combiner (R272). -/
def combineAxis (op a b : Nat) : Nat :=
  match op with
  | 1 => b
  | 2 => min a b
  | 3 => max a b
  | 4 => min 2 (a + b)
  | _ => a

/-- An axis of a rate code: 3 is read as 2 (R270). -/
def rateAxis (v : Nat) : Nat := min 2 v

/-- LW and LH of a rate code (R270). -/
def rateOf (code : Nat) : Nat × Nat := (rateAxis (code / 4 % 4), rateAxis (code % 4))

/-- The rate of a primitive's pixels in a tile of the rate image (R271, R272). -/
def drawRate (e : Nat) (prim img : Nat) : Nat × Nat :=
  if e / 16 % 2 = 0 then (0, 0)
  else
    let d := rateOf (e % 16); let p := rateOf prim; let t := rateOf img
    let o1 := fld e 7 5; let o2 := fld e 10 8
    (combineAxis o2 (combineAxis o1 d.1 p.1) t.1, combineAxis o2 (combineAxis o1 d.2 p.2) t.2)

/-- The rate code of the image tile that holds a pixel (R271); a byte that cannot be read gives code 0. -/
def imageCode (s : State) (core slice e x y : Nat) : Nat :=
  let t := if e / 2 ^ 12 % 2 = 1 then 16 else 8
  let w := fld e 31 16
  if e / 2 ^ 11 % 2 = 0 ∨ w ≤ x / t then 0
  else match niRead s core slice (e / 2 ^ 32 + y / t * w + x / t) 1 with
    | some b => leNat b % 16
    | none => 0

/-- Twice the signed area of a triangle. -/
def area2 (p : Prim) : Int := (p.x1 - p.x0) * (p.y2 - p.y0) - (p.x2 - p.x0) * (p.y1 - p.y0)

/-- The corners of a primitive with its area positive. -/
def corners (p : Prim) : List (Int × Int) :=
  if area2 p < 0 then [(p.x0, p.y0), (p.x2, p.y2), (p.x1, p.y1)] else [(p.x0, p.y0), (p.x1, p.y1), (p.x2, p.y2)]

/-- The three edges of a primitive. -/
def edges (p : Prim) : List ((Int × Int) × Int × Int) :=
  let c := corners p
  [(c.getD 0 (0, 0), c.getD 1 (0, 0)), (c.getD 1 (0, 0), c.getD 2 (0, 0)), (c.getD 2 (0, 0), c.getD 0 (0, 0))]

/-- An edge's function at a point: positive inside. -/
def edgeAt (e : (Int × Int) × Int × Int) (x y : Int) : Int := (e.2.1 - e.1.1) * (y - e.1.2) - (e.2.2 - e.1.2) * (x - e.1.1)

/-- Whether an edge is a top or a left edge (R269). -/
def topLeft (e : (Int × Int) × Int × Int) : Bool := decide (e.2.2 < e.1.2) || (decide (e.2.2 = e.1.2) && decide (e.1.1 < e.2.1))

/-- Whether a sample point is covered under the top-left rule (R269). -/
def covers (p : Prim) (x y : Int) : Bool :=
  decide (area2 p ≠ 0) && (edges p).all fun e => decide (0 < edgeAt e x y) || (decide (edgeAt e x y = 0) && topLeft e)

/-- The corners of a square of pixels, in sixteenths. -/
def boxCorners (x y w h : Int) : List (Int × Int) := [(x, y), (x + w, y), (x, y + h), (x + w, y + h)]

/-- Whether a primitive meets the inside of a rectangle (conservative, outer; R269). -/
def meets (p : Prim) (x y w h : Int) : Bool :=
  let xs := [p.x0, p.x1, p.x2]; let ys := [p.y0, p.y1, p.y2]
  decide (area2 p ≠ 0) && xs.any (fun v => decide (x < v)) && xs.any (fun v => decide (v < x + w)) && ys.any (fun v => decide (y < v)) &&
    ys.any (fun v => decide (v < y + h)) && (edges p).all fun e => (boxCorners x y w h).any fun c => decide (0 < edgeAt e c.1 c.2)

/-- Whether a rectangle lies in a primitive (conservative, inner; R269). -/
def holds (p : Prim) (x y w h : Int) : Bool :=
  decide (area2 p ≠ 0) && (edges p).all fun e => (boxCorners x y w h).all fun c => decide (0 ≤ edgeAt e c.1 c.2)

/-- The coverage of a coarse pixel of 2^LW by 2^LH pixels at pixel (x, y): bit k for sample k (R269). Offsets scale with the coarse
pixel, and a conservative mode sets every sample's bit. (DESIGN CHOICE, log 98) -/
def coverage (set : List DWord) (p : Prim) (lw lh x y : Nat) : BitVec 16 :=
  let d := (set.getD 0 0).toNat
  let n := 2 ^ fld d 61 59
  let px : Int := 16 * x; let py : Int := 16 * y; let w : Int := 16 * 2 ^ lw; let h : Int := 16 * 2 ^ lh
  let all : BitVec 16 := BitVec.ofNat 16 (2 ^ n - 1)
  match fld d 63 62 with
  | 1 => if meets p px py w h then all else 0
  | 2 => if holds p px py w h then all else 0
  | _ => (List.range n).foldl (fun (m : BitVec 16) k =>
      let b := (set.getD (1 + k / 8) 0).toNat / 2 ^ (8 * (k % 8)) % 256
      if covers p (px + (b % 16 * 2 ^ lw : Nat)) (py + (b / 16 * 2 ^ lh : Nat)) then m ||| (1#16 <<< k) else m) 0

/-- Interleaves the bits of a tile's coordinates (R269, Morton order). (DESIGN CHOICE, log 99) -/
def mortonOf (x y : Nat) : Nat := (List.range 16).foldl (fun n i => n + x / 2 ^ i % 2 * 4 ^ i + y / 2 ^ i % 2 * 2 * 4 ^ i) 0

/-- The tiles of a rectangle of tiles in a set's order (R269): Morton order has x in the even bits, serpentine order reverses the odd tile rows. (DESIGN
CHOICE, log 99) -/
def tileOrder (ord x0 y0 x1 y1 : Nat) : List (Nat × Nat) :=
  let rows := (List.range (y1 + 1 - y0)).map fun j => (List.range (x1 + 1 - x0)).map fun i => (x0 + i, y0 + j)
  match ord with
  | 1 => (sortNat (rows.flatten.map fun t => mortonOf t.1 t.2)).filterMap fun m => rows.flatten.find? fun t => mortonOf t.1 t.2 = m
  | 2 => ((List.range rows.length).zip rows).flatMap fun r => if (y0 + r.1) % 2 = 1 then r.2.reverse else r.2
  | _ => rows.flatten

/-- The quads of coarse pixels of one block of pixels that a primitive covers, with the coverage of their four pixels (R71). -/
def blockQuads (set : List DWord) (p : Prim) (lw lh x y size : Nat) : List (List (BitVec 16)) :=
  let qw := 2 * 2 ^ lw; let qh := 2 * 2 ^ lh
  (List.range (size / qh)).flatMap fun j => (List.range (size / qw)).filterMap fun i =>
    let cov := (List.range 4).map fun k => coverage set p lw lh (x + qw * i + k % 2 * 2 ^ lw) (y + qh * j + k / 2 * 2 ^ lh)
    if cov.all (· = 0) then none else some cov

/-- The quads of a primitive with their tiles: tile x, tile y, coverages. -/
def primQuads (s : State) (d : DrawSpec) (set : List DWord) (rate : Nat) (p : Prim) : List (Nat × Nat × List (BitVec 16)) :=
  let r := (set.getD 0 0).toNat
  let size := 8 * 2 ^ fld r 56 55
  let unit := min size (if rate / 2 ^ 12 % 2 = 1 then 16 else 8)
  let lo := fun (a b c : Int) => (min a (min b c) / 16).toNat / size
  let hi := fun (a b c : Int) => (max a (max b c) / 16).toNat / size
  let core := rasterRouter d.die
  (tileOrder (fld r 58 57) (lo p.x0 p.x1 p.x2) (lo p.y0 p.y1 p.y2) (hi p.x0 p.x1 p.x2) (hi p.y0 p.y1 p.y2)).flatMap fun t =>
    (List.range (size / unit * (size / unit))).flatMap fun k =>
      let x := t.1 * size + k % (size / unit) * unit; let y := t.2 * size + k / (size / unit) * unit
      let c := drawRate rate p.rate.toNat (imageCode s core d.slice rate x y)
      (blockQuads set p c.1 c.2 x y unit).map fun cov => (t.1, t.2, cov)

/-- The section key of a tile of a draw (R469, R471). -/
def tileKey (d : DrawSpec) (tx ty : Nat) : DWord := d.keyBase + BitVec.ofNat 64 (ty * 65536 + tx)

/-- The draw that a die's raster sequencer has begun. -/
def drawOf (s : State) (die : Nat) : Option DrawRun := s.draws.find? fun r => decide (r.spec.die = die)

/-- Changes the draw that a die's raster sequencer has begun; `none` ends it. -/
def putDraw (s : State) (die : Nat) (r : Option DrawRun) : State :=
  { s with draws := (s.draws.filter fun r => decide (r.spec.die ≠ die)) ++ r.toList }

/-- One start record goes out on HIT, on a credit that the sequencer's NI holds; without one the stream stalls and the NI asks for a batch
(R71, R215, R216). (DESIGN CHOICE, log 55) -/
def sendPixel (s : State) (q : RecQueue) (r : DrawRun) (e : Word × Nat × Nat × List (BitVec 16)) (rest : List (Word × Nat × Nat × List (BitVec 16))) :
    State :=
  let d := r.spec; let ni := rasterRouter d.die
  if creditsOf s ni d.slice d.task d.queue = 0 then askCredit s ni d.slice d.task d.queue
  else
    let (n, s) := freshFree (putDraw (spendCredit s ni d.slice d.task d.queue) d.die (some { r with recs := rest }))
    let key := tileKey d e.2.1 e.2.2.1
    emitFrom true s .hit 0x02 ni (q.target.toNat % 1024) 1 0 (.pixel d.slice d.task d.queue d.entry
      ((List.range 14).map (Config.pixelWord n) ++ [loHalf key, hiHalf key]) e.2.2.2 e.1)

/-- The next of a begun draw: a start record, or the beginning of a primitive, under the set and the rate table of that moment (R267, R271); a draw
whose set is invalid by then, or whose queue is gone, goes no further. -/
def stepDraw (s : State) (r : DrawRun) : State :=
  let d := r.spec
  let tbl := tgetD s.raster (d.die, d.slice) { sets := [], rates := [] }
  match tget (getSlice s d.slice).recQueues (d.task, d.queue) with
  | none => putDraw s d.die none
  | some q =>
    match r.recs, r.prims, tget tbl.sets d.set with
    | e :: rest, _, _ => sendPixel s q r e rest
    | [], [], _ => putDraw s d.die none
    | [], _ :: _, none => refuseLaunch (putDraw s d.die none) d.slice d.task none 2 0 true
    | [], p :: ps, some set =>
      putDraw s d.die (some { r with
        prims := ps, recs := (primQuads s d set (tgetD tbl.rates d.drawState 0).toNat p).map fun e => (p.seq, e) })

/-- DRAW (R71, R215, R216, R267, R269-R272): a die's raster sequencer begins a draw, or goes on with the one it has begun: the start records of its
primitives go out on HIT in order. Another draw of the die waits. A draw that names an invalid set is dropped with a launch error, one whose queue
takes no pixel records has no effect. (DESIGN CHOICE, log 55) -/
def execDraw (d : DrawSpec) (s : State) : Host.Outcome State Fault Refusal :=
  match drawOf s d.die with
  | some r => .next (if r.spec = d then stepDraw s r else s)
  | none =>
    match tget (tgetD s.raster (d.die, d.slice) { sets := [], rates := [] }).sets d.set, tget (getSlice s d.slice).recQueues (d.task, d.queue) with
    | none, _ => .next (refuseLaunch s d.slice d.task none 2 0 true)
    | some _, some q => .next (if q.qkind = 2 then putDraw s d.die (some { spec := d, prims := d.prims, recs := [] }) else s)
    | some _, none => .next s

end Sys2Proof.Machine
end

