-- ==== Sys2Proof/Machine/DevPump.lean ====
section
/-!
DEFINITION. The device's steps of pumps, page migration and the encoders (R138-R141, R201, R202, R232, R472, R473, R475, R488-R491).
-/
namespace Sys2Proof.Machine

/-! ## Doing an instruction again -/

/-- What an instruction that a lane does again performs (R138, R234): its lane function, with the registers it read. -/
def againLane (s : State) (is : Issue) (eid l : Nat) (i : Instr) : State :=
  match i with
  | .pref _ o => rangeLane s is eid 0 i o l
  | .flush _ o => rangeLane s is eid 1 i o l
  | .invl _ o => rangeLane s is eid 2 i o l
  | .pin _ o => rangeLane s is eid 3 i o l
  | .unpin _ o => rangeLane s is eid 4 i o l
  | .migr _ o => migrLane s is eid i o l
  | .cpy _ o => copyLane s is eid i (cpyCmd o) l
  | .cpyw _ o => copyLane s is eid i (cpywCmd o) l
  | .gath _ o => copyLane s is eid i (gathCmd o) l
  | .launch _ o => launchLane s is eid i o l
  | .combine h o => combineLane s is eid h o l
  | .cmbreg h o => cmbregLane s is eid h o l
  | .tload _ o => tloadLane s is eid i o l
  | .tloadTds _ o => tdescLane s is eid i o 1 3 l
  | .tloadRds _ o => tdescLane s is eid i o 2 4 l
  | .pump _ o => pumpLane s is eid i o l
  | .encq _ o => encqLane s is eid i o l
  | _ => s

/-- A fibre does an instruction again with the registers it read; its new accesses take the place in program order of `acc`, the record
that kept it, and waits for that record become waits for them. (DEDUCED, log 10) -/
def retryInstr (s : State) (f : FRef) (pc : Word) (i : Instr) (regs : List Word) (acc : Nat) : State :=
  match getFib s f with
  | none => s
  | some x =>
    let ord := ((x.accs.find? fun a => a.id = acc).map Acc.ord).getD acc
    let (eid, s) := freshId s
    let s := modFib s f fun x => { x with regs := regs }
    let s := againLane s { core := f.core, part := slotPart f.slot, slot := f.slot, lanes := [f.lane], pc := pc, runEnd := false } eid f.lane i
    modFib s f fun y =>
      let new := (y.accs.filter fun a => ! x.accs.any fun b => b.id = a.id).map Acc.id
      let (olds, news) := y.lls.partition fun l => x.lls.any fun m => m.id = l.id
      dropFences (sentWrites s f) { y with
        regs := x.regs
        lls := if olds.any (fun l => l.id = acc) then olds.flatMap (fun l => if l.id = acc then news else [l]) else olds ++ news
        accs := (y.accs.filter fun a => a.id ≠ acc).map fun a => if new.contains a.id then { a with ord := ord } else a
        waits := y.waits.flatMap fun w => match w with
          | .engine a => if a = acc then new.map Wait.engine else [w]
          | w => [w] }

/-! ## A pump's run -/

/-- The pump and controller of a stack. -/
def stackAt (s : State) (n : Nat) : Stack := tgetD s.stackUnits n { queue := [], failed := [], paused := [], alerts := [], pins := [] }

/-- Changes a stack's pump and controller. -/
def modStack (s : State) (n : Nat) (g : Stack → Stack) : State := { s with stackUnits := tput s.stackUnits n (g (stackAt s n)) }

/-- The format of a pump's elements (R472). -/
def pumpFmt (fmt : Nat) : Fmt := match fmt with | 2 => fmtF32 | 3 => fmtF16 | _ => fmtB16

/-- The bytes of memory that an element's operand stands in. -/
def pumpElem (s : State) (a width i : Nat) : Nat := leNat (Memory.reads s.mem (normPa s (a + i * width)) width)

/-- Whether a command reads y, and whether it reads x (R472). -/
def pumpReadsY (c : PumpCmd) : Bool := c.op == 0 || c.op == 1 || c.op == 4
/-- Whether a command reads x. -/
def pumpReadsX (c : PumpCmd) : Bool := c.op == 0 || c.op == 3

/-- The lowest index of a command with an operand in a 64-byte transfer for which `p` holds (R488). -/
def pumpFirst (c : PumpCmd) (p : Nat → Bool) : Nat :=
  let w := pumpWidth c.fmt
  let hit := fun i => (pumpReadsY c && p ((c.y + i * w) / 64)) || (pumpReadsX c && p ((c.x + i * w) / 64))
  ((List.range c.n).find? hit).getD c.n

/-- The value element i takes from x_i and y_i (R472): rounded to the format by RNE, without FTZ or flags. -/
def pumpValue (c : PumpCmd) (x y : Nat) : Nat :=
  let f := pumpFmt c.fmt
  let dec := decodeF f false
  let alpha := decodeF fmtF32 false c.alpha.toNat
  match c.op with
  | 0 => (sumV f 0 false (mulV alpha (dec y)).1 (mulV (decodeF fmtF32 false c.beta.toNat) (dec x)).1).1
  | 1 => (deliver f 0 false (mulV alpha (dec y)).1).1
  | 2 => (deliver f 0 false alpha).1
  | _ => x

/-- SUM (R472): from +0, each addition rounded to F32. (DEDUCED, log 11) -/
def pumpSum (s : State) (c : PumpCmd) : Nat :=
  (List.range c.n).foldl (fun a i =>
    (fAdd fmtF32 0 false (decodeF fmtF32 false a) (decodeF (pumpFmt c.fmt) false (pumpElem s c.y (pumpWidth c.fmt) i))).1) 0

/-- The new elements 0 to n - 1 of y. Where x overlaps y partly, each x_i is its old or its new value (R473), as the free value says: new
values exist in the order in which x lies before y. -/
def pumpElems (s : State) (c : PumpCmd) (n : Nat) : List Nat :=
  let w := pumpWidth c.fmt
  let up := decide (c.x ≤ c.y)
  let order := if up then List.range n else (List.range n).reverse
  let done := order.foldl (fun (t : Tbl Nat Nat) i =>
    let xa := c.x + i * w
    let j := (xa - c.y) / w
    let old := pumpElem s c.x w i
    let x := if xa = c.y + i * w ∨ xa < c.y ∨ ¬ pumpReadsX c ∨ ¬ Config.seesNew (s.free + i) then old else tgetD t j old
    tput t i (pumpValue c x (pumpElem s c.y w i))) []
  (List.range n).map fun i => tgetD done i 0

/-- Writes a contiguous range of memory, block by block, so that a block written whole loses its poison (R137, R489). (DEDUCED, log 23) -/
def writeBlocks : Nat → State → Nat → List Byte → State
  | 0, s, _, _ => s
  | fuel + 1, s, pa, bytes =>
    if bytes.isEmpty then s
    else
      let k := min bytes.length (256 - pa % 256)
      writeBlocks fuel (memWrite s pa (bytes.take k) 0 false) (pa + k) (bytes.drop k)

/-- The bytes that a command writes when it gets as far as element `first`: where, and which. (DEDUCED, log 23) -/
def pumpWrites (s : State) (c : PumpCmd) (first : Nat) : Nat × List Byte :=
  if c.op = 4 then (c.r, if first < c.n then [] else leBytes 4 (pumpSum s c))
  else (c.y, (pumpElems s c first).flatMap fun v => leBytes (pumpWidth c.fmt) v)

/-- Sends a command's completion on MRSP (R232). -/
def sendPumpDone (s : State) (stack : Nat) (c : PumpCmd) : State :=
  let (p, s) := newPacket s .mrsp 0x09 (stackRouter stack) c.f.core (pkgNum s) 1 0 (.engineDone c.team c.cidx c.status c.first c.acc c.f)
  { s with mesh := s.mesh ++ [{ p with side := 9 }] }

/-- Ends a command's run at element `first`: memory takes what it wrote, and the homes of the granules it wrote get their invalidations
(R139). -/
def pumpEnds (s : State) (stack : Nat) (c : PumpCmd) (status first : Nat) : State × PumpCmd :=
  let (a, bytes) := pumpWrites s c first
  let s := writeBlocks (bytes.length / 256 + 2) s a bytes
  let pieces := if bytes.isEmpty then [] else (List.range ((a % 64 + bytes.length + 63) / 64)).map fun i => a / 64 + i
  let homes := (c.homes.map Prod.snd).dedup
  let ofHome := fun h => pieces.filter fun pc => c.homes.any fun g => decide (g.1 = pc / 32 ∧ g.2 = h)
  let told := homes.filter fun h => ! (ofHome h).isEmpty
  let s := told.foldl (fun s h => emitFrom true s .sys 0x0C (stackRouter stack) h 1 0 (.inval stack c.seq c.f (ofHome h))) s
  ({ s with free := s.free + c.n }, { c with status := status, first := first, acks := told.length, finished := true })

/-- Replaces the command of sequence number `seq` in a stack's queue. -/
def putCmd (s : State) (stack : Nat) (c : PumpCmd) : State :=
  modStack s stack fun k => { k with queue := k.queue.map fun d => if d.seq = c.seq then c else d }

/-! ## Pump steps -/

/-- PUMP_COMMAND (R232): the command enters its pump's queue of 64; while the queue is full it waits. -/
def execPumpCommand (id : Nat) (s : State) : Host.Outcome State Fault Refusal :=
  match arrivedPacket s id with
  | some p => (match p.body with
    | .pumpCmd c =>
      let st := stackOf (normPa s (if c.op = 4 ∧ c.n = 0 then c.r else c.y))
      if earlierWaits s p ∨ 64 ≤ (stackAt s st).queue.length then .next s
      else .next (modStack (dropPacket s id) st fun k => { k with queue := k.queue ++ [c] })
    | _ => .next s)
  | none => .next s

/-- Whether a command's context is being saved, so that its queued commands stand still (R232). -/
def pumpHeldBack (s : State) (c : PumpCmd) : Bool :=
  match getFib s c.f with
  | some x => (x.accs.any fun a => a.id = c.acc) && (getSlice s (sliceOf s c.f)).saved.any fun v => ! v.complete && decide (v.task = taskOf s c.f)
  | none => false

/-- Whether a pump command of the same fibre that stands earlier in program order, in any stack, is not complete (R201, R476); once the fibre has
gone, whether an earlier one stands in a queue. -/
def pumpFollows (s : State) (c : PumpCmd) : Bool :=
  match (getFib s c.f).bind fun x => (x.accs.find? fun a => a.id = c.acc).map fun a => (x, a) with
  | some (x, a) => x.accs.any fun b => decide (b.path = .pm) && b.fence.isNone && decide (b.ord < a.ord)
  | none => s.stackUnits.any fun k => k.2.queue.any fun d => decide (d.f = c.f ∧ d.seq < c.seq)

/-- Whether a command may start, as far as its own fibre and context go (R201, R232). -/
def pumpStartable (s : State) (c : PumpCmd) : Bool := ! c.running && ! pumpFollows s c && ! pumpHeldBack s c

/-- Whether a channel of a stack is under self-test: commands that reach the stack meanwhile wait (R305, R488). -/
def stackTesting (s : State) (stack : Nat) : Bool :=
  s.tests.any fun t => t.started && decide (t.e.struct = 9) && decide (t.e.stack = stack)

/-- PUMP_COMMAND_START (R201, R232, R476, R488): command `n` of the queue starts while fewer than 4 run and the stack is not under self-test, unless one
that arrived before it may start as well. (DEDUCED, log 11) -/
def execPumpCommandStart (stack n : Nat) (s : State) : Host.Outcome State Fault Refusal :=
  let k := stackAt s stack
  match k.queue[n]? with
  | none => .next s
  | some c =>
    if ! pumpStartable s c ∨ 4 ≤ (k.queue.filter PumpCmd.running).length ∨ stackTesting s stack ∨ (k.queue.take n).any (pumpStartable s) then .next s
    else .next (putCmd s stack { c with running := true })

/-- The log entry of a command stopped by a read error (R490). -/
def logPumpError (s : State) (stack pa : Nat) (c : PumpCmd) (synd : DWord) : State :=
  logErrorWith s 0x03 0x09 (stackRouter stack) 0xFFFF stack c.slice (BitVec.ofNat 64 pa) synd
    [c.who, BitVec.ofNat 32 c.cidx, BitVec.ofNat 32 c.first, BitVec.ofNat 32 c.n, 0, 0, 0, 0]

/-- The transfer that stops a running pump command: the first that it reads as poison (R488). -/
def pumpBad (s : State) (c : PumpCmd) : Option Nat :=
  let bad := fun (t : Nat) => memPoisoned s (t * 64) 64
  let i := pumpFirst c bad
  let y := (c.y + i * pumpWidth c.fmt) / 64 * 64
  if c.n ≤ i then none
  else if pumpReadsY c && bad (y / 64) then some y else some ((c.x + i * pumpWidth c.fmt) / 64 * 64)

/-- Every running command that reads the transfer at `pa` stops with its own first unwritten element; each stop is logged, and the channel's
self-test starts; memory keeps its state (R139, R488, R490). -/
def stopPumps (s : State) (stack pa : Nat) : State :=
  let cs := (stackAt s stack).queue.filter fun c => c.running && ! c.finished && decide (pumpFirst c (fun t => decide (t = pa / 64)) < c.n)
  if cs.isEmpty then s
  else
    let (n, s) := freshFree s
    let synd := Config.syndrome n
    let s := cs.foldl (fun s c =>
      let (s, c) := pumpEnds s stack c 1 (pumpFirst c fun t => decide (t = pa / 64) || memPoisoned s (t * 64) 64)
      logPumpError (putCmd s stack c) stack (pa / 64 * 64) c synd) s
    addTest s { struct := 0x09, core := 0xFFFF, stack := stack, addr := pa, part := 0, corrected := false, synd := synd }

/-- PUMP_COMMAND_COMPLETE (R139, R232, R473, R488): a running command's elements are written, or those below the first that stands in a
transfer that reads as poison, and its invalidations go out; with every acknowledgement in, its completion is sent and it leaves the queue. -/
def execPumpCommandComplete (stack n : Nat) (s : State) : Host.Outcome State Fault Refusal :=
  match (stackAt s stack).queue[n]? with
  | none => .next s
  | some c =>
    if ¬ c.running then .next s
    else if ¬ c.finished then
      if pumpFirst c (fun t => channelPaused s (t * 64)) < c.n then .next s
      else
        match pumpBad s c with
        | some pa => .next (stopPumps s stack pa)
        | none =>
        let (s, c) := pumpEnds s stack c 0 c.n
        .next (putCmd s stack c)
    else if c.acks ≠ 0 then .next s
    else .next (sendPumpDone (modStack s stack fun k => { k with queue := k.queue.filter fun d => decide (d.seq ≠ c.seq) }) stack c)

/-- PUMP_READ_ERROR (R139, R488, R490): the 64-byte transfer at `pa` is read with an uncorrectable error. -/
def execPumpReadError (stack pa : Nat) (s : State) : Host.Outcome State Fault Refusal := .next (stopPumps s stack pa)

/-- A home drops a piece whose bytes memory now holds newer (R139): its pin bit stands on (R129), poison in it is accounted for (R304). -/
def dropWritten (s : State) (home pc : Nat) : State :=
  match l2Piece (getCore s home) pc with
  | some p => l2Remove (notePoison s home (pc * 64) { p with dirty := false }) home pc true
  | none => s

/-- PUMP_INVALIDATION (R129, R139, R141, R144): a home drops the pieces that a pump or a migration wrote, marks them in the dirty filter of a page
under migration, and acknowledges. -/
def execPumpInvalidation (id : Nat) (s : State) : Host.Outcome State Fault Refusal :=
  match arrivedPacket s id with
  | some p => (match p.body with
    | .inval stack seq f pcs =>
      let s := pcs.foldl (fun s pc => dropWritten (noteMigration s (pc * 64)) p.dst pc) (dropPacket s id)
      .next (emit s .sys 0x0D p.dst p.src 1 0 (.invalAck stack seq f))
    | _ => .next s)
  | none => .next s

/-- INVALIDATION_ACKNOWLEDGEMENT (R139): counted at the pump; the migration unit, whose number is 16 and more, needs only its arrival. -/
def execInvalidationAcknowledgement (id : Nat) (s : State) : Host.Outcome State Fault Refusal :=
  match arrivedPacket s id with
  | some p => (match p.body with
    | .invalAck stack seq _ =>
      let s := dropPacket s id
      .next (if stack < 16 then modStack s stack fun k => { k with queue := k.queue.map fun c => if c.seq = seq then { c with acks := c.acks - 1 } else c }
        else s)
    | _ => .next s)
  | none => .next s

/-! ## Migration -/

/-- The migration completion record (R140, R296): 1 moved, 2 refused, 3 abandoned. (DESIGN CHOICE, log 79) -/
def postMigration (s : State) (core slice : Nat) (va : DWord) (det : Nat) (who : Word) : State :=
  postFaults s core slice [{ va := va, lanes := 0, pc := 0, fkind := 6, acc := 0, det := det, who := who, tag := 0 }]

/-- The router of a physical address: its stack's, the host port, or the span port towards its package. -/
def routerOfPa (s : State) (pa : Nat) : Nat :=
  let pa := normPa s pa
  if isLocalHbm pa then stackRouter (stackOf pa) else if isHostMem pa then hostPort else routerFor s hostPort hostPort (pa / 2 ^ 40 % 16)

/-- The new place that a request names (R117, R140, R401); none where it is refused: tier 3, or a stack outside the slice's. (DESIGN CHOICE, log 56) -/
def migrationPlace (s : State) (slice target bytes n : Nat) : Option Nat :=
  let stk := target % 16; let pkg := target / 16 % 16
  let inStack := Config.migrationFrame n % (2 ^ 36 / bytes) * bytes
  match target / 256 % 4 with
  | 0 => if (getSlice s slice).stackMask.getLsbD stk then some (stk * 2 ^ 36 + inStack) else none
  | 1 => some (2 ^ 44 + pkg * 2 ^ 40 + stk * 2 ^ 36 + inStack)
  | 2 => some (2 ^ 47 + Config.migrationFrame n % (2 ^ 47 / bytes) * bytes)
  | _ => none

/-- Cores that hold pieces of a range, with those pieces. -/
def holders (s : State) (pa n : Nat) : List (Nat × List Nat) :=
  (s.cores.map fun e => (e.1, e.2.l2.flatMap fun g => (g.pieces.map fun p => g.g * 32 + p.1).filter fun pc => decide (pa / 64 ≤ pc ∧ pc < (pa + n) / 64))).filter
    fun e => ! e.2.isEmpty

/-- Every home writes a page's dirty pieces back to its old place (R141). -/
def flushPage (s : State) (m : Migration) : State :=
  (holders s m.oldPa m.bytes).foldl (fun s h => l2Flush s h.1 h.2) s

/-- Whether a home holds a pin of a piece in a range, present or kept (R129, R140). -/
def pagePinned (s : State) (pa n : Nat) : Bool :=
  let mine := fun (g i : Nat) => decide (pa / 64 ≤ g * 32 + i ∧ g * 32 + i < (pa + n) / 64)
  s.cores.any fun e => e.2.l2.any fun g => (g.kept.any (mine g.g)) || g.pieces.any fun p => p.2.pin && mine g.g p.1

/-- Sends the next block of a pass on PAGE (R141); it waits while its channel is paused (R308). -/
def nextBlock (s : State) (slice : Nat) : State :=
  match (getSlice s slice).migration with
  | some m =>
    (match m.todo with
     | (a, n) :: rest =>
       if channelPaused s a then s
       else
       let (bytes, psn) := memRead s a n
       let new := a - m.oldPa + m.newPa
       let s := modSlice s slice fun x => { x with migration := some { m with todo := rest } }
       let pkg := if new / 2 ^ 44 % 16 = 1 then new / 2 ^ 40 % 16 else pkgNum s
       let (p, s) := newPacket s .page 0x02 (routerOfPa s a) (routerOfPa s new) pkg (n / 64 + 1) 0 (.migBlock slice new bytes psn)
       { s with mesh := s.mesh ++ [{ p with side := 9 }] }
     | [] => s)
  | none => s

/-- Rewrites fields of a page's entry in memory (R257): MIG, and the place if it is given. -/
def setEntry (s : State) (entryPa : Nat) (mig : Bool) (place : Option Nat) : State :=
  let e := leNat (coherentRead s entryPa 8)
  let e := e / 2 ^ 56 * 2 ^ 56 + (if mig then 2 ^ 55 else 0) + e % 2 ^ 55
  let e := match place with
    | some pa => e / 2 ^ 48 * 2 ^ 48 + pa / 2 ^ 16 * 2 ^ 16 + e % 2 ^ 16
    | none => e
  coherentWrite s entryPa (leBytes 8 e)

/-- MIGRATION_CONTROL (R140, R141, R401): the unit takes a request while it has none: it sets MIG, the homes clear their filters and write back, and
the first pass begins; or the move is refused, as for pinned pieces, or for a page whose entry cannot be read. (DESIGN CHOICE, log 79) -/
def execMigrationControl (id : Nat) (s : State) : Host.Outcome State Fault Refusal :=
  match arrivedPacket s id with
  | some p => (match p.body with
    | .migrate sl va _ target who =>
      if earlierWaits s p ∨ behindSame s p ∨ (getSlice s sl).migration.isSome then .next s
      else
        let (n, s) := freshFree (dropPacket s id)
        let refused := postMigration s p.dst sl va 2 who
        .next (match walk s p.dst sl va.toNat with
        | .leaf entry big entryPa =>
          let bytes := if big then 2 ^ 21 else 2 ^ 16
          let old := normPa s (fld entry 47 16 * 2 ^ 16)
          (match migrationPlace s sl target bytes n with
           | some new =>
             if pagePinned s old bytes then refused
             else
               let m : Migration := {
                 va := BitVec.ofNat 64 (va.toNat / bytes * bytes), entryPa := entryPa, oldPa := old, newPa := normPa s new, bytes := bytes, pass := 1
                 dirty := [], todo := (List.range (bytes / 256)).map fun i => (old + 256 * i, 256), held := [], who := who, acksLeft := 0
                 switched := false }
               let s := modSlice (setEntry s entryPa true none) sl fun x => { x with migration := some m }
               nextBlock (flushPage s m) sl
           | none => refused)
        | _ => refused)
    | _ => .next s)
  | none => .next s

/-- MIGRATION_BLOCK (R141): a block is written at the new place's controller; copies of the new place that a home still holds are invalidated,
and the next block leaves. -/
def execMigrationBlock (id : Nat) (s : State) : Host.Outcome State Fault Refusal :=
  match arrivedPacket s id with
  | some p => (match p.body with
    | .migBlock sl pa bytes psn =>
      if channelPaused s pa then .next s
      else
      let s := memWrite (dropPacket s id) pa bytes psn false
      let s := (holders s pa bytes.length).foldl (fun s h => emit s .sys 0x0C p.dst h.1 1 0 (.inval (16 + sl) 0 ⟨p.dst, 0, 0⟩ h.2)) s
      .next (nextBlock s sl)
    | _ => .next s)
  | none => .next s

/-- Whether work of a pass is still on its way: a block, or an invalidation of the unit. -/
def passRunning (s : State) (slice : Nat) : Bool :=
  s.mesh.any fun p => match p.body with
    | .migBlock sl _ _ _ => decide (sl = slice)
    | .inval st _ _ _ | .invalAck st _ _ => decide (st = 16 + slice)
    | _ => false

/-- Whether a pump command names a page: the switch waits for it. -/
def pumpNames (s : State) (m : Migration) : Bool :=
  let hit := fun (c : PumpCmd) => [c.y, c.x, c.r].any fun a => decide (m.oldPa ≤ a ∧ a < m.oldPa + m.bytes)
  let packet := fun (p : Packet) => match p.body with | .pumpCmd c => hit c | _ => false
  let entry := fun (e : BufEntry) => match e.cmd with | .packet p _ => packet p | _ => false
  (s.stackUnits.any fun k => k.2.queue.any hit) || s.mesh.any packet ||
    (s.cores.any fun k => k.2.sendQ.any (fun e => packet e.packet) || k.2.parts.any fun q => q.2.buffer.any entry) ||
    s.slices.any fun x => x.2.saved.any fun v => v.cores.any fun k => k.2.packets.any (fun e => packet e.packet) || k.2.entries.any fun e => entry e.2

/-- Fibres whose PUMP parked on a page under migration go on once no migration holds the page (R138). -/
def releaseMoving (s : State) : State :=
  let free := fun (w : Wait) => match w with | .migrating _ _ _ _ pa => ! migrates s pa | _ => false
  (s.fibres.filter fun e => e.2.waits.any free).foldl (fun s e =>
    (e.2.waits.filter free).foldl (fun s w => match w with
      | .migrating pc i regs acc _ => retryInstr (modFib s e.1 fun x => { x with waits := x.waits.filter fun v => v ≠ w }) e.1 pc i regs acc
      | _ => s) s) s

/-- MIGRATION_PASS_END (R141, R202): with every block of a pass written, the filters are read. Clear: the entry is switched, MIG clears and the
slice's TLBs are shot down. Otherwise the homes write back again and the pieces whose bits were set are copied again; a page dirty at the
end of the fourth pass is abandoned. -/
def execMigrationPassEnd (slice : Nat) (s : State) : Host.Outcome State Fault Refusal :=
  match (getSlice s slice).migration with
  | none => .next s
  | some m =>
    if m.switched ∨ passRunning s slice then .next s
    else if ! m.todo.isEmpty then .next (nextBlock s slice)
    else if pumpNames s m then .next s
    else
      let unit := (faultService s hostPort slice).getD hostPort
      let put := fun (s : State) (m : Option Migration) => modSlice s slice fun x => { x with migration := m }
      if m.dirty.isEmpty then
        let cores := (getSlice s slice).cores
        let s := put (setEntry s m.entryPa false (some m.newPa)) (some { m with switched := true, acksLeft := cores.length })
        .next (cores.foldl (fun s c => emit s .sys 0x05 unit c 1 0 (.shoot slice m.va m.bytes unit)) s)
      else if 4 ≤ m.pass then
        .next (releaseMoving (postMigration (put (setEntry s m.entryPa false none) none) unit slice m.va 3 m.who))
      else
        let s := put (flushPage s m) (some { m with pass := m.pass + 1, dirty := [], todo := m.dirty.map fun pc => (pc * 64, 64) })
        .next (nextBlock s slice)

/-! ## The switch -/

/-- A request that names a moved page. -/
def moveBody (m : Migration) : Body → Body
  | .read l => .read (l.map fun q => { q with loc := moveLoc m q.loc })
  | .write l => .write (l.map fun q => { q with loc := moveLoc m q.loc })
  | .atomic l => .atomic (l.map fun q => { q with loc := moveLoc m q.loc })
  | .reduce l => .reduce (l.map fun q => { q with loc := moveLoc m q.loc })
  | .combine f g a ll d c base pa args n => .combine f g a ll d c base (movePa m pa) args n
  | .cmbreg f g a ll c pa w => .cmbreg f g a ll c (movePa m pa) w
  | .range o f a pcs c => .range o f a (pcs.map fun pc => movePa m (pc * 64) / 64) c
  | b => b

/-- A packet of a moved page goes on to the page's home at its new place (R141): one that has come to the old home enters the mesh there again. -/
def movePacket (s : State) (m : Migration) (home : Nat) (p : Packet) : Packet :=
  let b := moveBody m p.body
  if b = p.body then p
  else
    let pkg := if m.newPa / 2 ^ 44 % 16 = 1 then m.newPa / 2 ^ 40 % 16 else p.spkg
    let d := if ! p.arrived ∧ p.side < 6 then routerFor s p.pos home pkg else home
    if d = p.dst ∧ pkg = p.dpkg then { p with body := b }
    else if p.arrived then { p with body := b, dst := d, dpkg := pkg, arrived := false, side := 6, pinned := none }
    else { p with body := b, dst := d, dpkg := pkg }

/-- The physical place that a memory request is for. -/
def bodyPa : Body → Option Nat
  | .combine _ _ _ _ _ _ _ pa _ _ => some pa
  | .cmbreg _ _ _ _ _ pa _ => some pa
  | .range _ _ _ pcs _ => pcs.head?.map (· * 64)
  | b => (reqPiece (bodyLanes b)).map (· * 64)

/-- The home that a physical address of a page under migration has at its new place. -/
def newHome (s : State) (slice : Nat) (m : Migration) (pa : Nat) : Option Nat :=
  match pagedTarget s ((faultService s hostPort slice).getD hostPort) slice 1 (m.va.toNat + pa - m.oldPa) .rd false with
  | .ok t => some t.home
  | _ => none

/-- A fibre's held stores and access records name the new place. -/
def moveFibre (s : State) (slice : Nat) (m : Migration) (x : Fibre) : Fibre :=
  { x with
    held := x.held.map fun h => match h.q.loc with
      | .phys pa =>
        if movePa m pa = pa then h
        else { h with q := { h.q with loc := moveLoc m h.q.loc }, home := (newHome s slice m pa).getD h.home, pkg := if m.newPa / 2 ^ 44 % 16 = 1 then m.newPa / 2 ^ 40 % 16 else h.pkg }
      | .cist _ _ => h
    accs := x.accs.map fun a => { a with loc := a.loc.map (moveLoc m) } }

/-- A wave of a moved page's object. -/
def moveWave (m : Migration) (w : Wave) : Wave :=
  { w with
    pa := movePa m w.pa
    lanes := w.lanes.map fun q => { q with pa := movePa m q.pa }
    entry := w.entry.map fun o => { o with pa := movePa m o.pa } }

/-- Everything that names the old place names the new one: requests on their way, waiting or saved, held stores, access records, combiner objects, which
stay at the core that they are bound on. (DESIGN CHOICE, log 56) -/
def movePage (s : State) (slice : Nat) (m : Migration) : State :=
  let go := fun (p : Packet) => movePacket s m (match bodyPa p.body with | some pa => (newHome s slice m pa).getD p.dst | none => p.dst) p
  let entry := fun (e : BufEntry) => { e with cmd := match e.cmd with | .packet p h => .packet (go p) h | c => c }
  let sends := fun (l : List SendEntry) => l.map fun e => { e with packet := go e.packet }
  let fibre := fun (e : FRef × Fibre) => (e.1, moveFibre s slice m e.2)
  let core := fun (k : Core) => { k with
    objectsTable := k.objectsTable.map fun o => { o with pa := movePa m o.pa }
    waves := k.waves.map (moveWave m)
    sendQ := sends k.sendQ
    parts := k.parts.map fun q => (q.1, { q.2 with buffer := q.2.buffer.map entry }) }
  { s with
    mesh := s.mesh.map go ++ m.held.map go
    fibres := s.fibres.map fibre
    cores := s.cores.map fun e => (e.1, core e.2)
    slices := s.slices.map fun x => (x.1, { x.2 with saved := x.2.saved.map fun v => { v with
      fibres := v.fibres.map fibre
      cores := v.cores.map fun c => (c.1, { c.2 with packets := sends c.2.packets, entries := c.2.entries.map fun e => (e.1, entry e.2) }) } }) }

/-- The cores that old homes still owe a promotion are owed it by the pieces' new homes (R193, R202). -/
def movePromos (s : State) (slice : Nat) (m : Migration) : State :=
  let mine := fun (e : Nat × Nat) => decide (movePa m (e.1 * 64) ≠ e.1 * 64)
  let owed := s.cores.flatMap fun e => e.2.promoOwed.filter mine
  let s := { s with cores := s.cores.map fun e => (e.1, { e.2 with promoOwed := e.2.promoOwed.filter fun o => ! mine o }) }
  owed.foldl (fun s o => match newHome s slice m (o.1 * 64) with
    | some h => modCore s h fun k => { k with promoOwed := k.promoOwed ++ [(movePa m (o.1 * 64) / 64, o.2)] }
    | none => s) s

/-- The last shoot-down of a switch is acknowledged (R141, R193): each old home drops its pieces and forwards its requests, and the unit posts
"moved". -/
def finishMove (s : State) (slice : Nat) (m : Migration) : State :=
  let s := (holders s m.oldPa m.bytes).foldl (fun s h => h.2.foldl (fun s pc => l2Drop s h.1 pc) s) s
  let s := modSlice (movePage (movePromos s slice m) slice m) slice fun x => { x with migration := none }
  releaseMoving (postMigration s ((faultService s hostPort slice).getD hostPort) slice m.va 1 m.who)

/-! ## Encoders -/

/-- Whether a frame descriptor is well-formed (R319, R475): the frame within the encoder's limit and a profile of its codec; AV1's
Main of 8 and 10 bit has the two PROF indices 0 and 1. (DESIGN CHOICE, log 97) (DESIGN CHOICE, log 12) -/
def frameFormed (d : List Byte) : Bool :=
  let g := fun o n => leNat ((d.drop o).take n)
  let w := g 0x0C 2; let h := g 0x0E 2; let codec := g 0x11 1; let prof := g 0x12 1; let pix := g 0x10 1
  decide (g 0 8 % 64 = 0 ∧ g 8 4 % 64 = 0 ∧ 1 ≤ pix ∧ pix ≤ 2 ∧ 1 ≤ codec ∧ codec ≤ 3 ∧ g 0x13 1 < 2 ∧ w ≠ 0 ∧ h ≠ 0) &&
    ((d.drop 0x24).take 20).all (· = 0) && decide (prof < (if codec = 1 then 3 else 2)) &&
    (if codec = 1 then decide (w ≤ 4096 ∧ h ≤ 2304) else decide (w ≤ 7680 ∧ h ≤ 4320))

/-- Ends a frame: DONE, the completion-table entry, MSI-X vector 3 of the slice's function (R314, R475). -/
def endFrame (s : State) (slice : Nat) (x : Frame) (st len : Nat) : State :=
  let a := x.desc.toNat + 0x38
  let s := if (rangeFails s x.f.core slice x.prv .wr a 8).isSome then s else virtWrite s x.f.core slice x.prv a (leBytes 8 len) 0
  let s := countOwn s x.f.core x.team x.uid x.cidx st 0
  { s with msix := s.msix ++ [(slice + 1, 3)] }

/-- ENCODER_FRAME_COMPLETE (R475): the encoder takes its slice's oldest frame, reads its rows, writes the bitstream if it fits, and completes; what cannot
be read or written counts as malformed. Its bytes are
the encoder's own (free values). (DESIGN CHOICE, log 12) -/
def execEncoderFrameComplete (encoder : Nat) (s : State) : Host.Outcome State Fault Refusal :=
  match s.slices.find? fun e => decide (e.2.enc.toNat = 0x80 + encoder % 8) && ! e.2.frames.isEmpty with
  | none => .next s
  | some (sl, x) =>
    match x.frames with
    | [] => .next s
    | fr :: rest =>
      let s := modSlice s sl fun x => { x with frames := rest }
      let prv := fr.prv
      let d := (virtRead s fr.f.core sl prv fr.desc.toNat 64).1
      let (n, s) := freshFree s
      let len := Config.encodedLength n
      let out := leNat ((d.drop 0x18).take 8)
      let rows := (leNat ((d.drop 0x0E).take 2) - 1) * leNat ((d.drop 8).take 4) + 4 * leNat ((d.drop 0x0C).take 2)
      let bad : Bool := (rangeFails s fr.f.core sl prv .rd fr.desc.toNat 64).isSome || ! frameFormed d || decide (leNat ((d.drop 0x20).take 4) < len) ||
        (rangeFails s fr.f.core sl prv .rd (leNat (d.take 8)) rows).isSome || (rangeFails s fr.f.core sl prv .wr out len).isSome
      if bad then .next (endFrame s sl fr 3 0)
      else .next (endFrame (virtWrite s fr.f.core sl prv out ((List.range len).map (Config.encodedByte n)) 0) sl fr 0 len)

end Sys2Proof.Machine
end

