-- ==== Sys2Proof/Machine/DevFault.lean ====
section
/-!
DEFINITION. The device's steps of posted faults, shoot-downs, errors, self-test and HBM4 upkeep (R120, R125, R131, R137, R142, R233-R235,
R295-R298, R303-R308).
-/
namespace Sys2Proof.Machine

/-! ## Fault batches -/

/-- FAULT_BATCH (R209, R233, R305): in arrival order, the batch enters the fault queue of 64, or is spilled to the core's sump ring; a lost one is undeliverable. -/
def execFaultBatch (id : Nat) (s : State) : Host.Outcome State Fault Refusal :=
  match arrivedPacket s id with
  | some p => (match p.body with
    | .faults sl recs =>
      if earlierWaits s p ∨ behindSame s p ∨ underTest s 0x0B p.dst then .next s
      else
        .next (enqueueBatch (dropPacket s id) p.dst sl p.src recs)
    | _ => .next s)
  | none => .next s

/-- What a fault reply addresses a sump fibre by. (DESIGN CHOICE, log 71) -/
def sumpReply : Nat := 320

/-- The group slot that a fault reply goes to: 64 and the task where the launch sequencer waits (R62), `sumpReply` for a sump fibre (R223), else the
one of WHO. (DEDUCED, log 25) -/
def replySlot (s : State) (r : FaultRec) : Nat :=
  let w := r.who.toNat
  if r.lanes = 0 ∧ w % 1024 = hostPort ∧ (r.fkind = 1 ∨ r.fkind = 2) then 64 + fld w 31 24
  else if sumpWho s r.who then sumpReply
  else fld w 15 10

/-- FAULT_SERVICE_ACTIVATION (R233, R297): the first batch is written to its place in memory and an activation of binding 1 starts; one
that cannot be written is undeliverable. Its s.src, s.tag, s.seq, s.class and s.mlen read zero. (DESIGN CHOICE, log 96) -/
def execFaultServiceActivation (core : Nat) (s : State) : Host.Outcome State Fault Refusal :=
  let k := getCore s core
  let w := bindingAt k 1
  let sl := k.slice.getD 0
  let live : Bool := match getTeam s core (bindTeam w) with
    | some t => ! t.halted && ! t.stopped
    | none => false
  match k.faultQ, (List.range 64).find? (fun j => ! k.faultSlots.contains j), freeSlot s core with
  | recs :: rest, some j, some slot =>
    if ¬ bindV w ∨ ¬ live ∨ ¬ admits s core (32 * (8 * bindAreg w)) then .next s
    else
      let a := (sliceCtl s core sl 0x103).toNat + 0x28000000 + 1024 * j
      let bytes := recs.flatMap faultRecBytes
      let s := modCore s core fun k => { k with faultQ := rest }
      match niWrite s core sl a bytes with
      | none =>
        let bad := if a / 2 ^ 48 ≠ 0 ∨ a < 0x10000 then a else ((rangeFails s core sl 1 .wr a bytes.length).map Prod.fst).getD a
        .next (batchLost (logError s 0x03 0x0B core core 0xFFFF sl (BitVec.ofNat 64 bad)) recs)
      | some s =>
        let r := recs.headD { va := 0, lanes := 0, pc := 0, fkind := 0, acc := 0, det := 0, who := 0, tag := 0 }
        let who := r.who.toNat
        let prv := ((getTeam s core (bindTeam w)).map Team.prv).getD 0
        let s := modCore s core fun k => { k with faultSlots := k.faultSlots ++ [j] }
        let s := makeGroup s core slot { team := bindTeam w, gid := 64 + slot, allot := 8 * bindAreg w, base := 0, kind := .handler 1 }
        .next (createFibre s ⟨core, slot, 0⟩ (8 * bindAreg w) (bindPc w) (fsrNew prv true (bindRst w))
          ([BitVec.ofNat 32 (j + (recs.length - 1) * 64), r.who] ++ List.replicate 13 0 ++ [loHalf r.tag])
          { Origin.none with binding := 1, word15 := loHalf r.tag, faultSlot := some (j, who % 1024, replySlot s r, BitVec.ofNat 8 (fld who 23 16)) })
  | _, _, _ => .next s

/-! ## Fault replies -/

/-- The record that a faulted access left goes with it: its result and its place in program order. -/
def dropRetry (s : State) (f : FRef) (pc : Word) : Retry → State
  | .mem q => dropLL (accDone s f q.acc) f q.ll
  | .instr _ _ acc => accDone (dropLL s f acc) f acc
  | .engine =>
    let mine := fun (c : CopyCmd) => decide (c.f = f) && decide (c.pc = pc)
    let gone := (getCore s f.core).copyQ.filter mine
    gone.foldl (fun s c => accDone s f c.acc) (modCore s f.core fun k => { k with copyQ := k.copyQ.filter fun c => ! mine c })
  | _ => s

/-- REPLAY: the faulted access is translated afresh and performed (R92, R234, R293). -/
def replayRetry (s : State) (f : FRef) (pc : Word) : Retry → State
  | .mem q => retryMem s q pc
  | .frame words cls detail => writeFrame s f words cls detail
  | .trapReturn => readFrame s f
  | .call target ret => let (eid, s) := freshId s; landNext (callNow s f eid pc target ret) f
  | .refill => let (eid, s) := freshId s; landNext (retNow s f eid pc) f
  | .instr i regs acc => retryInstr s f pc i regs acc
  | .engine => s

/-- One lane takes a reply (R234, R292, R293, R295, R298): its first wait on the mailbox ends. -/
def takeFaultReply (s : State) (f : FRef) (w0 : Nat) : State :=
  match getFib s f with
  | none => s
  | some x =>
    match x.waits.find? fun w => match w with | .mailbox _ _ _ => true | _ => false with
    | some (.mailbox pc va r) =>
      let s := modFib s f fun x => { x with waits := x.waits.erase (.mailbox pc va r) }
      (match w0 % 4, r with
       | 0, r => replayRetry s f pc r
       | _, .frame _ cls detail => fibreTeamFault s f (cls * 256 + detail)
       | 1, r =>
         let cls := fld w0 5 2
         let t := trapOf cls (fld w0 13 6)
         takeTrap (dropRetry s f pc r) f pc (if cls = 2 ∨ cls = 3 ∨ cls = 4 ∨ cls = 10 then { t with addr := va } else t)
       | _, _ => fibreTeamFault s f 0xFF03)
    | _ => s

/-- FAULT_REPLY (R234, R298): the named lanes that are parked on their mailbox take it, once their batch has left them; with none it is
stale. One for the launch sequencer lets the translation go on, or ends the launch (R62). One for a saved context is kept (R312). -/
def execFaultReply (id : Nat) (s : State) : Host.Outcome State Fault Refusal :=
  match arrivedPacket s id with
  | some p => (match p.body with
    | .faultAnswer slot gen w0 w1 =>
      let a := w0.toNat
      let t := dropPacket s id
      let bad := decide (a % 4 = 3 ∨ a / 2 ^ 14 ≠ 0)
      if 64 ≤ slot ∧ slot ≠ sumpReply then
        match t.slices.find? fun e => (match tget e.2.tasks (slot - 64) with | some k => k.waiting && decide (e.2.cores.contains p.src) | none => false) with
        | some (sl, x) =>
          (match tget x.tasks (slot - 64) with
           | some k =>
             if bad then .next (bump t p.dst 0x004 1)
             else if a % 4 = 0 then .next (modSlice t sl fun x => { x with tasks := tput x.tasks (slot - 64) { k with waiting := false } })
             else .next (dropTask (refuseLaunch t sl (slot - 64) k.window 3 0 true) sl (slot - 64))
           | none => .next (bump t p.dst 0x004 1))
        | none => .next (bump t p.dst 0x004 1)
      else
        let named := ((List.range 32).filter fun l => w1.getLsbD l).map fun l => (⟨p.dst, if slot = sumpReply then 64 else slot, l⟩ : FRef)
        let parked := fun (v : Tbl FRef Fibre) => named.filter fun f => match tget v f with
          | some x => decide (x.gen = gen) && x.waits.any fun w => match w with | .mailbox _ _ _ => true | _ => false
          | none => false
        let hit := if bad then [] else parked s.fibres
        match (if bad ∨ ! hit.isEmpty then none else s.slices.find? fun e => e.2.saved.any fun v => v.complete && ! (parked v.fibres).isEmpty) with
        | some (sl, _) =>
          .next (modSlice t sl fun x => { x with saved := x.saved.map fun v =>
            if v.complete && ! (parked v.fibres).isEmpty then { v with messages := v.messages ++ [p] } else v })
        | none =>
          if hit.isEmpty then .next (bump t p.dst 0x004 1)
          else if hit.any (inBatch s) then .next s
          else .next (hit.foldl (fun s f => takeFaultReply s f a) t)
    | _ => .next s)
  | none => .next s

/-! ## Shoot-downs -/

/-- Whether two byte ranges meet. -/
def rangesMeet (a n b m : Nat) : Bool := decide (a < b + m) && decide (b < a + n)

/-- The runs of a slice's extents that a range of virtual addresses touches: task, extent, run (R263). -/
def runsNamed (x : Slice) (slice va bytes : Nat) : List (Nat × Nat × Nat × Nat) :=
  x.tasks.flatMap fun t => ((List.range t.2.extents.length).zip t.2.extents).flatMap fun e =>
    ((List.range e.2.runs.length).zip e.2.runs).filterMap fun r =>
      let first := (e.2.base.toNat + r.2.off) / 65536 * 65536
      if rangesMeet first (r.2.npg * 65536) va bytes then some (slice, t.1, e.1, r.1) else none

/-- Marks runs invalid on a core. -/
def markRuns (k : Core) (l : List (Nat × Nat × Nat × Nat)) : Core :=
  { k with runsInvalid := k.runsInvalid ++ l.filter fun r => ! k.runsInvalid.contains r }

/-- Acknowledges a shoot-down (R235). -/
def ackShoot (s : State) (core : Nat) (q : Nat × DWord × Nat × Nat) : State := emit s .sys 0x06 core q.2.2.2 1 0 (.shootAck q.1 core)

/-- SHOOT_DOWN (R235): in arrival order, the request enters the mailbox of 8; one that finds it full flushes the whole TLB, and every request is
acknowledged. -/
def execShootDown (id : Nat) (s : State) : Host.Outcome State Fault Refusal :=
  match arrivedPacket s id with
  | some p => (match p.body with
    | .shoot sl va bytes req =>
      let k := getCore s p.dst
      let t := dropPacket s id
      if behindSame s p then .next s
      else if k.shootQ.length < 8 then .next (modCore t p.dst fun k => { k with shootQ := k.shootQ ++ [(sl, va, bytes, req)] })
      else
        let all := k.shootQ ++ [(sl, va, bytes, req)]
        let s := modCore t p.dst fun k => { markRuns k (all.flatMap fun q => runsNamed (getSlice s q.1) q.1 q.2.1.toNat q.2.2.1) with tlb := [], shootQ := [] }
        .next (all.foldl (fun s q => ackShoot s p.dst q) s)
    | _ => .next s)
  | none => .next s

/-- SHOOT_DOWN_PROCESS (R235, R260, R263): the mailbox's first request: the TLB entries and runs it names are invalid, then it is acknowledged. A
walk in flight for the page finds its leaf when it ends, afresh. -/
def execShootDownProcess (core : Nat) (s : State) : Host.Outcome State Fault Refusal :=
  match (getCore s core).shootQ with
  | [] => .next s
  | q :: rest =>
    let page := fun (e : TlbEntry) => if e.big then 2 ^ 21 else 2 ^ 16
    let s := modCore s core fun k => { markRuns k (runsNamed (getSlice s q.1) q.1 q.2.1.toNat q.2.2.1) with
      shootQ := rest
      tlb := k.tlb.filter fun e => ! (decide (e.slice = q.1) && rangesMeet (e.vpn * page e) (page e) q.2.1.toNat q.2.2.1) }
    .next (ackShoot s core q)

/-- SHOOT_DOWN_ACKNOWLEDGEMENT (R141): counted by the migration unit; the last one lets the old homes drop the page and forward. -/
def execShootDownAcknowledgement (id : Nat) (s : State) : Host.Outcome State Fault Refusal :=
  match arrivedPacket s id with
  | some p => (match p.body with
    | .shootAck sl _ =>
      let s := dropPacket s id
      (match (getSlice s sl).migration with
       | some m =>
         if ¬ m.switched then .next s
         else if 1 < m.acksLeft then .next (modSlice s sl fun x => { x with migration := some { m with acksLeft := m.acksLeft - 1 } })
         else .next (finishMove s sl m)
       | none => .next s)
    | _ => .next s)
  | none => .next s

/-! ## Errors -/

/-- The slice that an error-log entry names. -/
def errSlice (s : State) (e : ErrorSpec) : Nat := if e.struct = 9 ∨ e.struct = 0x0A then stackSlice s e.stack else ((getCore s e.core).slice).getD 0

/-- Logs an error of a structure (R237). -/
def logSpec (s : State) (ekind : Nat) (e : ErrorSpec) : State :=
  let (n, s) := freshFree s
  let det := (List.range 8).map (Config.errorDetail n)
  if e.struct = 9 ∨ e.struct = 0x0A then logErrorWith s ekind e.struct (stackRouter e.stack) 0xFFFF e.stack (errSlice s e) (BitVec.ofNat 64 e.addr) e.synd det
  else logErrorWith s ekind e.struct (e.core % 576) e.core 0xFFFF (errSlice s e) (BitVec.ofNat 64 e.addr) e.synd det

/-- The fibres that a packet's request belongs to. -/
def bodyFibres : Body → List FRef
  | .read l | .write l | .atomic l | .reduce l => l.map LaneReq.f
  | .combine f _ _ _ _ _ _ _ _ _ => [f]
  | .ordered _ f _ _ _ _ => [f]
  | .cmbreg f _ _ _ _ _ _ => [f]
  | .range _ f _ _ _ => [f]
  | .pumpCmd c => [c.f]
  | _ => []

/-- Every fibre of a list consumes an error; with none it is logged as not consumed (R304). -/
def consumedBy (s : State) (e : ErrorSpec) (fs : List FRef) : State :=
  let fs := fs.filter fun f => (getFib s f).isSome
  if fs.isEmpty then logSpec s 0x03 e else fs.foldl (fun s f => consumeError s f e.struct) s

/-- What an uncorrectable error does to the data, or the entries, of its structure (R125, R131, R135, R137, R142, R302, R304): data is marked poisoned, and
what becomes of the poison is logged then. (DEDUCED, log 24) -/
def uncorrected (s : State) (e : ErrorSpec) : State :=
  let c := e.core
  let k := getCore s c
  match e.struct with
  | 0x01 => modCore s c fun k => { k with
      cistPoison := if k.cistPoison.contains (e.addr / 8) then k.cistPoison else k.cistPoison ++ [e.addr / 8]
      cistSeen := k.cistSeen.filter fun w => decide (w ≠ e.addr / 8) }
  | 0x02 =>
    (match l2Tag k (e.addr / 2048), l2Piece k (e.addr / 64) with
     | some g, some p => l2Put s c (e.addr / 64) g.bcmp { p with poison := 2, seen := false }
     | _, _ => logSpec s 0x03 e)
  | 0x03 => logSpec (match l2Tag k (e.addr / 2048) with | some g => dropBadTag s c g | none => s) 0x03 e
  | 0x04 => consumedBy s e [⟨c, e.part / 32, e.part % 32⟩]
  | 0x05 =>
    (match lineObject k e.addr with
     | some o => bump (logError (modCore s c fun k => { k with codeBad := if k.codeBad.contains e.addr then k.codeBad else k.codeBad ++ [e.addr] })
         0x0B 0x05 c c 0xFFFF o.slice (BitVec.ofNat 64 e.addr)) c 0x01C 1
     | none => logSpec s 0x03 e)
  | 0x06 => putBlock s (coreQuad c) (poisonRows (getBlock s (coreQuad c)) (e.addr / 128) [e.addr % 128])
  | 0x07 => consumedBy s e (match (getPart s c (e.part % 8)).batch with | some b => b.lanes.map fun l => ⟨c, b.slot, l⟩ | none => [])
  | 0x09 => { s with damaged := if s.damaged.contains (normPa s e.addr / 64) then s.damaged else s.damaged ++ [normPa s e.addr / 64] }
  | 0x0B =>
    if e.part = 0 then logSpec (modCore s c fun k => { k with inbox := k.inbox.take e.addr ++ k.inbox.drop (e.addr + 1) }) 0x03 e
    else
      (match k.sendQ[e.addr]? with
       | some q => consumedBy (putCore s c { k with sendQ := k.sendQ.take e.addr ++ k.sendQ.drop (e.addr + 1) }) e
           ((match q.holder with | some f => [f] | none => []) ++ bodyFibres q.packet.body)
       | none => logSpec s 0x03 e)
  | 0x0C =>
    consumedBy s e (match e.part with
      | 0 => (match k.sections[e.addr]? with | some x => if x.held then [x.holder] else [] | none => [])
      | 1 => (match k.waiters[e.addr]? with | some x => [x.f] | none => [])
      | _ => (match k.waves[e.addr]? with | some x => x.lanes.map CombReq.f | none => []))
  | 0x0D => logSpec (match tget k.rays e.addr with | some r => finishRay s c e.addr r 6 | none => s) 0x03 e
  | _ => logSpec s 0x03 e

/-- ERROR_DETECTED (R303-R305): a corrected error is logged and counted and changes no value; an uncorrectable one marks its data; the structure is
to be tested. (DEDUCED, log 24) -/
def execErrorDetected (e : ErrorSpec) (s : State) : Host.Outcome State Fault Refusal :=
  if e.struct = 0 ∨ 0x0E < e.struct then .next s
  else
    let s :=
      if e.corrected then
        let s := logSpec s 0x01 e
        if e.struct = 9 then modStack s e.stack fun k => { k with pins := k.pins ++ [(Config.channelOf (blockOf e.addr), e.part, s.time)] }
        else if e.struct = 0x0A then s else bump s e.core 0x01C 1
      else uncorrected s e
    .next (addTest s e)

/-! ## Self-test -/

/-- Sets the marks of a test's users: a partition stands still (R305). -/
def markTest (s : State) (e : ErrorSpec) (on : Bool) : State :=
  match e.struct with
  | 0x07 => modPart s e.core (e.part % 8) fun p => { p with testing := on }
  | _ => s

/-- SELF_TEST_START (R305). -/
def execSelfTestStart (n : Nat) (s : State) : Host.Outcome State Fault Refusal :=
  match s.tests[n]? with
  | some t => if t.started then .next s else .next (markTest { s with tests := lset s.tests n { t with started := true } } t.e true)
  | none => .next s

/-- The spares of a structure, and the unit they belong to (R303). -/
def sparesOf (e : ErrorSpec) : Nat × (Nat × Nat × Nat) :=
  match e.struct with
  | 0x01 => (1, (1, e.core, 0))
  | 0x02 => (2, (2, e.core, l2Set (e.addr / 2048)))
  | 0x03 => (1, (3, e.core, l2Set (e.addr / 2048)))
  | 0x04 => (1, (4, e.core, 0))
  | 0x05 => (16, (5, e.core, 0))
  | 0x06 => (1, (6, coreQuad e.core, e.addr / 128))
  | 0x08 => (2, (8, e.core, e.part))
  | 0x09 => (2, (9, e.stack, Config.channelOf (blockOf e.addr)))
  | n => (0, (n, e.core, e.part))

/-- Retires a core (R120, R306): its teams take team faults; its L2 slice goes on as home unless it is what failed. -/
def retireCore (s : State) (c : Nat) (l2 : Bool) : State :=
  let s := modCore s c fun k => { k with retired := true }
  let s := (s.teams.filter fun t => decide (t.1.1 = c)).foldl (fun s t => teamFault s c t.1.2 (teamHead s c t.1.2) (faultPc s (teamHead s c t.1.2)) 0xFF07) s
  if l2 then modCore (l2WriteBackAll s c) c fun k => { k with l2Failed := true } else s

/-- A failed test without a spare (R303, R305): the core retires; an HBM4 pin stays in service; HBM4 commands are replayed and metadata is fetched
again, without more. -/
def noSpare (s : State) (e : ErrorSpec) : State :=
  if e.struct = 0x0A ∨ e.struct = 0x0E ∨ e.struct = 0x09 then logSpec s 0x06 e
  else retireCore (logSpec s 0x06 e) e.core (decide (e.struct = 2 ∨ e.struct = 3))

/-- A pin is swapped to a redundant lane of its channel (R308): the channel pauses, the repair is logged. -/
def repairPin (s : State) (stack channel pin : Nat) : State :=
  let used := tgetD s.spares (9, stack, channel) 0
  let s := modStack { s with spares := tput s.spares (9, stack, channel) (used + 1) } stack fun k => { k with
    paused := k.paused ++ [(channel, pin)]
    pins := k.pins.filter fun e => ! (decide (e.1 = channel) && decide (e.2.1 = pin)) }
  logErrorWith s 0x08 0x09 (stackRouter stack) 0xFFFF stack (stackSlice s stack) 0 (BitVec.ofNat 64 pin) (List.replicate 8 0)

/-- SELF_TEST_COMPLETE (R125, R303, R305, R306, R308, R488). A pin that fails its loopback test is repaired. -/
def execSelfTestComplete (n : Nat) (r : TestResult) (s : State) : Host.Outcome State Fault Refusal :=
  match s.tests[n]? with
  | none => .next s
  | some t =>
    if ¬ t.started then .next s
    else
      let s := markTest { s with tests := s.tests.take n ++ s.tests.drop (n + 1) } t.e false
      match r with
      | .pass => .next (logSpec s 0x04 t.e)
      | .fail =>
        let (cap, key) := sparesOf t.e
        let used := tgetD s.spares key 0
        if cap ≤ used then .next (noSpare s t.e)
        else if t.e.struct = 0x09 then
          .next (repairPin (logSpec s 0x05 t.e) t.e.stack (Config.channelOf (blockOf t.e.addr)) t.e.part)
        else .next (logSpec { s with spares := tput s.spares key (used + 1) } 0x05 t.e)

/-! ## HBM4 upkeep -/

/-- HBM_PARITY_ALERT (R305, R307): the controller replays its history; a command replayed three times without success marks its channel failed; the
lines are to be tested. -/
def execHbmParityAlert (stack channel : Nat) (replayed : Bool) (s : State) : Host.Outcome State Fault Refusal :=
  if 16 ≤ stack then .next s
  else
    let s := logErrorWith s 0x07 0x0A (stackRouter stack) 0xFFFF stack (stackSlice s stack) 0 0 (List.replicate 8 0)
    let s := addTest s { struct := 0x0A, core := 0, stack := stack, addr := 0, part := channel, corrected := true, synd := 0 }
    .next (modStack s stack fun k =>
      let n := if replayed then 0 else tgetD k.alerts channel 0 + 1
      { k with
        alerts := tput k.alerts channel (if n = 3 then 0 else n)
        failed := if n = 3 ∧ ! k.failed.contains channel then k.failed ++ [channel] else k.failed })

/-- Sixteen corrected errors of a pin within 1 ms (R308). -/
def pinDue (k : Stack) (channel pin : Nat) (now : DWord) : Bool :=
  decide (16 ≤ (k.pins.filter fun e => decide (e.1 = channel) && decide (e.2.1 = pin) && decide ((now - e.2.2).toNat ≤ 1000000)).length)

/-- LANE_REPAIR (R303, R308): the channel pauses, the pin is swapped to a redundant lane while one is left, and the repair is logged. -/
def execLaneRepair (stack channel pin : Nat) (s : State) : Host.Outcome State Fault Refusal :=
  let k := stackAt s stack
  let used := tgetD s.spares (9, stack, channel) 0
  if 16 ≤ stack ∨ ¬ pinDue k channel pin s.time ∨ (k.paused.any fun e => decide (e.1 = channel)) ∨ 2 ≤ used then .next s
  else .next (repairPin s stack channel pin)

/-- LANE_REPAIR_COMPLETE (R308): the channel goes on. -/
def execLaneRepairComplete (stack channel : Nat) (s : State) : Host.Outcome State Fault Refusal :=
  if (stackAt s stack).paused.any fun e => decide (e.1 = channel) then
    .next (modStack s stack fun k => { k with paused := k.paused.filter fun e => decide (e.1 ≠ channel) })
  else .next s

end Sys2Proof.Machine
end

