-- ==== Sys2Proof/Machine/DevContext.lean ====
section
/-!
DEFINITION. Context control and the debugger (R52, R99, R205, R226, R282, R285, R309-R313, R320): pre-emption, the save, resume, debug stop and
resume, single steps, a debugger's writes.
-/
namespace Sys2Proof.Machine

/-! ## The context-control page -/

/-- The command at the head of a slice's context control, if its code is `n` (R320): task, focus fibre, focus core. (DESIGN CHOICE, log 29) -/
def ccmdAt (s : State) (slice n : Nat) : Option (Nat × Nat × Nat) :=
  (getSlice s slice).ccmd.head?.bind fun w =>
    if w.toNat % 8 = n then some (fld w.toNat 15 8, fld w.toNat 31 16, fld w.toNat 47 32) else none

/-- A command has completed (R314, R320): CSTAT names it, BUSY stays while another waits, MSI-X vector 2 tells of it. (DESIGN CHOICE, log 29) -/
def endCmd (s : State) (slice n task : Nat) : State :=
  let s := modSlice s slice fun x => { x with
    ccmd := x.ccmd.drop 1, cstat := BitVec.ofNat 32 (task * 256 + n * 16 + (if 2 ≤ x.ccmd.length then 1 else 0)) }
  { s with msix := s.msix ++ [(slice + 1, 2)] }

/-- The team of a task on a core, with its number. (DEDUCED, log 30) -/
def focusTeam (s : State) (slice task core : Nat) : Option (Nat × Team) :=
  ((launchTeams s slice task).find? fun e => e.1.1 = core).map fun e => (e.1.2, e.2)

/-! ## Pre-emption -/

/-- Nothing saved of a core. -/
def CoreSave.empty : CoreSave :=
  { batches := [], entries := [], claims := [], packets := [], rays := [], banks := [], cistern := [], cistPoison := [], bindings := [],
    barriers := [], classMask := 0, i4t := i4tReset, rings := [], inbox := [], redeliver := [], copyQ := [] }

/-- Whether a group slot of a core holds a group of one of some teams, given as (core, team). -/
def slotOf (s : State) (ts : List (Nat × Nat)) (core slot : Nat) : Bool :=
  match getGroup s core slot with
  | some g => ! (g.kind == .sump) && ts.contains (core, g.team)
  | none => false

/-- The teams of a context, as (core, team). -/
def contextTeams (s : State) (slice task : Nat) : List (Nat × Nat) := (launchTeams s slice task).map Prod.fst

/-- The pre-emption of a context begins (R73, R99, R309): its teams stop, its claims and its token requests are withdrawn; its cores in placement order. -/
def beginSave (s : State) (slice task : Nat) : State :=
  let ts := contextTeams s slice task
  let cs := match tget (getSlice s slice).tasks task with
    | some t => taskCores t
    | none => sortDedup (ts.map Prod.fst)
  let cores := cs.map fun c => (c, { CoreSave.empty with claims := (getCore s c).claims.filter fun x => slotOf s ts c x.1 })
  let s := ts.foldl (fun s e => stopTeam s e.1 e.2) s
  reclaimTokens (modSlice s slice fun x => { x with saved := x.saved ++ [{
    task := task, desc := x.cdesc, complete := false, fibres := [], groups := [], teams := [], cores := cores, leases := [], tiles := [],
    tilePoison := [], requests := [], messages := [], logs := [] }] })

/-- CCMD_PREEMPT (R309, R312, R320): a placed launch that runs is stopped and its save begins; one still being placed or started is waited for; with no
resident context of the task the command is over. -/
def execCcmdPreempt (slice : Nat) (s : State) : Host.Outcome State Fault Refusal :=
  match ccmdAt s slice 1 with
  | none => .next s
  | some (task, _, _) =>
    if (getSlice s slice).saved.any fun v => decide (v.task = task) && ! v.complete then .next s
    else
      match tget (getSlice s slice).tasks task with
      | some t => if t.saved then .next (endCmd s slice 1 task) else if t.started ∧ t.starting = 0 then .next (beginSave s slice task) else .next s
      | none => .next (endCmd s slice 1 task)

/-- The fibres that a packet's request or reply is of, where a save waits for it (R309). -/
def bodyPending : Body → List FRef
  | .read l | .write l | .atomic l | .reduce l => l.map LaneReq.f
  | .cmbreg f _ _ _ _ _ _ => [f]
  | .range _ f _ _ _ => [f]
  | .ordered _ f _ _ _ _ => [f]
  | .results f _ _ _ _ _ => [f]
  | .ack f _ => [f]
  | .secAnswer f _ _ _ _ _ => [f]
  | .combineDone f _ _ _ _ => [f]
  | .engineDone _ _ _ _ _ f => [f]
  | .treelet c _ _ _ => [c.f]
  | .launch _ _ _ _ (some r) => [r.1]
  | .ctl _ _ _ f _ => [f]
  | .town _ _ _ _ f _ _ _ => [f]
  | .rate _ _ _ _ f _ => [f]
  | .barSet _ _ _ _ _ _ _ f => [f]
  | _ => []

/-- Whether a barrier packet is of a context: an arrival or a completion already on its way. -/
def barrierOf (slice task : Nat) : Body → Bool
  | .barArrive a t _ _ | .completion a t _ _ => decide (a = slice) && decide (t = task)
  | _ => false

/-- Whether a fibre waits on its mailbox for the command of a PC. -/
def mailParked (s : State) (f : FRef) (pc : Word) : Bool :=
  match getFib s f with
  | some x => x.waits.any fun w => match w with | .mailbox p _ _ => decide (p = pc) | _ => false
  | none => false

/-- Whether the object at a physical address has its method in one of some teams of its home, which stand still (R196, R309). -/
def ownMethod (s : State) (ts : List (Nat × Nat)) (home pa : Nat) : Bool :=
  match objectAt (getCore s home) pa with
  | some o => ts.contains (home, bindTeam (bindingAt (getCore s home) o.bidx))
  | none => false

/-- Whether a save waits for a packet of some fibres (R205, R232, R309): a COMBINE for a method of the context itself, and a pump command, once they have
come to where they wait, are not waited for. (DESIGN CHOICE, log 34) -/
def packetPending (s : State) (ts : List (Nat × Nat)) (mine : FRef → Bool) (p : Packet) : Bool :=
  match p.body with
  | .combine f _ _ _ _ _ _ pa _ _ => mine f && ! (p.arrived && ownMethod s ts p.dst pa)
  | .pumpCmd c => mine c.f && ! p.arrived
  | b => (bodyPending b).any mine

/-- Whether a lease of some teams has an open group, which its block completes first (R309, R453). -/
def groupOpen (s : State) (ts : List (Nat × Nat)) (q : Nat) : Bool :=
  (getBlock s q).leases.any fun l => ts.contains (l.2.core, l.2.team) && l.2.queue.any midGroup

/-- Whether a context may be saved now (R205, R232, R309, R312): its batches have stopped, the replies to its requests are in, its barrier arrivals
are released, its trap frames are written, its copy commands and running pump commands are over or stand on a fault, no matrix group of its leases is
open, no structure of its cores, nor their quad's accumulators, is under self-test. -/
def saveReady (s : State) (slice task : Nat) : Bool :=
  let ts := contextTeams s slice task
  let cs := (ts.map Prod.fst).dedup
  let mine := fun (f : FRef) => slotOf s ts f.core f.slot
  let packets := s.mesh ++ s.slices.flatMap fun e => match e.2.migration with | some m => m.held | none => []
  (cs.all fun c =>
    let k := getCore s c
    (k.parts.all fun p => match p.2.batch with | some b => ! slotOf s ts c b.slot | none => true) &&
    (k.copyQ.all fun q => ! mine q.f || mailParked s q.f q.pc) && k.codeBad.isEmpty &&
    ! (s.tests.any fun t => t.started && ! ([9, 10, 14].contains t.e.struct) &&
      (decide (t.e.core = c) || (decide (t.e.struct = 6) && decide (coreQuad t.e.core = coreQuad c))))) &&
  ! (s.fibres.any fun e => mine e.1 && framePending s e.1) &&
  (packets.all fun p => ! barrierOf slice task p.body && ! packetPending s ts mine p) &&
  (s.cores.all fun e => e.2.waves.all fun w => ! (w.lanes.any fun q => mine q.f) || ownMethod s ts e.1 w.pa) &&
  ! (((ts.map fun e => coreQuad e.1).dedup).any (groupOpen s ts)) &&
  (s.stackUnits.all fun u => u.2.queue.all fun q => ! q.running || ! mine q.f || (match getFib s q.f with | some x => x.accs.all fun a => a.id ≠ q.acc | none => true))

/-- The messages of an inbox or loop-back port that are bound to one of some teams of the core. -/
def boundTo (s : State) (core : Nat) (ts : List (Nat × Nat)) (m : Msg) : Bool :=
  match msgBinding s core m with
  | some i => decide (i ≠ 0) && ts.contains (core, bindTeam (bindingAt (getCore s core) i))
  | none => false

/-- Whether a ray belongs to a context: a TRV of its fibres, or a ray that names its task (R463, R460). -/
def rayMine (s : State) (ts : List (Nat × Nat)) (task : Nat) (r : RaySlot) : Bool :=
  match r.owner with
  | some o => slotOf s ts o.1.core o.1.slot
  | none => decide ((rayQueue r.words).1 = task)

/-- What a core holds of a context (R310). (DESIGN CHOICE, log 34) -/
def saveCore (s : State) (ts : List (Nat × Nat)) (task c : Nat) (old : CoreSave) : CoreSave :=
  let k := getCore s c
  let banks := sortDedup ((s.teams.filter fun e => ts.contains e.1 && decide (e.1.1 = c)).flatMap fun e => e.2.banks)
  let ids := (s.fibres.filter fun e => decide (e.1.core = c) && slotOf s ts c e.1.slot).filterMap fun e => e.2.origin.redeliver
  { batches := k.stoppedBatches.filter fun b => slotOf s ts c b.2.slot
    entries := k.parts.flatMap fun p => (p.2.buffer.filter fun e => slotOf s ts c e.f.slot).map fun e => (p.1, e)
    claims := old.claims
    packets := k.sendQ.filter fun e => slotOf s ts c e.owner.slot
    rays := k.rays.filter fun r => rayMine s ts task r.2
    banks := banks
    cistern := k.cistern.filter fun e => banks.contains (e.1 / 65536)
    cistPoison := k.cistPoison.filter fun w => banks.contains (w / 8192)
    bindings := k.bindings.filter fun b => decide (b.1 ≠ 0) && bindV b.2 && ts.contains (c, bindTeam b.2)
    barriers := k.barriers.filter fun b => ts.contains (c, b.1.1)
    classMask := k.classMask
    i4t := k.i4t
    rings := k.rings
    inbox := (k.inbox ++ k.loopback).filter (boundTo s c ts)
    redeliver := k.redeliver.filter fun e => ids.contains e.1
    copyQ := k.copyQ.filter fun q => slotOf s ts c q.f.slot }

/-- A core without what was saved of a context: its bindings are free under a new generation, its registers return. -/
def clearCore (s : State) (ts : List (Nat × Nat)) (task c : Nat) (v : CoreSave) : State :=
  let regs := (s.groups.filter fun e => decide (e.1.1 = c) && slotOf s ts c e.1.2).foldl (fun n e => n + 32 * e.2.allot) 0
  modCore s c fun k => { k with
    poolFree := k.poolFree + regs
    stoppedBatches := k.stoppedBatches.filter fun b => ! slotOf s ts c b.2.slot
    parts := k.parts.map fun p => (p.1, { p.2 with buffer := p.2.buffer.filter fun e => ! slotOf s ts c e.f.slot })
    sendQ := k.sendQ.filter fun e => ! slotOf s ts c e.owner.slot
    rays := k.rays.filter fun r => ! rayMine s ts task r.2
    bindings := k.bindings.map fun b => (b.1, if decide (b.1 ≠ 0) && bindV b.2 && ts.contains (c, bindTeam b.2) then unbindWord b.2 else b.2)
    barriers := k.barriers.filter fun b => ! ts.contains (c, b.1.1)
    inbox := k.inbox.filter fun m => ! boundTo s c ts m
    loopback := k.loopback.filter fun m => ! boundTo s c ts m
    redeliver := k.redeliver.filter fun e => ! v.redeliver.contains e
    copyQ := k.copyQ.filter fun q => ! slotOf s ts c q.f.slot }

/-- A block without the leases and lease requests of some teams (R282, R309). -/
def clearBlock (ts : List (Nat × Nat)) (b : Block) : Block :=
  { b with
    leases := b.leases.filter fun l => ! ts.contains (l.2.core, l.2.team)
    requests := b.requests.filter fun r => ! ts.contains (r.core, r.team) }

/-- Whether a packet is a matrix command or a lease request of some teams, on its way to the block. -/
def toBlock (ts : List (Nat × Nat)) : Body → Bool
  | .matrix c => ts.contains (c.f.core, c.team)
  | .lease core team _ _ _ _ => ts.contains (core, team)
  | _ => false

/-- The groups that a core holds of a saved context, in slot order. -/
def savedGroups (v : Saved) (c : Nat) : List (Nat × Group) := (List.range 64).filterMap fun i => (tget v.groups (c, i)).map fun g => (i, g)

/-- The fibres that a core holds of a saved context, in the order of their records (R310). -/
def savedFibres (v : Saved) (c : Nat) : List (FRef × Fibre) :=
  (savedGroups v c).flatMap fun g => (List.range 32).filterMap fun l => (tget v.fibres ⟨c, g.1, l⟩).map fun x => (⟨c, g.1, l⟩, x)

/-- The tiles that the leases of a core have in a saved context: block, tile, elements. -/
def savedTiles (v : Saved) (c : Nat) : List (Nat × Nat × Tbl Nat Word) :=
  v.tiles.filter fun t => decide (t.1 = coreQuad c) && v.leases.any fun l =>
    decide (l.2.2.core = c) && decide (l.2.2.first ≤ t.2.1) && decide (t.2.1 < l.2.2.first + l.2.2.count)

/-- Where the parts of a core's save area that resume reads begin (R310): registers, return stacks, cistern banks, tiles, rays. -/
structure SaveMap where
  regs : Nat
  calls : Nat
  banks : Nat
  tiles : Nat
  rays : Nat

/-- The layout of a core's save area (R310). (DESIGN CHOICE, log 31) -/
def saveMap (v : Saved) (c : Nat) (k : CoreSave) : SaveMap :=
  let fs := savedFibres v c
  let regs := 0x2000 + 16 * fs.length
  let calls := regs + (savedGroups v c).foldl (fun a g => a + 128 * g.2.allot) 0 + 16 * fs.foldl (fun a e => a + e.2.pend.length + e.2.lls.length) 0
  let banks := calls + 4 * fs.foldl (fun a e => a + e.2.stack.length) 0
  let tiles := banks + 65536 * k.banks.length
  let queued := (v.leases.filter fun l => l.2.2.core = c).foldl (fun a l => a + l.2.2.queue.length) 0 + k.packets.length + k.copyQ.length
  { regs := regs, calls := calls, banks := banks, tiles := tiles, rays := tiles + 65536 * (savedTiles v c).length + 64 * queued }

/-- The bytes of a core's save area (R310): the registers, return stacks, cistern banks, tiles and rays; the inner layout of the other parts is left open and
filled from `n`. (DESIGN CHOICE, log 31) -/
def saveBytes (s : State) (n c : Nat) (v : Saved) (k : CoreSave) : List Byte :=
  let m := saveMap v c k
  let free := fun (off till : Nat) => (List.range (till - off)).map fun i => Config.saveByte n (off + i)
  let regs := (savedGroups v c).flatMap fun g => (List.range 32).flatMap fun l => match tget v.fibres ⟨c, g.1, l⟩ with
    | some x => bytesOf ((x.regs ++ List.replicate g.2.allot 0).take g.2.allot)
    | none => (List.range (4 * g.2.allot)).map fun i => Config.saveByte n (0x100000 + 0x8000 * g.1 + 0x400 * l + i)
  let pumps := (s.stackUnits.flatMap fun u => u.2.queue.filter fun q => (tget v.fibres q.f).isSome && decide (q.f.core = c)).length
  let tiles := (savedTiles v c).flatMap fun t => bytesOf ((List.range 16384).map fun i => tgetD t.2.2 i 0)
  free 0 m.regs ++ regs ++ free (m.regs + regs.length) m.calls ++ ((savedFibres v c).flatMap fun e => bytesOf e.2.stack) ++
    (k.banks.flatMap fun b => Memory.reads k.cistern (65536 * b) 65536) ++ tiles ++ free (m.tiles + tiles.length) m.rays ++
    (k.rays.flatMap fun r => bytesOf r.2.words) ++ free (m.rays + 64 * k.rays.length) (m.rays + 64 * (k.rays.length + pumps))

/-- Word `i` of the save descriptor (R309, R310): the save-area addresses of the placed cores in placement order, then the bytes of their message logs.
(DESIGN CHOICE, log 32) -/
def descWord (s : State) (core slice : Nat) (desc : DWord) (i : Nat) : Option Nat := (niRead s core slice (desc.toNat + 8 * i) 8).map leNat

/-- Writes the save areas (R205, R310); what cannot be written is not. (DESIGN CHOICE, log 32) -/
def writeSave (s : State) (slice : Nat) (v : Saved) : State :=
  ((List.range v.cores.length).zip v.cores).foldl (fun s e =>
    match descWord s e.2.1 slice v.desc e.1 with
    | some a =>
      let (n, s) := freshFree s
      (niWrite s e.2.1 slice a (saveBytes s n e.2.1 v e.2.2)).getD s
    | none => s) s

/-- The save of a context (R309, R310): everything it has on chip moves into the saved context, and its slots and registers are free.
(DESIGN CHOICE, log 32) -/
def saveContext (s : State) (slice : Nat) (v : Saved) : State :=
  let ts := contextTeams s slice v.task
  let mineF := fun (f : FRef) => slotOf s ts f.core f.slot
  let quads := (ts.map fun e => coreQuad e.1).dedup
  let leases := quads.flatMap fun q => ((getBlock s q).leases.filter fun l => ts.contains (l.2.core, l.2.team)).map fun l => (q, l.1, l.2)
  let inLease := fun (q t : Nat) => leases.any fun l => decide (l.1 = q) && decide (l.2.2.first ≤ t) && decide (t < l.2.2.first + l.2.2.count)
  let v : Saved := { v with
    complete := true
    fibres := s.fibres.filter fun e => mineF e.1
    groups := s.groups.filter fun e => slotOf s ts e.1.1 e.1.2
    teams := s.teams.filter fun e => ts.contains e.1
    cores := v.cores.map fun e => (e.1, saveCore s ts v.task e.1 e.2)
    leases := leases
    tiles := quads.flatMap fun q => ((getBlock s q).acc.filter fun t => inLease q t.1).map fun t => (q, t.1, t.2)
    tilePoison := quads.flatMap fun q => ((getBlock s q).poison.filter fun t => inLease q t.1).map fun t => (q, t.1, t.2)
    requests := quads.flatMap fun q => ((getBlock s q).requests.filter fun r => ts.contains (r.core, r.team)).map fun r => (q, r) }
  let stays := fun (p : Packet) => ! toBlock ts p.body && ! (p.arrived && (match replyFor s p with | some (f, ids) => awaitsAny v.fibres f ids | none => false))
  let v := { v with
    messages := s.mesh.filter fun p => ! stays p
    logs := ((List.range v.cores.length).zip v.cores).map fun e => (e.2.1, ((descWord s e.2.1 slice v.desc (v.cores.length + e.1)).getD 0) / 64) }
  let t := v.cores.foldl (fun t e => clearCore t ts v.task e.1 e.2) s
  let t := quads.foldl (fun t q => putBlock t q (clearBlock ts (getBlock t q))) t
  let t := { t with
    fibres := t.fibres.filter fun e => ! mineF e.1
    groups := t.groups.filter fun e => ! slotOf s ts e.1.1 e.1.2
    teams := t.teams.filter fun e => ! ts.contains e.1
    mesh := t.mesh.filter stays }
  let t := modSlice t slice fun x => { x with
    saved := x.saved.map fun w => if w.task = v.task then v else w
    tasks := x.tasks.map fun e => if e.1 = v.task then (e.1, { e.2 with saved := true }) else e }
  writeSave t slice v

/-- PREEMPTION_SAVE_COMPLETE (R205, R309, R310, R312). -/
def execPreemptionSaveComplete (slice : Nat) (s : State) : Host.Outcome State Fault Refusal :=
  match (getSlice s slice).saved.find? fun v => ! v.complete with
  | none => .next s
  | some v => if saveReady s slice v.task then .next (endCmd (saveContext s slice v) slice 1 v.task) else .next s

/-! ## Resume -/

/-- Whether a core has the slots, the registers and the tables that a saved context names (R311). (DESIGN CHOICE, log 33) -/
def coreFree (s : State) (slice : Nat) (v : Saved) (c : Nat) (k : CoreSave) : Bool :=
  let here := v.groups.filter fun e => e.1.1 = c
  let core := getCore s c
  core.slice == some slice && ! core.retired && (here.all fun e => (getGroup s c e.1.2).isNone) &&
    ((v.teams.filter fun e => e.1.1 = c).all fun e => (getTeam s c e.1.2).isNone) &&
    admits s c (here.foldl (fun n e => n + 32 * e.2.allot) 0) &&
    (k.bindings.all fun b => ! bindV (bindingAt core b.1)) && decide (core.rays.length + k.rays.length ≤ 4096)

/-- Whether a context's lease slots and tiles are free (R282, R311). (DESIGN CHOICE, log 33) -/
def leasesFree (s : State) (v : Saved) : Bool :=
  v.leases.all fun l =>
    let b := getBlock s l.1
    (tget b.leases l.2.1).isNone && b.leases.all fun m => decide (m.2.first + m.2.count ≤ l.2.2.first ∨ l.2.2.first + l.2.2.count ≤ m.2.first)

/-- Puts back what a core held (R311): claims at the tail, packets ahead of new ones. -/
def restoreCore (s : State) (v : Saved) (c : Nat) (k : CoreSave) : State :=
  let here := v.groups.filter fun e => e.1.1 = c
  let gen := fun (slot : Nat) => (v.fibres.find? fun e => e.1.core = c ∧ e.1.slot = slot).map fun e => e.2.gen
  let s := modCore s c fun core => { core with
    poolFree := core.poolFree - here.foldl (fun n e => n + 32 * e.2.allot) 0
    slotGen := here.foldl (fun t e => match gen e.1.2 with | some g => tput t e.1.2 g | none => t) core.slotGen
    stoppedBatches := core.stoppedBatches ++ k.batches
    parts := (k.entries.map Prod.fst).dedup.foldl (fun t p =>
      let q := tgetD t p Partition.idle
      tput t p { q with buffer := ((k.entries.filter fun e => e.1 = p).map Prod.snd) ++ q.buffer }) core.parts
    claims := core.claims ++ k.claims
    sendQ := k.packets ++ core.sendQ
    cistern := k.cistern.foldl (fun m e => Memory.write m e.1 e.2) (core.cistern.filter fun e => ! k.banks.contains (e.1 / 65536))
    cistPoison := (core.cistPoison.filter fun w => ! k.banks.contains (w / 8192)) ++ k.cistPoison
    cistSeen := core.cistSeen.filter fun w => ! k.banks.contains (w / 8192)
    bindings := k.bindings.foldl (fun t b => tput t b.1 b.2) core.bindings
    barriers := k.barriers.foldl (fun t b => tput t b.1 b.2) core.barriers
    classMask := k.classMask
    i4t := k.i4t
    rings := k.rings
    inbox := k.inbox ++ core.inbox
    redeliver := core.redeliver ++ k.redeliver
    copyQ := k.copyQ ++ core.copyQ }
  k.rays.foldl (fun s r => match freeRay (getCore s c) with | some n => putRay s c n (some r.2) | none => s) s

/-- Puts back a lease with its tiles (R282, R311). -/
def restoreLease (s : State) (v : Saved) (l : Nat × Nat × Lease) : State :=
  let b := getBlock s l.1
  let tiles := (List.range l.2.2.count).map (l.2.2.first + ·)
  let me := (((tget v.teams (l.2.2.core, l.2.2.team)).map Team.slice).getD 0, ((tget v.teams (l.2.2.core, l.2.2.team)).map Team.uid).getD 0)
  putBlock s l.1 { b with
    leases := tput b.leases l.2.1 l.2.2
    holder := tiles.foldl (fun h t => tput h t me) b.holder
    acc := tiles.foldl (fun a t => match v.tiles.find? fun e => e.1 = l.1 ∧ e.2.1 = t with | some e => tput a t e.2.2 | none => tdel a t) b.acc
    seen := b.seen.filter fun p => ! tiles.contains p.1
    poison := (b.poison.filter fun p => ! tiles.contains p.1) ++ (v.tilePoison.filter fun p => decide (p.1 = l.1) && tiles.contains p.2.1).map fun p => p.2 }

/-- The section waits of a context's teams go on where they stopped (R285, R313): WSTART advances by the clocks since the stop, or since the wait came to
its home if that was later. -/
def resumeWaits (s : State) (t : Nat × Nat) (since : DWord) (fs : List (FRef × BitVec 8)) : State :=
  let start := fun (w : Waiter) => if since.toNat < w.came.toNat then w.came else since
  let move := fun (w : Waiter) => if w.f.core = t.1 ∧ fs.contains (w.f, w.gen) = true then { w with wstart := w.wstart + (s.clk - start w).setWidth 24 } else w
  { s with cores := s.cores.map fun e => (e.1, { e.2 with waiters := e.2.waiters.map move }) }

/-- What a saved context holds of a core, as its save area in memory has it now (R310, R311). (DESIGN CHOICE, log 31) -/
def readSave (v : Saved) (c : Nat) (b : List Byte) : Saved :=
  match tget v.cores c with
  | none => v
  | some k =>
    let m := saveMap v c k
    let words := fun (off n : Nat) => wordsOf ((b.drop off).take (4 * n))
    let before := fun (slot : Nat) => ((savedGroups v c).takeWhile fun g => decide (g.1 ≠ slot)).foldl (fun a g => a + 128 * g.2.allot) 0
    let fibre := fun (f : FRef) (x : Fibre) =>
      let a := ((tget v.groups (c, f.slot)).map Group.allot).getD 0
      let st := ((savedFibres v c).takeWhile fun e => decide (e.1 ≠ f)).foldl (fun a e => a + e.2.stack.length) 0
      { x with regs := words (m.regs + before f.slot + 4 * a * f.lane) a, stack := words (m.calls + 4 * st) x.stack.length }
    let bank := fun (e : Nat × Nat) => (List.range 65536).zip ((b.drop (m.banks + 65536 * e.1)).take 65536) |>.map fun x => (65536 * e.2 + x.1, x.2)
    let tile := fun (i : Nat) (t : Nat × Nat × Tbl Nat Word) => (t.1, t.2.1, (List.range 16384).zip (words (m.tiles + 65536 * i) 16384))
    let mine := savedTiles v c
    let k := { k with
      cistern := ((List.range k.banks.length).zip k.banks).flatMap bank
      rays := ((List.range k.rays.length).zip k.rays).map fun e => (e.2.1, { e.2.2 with words := words (m.rays + 64 * e.1) 16 }) }
    { v with
      fibres := v.fibres.map fun e => if e.1.core = c then (e.1, fibre e.1 e.2) else e
      tiles := v.tiles.map fun t => match mine.findIdx? fun u => u.1 == t.1 && u.2.1 == t.2.1 with | some i => tile i t | none => t
      cores := v.cores.map fun e => if e.1 = c then (c, k) else e }

/-- The saved context as the save areas have it that the descriptor in CDESC names now (R309, R311); what cannot be read is as it was saved. (DESIGN CHOICE,
log 31) -/
def readSaves (s : State) (slice : Nat) (v : Saved) : Saved :=
  let desc := (getSlice s slice).cdesc
  ((List.range v.cores.length).zip v.cores).foldl (fun w e =>
    let m := saveMap v e.2.1 e.2.2
    match (descWord s e.2.1 slice desc e.1).bind fun a => niRead s e.2.1 slice a (m.rays + 64 * e.2.2.rays.length) with
    | some b => readSave w e.2.1 b
    | none => w) v

/-- A saved context is back on its cores (R311). -/
def restoreContext (s : State) (slice : Nat) (v : Saved) : State :=
  let s := v.cores.foldl (fun s e => restoreCore s v e.1 e.2) s
  let s := v.groups.foldl (fun s e => placeAllot { s with groups := tput s.groups e.1 e.2 } e.1.1 e.1.2) s
  let s := { s with
    teams := s.teams ++ v.teams.map fun e => (e.1, { e.2 with stopped := false })
    fibres := s.fibres ++ v.fibres }
  let s := v.leases.foldl (fun s l => restoreLease s v l) s
  let s := v.requests.foldl (fun s r => putBlock s r.1 { getBlock s r.1 with requests := (getBlock s r.1).requests ++ [r.2] }) s
  let s := v.teams.foldl (fun s t => resumeWaits s t.1 t.2.stoppedAt
    ((v.fibres.filter fun e => decide (e.1.core = t.1.1) && (match tget v.groups (e.1.core, e.1.slot) with | some g => decide (g.team = t.1.2) | none => false)).map fun e => (e.1, e.2.gen))) s
  let s := v.messages.foldl inject s
  modSlice s slice fun x => { x with
    saved := x.saved.filter fun w => decide (w.task ≠ v.task)
    tasks := x.tasks.map fun e => if e.1 = v.task then (e.1, { e.2 with saved := false }) else e }

/-- CCMD_RESUME (R311, R312, R320): waits for the save, and for slots and registers; with no saved context of the task the command is over. -/
def execCcmdResume (slice : Nat) (s : State) : Host.Outcome State Fault Refusal :=
  match ccmdAt s slice 2 with
  | none => .next s
  | some (task, _, _) =>
    match (getSlice s slice).saved.find? fun v => v.task = task with
    | none => .next (endCmd s slice 2 task)
    | some v =>
      if v.complete ∧ (v.cores.all fun e => coreFree s slice v e.1 e.2) ∧ leasesFree s v then .next (endCmd (restoreContext s slice (readSaves s slice v)) slice 2 task)
      else .next s

/-! ## The debugger -/

/-- CCMD_DEBUG_STOP (R313, R320): with a debugger attached, the task's team on the focus core stops, its state on chip. (DEDUCED, log 30) -/
def execCcmdDebugStop (slice : Nat) (s : State) : Host.Outcome State Fault Refusal :=
  match ccmdAt s slice 3 with
  | none => .next s
  | some (task, _, core) =>
    match (if (getSlice s slice).debugger then focusTeam s slice task core else none) with
    | some (n, _) => .next (endCmd (stopTeam s core n) slice 3 task)
    | none => .next (endCmd s slice 3 task)

/-- CCMD_DEBUG_RESUME (R285, R313, R320): a stopped team, not one that is being saved, runs again. -/
def execCcmdDebugResume (slice : Nat) (s : State) : Host.Outcome State Fault Refusal :=
  match ccmdAt s slice 4 with
  | none => .next s
  | some (task, _, core) =>
    match focusTeam s slice task core with
    | some (n, t) =>
      if ! t.stopped || saving s t then .next (endCmd s slice 4 task)
      else
        let s := resumeWaits s (core, n) t.stoppedAt ((teamFibres s core n).map fun f => (f, fibGen s f))
        .next (endCmd (modTeam s core n fun t => { t with stopped := false }) slice 4 task)
    | none => .next (endCmd s slice 4 task)

/-- The batch that a single step of a stopped team's fibre advances (R52): the one that it stopped in, or the one it would start a run with; none
while it waits. (DESIGN CHOICE, log 82) -/
def stepBatch (s : State) (f : FRef) : Option Batch :=
  match (getCore s f.core).stoppedBatches.find? fun e => decide (e.2.slot = f.slot) && e.2.lanes.contains f.lane with
  | some (_, b) => some b
  | none =>
    let ready := fun (l : Nat) (x : Fibre) => ! x.ended && x.waits.isEmpty && x.lls.isEmpty && x.pend.isEmpty && ! batchParked s ⟨f.core, f.slot, l⟩ x
    match getFib s f with
    | none => none
    | some x =>
      if ! ready f.lane x || (getCore s f.core).claims.any fun c => c.1 = f.slot then none
      else some {
        slot := f.slot
        lanes := (lanesOf s f.core f.slot).filter fun l => match getFib s ⟨f.core, f.slot, l⟩ with
          | some y => ready l y && decide (y.pc = x.pc) && ! (getCore s f.core).stoppedBatches.any fun e => decide (e.2.slot = f.slot) && e.2.lanes.contains l
          | none => false
        pc := x.pc, count := 0, line := none, atPacket := true, runEnd := false, packetEnd := false
        tokens := runTokens (getCore s f.core) 24 x.pc 0, cpend := [], seen := [], live := [], stepped := false }

/-- The group slot of a team's group of index `gid`. -/
def gidSlot (s : State) (core team gid : Nat) : Option Nat :=
  (s.groups.find? fun e => decide (e.1.1 = core) && decide (e.2.team = team) && decide (e.2.gid = gid) && ! (e.2.kind == .sump)).map fun e => e.1.2

/-- CCMD_SINGLE_STEP (R52, R313, R320, R332): the focus fibre's batch takes its partition for one instruction, once the partition is free and the run's
tokens are there; it asks for them when no request waits. (DESIGN CHOICE, log 82) -/
def execCcmdSingleStep (slice : Nat) (s : State) : Host.Outcome State Fault Refusal :=
  match ccmdAt s slice 5 with
  | none => .next s
  | some (task, fid, core) =>
    match (focusTeam s slice task core).bind fun e => if e.2.stopped && ! e.2.halted && ! saving s e.2 then gidSlot s core e.1 (fid / 32) else none with
    | none => .next (endCmd s slice 5 task)
    | some slot =>
      let f : FRef := ⟨core, slot, fid % 32⟩
      match stepBatch s f with
      | none => .next (endCmd s slice 5 task)
      | some b =>
        let fresh := ! (getCore s core).stoppedBatches.any fun e => decide (e.2 = b)
        if (getPart s core (slotPart slot)).batch.isSome ∨ (fresh ∧ b.tokens ≠ 0 ∧ (¬ s.tokenQ.isEmpty ∨ (ctlHome s 0x003).toNat < s.tokensUsed + b.tokens)) then .next s
        else
          let s := modCore s core fun k => { k with stoppedBatches := k.stoppedBatches.filter fun e => decide (e.2 ≠ b) }
          let s := modPart s core (slotPart slot) fun p => { p with batch := some { b with stepped := true }, single := true }
          .next (endCmd { s with
            tokensUsed := s.tokensUsed + (if fresh then b.tokens else 0), schedule := .issue core (slotPart slot) :: s.schedule } slice 5 task)

/-- The stopped team of a core's group slot, where a debugger is attached to its slice (R313). -/
def debugTeam (s : State) (core slot : Nat) : Option Team :=
  match (getGroup s core slot).bind fun g => if g.kind = .sump then none else getTeam s core g.team with
  | some t => if t.stopped && (getSlice s t.slice).debugger then some t else none
  | none => none

/-- A fibre of a stopped team stands at a PC that a debugger wrote (R313): its run position is cleared, and what its run had still to write is
written. A marked branch target starts a block of the checker; from any other PC on it is not checked until the next block. (DEDUCED, log 100) -/
def debugPc (s : State) (f : FRef) (pc : Word) : State :=
  let s := modCore s f.core fun k => { k with stoppedBatches := k.stoppedBatches.map fun e =>
    if e.2.slot = f.slot then (e.1, { e.2 with lanes := e.2.lanes.filter fun l => decide (l ≠ f.lane) }) else e }
  let block := isMarked (getCore s f.core) pc.toNat
  modFib s f fun x => { flushPend 9 x with pc := pc, next := none, mates := [], sigNew := block, sigOn := block && x.sigOn }

/-- Writes values into a fibre of a stopped team (R313); one that stands inside a packet still reads what the whole packet read, so that they land at the
packet's end (R52, R332). -/
def debugLand (s : State) (f : FRef) (es : List Eff) : State :=
  let inside := (getCore s f.core).stoppedBatches.any fun e => decide (e.2.slot = f.slot) && e.2.lanes.contains f.lane && ! e.2.atPacket
  modFib s f fun x => if inside then { x with pend := (es.map fun e => ⟨1, e⟩) ++ x.pend } else es.foldl land x

/-- DEBUGGER_STATE_WRITE (R313). -/
def execDebuggerStateWrite (w : DebugWrite) (s : State) : Host.Outcome State Fault Refusal :=
  match w with
  | .reg core slot lane n v =>
    .next (if (debugTeam s core slot).isSome ∧ n < allotOf s ⟨core, slot, 0⟩ then debugLand s ⟨core, slot, lane⟩ [.reg n v] else s)
  | .preds core slot lane v => .next (if (debugTeam s core slot).isSome then
      debugLand s ⟨core, slot, lane⟩ ((List.range 16).map fun n => .pred n (v.getLsbD n)) else s)
  | .fsr core slot lane v => .next (if (debugTeam s core slot).isSome then debugLand s ⟨core, slot, lane⟩ [.fsr v] else s)
  | .pc core slot lane v => .next (if (debugTeam s core slot).isSome then debugPc s ⟨core, slot, lane⟩ v else s)
  | .codeLine core line words =>
    .next (if words.length = 16 ∧ (s.teams.any fun e => decide (e.1.1 = core) && e.2.stopped && (getSlice s e.2.slice).debugger &&
        match codeOf s core e.2 with | some o => decide (o.first ≤ line) && decide (line < o.first + o.lines) | none => false)
      then writeLine s core line words else s)

/-- DEBUGGER_ATTACH (R313). -/
def execDebuggerAttach (slice : Nat) (s : State) : Host.Outcome State Fault Refusal :=
  .next (if slice < 8 then modSlice s slice fun x => { x with debugger := true } else s)

/-- DEBUGGER_DETACH (R313, R366). -/
def execDebuggerDetach (slice : Nat) (s : State) : Host.Outcome State Fault Refusal :=
  .next (if slice < 8 then modSlice s slice fun x => { x with debugger := false } else s)

end Sys2Proof.Machine
end

