-- ==== Sys2Proof/Machine/DevHost.lean ====
section
/-!
DEFINITION. The host port (R9, R85, R102, R103, R110, R203, R281, R286-R289, R314-R324): register writes, the aperture and the physical window, slices,
checkpoints, resets, span ports, attestation.
-/
namespace Sys2Proof.Machine

/-! ## Register writes -/

/-- Byte `i` of a host write of `size` bytes at `off`, where it covers address `a`. (DESIGN CHOICE, log 40) -/
def hostByte (off size : Nat) (v : BitVec 64) (a : Nat) : Option Byte := if off ≤ a ∧ a < off + size then some (v.extractLsb' (8 * (a - off)) 8) else none

/-- A field of `n` bytes at address `a` after a host write. -/
def hostField (off size : Nat) (v : BitVec 64) (a n old : Nat) : Nat :=
  leNat ((List.range n).map fun i => (hostByte off size v (a + i)).getD (BitVec.ofNat 8 (old / 256 ^ i)))

/-- The cells of `n` bytes, aligned at multiples of `n`, that a host write touches. -/
def hostCells (off size n : Nat) : List Nat := (List.range (size / n + 1)).filterMap fun i => let a := (off / n + i) * n; if a < off + size then some a else none

/-- The host writes a control register (R103): it is serialised at (17, 0) with the writes of CTLWR. A register of its own step, and one the window does
not show as writable, is left. -/
def hostCtl (s : State) (slice : Nat) (pkgRW : Bool) (off size : Nat) (v : BitVec 64) : State :=
  let num := off / 8
  if 0x200 ≤ num ∨ num = 0x011 ∨ (num < 0x100 ∧ ! pkgRW) then s
  else
    let key := ctlKey num slice
    emitFrom true s .sys 0x09 hostPort hostPort 1 0 (.ctl key (BitVec.ofNat 64 (hostField off size v (8 * num) 8 (ctlHome s key).toNat)) [] ⟨hostPort, 0, 0⟩ 0)

/-- The host writes a counter block of a core (R276, R286, R288, R289). The write has a clock of its own, whose increments come after it; the selection and the
enables that it writes are in force from the clock after. (DESIGN CHOICE, log 101) -/
def hostCounter (s : State) (c off size : Nat) (v : BitVec 64) : State :=
  let s := tickBy 1 s
  let s := (hostCells off size 4).foldl (fun s a =>
    if a = 0x1C0 then
      let w := hostField off size v a 4 0
      modCore s c fun k => { k with pcctl := k.pcctl &&& ~~~(BitVec.ofNat 32 (w / 256 % 256 * 256)) }
    else s) s
  let s := (hostCells off size 4).foldl (fun s a =>
    if a < 0x50 ∧ a ≠ 0x18 then modCore s c fun k => { k with counters := tput k.counters a (BitVec.ofNat 32 (hostField off size v a 4 (tgetD k.counters a 0).toNat)) }
    else s) s
  let s := (hostCells off size 8).foldl (fun s a =>
    if 0x100 ≤ a ∧ a < 0x140 then modCore s c fun k => { k with
      pcnt := tput k.pcnt ((a - 0x100) / 8) (BitVec.ofNat 48 (hostField off size v a 8 (tgetD k.pcnt ((a - 0x100) / 8) 0).toNat)) }
    else s) s
  if off < 0x180 then s
  else (hostCells off size 4).foldl (fun s a =>
    if 0x180 ≤ a ∧ a < 0x1A0 then modCore s c fun k => { k with
      pcsel := tput k.pcsel ((a - 0x180) / 4) (BitVec.ofNat 32 (hostField off size v a 4 (tgetD k.pcsel ((a - 0x180) / 4) 0).toNat % 0x1000)) }
    else if a = 0x1C0 then
      let w := hostField off size v a 4 ((getCore s c).pcctl.toNat % 256)
      modCore s c fun k => { k with pcctl := (k.pcctl &&& 0xFF00#32) ||| BitVec.ofNat 32 (w % 256) }
    else s) (tickBy 1 s)

/-- The host writes words of a launch record (R317). -/
def hostRecord (s : State) (w : Nat × Nat) (off size : Nat) (v : BitVec 64) : State :=
  (hostCells off size 4).foldl (fun s a =>
    if a < 0x100 then
      let x := getWindow s w
      let r := (x.record ++ List.replicate 64 0).take 64
      putWindow s w { x with record := lset r (a / 4) (BitVec.ofNat 32 (hostField off size v a 4 (r.getD (a / 4) 0).toNat)) }
    else s) s

/-- The host writes the context-control page (R320): a command of a code listed there waits its turn, and BUSY shows it. -/
def hostContext (s : State) (slice off size : Nat) (v : BitVec 64) : State :=
  if off / 8 = 0 then
    let w := hostField off size v 0 8 0
    if 1 ≤ w % 8 ∧ w % 8 ≤ 5 then modSlice s slice fun x => { x with ccmd := x.ccmd ++ [BitVec.ofNat 64 w], cstat := x.cstat ||| 1#32 } else s
  else if off / 8 = 1 then modSlice s slice fun x => { x with cdesc := BitVec.ofNat 64 (hostField off size v 8 8 x.cdesc.toNat) }
  else s

/-- The host writes a slice's aperture (R316). -/
def hostSlice (s : State) (slice : Nat) (pkgRW : Bool) (off size : Nat) (v : BitVec 64) : State :=
  if off < 0x8000 then hostCtl s slice pkgRW off size v
  else if off < 0x9000 then
    (hostCells (off - 0x8000) size 4).foldl (fun s a =>
      if a < 0x14 then modSlice s slice fun x => { x with counters := tput x.counters a (BitVec.ofNat 32 (hostField (off - 0x8000) size v a 4 (tgetD x.counters a 0).toNat)) }
      else s) (tickBy 1 s)
  else if 0x10000 ≤ off ∧ off < 0x19000 then hostRecord s (slice + 1, (off - 0x10000) / 0x1000) (off % 0x1000) size v
  else if 0x20000 ≤ off ∧ off < 0x21000 then hostContext s slice (off - 0x20000) size v
  else if 0x100000 ≤ off ∧ off < 0x100000 + 576 * 0x1000 then
    let c := (off - 0x100000) / 0x1000
    if (getCore s c).slice = some slice then hostCounter s c (off % 0x1000) size v else s
  else s

/-- A slice's configuration as its 76 bytes (R319). -/
def configBytes (x : Slice) : List Byte :=
  leBytes 72 (x.newCores.foldl (fun n c => n + 2 ^ c) 0) ++ leBytes 2 x.newStacks.toNat ++ [x.newHead, x.newEnc]

/-- The host writes a slice's configuration (R319): it is applied by APPLY. -/
def hostConfig (s : State) (slice off size : Nat) (v : BitVec 64) : State :=
  modSlice s slice fun x =>
    let b := (List.range 76).map fun i => (hostByte off size v i).getD ((configBytes x).getD i 0)
    let n := leNat (b.take 72)
    { x with
      newCores := (List.range 576).filter fun c => decide (n / 2 ^ c % 2 = 1)
      newStacks := BitVec.ofNat 16 (leNat ((b.drop 72).take 2))
      newHead := b.getD 74 0 &&& 0x87#8
      newEnc := b.getD 75 0 &&& 0x87#8 }

/-- HOST_REGISTER_WRITE (R9, R103, R316): a write through BAR0 of a function (0 is PF0, k is VFk) to a register that has no step of its own; a package
kept in cold reset takes none (R322). (DESIGN CHOICE, log 40) (DEDUCED, log 36) -/
def execHostRegisterWrite (fn offset size : Nat) (value : BitVec 64) (s : State) : Host.Outcome State Fault Refusal :=
  if 8 < fn ∨ ! ([1, 2, 4, 8].contains size) ∨ offset % size ≠ 0 ∨ ! s.imageGood then .next s
  else if 1 ≤ fn then .next (if offset < 0x400000 then hostSlice s (fn - 1) false offset size value else s)
  else if offset < 0x800 then .next (hostCtl s 0 true offset size value)
  else if offset / 8 = 0x1000 then .next { s with slsel := hostField offset size value 0x8000 8 s.slsel % 8 }
  else if 0x9000 ≤ offset ∧ offset < 0xA000 then .next (hostRecord s (0, 0) (offset % 0x1000) size value)
  else if offset / 8 = 0x1401 then .next { s with wbase := hostField offset size value 0xA008 8 (s.wbase * 2 ^ 36) / 2 ^ 36 % 16 }
  else if offset / 8 = 0x1600 then
    let s := tickBy 1 s
    .next { s with
      tokGr := BitVec.ofNat 32 (hostField offset size value 0xB000 4 s.tokGr.toNat)
      tokWait := BitVec.ofNat 32 (hostField offset size value 0xB004 4 s.tokWait.toNat) }
  else if 0x10000 ≤ offset ∧ offset < 0x10800 then .next (hostConfig s ((offset - 0x10000) / 0x100) (offset % 0x100) size value)
  else if 0x400000 ≤ offset ∧ offset < 0x800000 then .next (hostSlice s (s.slsel % 8) true (offset - 0x400000) size value)
  else .next s

/-- CTL_TIMEBASE_WRITE (R85, R321): serialised at (17, 0) like any shared register; it sets s.time there, or is ignored. -/
def execCtlTimebaseWrite (value : BitVec 64) (s : State) : Host.Outcome State Fault Refusal :=
  .next (if s.imageGood then ctlSerialise s 0x011 value else s)

/-! ## Register reads -/

/-- Byte `i` of a value that the host reads. -/
def readByte (v i : Nat) : Byte := BitVec.ofNat 8 (v / 256 ^ i)

/-- The value of control register NUM as a host read shows it (R9, R105, R107, R316): WO registers, and those of cores and dies, read zero. -/
def hostCtlValue (s : State) (slice num : Nat) : Nat :=
  if num = 0x000 then (ctlRead s 0 0).toNat
  else if num = 0x004 then (ctlHome s 0x003).toNat - s.tokensUsed
  else if num ≤ 0x006 ∨ num = 0x010 ∨ (0x100 ≤ num ∧ num ≤ 0x109) ∨ (0x110 ≤ num ∧ num ≤ 0x11F) ∨ num = 0x120 then (ctlHome s (ctlKey num slice)).toNat
  else 0

/-- LSTAT (R317). -/
def lstat (x : Window) : Nat := x.sent.toNat * 2 ^ 32 + x.field.toNat * 2 ^ 8 + x.cause.toNat

/-- Byte `a` of a launch window as the host reads it (R317): the record, LSTAT. -/
def windowByte (x : Window) (a : Nat) : Byte :=
  if a < 0x100 then readByte (x.record.getD (a / 4) 0).toNat (a % 4)
  else if 0x108 ≤ a ∧ a < 0x110 then readByte (lstat x) (a - 0x108)
  else 0

/-- Byte `a` of a core's counter block as the host reads it (R286, R288, R289): counters, the gauge L2SECT, PCNT, PCSEL, PCCTL. -/
def counterByte (s : State) (c a : Nat) : Byte :=
  let k := getCore s c
  if 0x18 ≤ a ∧ a < 0x1C then readByte (l2Sectors k) (a % 4)
  else if a < 0x50 then readByte (tgetD k.counters (a / 4 * 4) 0).toNat (a % 4)
  else if 0x100 ≤ a ∧ a < 0x140 then readByte (tgetD k.pcnt ((a - 0x100) / 8) 0).toNat (a % 8)
  else if 0x180 ≤ a ∧ a < 0x1A0 then readByte (tgetD k.pcsel ((a - 0x180) / 4) 0).toNat (a % 4)
  else if 0x1C0 ≤ a ∧ a < 0x1C4 then readByte k.pcctl.toNat (a % 4)
  else 0

/-- Byte `a` of a slice's context-control page as the host reads it (R9, R320): CCMD reads zero. -/
def contextByte (x : Slice) (a : Nat) : Byte :=
  if 8 ≤ a ∧ a < 16 then readByte x.cdesc.toNat (a - 8) else if 16 ≤ a ∧ a < 20 then readByte x.cstat.toNat (a - 16) else 0

/-- Byte `a` of a slice's aperture as the host reads it (R316): descriptor images and other write-only places read zero. -/
def sliceByte (s : State) (slice a : Nat) : Byte :=
  let x := getSlice s slice
  if a < 0x8000 then readByte (hostCtlValue s slice (a / 8)) (a % 8)
  else if a < 0x9000 then (if a < 0x8014 then readByte (tgetD x.counters ((a - 0x8000) / 4 * 4) 0).toNat (a % 4) else 0)
  else if 0xC000 ≤ a ∧ a < 0x10000 then readByte (tgetD x.dones ((a - 0xC000) / 4) 0).toNat (a % 4)
  else if 0x10000 ≤ a ∧ a < 0x19000 then windowByte (getWindow s (slice + 1, (a - 0x10000) / 0x1000)) (a % 0x1000)
  else if 0x20000 ≤ a ∧ a < 0x21000 then contextByte x (a - 0x20000)
  else if 0x100000 ≤ a ∧ a < 0x100000 + 576 * 0x1000 then
    let c := (a - 0x100000) / 0x1000
    if (getCore s c).slice = some slice then counterByte s c (a % 0x1000) else 0
  else 0

/-- CTL.DIESTAT of a die (R105). -/
def dieStat (d : Nat) : Nat := (if dieIsRay d then 2 ^ 31 else 0) + d

/-- Byte `a` of PF0's BAR0 as the host reads it (R281, R316, R319, R323). -/
def packageByte (s : State) (a : Nat) : Byte :=
  if a < 0x800 then readByte (hostCtlValue s 0 (a / 8)) (a % 8)
  else if 0x1000 ≤ a ∧ a < 0x4000 then (if a % 0x800 < 8 then readByte (dieStat ((a - 0x1000) / 0x800)) (a % 8) else 0)
  else if 0x8000 ≤ a ∧ a < 0x8008 then readByte s.slsel (a - 0x8000)
  else if 0x9000 ≤ a ∧ a < 0xA000 then windowByte s.pkgWindow (a % 0x1000)
  else if 0xA000 ≤ a ∧ a < 0xA008 then readByte s.ckpt.toNat (a - 0xA000)
  else if 0xA008 ≤ a ∧ a < 0xA010 then readByte (s.wbase * 2 ^ 36) (a - 0xA008)
  else if 0xB000 ≤ a ∧ a < 0xB004 then readByte s.tokGr.toNat (a % 4)
  else if 0xB004 ≤ a ∧ a < 0xB008 then readByte s.tokWait.toNat (a % 4)
  else if 0x10000 ≤ a ∧ a < 0x10800 then (configBytes (getSlice s ((a - 0x10000) / 0x100))).getD (a % 0x100) 0
  else if 0x400000 ≤ a ∧ a < 0x800000 then sliceByte s (s.slsel % 8) (a - 0x400000)
  else 0

/-- What the host reads at an offset of BAR0 of a function (0 is PF0, k is VFk), `size` bytes (R9, R276, R316); a read changes nothing. One of another size or
alignment, or of a function above 8, reads zero. (DESIGN CHOICE, log 40) -/
def hostRead (s : State) (fn offset size : Nat) : BitVec 64 :=
  if 8 < fn ∨ ! ([1, 2, 4, 8].contains size) ∨ offset % size ≠ 0 then 0
  else BitVec.ofNat 64 (leNat ((List.range size).map fun i =>
    if fn = 0 then packageByte s (offset + i) else if offset + i < 0x400000 then sliceByte s (fn - 1) (offset + i) else 0))

/-! ## Memory from the host -/

/-- APERTURE_ACCESS (R206, R318): an access of at most 8 aligned bytes through BAR2 of a slice's function; a failing read is all ones, a failing write is
dropped, each is logged. (DESIGN CHOICE, log 39) -/
def execApertureAccess (slice offset size : Nat) (data : Option (BitVec 64)) (s : State) : Host.Outcome State Fault Refusal :=
  if 8 ≤ slice ∨ ! ([1, 2, 4, 8].contains size) ∨ offset % size ≠ 0 ∨ 2 ^ 34 ≤ offset ∨ (data.isSome ∧ ! s.imageGood) then .next s
  else
    let va := (ctlHome s (ctlKey 0x120 slice)).toNat + offset
    match translate s hostPort slice 1 (BitVec.ofNat 64 va) size (if data.isSome then .wr else .rd) true with
    | .ok _ =>
      (match data with
       | some v => .next (virtWrite s hostPort slice 1 va (leBytes size v.toNat) 0)
       | none => .next { s with hostReads := s.hostReads ++ [BitVec.ofNat 64 (leNat (virtRead s hostPort slice 1 va size).1)] })
    | _ =>
      let s := logErrorFrom true s 0x03 0x0B hostPort hostPort 0xFFFF slice (BitVec.ofNat 64 va)
      .next (if data.isSome then s else { s with hostReads := s.hostReads ++ [BitVec.ofNat 64 (2 ^ (8 * size) - 1)] })

/-- PHYSICAL_WINDOW_ACCESS (R315, R323): HBM4 of the stack that WBASE names, as its controller holds it; the only path that writes it during a
checkpoint. (DESIGN CHOICE, log 39) -/
def execPhysicalWindowAccess (offset size : Nat) (data : Option (BitVec 64)) (s : State) : Host.Outcome State Fault Refusal :=
  let pa := s.wbase % 16 * 2 ^ 36 + offset
  if ! ([1, 2, 4, 8].contains size) ∨ offset % size ≠ 0 ∨ 2 ^ 36 ≤ offset ∨ channelPaused s pa ∨ (data.isSome ∧ ! s.imageGood) then .next s
  else
    match data with
    | some v => .next { memWrite { s with ckpt := 0 } pa (leBytes size v.toNat) 0 false with ckpt := s.ckpt }
    | none => .next { s with hostReads := s.hostReads ++ [BitVec.ofNat 64 (leNat (Memory.reads s.mem pa size))] }

/-! ## Slices -/

/-- The cores of a slice take their new slice's sump binding (R242). (DEDUCED, log 72) -/
def setSumps (s : State) (cs : List Nat) : State := cs.foldl setSumpBinding s

/-- A core whose slice assignment changes (R110, R124, R132, R142, R243, R246, R248, R253, R260, R264, R265, R273): its dirty pieces are written back,
what belonged to the old slice is gone, its counters and registers stay. (DEDUCED, log 38) -/
def reassignCore (s : State) (c : Nat) (slice : Option Nat) : State :=
  modCore (l2WriteBackAll s c) c fun k => { Core.fresh with
    slice := slice, retired := k.retired, l2Failed := k.l2Failed, ctl := k.ctl, slotGen := k.slotGen, atomicId := k.atomicId, counters := k.counters,
    pcnt := k.pcnt, pcsel := k.pcsel, pcctl := k.pcctl, credits := k.credits.filter fun e => decide (some e.1.1 ≠ k.slice) }

/-- The completion counters and descriptor sets of a slice after a reassignment (R267, R280). (DEDUCED, log 37) -/
def clearSlice (s : State) (slice : Nat) : State :=
  let s := modSlice s slice fun x => { x with dones := [], tdsets := [] }
  { s with raster := s.raster.map fun e => if e.1.2 = slice then (e.1, { e.2 with sets := [] }) else e }

/-- Whether a core may leave its slice (R144, R319, R372): closed, with no team. -/
def coreEmptied (s : State) (c : Nat) : Bool := (getCore s c).closed && ! s.teams.any fun t => decide (t.1.1 = c)

/-- Whether a slice's new configuration meets another slice's (R319). -/
def configMeets (x y : Slice) : Bool :=
  x.newCores.any y.cores.contains || decide (x.newStacks &&& y.stackMask ≠ 0#16) || (x.newHead.getLsbD 7 && x.newHead == y.head) ||
    (x.newEnc.getLsbD 7 && x.newEnc == y.enc)

/-- SLICE_APPLY (R110, R319). A package whose firmware was not admitted stays in reset (R322). (DEDUCED, log 36) (DEDUCED, log 38) -/
def execSliceApply (slice : Nat) (s : State) : Host.Outcome State Fault Refusal :=
  if 8 ≤ slice ∨ ! s.imageGood then .next s
  else
    let x := getSlice s slice
    let removed := x.cores.filter fun c => ! x.newCores.contains c
    let added := x.newCores.filter fun c => ! x.cores.contains c
    if (s.slices.any fun e => decide (e.1 ≠ slice) && configMeets x e.2) || ! (removed.all (coreEmptied s)) then
      .next { s with pkgWindow := { s.pkgWindow with cause := 4, field := BitVec.ofNat 16 slice } }
    else
      let s := added.foldl (fun s c => reassignCore s c (some slice)) (removed.foldl (fun s c => reassignCore s c none) s)
      let s := modSlice s slice fun x => { x with cores := x.newCores, stackMask := x.newStacks, head := x.newHead, enc := x.newEnc }
      .next (setSumps (ctlSetAll (clearSlice s slice) (ctlKey 0x100 slice) (BitVec.ofNat 64 (x.newCores.foldl min 0x3FF))) added)

/-! ## Checkpoint -/

/-- Writes back every dirty piece of every core's L2 slice, which keeps its pieces (R323). -/
def writeBackPackage (s : State) : State :=
  s.cores.foldl (fun s e => l2Flush s e.1 (e.2.l2.flatMap fun g => g.pieces.map fun p => 32 * g.g + p.1)) s

/-- CKPT_START (R323): launches are refused from now on; once no slice has a resident context the L2 is written back and CKPT [1] is set.
(DEDUCED, log 41) -/
def execCkptStart (s : State) : Host.Outcome State Fault Refusal :=
  if s.ckpt.getLsbD 1 then .next s
  else
    let s := { s with ckpt := 1 }
    .next (if s.teams.isEmpty ∧ s.slices.all (fun e => ! e.2.tasks.any fun t => t.2.placed && ! t.2.saved && ! t.2.past) then { writeBackPackage s with ckpt := 3 } else s)

/-- CKPT_END (R323). (DEDUCED, log 41) -/
def execCkptEnd (s : State) : Host.Outcome State Fault Refusal := .next { s with ckpt := 0 }

/-! ## Resets -/

/-- The package after a reset (R10, R85, R110, R322, R324): every field at its reset value, the memory of the host and of other packages as it was; with a
refused image the firmware has set nothing. (DESIGN CHOICE, log 35) (DEDUCED, log 36) -/
def resetPackage (s : State) (imageGood : Bool) : State :=
  let far := s.mem.filter fun e => decide (2 ^ 44 ≤ e.1)
  let t := { State.reset with
    mem := (if imageGood then State.reset.mem else []) ++ far
    imageGood := imageGood, imageId := s.nextId, schedule := s.schedule, turn := s.turn, nextId := s.nextId + 1, free := s.free }
  if imageGood then t else ctlSetAll (ctlSetAll t 0x003 0) 0x006 0

/-- COLD_RESET (R324): HBM4 contents are lost. -/
def execColdReset (imageGood : Bool) (s : State) : Host.Outcome State Fault Refusal := .next (resetPackage s imageGood)

/-- WARM_RESET (R324): as cold, but HBM4 and CTL.ERRQ keep their contents. -/
def execWarmReset (imageGood : Bool) (s : State) : Host.Outcome State Fault Refusal :=
  let t := { resetPackage s imageGood with mem := s.mem, memPoison := s.memPoison, damaged := s.damaged, blockState := s.blockState }
  .next (ctlSetAll t 0x006 (ctlHome s 0x006))

/-- THERMAL_TRIP (R324): at 115 °C the package enters cold reset. -/
def execThermalTrip (imageGood : Bool) (s : State) : Host.Outcome State Fault Refusal := .next (resetPackage s imageGood)

/-- The slice that a packet of the launch path, of records or of barriers names. -/
def bodySlice : Body → Option Nat
  | .start sl _ _ _ | .codeLine sl _ _ _ | .shape sl _ _ _ | .launch sl _ _ _ _ | .work sl _ _ _ | .hit sl _ _ _ | .pixel sl _ _ _ _ _ _
  | .barArrive sl _ _ _ | .completion sl _ _ _ | .barSet sl _ _ _ _ _ _ _ | .credits sl _ _ _ | .faults sl _ => some sl
  | .matrix _ | .lease _ _ _ _ _ _ => none
  | _ => none

/-- The tokens of a core's batches. -/
def coreTokens (k : Core) : Nat := (k.parts.foldl (fun n p => n + (match p.2.batch with | some b => b.tokens | none => 0)) 0) + k.stoppedBatches.foldl (fun n b => n + b.2.tokens) 0

/-- Ends the leases and lease requests of a slice's cores in a block, with the tokens of their commands. -/
def resetBlock (s : State) (cs : List Nat) (q : Nat) : State :=
  let b := getBlock s q
  let gone := b.leases.filter fun l => cs.contains l.2.core
  let s := putBlock s q { b with
    leases := b.leases.filter fun l => ! cs.contains l.2.core
    requests := b.requests.filter fun r => ! cs.contains r.core }
  returnTokens s (gone.foldl (fun n l => n + l.2.queue.foldl (fun m c => m + c.tokens) 0) 0)

/-- SLICE_RESET (R55, R324): every context of the slice is ended, a save in progress included, the tokens of its batches and of its matrix commands return,
wherever they stand, and the slice is reassigned to itself under R319. (DEDUCED, log 37) -/
def execSliceReset (slice : Nat) (s : State) : Host.Outcome State Fault Refusal :=
  let cs := (getSlice s slice).cores
  let saved := (getSlice s slice).saved
  let held := (saved.flatMap fun v => (v.cores.flatMap fun e => e.2.entries.map fun b => entryTokens (fun _ => true) b.2) ++
    (v.leases.flatMap fun l => l.2.2.queue.map MatCmd.tokens) ++ (v.cores.flatMap fun e => e.2.batches.map fun b => b.2.tokens) ++
    v.messages.map fun p => bodyTokens (fun _ => true) p.body).sum
  let flying := (cs.flatMap fun c => (getCore s c).parts.flatMap fun p => p.2.buffer.map (entryTokens fun _ => true)).sum +
    (s.mesh.map fun p => bodyTokens (fun c => cs.contains c.f.core) p.body).sum
  let s := returnTokens s (cs.foldl (fun n c => n + coreTokens (getCore s c)) 0 + held + flying)
  let s := ((cs.map coreQuad).dedup).foldl (fun s q => resetBlock s cs q) s
  let s := { s with
    fibres := s.fibres.filter fun e => ! cs.contains e.1.core
    groups := s.groups.filter fun e => ! cs.contains e.1.1
    teams := s.teams.filter fun e => ! cs.contains e.1.1
    mesh := s.mesh.filter fun p => (bodySlice p.body ≠ some slice) && (match p.body with | .matrix c => ! cs.contains c.f.core | .lease c _ _ _ _ _ => ! cs.contains c | _ => true)
    tests := s.tests.filter fun t => ! (cs.contains t.e.core && ([4, 5, 7, 11, 12, 13].contains t.e.struct)) }
  let s := modSlice s slice fun x => { x with
    queues := [], pending := [], pendSpill := [], tasks := [], recQueues := [], saved := [], frames := [], ccmd := [], cstat := x.cstat &&& 0xFFFFFFFE#32 }
  .next (setSumps (reclaimTokens (clearSlice (cs.foldl (fun s c => reassignCore s c (some slice)) s) slice)) cs)

/-- JUNCTION_TEMPERATURE_105 (R107, R324): firmware halves CTL.TOKPOOL. -/
def execJunctionTemperature105 (s : State) : Host.Outcome State Fault Refusal :=
  .next (ctlSetAll s 0x003 (ctlStored 0x003 (fun _ => true) 0 (BitVec.ofNat 64 ((ctlHome s 0x003).toNat / 2))))

/-! ## Span ports -/

/-- Whether this package takes its time from package 0 (R85): it is another package, and a trained port leads there. -/
def followsZero (s : State) : Bool := decide (pkgNum s ≠ 0) && s.trainedPorts.any fun p => p.2 = 0

/-- SPAN_PORT_TRAINED (R85, R321): a port towards a package trains; where that is package 0 and this another, s.time is package 0's from now on. -/
def execSpanPortTrained (port package : Nat) (time : BitVec 64) (s : State) : Host.Outcome State Fault Refusal :=
  if 12 ≤ port then .next s
  else
    let s := { s with trainedPorts := (s.trainedPorts.filter fun p => decide (p.1 ≠ port)) ++ [(port, package % 16)] }
    .next (if package % 16 = 0 ∧ pkgNum s ≠ 0 then { s with time := time, timeSub := 0, timeFollows := true } else s)

/-- One lane of a remote request completes with LINKLOSS (R203, R409, R410): registers of an old value keep theirs, the status word shows the loss;
what a load's registers receive is left open. (DESIGN CHOICE, log 42) -/
def lossLane (s : State) (router : Nat) (q : LaneReq) : State :=
  if q.ll = 0 then sendAck s router q.f q.acc
  else
    let rid := q.op.retryId.getD 0
    let status := statusWord true rid
    let (n, s) := freshFree s
    let effs := match q.op.kind with
      | .load => regsEff q.op.dst ((List.range ((q.op.size + 3) / 4)).map fun i => Config.lostWord n i)
      | .reduce => regsEff q.op.dst [status]
      | _ => if q.op.stat then regsEff (q.op.dst + q.op.size / 4) (if q.op.size = 8 then [status, 0] else [status]) else []
    sendResults s 0x08 router q.f q.gen q.ll q.acc 0 effs

/-- A packet for another package that waited at a lost port is completed (R203, R321, R424). -/
def lossPacket (s : State) (router : Nat) (p : Packet) : State :=
  let s := dropPacket s p.id
  match p.body with
  | .read l | .write l | .atomic l | .reduce l => l.foldl (fun s q => lossLane s router q) s
  | .combine f gen acc ll dst cdst base pa args nres =>
    combineReply s router { f := f, gen := gen, acc := acc, ll := ll, dst := dst, cdst := cdst, base := base, pa := pa, args := args, nres := nres } true []
  | .cmbreg f gen acc ll cdst _ _ => emit s .mrsp 0x08 router f.core 1 (replyTag gen ll) (.combineDone f gen acc ll (predEff cdst false))
  | .ordered _ f _ acc _ _ => sendAck s router f acc
  | .range _ f acc _ _ => sendAck s router f acc
  | .user w => (match replyTagOf w with | some t => sendFailed s router p.src p.spkg t 0x08 | none => s)
  | _ => s

/-- SPAN_LINK_LOSS (R203, R321): a port that has been down for 10 µs completes the remote requests that go by it. -/
def execSpanLinkLoss (port : Nat) (s : State) : Host.Outcome State Fault Refusal :=
  if 12 ≤ port then .next s
  else
    let s := { s with trainedPorts := s.trainedPorts.filter fun p => decide (p.1 ≠ port) }
    let s := { s with timeFollows := s.timeFollows && followsZero s }
    .next ((s.mesh.filter fun p => decide (p.dpkg ≠ pkgNum s) && decide (p.dst = spanRouter port)).foldl (fun s p => lossPacket s (spanRouter port) p) s)

/-! ## Attestation -/

/-- Answers a request and moves the exchange on (R322): with the bytes given, then those that the manual leaves to SPDM. (PRESUMED, log 43) -/
def spdmAnswer (s : State) (request : Nat) (bytes : List Byte) (next : Spdm) : State :=
  let (n, s) := freshFree s
  { s with answers := s.answers ++ [{ request := request, bytes := bytes ++ (List.range (Config.spdmLength n)).map (Config.spdmByte n) }], spdm := next }

/-- GET_VERSION (R322): an exchange starts. (PRESUMED, log 43) -/
def execGetVersion (s : State) : Host.Outcome State Fault Refusal := .next (spdmAnswer s 0x84 [] .version)

/-- GET_CAPABILITIES (R322): after GET_VERSION. -/
def execGetCapabilities (s : State) : Host.Outcome State Fault Refusal :=
  .next (if s.spdm = .version then spdmAnswer s 0xE1 [] .capabilities else s)

/-- NEGOTIATE_ALGORITHMS (R322): after GET_CAPABILITIES; only SM2 with SM3 is agreed on. -/
def execNegotiateAlgorithms (offer : List SpdmAlg) (s : State) : Host.Outcome State Fault Refusal :=
  .next (if s.spdm = .capabilities then spdmAnswer s 0xE3 [] (if offer.contains .sm2 && offer.contains .sm3 then .negotiated else .capabilities) else s)

/-- GET_DIGESTS (R322): with algorithms agreed on, the SM3 digest of the part's certificate chain. -/
def execGetDigests (s : State) : Host.Outcome State Fault Refusal :=
  .next (if s.spdm = .negotiated then spdmAnswer s 0x81 ((List.range 32).map Config.digestByte) .negotiated else s)

/-- GET_CERTIFICATE (R322): a part of the part's certificate chain. -/
def execGetCertificate (offset length : Nat) (s : State) : Host.Outcome State Fault Refusal :=
  .next (if s.spdm = .negotiated then spdmAnswer s 0x82 (((List.range Config.certificateLength).drop offset).take length |>.map Config.certificateByte) .negotiated else s)

/-- CHALLENGE (R322): signed with the part's SM2 identity key. -/
def execChallenge (_nonce : BitVec 256) (s : State) : Host.Outcome State Fault Refusal :=
  .next (if s.spdm = .negotiated then spdmAnswer s 0x83 [] .negotiated else s)

/-- GET_MEASUREMENTS (R322): firmware image, boot ROM version, fused configuration. -/
def execGetMeasurements (index : Nat) (s : State) : Host.Outcome State Fault Refusal :=
  .next (if s.spdm = .negotiated then spdmAnswer s 0xE0 ((List.range (Config.measurementLength s.imageId index)).map (Config.measurementByte s.imageId index)) .negotiated else s)

end Sys2Proof.Machine
end

