-- ==== Sys2Proof/Machine/Integer.lean ====
section
/-!
DEFINITION. Group 1: integer and predicate operations (R374-R379). Each result is a function of the 32- or 64-bit operands; it lands
at the opcode's distance, or at the run end for the long-latency division (R340, R376). None raises a sticky flag (R157).
-/
namespace Sys2Proof.Machine

/-! ## Results -/

/-- The nearest of `x`, `lo` and `hi` (R374). -/
def clampInt (x lo hi : Int) : Int := max lo (min x hi)

/-- Clamps to a signed 32-bit value. -/
def satS32 (x : Int) : Word := BitVec.ofInt 32 (clampInt x (-2 ^ 31) (2 ^ 31 - 1))

/-- Clamps to a signed 64-bit value. -/
def satS64 (x : Int) : DWord := BitVec.ofInt 64 (clampInt x (-2 ^ 63) (2 ^ 63 - 1))

/-- IADD and its saturating forms (R374). -/
def resIadd (mod : Nat) (a b : Word) : Word :=
  if mod = 0 then a + b else if mod = 1 then satS32 (a.toInt + b.toInt) else BitVec.ofNat 32 (min (a.toNat + b.toNat) (2 ^ 32 - 1))

/-- ISUB and its saturating forms (R374). -/
def resIsub (mod : Nat) (a b : Word) : Word :=
  if mod = 0 then a - b else if mod = 1 then satS32 (a.toInt - b.toInt) else BitVec.ofNat 32 (a.toNat - b.toNat)

/-- IMUL: the low half, or the high half signed or unsigned (R374). -/
def resImul (mod : Nat) (a b : Word) : Word :=
  if mod = 0 then a * b
  else if mod = 1 then (a.signExtend 64 * b.signExtend 64).extractLsb' 32 32
  else (a.setWidth 64 * b.setWidth 64).extractLsb' 32 32

/-- IMAD and IMAD.sat (R374). -/
def resImad (mod : Nat) (a b c : Word) : Word := if mod = 0 then a * b + c else satS32 (a.toInt * b.toInt + c.toInt)

/-- IDIV: truncating; division by zero gives all ones (R376). -/
def resIdiv (mod : Nat) (a b : Word) : Word :=
  if b = 0 then 0xFFFFFFFF else if mod = 0 then BitVec.ofInt 32 (a.toInt.tdiv b.toInt) else a / b

/-- IREM: the remainder of the truncating division; by zero it is the dividend (R376). -/
def resIrem (mod : Nat) (a b : Word) : Word :=
  if b = 0 then a else if mod = 0 then BitVec.ofInt 32 (a.toInt.tmod b.toInt) else a % b

/-- IMIN (R374). -/
def resImin (mod : Nat) (a b : Word) : Word := if mod = 0 then (if a.toInt ≤ b.toInt then a else b) else (if a.toNat ≤ b.toNat then a else b)
/-- IMAX (R374). -/
def resImax (mod : Nat) (a b : Word) : Word := if mod = 0 then (if a.toInt ≤ b.toInt then b else a) else (if a.toNat ≤ b.toNat then b else a)
/-- IABS and IABS.sat (R374). -/
def resIabs (mod : Nat) (a : Word) : Word := if mod = 0 then BitVec.ofNat 32 a.toInt.natAbs else BitVec.ofNat 32 (min a.toInt.natAbs (2 ^ 31 - 1))
/-- SHL: zero from 32 upward (R374). -/
def resShl (a b : Word) : Word := if b.toNat < 32 then a <<< b.toNat else 0
/-- SHR: zero from 32 upward (R374). -/
def resShr (a b : Word) : Word := if b.toNat < 32 then a >>> b.toNat else 0
/-- SAR: the shift is at most 31 (R374). -/
def resSar (a b : Word) : Word := a.sshiftRight (min b.toNat 31)
/-- ROL (R374). -/
def resRol (a b : Word) : Word := a.rotateLeft (b.toNat % 32)

/-- The position and width that BFX and BFI read from b (R375). -/
def bfPos (b : Word) : Nat := fld b.toNat 4 0
/-- The width. -/
def bfWidth (b : Word) : Nat := min (fld b.toNat 13 8) 32

/-- BFX and BFX.s (R375). -/
def resBfx (mod : Nat) (a b : Word) : Word :=
  let w := bfWidth b
  let v := a.toNat / 2 ^ bfPos b % 2 ^ w
  if mod = 1 ∧ w ≠ 0 ∧ 2 ^ (w - 1) ≤ v then BitVec.ofInt 32 ((v : Int) - 2 ^ w) else BitVec.ofNat 32 v

/-- BFI (R375). -/
def resBfi (a b c : Word) : Word :=
  let m := BitVec.ofNat 32 ((2 ^ bfWidth b - 1) * 2 ^ bfPos b)
  (c &&& ~~~ m) ||| (BitVec.ofNat 32 (a.toNat % 2 ^ bfWidth b * 2 ^ bfPos b))

/-- POPC (R374). -/
def resPopc (a : Word) : Word := BitVec.ofNat 32 (popNat a.toNat 32)
/-- Leading zero bits among the lowest `n`. -/
def clzNat (v : Nat) : Nat → Nat
  | 0 => 0
  | n + 1 => if v / 2 ^ n % 2 = 1 then 0 else clzNat v n + 1
/-- CLZ: 32 for zero (R374). -/
def resClz (a : Word) : Word := BitVec.ofNat 32 (clzNat a.toNat 32)
/-- BREV (R374). -/
def resBrev (a : Word) : Word := a.reverse

/-- The comparison CND of ISET and ISET64 on values read as integers (R377). -/
def cndHolds (cnd : Nat) (a b : Int) : Bool :=
  match cnd with
  | 0 => decide (a = b) | 1 => decide (a ≠ b) | 2 => decide (a < b) | 3 => decide (a ≤ b) | 4 => decide (b < a) | _ => decide (b ≤ a)

/-- The combination CMB of t with c (R377). -/
def cmbWith (cmb : Nat) (t c : Bool) : Bool :=
  match cmb with
  | 1 => t && c | 2 => t || c | 3 => t != c | _ => t

/-- A truth value as a 32-bit result. -/
def bit32 (b : Bool) : Word := if b then 1 else 0

/-- ISET (R377). -/
def resIset (mod : Nat) (a b c : Word) : Word :=
  let t := if mod / 8 % 2 = 1 then cndHolds (mod % 8) a.toNat b.toNat else cndHolds (mod % 8) a.toInt b.toInt
  bit32 (cmbWith (mod / 16 % 4) t (c != 0))

/-- ISET64 (R377). -/
def resIset64 (mod : Nat) (a b : DWord) (c : Word) : Word :=
  let t := if mod / 8 % 2 = 1 then cndHolds (mod % 8) a.toNat b.toNat else cndHolds (mod % 8) a.toInt b.toInt
  bit32 (cmbWith (mod / 16 % 4) t (c != 0))

/-- PSET: bit 4·(a ≠ 0) + 2·(b ≠ 0) + (c ≠ 0) of the truth table (R378). -/
def resPset (table : BitVec 8) (a b c : Word) : Word :=
  bit32 (table.getLsbD ((if a ≠ 0 then 4 else 0) + (if b ≠ 0 then 2 else 0) + (if c ≠ 0 then 1 else 0)))

/-- HMIX (R379). -/
def resHmix (a b : Word) : Word :=
  let t := (a ^^^ b.rotateLeft 16) * 0x9E3779B1#32
  t ^^^ (t >>> 15)

/-- IADD64 and ISUB64 with their saturating forms (R374). -/
def resAdd64 (sat : Bool) (a b : DWord) : DWord := if sat then satS64 (a.toInt + b.toInt) else a + b
/-- ISUB64. -/
def resSub64 (sat : Bool) (a b : DWord) : DWord := if sat then satS64 (a.toInt - b.toInt) else a - b
/-- IMAD64: 32-bit factors read signed, or unsigned under .u (R374). -/
def resMad64 (u : Bool) (a b : Word) (c : DWord) : DWord :=
  if u then a.setWidth 64 * b.setWidth 64 + c else a.signExtend 64 * b.signExtend 64 + c
/-- LEA (R374). -/
def resLea (mod : Nat) (a : DWord) (b : Word) : DWord :=
  a + (if mod / 8 % 2 = 1 then b.setWidth 64 else b.signExtend 64) <<< (mod % 8)

/-- PMOV: the predicates that b selects take a's bits (R378). -/
def pmovEffs (a b : Word) : List Eff :=
  ((List.range 16).filter fun n => decide (n ≠ 0) && b.getLsbD n).map fun n => .pred n (a.getLsbD n)

/-! ## Shared forms -/

/-- A one-source operation. -/
def alu1 (s : State) (i : Instr) (h : Head) (o : BodyA) (dist : Nat) (f : Word → Word) : Host.Outcome State Fault Refusal :=
  perLane s i h dist fun s is l x => destEff o.d (f (srcOf s is l x o.imm o.a))

/-- A two-source operation. -/
def alu2 (s : State) (i : Instr) (h : Head) (o : BodyA) (dist : Nat) (f : Word → Word → Word) : Host.Outcome State Fault Refusal :=
  perLane s i h dist fun s is l x => destEff o.d (f (srcOf s is l x o.imm o.a) (srcOf s is l x o.imm o.b))

/-- A three-source operation. -/
def alu3 (s : State) (i : Instr) (h : Head) (o : BodyA) (dist : Nat) (f : Word → Word → Word → Word) : Host.Outcome State Fault Refusal :=
  perLane s i h dist fun s is l x => destEff o.d (f (srcOf s is l x o.imm o.a) (srcOf s is l x o.imm o.b) (srcOf s is l x o.imm o.c))

/-- A two-source long-latency operation. -/
def alu2Long (s : State) (i : Instr) (h : Head) (o : BodyA) (f : Word → Word → Word) : Host.Outcome State Fault Refusal :=
  perLaneLong s i h fun s is l x => destEff o.d (f (srcOf s is l x o.imm o.a) (srcOf s is l x o.imm o.b))

/-! ## The instructions -/

/-- IADD (R374). -/
def execIadd (h : Head) (o : BodyA) (s : State) : Host.Outcome State Fault Refusal :=
  alu2 s (.iadd h o) h o 1 (resIadd h.mod.toNat)

/-- ISUB (R374). -/
def execIsub (h : Head) (o : BodyA) (s : State) : Host.Outcome State Fault Refusal :=
  alu2 s (.isub h o) h o 1 (resIsub h.mod.toNat)

/-- IMUL (R374). -/
def execImul (h : Head) (o : BodyA) (s : State) : Host.Outcome State Fault Refusal :=
  alu2 s (.imul h o) h o 2 (resImul h.mod.toNat)

/-- IMAD (R374). -/
def execImad (h : Head) (o : BodyA) (s : State) : Host.Outcome State Fault Refusal :=
  alu3 s (.imad h o) h o 2 (resImad h.mod.toNat)

/-- IDIV (R376). -/
def execIdiv (h : Head) (o : BodyA) (s : State) : Host.Outcome State Fault Refusal :=
  alu2Long s (.idiv h o) h o (resIdiv h.mod.toNat)

/-- IREM (R376). -/
def execIrem (h : Head) (o : BodyA) (s : State) : Host.Outcome State Fault Refusal :=
  alu2Long s (.irem h o) h o (resIrem h.mod.toNat)

/-- IMIN (R374). -/
def execImin (h : Head) (o : BodyA) (s : State) : Host.Outcome State Fault Refusal :=
  alu2 s (.imin h o) h o 1 (resImin h.mod.toNat)

/-- IMAX (R374). -/
def execImax (h : Head) (o : BodyA) (s : State) : Host.Outcome State Fault Refusal :=
  alu2 s (.imax h o) h o 1 (resImax h.mod.toNat)

/-- IABS (R374). -/
def execIabs (h : Head) (o : BodyA) (s : State) : Host.Outcome State Fault Refusal :=
  alu1 s (.iabs h o) h o 1 (resIabs h.mod.toNat)

/-- AND (R374). -/
def execAnd (h : Head) (o : BodyA) (s : State) : Host.Outcome State Fault Refusal :=
  alu2 s (.and h o) h o 1 (fun a b => a &&& b)

/-- OR (R374). -/
def execOr (h : Head) (o : BodyA) (s : State) : Host.Outcome State Fault Refusal :=
  alu2 s (.or h o) h o 1 (fun a b => a ||| b)

/-- XOR (R374). -/
def execXor (h : Head) (o : BodyA) (s : State) : Host.Outcome State Fault Refusal :=
  alu2 s (.xor h o) h o 1 (fun a b => a ^^^ b)

/-- ANDN (R374). -/
def execAndn (h : Head) (o : BodyA) (s : State) : Host.Outcome State Fault Refusal :=
  alu2 s (.andn h o) h o 1 (fun a b => a &&& ~~~ b)

/-- SHL (R374). -/
def execShl (h : Head) (o : BodyA) (s : State) : Host.Outcome State Fault Refusal :=
  alu2 s (.shl h o) h o 1 resShl

/-- SHR (R374). -/
def execShr (h : Head) (o : BodyA) (s : State) : Host.Outcome State Fault Refusal :=
  alu2 s (.shr h o) h o 1 resShr

/-- SAR (R374). -/
def execSar (h : Head) (o : BodyA) (s : State) : Host.Outcome State Fault Refusal :=
  alu2 s (.sar h o) h o 1 resSar

/-- ROL (R374). -/
def execRol (h : Head) (o : BodyA) (s : State) : Host.Outcome State Fault Refusal :=
  alu2 s (.rol h o) h o 1 resRol

/-- BFX (R375). -/
def execBfx (h : Head) (o : BodyA) (s : State) : Host.Outcome State Fault Refusal :=
  alu2 s (.bfx h o) h o 1 (resBfx h.mod.toNat)

/-- BFI (R375). -/
def execBfi (h : Head) (o : BodyA) (s : State) : Host.Outcome State Fault Refusal :=
  alu3 s (.bfi h o) h o 1 resBfi

/-- POPC (R374). -/
def execPopc (h : Head) (o : BodyA) (s : State) : Host.Outcome State Fault Refusal :=
  alu1 s (.popc h o) h o 1 resPopc

/-- CLZ (R374). -/
def execClz (h : Head) (o : BodyA) (s : State) : Host.Outcome State Fault Refusal :=
  alu1 s (.clz h o) h o 1 resClz

/-- BREV (R374). -/
def execBrev (h : Head) (o : BodyA) (s : State) : Host.Outcome State Fault Refusal :=
  alu1 s (.brev h o) h o 1 resBrev

/-- ISET (R377). -/
def execIset (h : Head) (o : BodyA) (s : State) : Host.Outcome State Fault Refusal :=
  alu3 s (.iset h o) h o 1 (resIset h.mod.toNat)

/-- PSET (R378). -/
def execPset (h : Head) (o : BodyA) (s : State) : Host.Outcome State Fault Refusal :=
  alu3 s (.pset h o) h o 1 (resPset h.mod)

/-- SEL (R374). -/
def execSel (h : Head) (o : BodyA) (s : State) : Host.Outcome State Fault Refusal :=
  alu3 s (.sel h o) h o 1 (fun a b c => if c ≠ 0 then a else b)

/-- MOV (R374). -/
def execMov (h : Head) (o : BodyA) (s : State) : Host.Outcome State Fault Refusal :=
  alu1 s (.mov h o) h o 1 (fun a => a)

/-- HMIX (R379). -/
def execHmix (h : Head) (o : BodyA) (s : State) : Host.Outcome State Fault Refusal :=
  alu2 s (.hmix h o) h o 2 resHmix

/-- MOVI (R374): d := IMM. -/
def execMovi (h : Head) (o : BodyA) (s : State) : Host.Outcome State Fault Refusal :=
  perLane s (.movi h o) h 1 fun _ _ _ _ => destEff o.d o.imm

/-- MOVW (R374): the pair d := IMM64. -/
def execMovw (h : Head) (o : BodyW) (s : State) : Host.Outcome State Fault Refusal :=
  perLane s (.movw h o) h 1 fun _ _ _ _ => pairEff o.d o.imm

/-- IADD64 (R374). -/
def execIadd64 (h : Head) (o : BodyA) (s : State) : Host.Outcome State Fault Refusal :=
  perLane s (.iadd64 h o) h 2 fun _ _ _ x => pairEff o.d (resAdd64 (h.mod = 1#8) (pairSrc x o.imm o.a) (pairSrc x o.imm o.b))

/-- ISUB64 (R374). -/
def execIsub64 (h : Head) (o : BodyA) (s : State) : Host.Outcome State Fault Refusal :=
  perLane s (.isub64 h o) h 2 fun _ _ _ x => pairEff o.d (resSub64 (h.mod = 1#8) (pairSrc x o.imm o.a) (pairSrc x o.imm o.b))

/-- IMAD64 (R374). -/
def execImad64 (h : Head) (o : BodyA) (s : State) : Host.Outcome State Fault Refusal :=
  perLane s (.imad64 h o) h 3 fun s is l x =>
    pairEff o.d (resMad64 (h.mod = 1#8) (srcOf s is l x o.imm o.a) (srcOf s is l x o.imm o.b) (pairSrc x o.imm o.c))

/-- ISET64 (R377). -/
def execIset64 (h : Head) (o : BodyA) (s : State) : Host.Outcome State Fault Refusal :=
  perLane s (.iset64 h o) h 2 fun s is l x =>
    destEff o.d (resIset64 h.mod.toNat (pairSrc x o.imm o.a) (pairSrc x o.imm o.b) (srcOf s is l x o.imm o.c))

/-- LEA (R374). -/
def execLea (h : Head) (o : BodyA) (s : State) : Host.Outcome State Fault Refusal :=
  perLane s (.lea h o) h 1 fun s is l x => pairEff o.d (resLea h.mod.toNat (pairSrc x o.imm o.a) (srcOf s is l x o.imm o.b))

/-- PMOV (R378): d takes the old predicate word, then the selected predicates change. -/
def execPmov (h : Head) (o : BodyA) (s : State) : Host.Outcome State Fault Refusal :=
  perLane s (.pmov h o) h 1 fun s is l x =>
    destEff o.d (x.preds.setWidth 32 ||| 1) ++ pmovEffs (srcOf s is l x o.imm o.a) (srcOf s is l x o.imm o.b)

end Sys2Proof.Machine
end

