-- ==== Sys2Proof/Machine/Lane.lean ====
section
/-!
DEFINITION. Lane operations (R352, R362): ELECT, VOTE and SHFL read every fibre of `Activebatch` before any result is written.
-/
namespace Sys2Proof.Machine

/-- The values that source field `c` has in the active lanes, ascending. -/
def laneValues (s : State) (is : Issue) (act : List Nat) (imm : Word) (c : Code) : List (Nat × Word) :=
  act.filterMap fun l => (getFib s (is.fref l)).map fun x => (l, srcOf s is l x imm c)

/-- VOTE's result for the batch: 0 any, 1 all, 2 uni, 3 ballot (R362). -/
def resVote (mod : Nat) (vs : List (Nat × Word)) : Word :=
  match mod with
  | 0 => if vs.any fun v => v.2 != 0 then 1 else 0
  | 1 => if vs.all fun v => v.2 != 0 then 1 else 0
  | 2 => if vs.all fun v => some v.2 == (vs.head?.map Prod.snd) then 1 else 0
  | _ => BitVec.ofNat 32 (vs.foldl (fun a v => if v.2 ≠ 0 then a ||| 2 ^ v.1 else a) 0)

/-- SHFL's source lane: 0 idx, 1 up, 2 down, 3 xor; none outside the 32 lanes (R362). -/
def shflLane (mod lane : Nat) (b : Word) : Option Nat :=
  match mod with
  | 1 => if b.toNat ≤ lane then some (lane - b.toNat) else none
  | 2 => if lane + b.toNat < 32 then some (lane + b.toNat) else none
  | 3 => some (lane ^^^ (b.toNat % 32))
  | _ => some (b.toNat % 32)

/-- ELECT (R362). -/
def execElect (h : Head) (o : BodyA) (s : State) : Host.Outcome State Fault Refusal :=
  onActive s (.elect h o) h fun is act s =>
    eachLane act (fun s l => modFib s (is.fref l) fun x => addPends x 2 (destEff o.d (if some l = act.head? then 1 else 0))) s

/-- VOTE (R362). -/
def execVote (h : Head) (o : BodyA) (s : State) : Host.Outcome State Fault Refusal :=
  onActive s (.vote h o) h fun is act s =>
    let r := resVote h.mod.toNat (laneValues s is act o.imm o.a)
    eachLane act (fun s l => modFib s (is.fref l) fun x => addPends x 2 (destEff o.d r)) s

/-- SHFL (R362): a lane whose source is not in `Activebatch` takes its c. -/
def execShfl (h : Head) (o : BodyA) (s : State) : Host.Outcome State Fault Refusal :=
  onActive s (.shfl h o) h fun is act s =>
    let as := laneValues s is act o.imm o.a
    eachLane act (fun s l => modFib s (is.fref l) fun x =>
      let src := shflLane h.mod.toNat l (srcOf s is l x o.imm o.b)
      addPends x 2 (destEff o.d ((src.bind fun n => tget as n).getD (srcOf s is l x o.imm o.c)))) s

end Sys2Proof.Machine
end

