-- ==== Sys2Proof/Machine/Dispatch.lean ====
section
/-! DEFINITION. The dispatcher: one arm per constructor of Instr, each one direct call of that instruction's meaning. -/
namespace Sys2Proof.Machine

def exec (i : Instr) (s : State) : Host.Outcome State Fault Refusal :=
  match i with
  | .elect h o => Sys2Proof.Machine.execElect h o s
  | .vote h o => Sys2Proof.Machine.execVote h o s
  | .shfl h o => Sys2Proof.Machine.execShfl h o s
  | .iadd h o => Sys2Proof.Machine.execIadd h o s
  | .isub h o => Sys2Proof.Machine.execIsub h o s
  | .imul h o => Sys2Proof.Machine.execImul h o s
  | .imad h o => Sys2Proof.Machine.execImad h o s
  | .idiv h o => Sys2Proof.Machine.execIdiv h o s
  | .irem h o => Sys2Proof.Machine.execIrem h o s
  | .imin h o => Sys2Proof.Machine.execImin h o s
  | .imax h o => Sys2Proof.Machine.execImax h o s
  | .iabs h o => Sys2Proof.Machine.execIabs h o s
  | .and h o => Sys2Proof.Machine.execAnd h o s
  | .or h o => Sys2Proof.Machine.execOr h o s
  | .xor h o => Sys2Proof.Machine.execXor h o s
  | .andn h o => Sys2Proof.Machine.execAndn h o s
  | .shl h o => Sys2Proof.Machine.execShl h o s
  | .shr h o => Sys2Proof.Machine.execShr h o s
  | .sar h o => Sys2Proof.Machine.execSar h o s
  | .rol h o => Sys2Proof.Machine.execRol h o s
  | .bfx h o => Sys2Proof.Machine.execBfx h o s
  | .bfi h o => Sys2Proof.Machine.execBfi h o s
  | .popc h o => Sys2Proof.Machine.execPopc h o s
  | .clz h o => Sys2Proof.Machine.execClz h o s
  | .brev h o => Sys2Proof.Machine.execBrev h o s
  | .iset h o => Sys2Proof.Machine.execIset h o s
  | .pset h o => Sys2Proof.Machine.execPset h o s
  | .sel h o => Sys2Proof.Machine.execSel h o s
  | .mov h o => Sys2Proof.Machine.execMov h o s
  | .movi h o => Sys2Proof.Machine.execMovi h o s
  | .iadd64 h o => Sys2Proof.Machine.execIadd64 h o s
  | .isub64 h o => Sys2Proof.Machine.execIsub64 h o s
  | .imad64 h o => Sys2Proof.Machine.execImad64 h o s
  | .iset64 h o => Sys2Proof.Machine.execIset64 h o s
  | .lea h o => Sys2Proof.Machine.execLea h o s
  | .pmov h o => Sys2Proof.Machine.execPmov h o s
  | .hmix h o => Sys2Proof.Machine.execHmix h o s
  | .fadd h o => Sys2Proof.Machine.execFadd h o s
  | .fsub h o => Sys2Proof.Machine.execFsub h o s
  | .fmul h o => Sys2Proof.Machine.execFmul h o s
  | .ffma h o => Sys2Proof.Machine.execFfma h o s
  | .fmin h o => Sys2Proof.Machine.execFmin h o s
  | .fmax h o => Sys2Proof.Machine.execFmax h o s
  | .fset h o => Sys2Proof.Machine.execFset h o s
  | .fclass h o => Sys2Proof.Machine.execFclass h o s
  | .frcp h o => Sys2Proof.Machine.execFrcp h o s
  | .frsq h o => Sys2Proof.Machine.execFrsq h o s
  | .fsqrt h o => Sys2Proof.Machine.execFsqrt h o s
  | .fdiv h o => Sys2Proof.Machine.execFdiv h o s
  | .fex2 h o => Sys2Proof.Machine.execFex2 h o s
  | .flg2 h o => Sys2Proof.Machine.execFlg2 h o s
  | .fsin h o => Sys2Proof.Machine.execFsin h o s
  | .fcos h o => Sys2Proof.Machine.execFcos h o s
  | .ftanh h o => Sys2Proof.Machine.execFtanh h o s
  | .fsigm h o => Sys2Proof.Machine.execFsigm h o s
  | .dadd h o => Sys2Proof.Machine.execDadd h o s
  | .dmul h o => Sys2Proof.Machine.execDmul h o s
  | .dfma h o => Sys2Proof.Machine.execDfma h o s
  | .pkfma h o => Sys2Proof.Machine.execPkfma h o s
  | .pkadd h o => Sys2Proof.Machine.execPkadd h o s
  | .pkmul h o => Sys2Proof.Machine.execPkmul h o s
  | .dot4 h o => Sys2Proof.Machine.execDot4 h o s
  | .dot8 h o => Sys2Proof.Machine.execDot8 h o s
  | .bred h o => Sys2Proof.Machine.execBred h o s
  | .cvt h o => Sys2Proof.Machine.execCvt h o s
  | .cvtn h o => Sys2Proof.Machine.execCvtn h o s
  | .cvtw h o => Sys2Proof.Machine.execCvtw h o s
  | .tblld h o => Sys2Proof.Machine.execTblld h o s
  | .i4tx h o => Sys2Proof.Machine.execI4tx h o s
  | .q4x h o => Sys2Proof.Machine.execQ4x h o s
  | .qscl h o => Sys2Proof.Machine.execQscl h o s
  | .pack h o => Sys2Proof.Machine.execPack h o s
  | .unpk h o => Sys2Proof.Machine.execUnpk h o s
  | .frnd h o => Sys2Proof.Machine.execFrnd h o s
  | .movw h o => Sys2Proof.Machine.execMovw h o s
  | .bra h o => Sys2Proof.Machine.execBra h o s
  | .brx h o => Sys2Proof.Machine.execBrx h o s
  | .call h o => Sys2Proof.Machine.execCall h o s
  | .callx h o => Sys2Proof.Machine.execCallx h o s
  | .ret h o => Sys2Proof.Machine.execRet h o s
  | .spawn h o => Sys2Proof.Machine.execSpawn h o s
  | .nop h o => Sys2Proof.Machine.execNop h o s
  | .fend h o => Sys2Proof.Machine.execFend h o s
  | .fwait h o => Sys2Proof.Machine.execFwait h o s
  | .park h o => Sys2Proof.Machine.execPark h o s
  | .wake h o => Sys2Proof.Machine.execWake h o s
  | .wakeGrp h o => Sys2Proof.Machine.execWakeGrp h o s
  | .regclm h o => Sys2Proof.Machine.execRegclm h o s
  | .regrel h o => Sys2Proof.Machine.execRegrel h o s
  | .fmtp h o => Sys2Proof.Machine.execFmtp h o s
  | .trap h o => Sys2Proof.Machine.execTrap h o s
  | .tret h o => Sys2Proof.Machine.execTret h o s
  | .bkpt h o => Sys2Proof.Machine.execBkpt h o s
  | .movs h o => Sys2Proof.Machine.execMovs h o s
  | .movsW h o => Sys2Proof.Machine.execMovsW h o s
  | .ctlrd h o => Sys2Proof.Machine.execCtlrd h o s
  | .ctlwr h o => Sys2Proof.Machine.execCtlwr h o s
  | .launch h o => Sys2Proof.Machine.execLaunch h o s
  | .quiesce h o => Sys2Proof.Machine.execQuiesce h o s
  | .quiesceOpen h o => Sys2Proof.Machine.execQuiesceOpen h o s
  | .sigmark h o => Sys2Proof.Machine.execSigmark h o s
  | .basin h o => Sys2Proof.Machine.execBasin h o s
  | .basinAll h o => Sys2Proof.Machine.execBasinAll h o s
  | .basinOwn h o => Sys2Proof.Machine.execBasinOwn h o s
  | .rate h o => Sys2Proof.Machine.execRate h o s
  | .discard h o => Sys2Proof.Machine.execDiscard h o s
  | .ld h o => Sys2Proof.Machine.execLd h o s
  | .st h o => Sys2Proof.Machine.execSt h o s
  | .ldc h o => Sys2Proof.Machine.execLdc h o s
  | .stc h o => Sys2Proof.Machine.execStc h o s
  | .lda h o => Sys2Proof.Machine.execLda h o s
  | .sta h o => Sys2Proof.Machine.execSta h o s
  | .pref h o => Sys2Proof.Machine.execPref h o s
  | .flush h o => Sys2Proof.Machine.execFlush h o s
  | .invl h o => Sys2Proof.Machine.execInvl h o s
  | .pin h o => Sys2Proof.Machine.execPin h o s
  | .unpin h o => Sys2Proof.Machine.execUnpin h o s
  | .extq h o => Sys2Proof.Machine.execExtq h o s
  | .migr h o => Sys2Proof.Machine.execMigr h o s
  | .atom h o => Sys2Proof.Machine.execAtom h o s
  | .red h o => Sys2Proof.Machine.execRed h o s
  | .blend h o => Sys2Proof.Machine.execBlend h o s
  | .fence h o => Sys2Proof.Machine.execFence h o s
  | .fencep h o => Sys2Proof.Machine.execFencep h o s
  | .combine h o => Sys2Proof.Machine.execCombine h o s
  | .cmbreg h o => Sys2Proof.Machine.execCmbreg h o s
  | .osent h o => Sys2Proof.Machine.execOsent h o s
  | .osleave h o => Sys2Proof.Machine.execOsleave h o s
  | .osskip h o => Sys2Proof.Machine.execOsskip h o s
  | .barinit h o => Sys2Proof.Machine.execBarinit h o s
  | .bararv h o => Sys2Proof.Machine.execBararv h o s
  | .barwt h o => Sys2Proof.Machine.execBarwt h o s
  | .baraw h o => Sys2Proof.Machine.execBaraw h o s
  | .send h o => Sys2Proof.Machine.execSend h o s
  | .sendr h o => Sys2Proof.Machine.execSendr h o s
  | .hbind h o => Sys2Proof.Machine.execHbind h o s
  | .hunbind h o => Sys2Proof.Machine.execHunbind h o s
  | .cmask h o => Sys2Proof.Machine.execCmask h o s
  | .hend h o => Sys2Proof.Machine.execHend h o s
  | .mbox h o => Sys2Proof.Machine.execMbox h o s
  | .mboxRp h o => Sys2Proof.Machine.execMboxRp h o s
  | .emit h o => Sys2Proof.Machine.execEmit h o s
  | .ndone h o => Sys2Proof.Machine.execNdone h o s
  | .reply h o => Sys2Proof.Machine.execReply h o s
  | .raysend h o => Sys2Proof.Machine.execRaysend h o s
  | .raysendLocal h o => Sys2Proof.Machine.execRaysendLocal h o s
  | .hitput h o => Sys2Proof.Machine.execHitput h o s
  | .cpy h o => Sys2Proof.Machine.execCpy h o s
  | .cpyw h o => Sys2Proof.Machine.execCpyw h o s
  | .gath h o => Sys2Proof.Machine.execGath h o s
  | .mlease h o => Sys2Proof.Machine.execMlease h o s
  | .mrel h o => Sys2Proof.Machine.execMrel h o s
  | .mma h o => Sys2Proof.Machine.execMma h o s
  | .mmas h o => Sys2Proof.Machine.execMmas h o s
  | .mzero h o => Sys2Proof.Machine.execMzero h o s
  | .mepi h o => Sys2Proof.Machine.execMepi h o s
  | .mldacc h o => Sys2Proof.Machine.execMldacc h o s
  | .ringset h o => Sys2Proof.Machine.execRingset h o s
  | .ringadv h o => Sys2Proof.Machine.execRingadv h o s
  | .ringq h o => Sys2Proof.Machine.execRingq h o s
  | .mwait h o => Sys2Proof.Machine.execMwait h o s
  | .infer h o => Sys2Proof.Machine.execInfer h o s
  | .trv h o => Sys2Proof.Machine.execTrv h o s
  | .tload h o => Sys2Proof.Machine.execTload h o s
  | .tloadTds h o => Sys2Proof.Machine.execTloadTds h o s
  | .tloadRds h o => Sys2Proof.Machine.execTloadRds h o s
  | .town h o => Sys2Proof.Machine.execTown h o s
  | .pump h o => Sys2Proof.Machine.execPump h o s
  | .pumpw h o => Sys2Proof.Machine.execPumpw h o s
  | .encq h o => Sys2Proof.Machine.execEncq h o s
  | .batchForm core part => Sys2Proof.Machine.execBatchForm core part s
  | .issueBufferAccept core part n => Sys2Proof.Machine.execIssueBufferAccept core part n s
  | .longLatencyResult id => Sys2Proof.Machine.execLongLatencyResult id s
  | .tokenGrant => Sys2Proof.Machine.execTokenGrant s
  | .claimGrant core => Sys2Proof.Machine.execClaimGrant core s
  | .launchDoorbell fn window => Sys2Proof.Machine.execLaunchDoorbell fn window s
  | .launchMessage id => Sys2Proof.Machine.execLaunchMessage id s
  | .launchPlacement slice => Sys2Proof.Machine.execLaunchPlacement slice s
  | .codeLine id => Sys2Proof.Machine.execCodeLine id s
  | .shapeStore id => Sys2Proof.Machine.execShapeStore id s
  | .startMessage id => Sys2Proof.Machine.execStartMessage id s
  | .gridEnd slice task => Sys2Proof.Machine.execGridEnd slice task s
  | .workGraphRecord id => Sys2Proof.Machine.execWorkGraphRecord id s
  | .userMessage id => Sys2Proof.Machine.execUserMessage id s
  | .handlerGroupForm core binding => Sys2Proof.Machine.execHandlerGroupForm core binding s
  | .loopbackTransfer core => Sys2Proof.Machine.execLoopbackTransfer core s
  | .sendQueueInject core n => Sys2Proof.Machine.execSendQueueInject core n s
  | .packetHop id => Sys2Proof.Machine.execPacketHop id s
  | .readRequest id => Sys2Proof.Machine.execReadRequest id s
  | .writeRequest id => Sys2Proof.Machine.execWriteRequest id s
  | .l2FillComplete core piece => Sys2Proof.Machine.execL2FillComplete core piece s
  | .atomicRequest id => Sys2Proof.Machine.execAtomicRequest id s
  | .reductionRequest id => Sys2Proof.Machine.execReductionRequest id s
  | .rangeRequest id => Sys2Proof.Machine.execRangeRequest id s
  | .writeAcknowledgement id => Sys2Proof.Machine.execWriteAcknowledgement id s
  | .tlbWalkComplete core n => Sys2Proof.Machine.execTlbWalkComplete core n s
  | .fetchParityError core line => Sys2Proof.Machine.execFetchParityError core line s
  | .codeRefetchComplete core line good => Sys2Proof.Machine.execCodeRefetchComplete core line good s
  | .combineRequest id => Sys2Proof.Machine.execCombineRequest id s
  | .combinerWaveClose core n => Sys2Proof.Machine.execCombinerWaveClose core n s
  | .combinerWaveStart core n => Sys2Proof.Machine.execCombinerWaveStart core n s
  | .sectionRequest id => Sys2Proof.Machine.execSectionRequest id s
  | .sectionGrant id => Sys2Proof.Machine.execSectionGrant id s
  | .sectionTimeoutProbe core n => Sys2Proof.Machine.execSectionTimeoutProbe core n s
  | .sectionDeadlockProbe id => Sys2Proof.Machine.execSectionDeadlockProbe id s
  | .sectionWaitWithdrawal id => Sys2Proof.Machine.execSectionWaitWithdrawal id s
  | .barrierArrivalPacket id => Sys2Proof.Machine.execBarrierArrivalPacket id s
  | .barrierCompletion id => Sys2Proof.Machine.execBarrierCompletion id s
  | .barrierWaitTimeout core slot lane => Sys2Proof.Machine.execBarrierWaitTimeout core slot lane s
  | .parkTimeout core slot lane => Sys2Proof.Machine.execParkTimeout core slot lane s
  | .teamWatchdogExpiry core team => Sys2Proof.Machine.execTeamWatchdogExpiry core team s
  | .matrixWatchdogExpiry block slot => Sys2Proof.Machine.execMatrixWatchdogExpiry block slot s
  | .leaseRequest id => Sys2Proof.Machine.execLeaseRequest id s
  | .leaseGrant block => Sys2Proof.Machine.execLeaseGrant block s
  | .matrixCommand id => Sys2Proof.Machine.execMatrixCommand id s
  | .matrixTileStep block => Sys2Proof.Machine.execMatrixTileStep block s
  | .engineCompletion id => Sys2Proof.Machine.execEngineCompletion id s
  | .copyCommandRun core => Sys2Proof.Machine.execCopyCommandRun core s
  | .rayMessage id => Sys2Proof.Machine.execRayMessage id s
  | .traversalNodeVisit core n => Sys2Proof.Machine.execTraversalNodeVisit core n s
  | .hitRecord id => Sys2Proof.Machine.execHitRecord id s
  | .ringToBasinMove core n => Sys2Proof.Machine.execRingToBasinMove core n s
  | .basinBinTimeout core bin => Sys2Proof.Machine.execBasinBinTimeout core bin s
  | .shadingWaveForm core bin => Sys2Proof.Machine.execShadingWaveForm core bin s
  | .creditBatchTake core slice task queue => Sys2Proof.Machine.execCreditBatchTake core slice task queue s
  | .creditIdleReturn core slice task queue => Sys2Proof.Machine.execCreditIdleReturn core slice task queue s
  | .treeletTransfer id => Sys2Proof.Machine.execTreeletTransfer id s
  | .pumpCommand id => Sys2Proof.Machine.execPumpCommand id s
  | .pumpCommandStart stack n => Sys2Proof.Machine.execPumpCommandStart stack n s
  | .pumpCommandComplete stack n => Sys2Proof.Machine.execPumpCommandComplete stack n s
  | .pumpReadError stack pa => Sys2Proof.Machine.execPumpReadError stack pa s
  | .pumpInvalidation id => Sys2Proof.Machine.execPumpInvalidation id s
  | .invalidationAcknowledgement id => Sys2Proof.Machine.execInvalidationAcknowledgement id s
  | .migrationControl id => Sys2Proof.Machine.execMigrationControl id s
  | .migrationBlock id => Sys2Proof.Machine.execMigrationBlock id s
  | .migrationPassEnd slice => Sys2Proof.Machine.execMigrationPassEnd slice s
  | .faultBatch id => Sys2Proof.Machine.execFaultBatch id s
  | .faultServiceActivation core => Sys2Proof.Machine.execFaultServiceActivation core s
  | .faultReply id => Sys2Proof.Machine.execFaultReply id s
  | .shootDown id => Sys2Proof.Machine.execShootDown id s
  | .shootDownProcess core => Sys2Proof.Machine.execShootDownProcess core s
  | .shootDownAcknowledgement id => Sys2Proof.Machine.execShootDownAcknowledgement id s
  | .controlRegisterBroadcast id core => Sys2Proof.Machine.execControlRegisterBroadcast id core s
  | .promotionRequest id => Sys2Proof.Machine.execPromotionRequest id s
  | .promotionAcknowledgement id => Sys2Proof.Machine.execPromotionAcknowledgement id s
  | .errorLogEntry id => Sys2Proof.Machine.execErrorLogEntry id s
  | .replayFilterExpiry core n => Sys2Proof.Machine.execReplayFilterExpiry core n s
  | .errorDetected e => Sys2Proof.Machine.execErrorDetected e s
  | .selfTestStart n => Sys2Proof.Machine.execSelfTestStart n s
  | .selfTestComplete n r => Sys2Proof.Machine.execSelfTestComplete n r s
  | .hbmParityAlert stack channel replayed => Sys2Proof.Machine.execHbmParityAlert stack channel replayed s
  | .laneRepair stack channel pin => Sys2Proof.Machine.execLaneRepair stack channel pin s
  | .ccmdPreempt slice => Sys2Proof.Machine.execCcmdPreempt slice s
  | .preemptionSaveComplete slice => Sys2Proof.Machine.execPreemptionSaveComplete slice s
  | .ccmdResume slice => Sys2Proof.Machine.execCcmdResume slice s
  | .ccmdDebugStop slice => Sys2Proof.Machine.execCcmdDebugStop slice s
  | .ccmdDebugResume slice => Sys2Proof.Machine.execCcmdDebugResume slice s
  | .ccmdSingleStep slice => Sys2Proof.Machine.execCcmdSingleStep slice s
  | .debuggerStateWrite w => Sys2Proof.Machine.execDebuggerStateWrite w s
  | .hostRegisterWrite fn offset size value => Sys2Proof.Machine.execHostRegisterWrite fn offset size value s
  | .ctlTimebaseWrite value => Sys2Proof.Machine.execCtlTimebaseWrite value s
  | .completionCounterWrite slice index value => Sys2Proof.Machine.execCompletionCounterWrite slice index value s
  | .descriptorImageWrite slice offset image => Sys2Proof.Machine.execDescriptorImageWrite slice offset image s
  | .apertureAccess slice offset size data => Sys2Proof.Machine.execApertureAccess slice offset size data s
  | .sliceApply slice => Sys2Proof.Machine.execSliceApply slice s
  | .ckptStart => Sys2Proof.Machine.execCkptStart s
  | .ckptEnd => Sys2Proof.Machine.execCkptEnd s
  | .encoderFrameComplete encoder => Sys2Proof.Machine.execEncoderFrameComplete encoder s
  | .coldReset imageGood => Sys2Proof.Machine.execColdReset imageGood s
  | .warmReset imageGood => Sys2Proof.Machine.execWarmReset imageGood s
  | .sliceReset slice => Sys2Proof.Machine.execSliceReset slice s
  | .junctionTemperature105 => Sys2Proof.Machine.execJunctionTemperature105 s
  | .thermalTrip imageGood => Sys2Proof.Machine.execThermalTrip imageGood s
  | .spanPortTrained port package time => Sys2Proof.Machine.execSpanPortTrained port package time s
  | .spanLinkLoss port => Sys2Proof.Machine.execSpanLinkLoss port s
  | .getVersion => Sys2Proof.Machine.execGetVersion s
  | .getCapabilities => Sys2Proof.Machine.execGetCapabilities s
  | .negotiateAlgorithms offer => Sys2Proof.Machine.execNegotiateAlgorithms offer s
  | .getDigests => Sys2Proof.Machine.execGetDigests s
  | .getCertificate offset length => Sys2Proof.Machine.execGetCertificate offset length s
  | .challenge nonce => Sys2Proof.Machine.execChallenge nonce s
  | .getMeasurements index => Sys2Proof.Machine.execGetMeasurements index s
  | .quiesceTimeout core slot lane => Sys2Proof.Machine.execQuiesceTimeout core slot lane s
  | .laneRepairComplete stack channel => Sys2Proof.Machine.execLaneRepairComplete stack channel s
  | .debuggerAttach slice => Sys2Proof.Machine.execDebuggerAttach slice s
  | .debuggerDetach slice => Sys2Proof.Machine.execDebuggerDetach slice s
  | .physicalWindowAccess offset size data => Sys2Proof.Machine.execPhysicalWindowAccess offset size data s
  | .creditReturn id => Sys2Proof.Machine.execCreditReturn id s
  | .teamEnd core team => Sys2Proof.Machine.execTeamEnd core team s
  | .draw d => Sys2Proof.Machine.execDraw d s

end Sys2Proof.Machine
end

