-- ==== Sys2Proof/Machine/Step.lean ====
section
/-!
DEFINITION. One step of the package: the clock moves, then either the partition whose turn it is executes its batch's next
instruction (or forms a batch), or the device takes one of its own whole steps; then results that have all come are written.
`State.withFetchWord` places one instruction so that the very next step executes it.
-/
namespace Sys2Proof.Machine

/-- Physical memory and the cisterns in canonical form, so that equal memories are equal data; no byte reads differently. -/
def canonState (s : State) : State :=
  { s with mem := Memory.canon s.mem, cores := s.cores.map fun e => (e.1, { e.2 with cistern := Memory.canon e.2.cistern }) }

/-- The part of a step that follows what it executed: results that have come are written, the fault records of the step are sent, memory is in
canonical form. -/
def finish : Host.Outcome State Fault Refusal → Host.Outcome State Fault Refusal
  | .next s => .next (canonState (flushFaults (settleStep s)))
  | .fault r => .fault r
  | .refused r => .refused r

/-- After the instruction `i` of a partition's batch: the checker, packet end and run end. -/
def afterInstr (core part : Nat) (i : Instr) (raw : Bits96) : Host.Outcome State Fault Refusal → Host.Outcome State Fault Refusal
  | .next s => .next (advance s core part i raw)
  | .fault r => .fault r
  | .refused r => .refused r

/-- The partition `s.turn` issues: its batch's next instruction, after the checks before it; with no batch it forms one. -/
def issueStep (s : State) : Host.Outcome State Fault Refusal :=
  match (getPart s s.turn.1 s.turn.2).batch with
  | none => exec (.batchForm s.turn.1 s.turn.2) s
  | some b =>
    if b.lanes.isEmpty then .next (dropBatch s s.turn.1 s.turn.2)
    else if partPaused s s.turn.1 s.turn.2 ∧ ¬ (getCore s s.turn.1).retired then .next s
    else if batchStopped s s.turn.1 b ∧ ¬ (getPart s s.turn.1 s.turn.2).single then .next (setAside s s.turn.1 s.turn.2 b)
    else
      let s := modPart s s.turn.1 s.turn.2 fun p => { p with single := false }
      match prepare s s.turn.1 s.turn.2 b with
      | (s', none) => .next s'
      | (s', some i) => afterInstr s.turn.1 s.turn.2 i (rawInstr (getCore s s.turn.1) b.pc) (exec i (sigTrap s' (exec i s')))

/-- One step. The schedule says whose turn it is; when it is empty, `autoTurn` does. (DESIGN CHOICE, log 3) -/
def step (s : State) : Host.Outcome State Fault Refusal :=
  match takeTurn (tick s) with
  | (.issue c p, s') => finish (issueStep { s' with turn := (c, p) })
  | (.device e, s') => finish (exec e s')

/-- `s` with the instruction whose bits are `w` in slot 0 of line 0 of a core's code store, a one-fibre team at package privilege
standing at it in the partition whose turn is next: what a launch leaves (R61-R65), with the batch formed. (DESIGN CHOICE, log 6) -/
def State.withFetchWord (s : State) (nbits w : Nat) : State := placeWord s (BitVec.ofNat 96 (w % 2 ^ nbits))

end Sys2Proof.Machine
end

