-- ==== Sys2Proof/Safety.lean ====
section
/-!
DEFINITION. What counts as a safe run, in the terms statements use: a step that answers a next state, a run none of whose steps
stops, and a property that every step keeps. A trap, a dead core, an error-log record and a fault reply are next states: the
specification describes what each leaves (R290-R308), so a run goes on through them.
-/
namespace Sys2Proof

open Machine

/-- The machine answers a next state from `s`. -/
def StepsOn (s : State) : Prop := ∃ t, step s = .next t

/-- `k` steps from `s` all answer a next state. -/
def SafeRun (k : Nat) (s : State) : Prop := ∃ t, core.run k s = .next t

/-- Every step that answers a next state keeps `P`. -/
def KeptByStep (P : State → Prop) : Prop := ∀ s t : State, P s → step s = .next t → P t

/-- The byte map of every cistern and of physical memory is in canonical form, so equal memories are equal data. -/
def CanonicalMemories (s : State) : Prop := Memory.wf s.mem = true ∧ ∀ e ∈ s.cores, Memory.wf e.2.cistern = true

/-- An instruction with head `h`, naming the register operands `ops`, issues: the partition whose turn it is has the batch `is`, none
of whose fibres has a prefix pending; `act`, its lanes whose guard holds, in ascending order, is not empty; every register it names
exists. Under these conditions an instruction has its own effect (R76, R82, R89, R338). -/
structure Issues (s : State) (h : Head) (ops : Named) (is : Issue) (act : List Nat) : Prop where
  batch : issuing s = some is
  distinct : is.lanes.Nodup
  unprefixed : lanesWhere s is fsrPP = []
  active : lanesWhere s is (guardOf h) = act
  someLane : act ≠ []
  inRange : outOfRange (allotOf s (is.fref 0)) ops = none

/-- What one active lane of an instruction does in the state the lanes below it have left: its effect, or the exception it takes, in that state
or in one it has made of it; `other` where the statement at hand says nothing. -/
inductive LaneAct where
  | does (t : State)
  | traps (t : TrapInfo)
  | trapsIn (u : State) (t : TrapInfo)
  | other
  deriving DecidableEq, Repr

/-- The state `t` is what the lane `l` makes of `s`. -/
def LaneAct.Makes (a : LaneAct) (is : Issue) (l : Nat) (s t : State) : Prop :=
  match a with
  | .does u => t = u
  | .traps e => t = takeTrap s (is.fref l) is.pc e
  | .trapsIn u e => t = takeTrap u (is.fref l) is.pc e
  | .other => True

/-- The instructions that stand in the issue buffer for a signal alone: they change nothing when the entry is accepted (R53). -/
def signals : Instr → Bool
  | .fwait _ _ | .mwait _ _ | .pumpw _ _ | .fence _ _ | .fencep _ _ | .extq _ _ | .hbind _ _ | .hunbind _ _ | .cmask _ _ | .mbox _ _
  | .bararv _ _ | .barwt _ _ | .baraw _ _ | .quiesce _ _ => true
  | .ctlwr _ o => isCoreReg (o.imm.toNat % 0x1000)
  | _ => false

/-- The state after an instruction whose own effect leaves `t`: with its signal entry in the issue buffer, where it has one (R53); that of HEND,
whose fibres have ended, nobody waits for. -/
def entered (i : Instr) (is : Issue) (act : List Nat) (t : State) : State :=
  match i with
  | .hend _ _ => bufAdd { t with nextId := t.nextId + 1 } is.core is.part
      { entry := t.nextId + 1, f := is.fref (act.headD 0), pc := is.pc, acc := 0, cmd := .signal }
  | i => if signals i then signalEntry t is act else t

/-- The instruction answers a next state in which its active lanes have acted one after the other, in ascending order, each as `eff`
says, and its signal entry stands in the issue buffer; `pre` is what the instruction does once before its lanes. `eff` is given the state at issue, the batch, the state that the lanes
below have left, the lane and its fibre there. -/
def ActsByLane (i : Instr) (h : Head) (ops : Named) (pre : State → State)
    (eff : State → Issue → State → Nat → Fibre → LaneAct) : Prop :=
  ∀ (s : State) (is : Issue) (act : List Nat), Issues s h ops is act →
    ∃ lane : State → Nat → State, exec i s = .next (entered i is act (eachLane act lane (pre s))) ∧
      ∀ (s' : State) (l : Nat) (x : Fibre), getFib s' (is.fref l) = some x → (eff s is s' l x).Makes is l s' (lane s' l)

end Sys2Proof
end

