-- ==== Sys2Proof/WellFormed.lean ====
section
/-!
DEFINITION. Well-formed instructions: an encoding that passes checks 5 to 8 of R338; a device step whose parameters name things the package
has (R18-R24, R36, R45, R241, R314-R319).
-/
namespace Sys2Proof

/-- Whether the parameters of a device step name things the package has; an instruction has none. (DEDUCED, log 5) -/
def Instr.stepOk : Instr → Bool
  | .elect _ _ => true
  | .vote _ _ => true
  | .shfl _ _ => true
  | .iadd _ _ => true
  | .isub _ _ => true
  | .imul _ _ => true
  | .imad _ _ => true
  | .idiv _ _ => true
  | .irem _ _ => true
  | .imin _ _ => true
  | .imax _ _ => true
  | .iabs _ _ => true
  | .and _ _ => true
  | .or _ _ => true
  | .xor _ _ => true
  | .andn _ _ => true
  | .shl _ _ => true
  | .shr _ _ => true
  | .sar _ _ => true
  | .rol _ _ => true
  | .bfx _ _ => true
  | .bfi _ _ => true
  | .popc _ _ => true
  | .clz _ _ => true
  | .brev _ _ => true
  | .iset _ _ => true
  | .pset _ _ => true
  | .sel _ _ => true
  | .mov _ _ => true
  | .movi _ _ => true
  | .iadd64 _ _ => true
  | .isub64 _ _ => true
  | .imad64 _ _ => true
  | .iset64 _ _ => true
  | .lea _ _ => true
  | .pmov _ _ => true
  | .hmix _ _ => true
  | .fadd _ _ => true
  | .fsub _ _ => true
  | .fmul _ _ => true
  | .ffma _ _ => true
  | .fmin _ _ => true
  | .fmax _ _ => true
  | .fset _ _ => true
  | .fclass _ _ => true
  | .frcp _ _ => true
  | .frsq _ _ => true
  | .fsqrt _ _ => true
  | .fdiv _ _ => true
  | .fex2 _ _ => true
  | .flg2 _ _ => true
  | .fsin _ _ => true
  | .fcos _ _ => true
  | .ftanh _ _ => true
  | .fsigm _ _ => true
  | .dadd _ _ => true
  | .dmul _ _ => true
  | .dfma _ _ => true
  | .pkfma _ _ => true
  | .pkadd _ _ => true
  | .pkmul _ _ => true
  | .dot4 _ _ => true
  | .dot8 _ _ => true
  | .bred _ _ => true
  | .cvt _ _ => true
  | .cvtn _ _ => true
  | .cvtw _ _ => true
  | .tblld _ _ => true
  | .i4tx _ _ => true
  | .q4x _ _ => true
  | .qscl _ _ => true
  | .pack _ _ => true
  | .unpk _ _ => true
  | .frnd _ _ => true
  | .movw _ _ => true
  | .bra _ _ => true
  | .brx _ _ => true
  | .call _ _ => true
  | .callx _ _ => true
  | .ret _ _ => true
  | .spawn _ _ => true
  | .nop _ _ => true
  | .fend _ _ => true
  | .fwait _ _ => true
  | .park _ _ => true
  | .wake _ _ => true
  | .wakeGrp _ _ => true
  | .regclm _ _ => true
  | .regrel _ _ => true
  | .fmtp _ _ => true
  | .trap _ _ => true
  | .tret _ _ => true
  | .bkpt _ _ => true
  | .movs _ _ => true
  | .movsW _ _ => true
  | .ctlrd _ _ => true
  | .ctlwr _ _ => true
  | .launch _ _ => true
  | .quiesce _ _ => true
  | .quiesceOpen _ _ => true
  | .sigmark _ _ => true
  | .basin _ _ => true
  | .basinAll _ _ => true
  | .basinOwn _ _ => true
  | .rate _ _ => true
  | .discard _ _ => true
  | .ld _ _ => true
  | .st _ _ => true
  | .ldc _ _ => true
  | .stc _ _ => true
  | .lda _ _ => true
  | .sta _ _ => true
  | .pref _ _ => true
  | .flush _ _ => true
  | .invl _ _ => true
  | .pin _ _ => true
  | .unpin _ _ => true
  | .extq _ _ => true
  | .migr _ _ => true
  | .atom _ _ => true
  | .red _ _ => true
  | .blend _ _ => true
  | .fence _ _ => true
  | .fencep _ _ => true
  | .combine _ _ => true
  | .cmbreg _ _ => true
  | .osent _ _ => true
  | .osleave _ _ => true
  | .osskip _ _ => true
  | .barinit _ _ => true
  | .bararv _ _ => true
  | .barwt _ _ => true
  | .baraw _ _ => true
  | .send _ _ => true
  | .sendr _ _ => true
  | .hbind _ _ => true
  | .hunbind _ _ => true
  | .cmask _ _ => true
  | .hend _ _ => true
  | .mbox _ _ => true
  | .mboxRp _ _ => true
  | .emit _ _ => true
  | .ndone _ _ => true
  | .reply _ _ => true
  | .raysend _ _ => true
  | .raysendLocal _ _ => true
  | .hitput _ _ => true
  | .cpy _ _ => true
  | .cpyw _ _ => true
  | .gath _ _ => true
  | .mlease _ _ => true
  | .mrel _ _ => true
  | .mma _ _ => true
  | .mmas _ _ => true
  | .mzero _ _ => true
  | .mepi _ _ => true
  | .mldacc _ _ => true
  | .ringset _ _ => true
  | .ringadv _ _ => true
  | .ringq _ _ => true
  | .mwait _ _ => true
  | .infer _ _ => true
  | .trv _ _ => true
  | .tload _ _ => true
  | .tloadTds _ _ => true
  | .tloadRds _ _ => true
  | .town _ _ => true
  | .pump _ _ => true
  | .pumpw _ _ => true
  | .encq _ _ => true
  | .batchForm core part => decide (core < 576) && decide (part < 8)
  | .issueBufferAccept core part _ => decide (core < 576) && decide (part < 8)
  | .longLatencyResult _ => true
  | .tokenGrant => true
  | .claimGrant core => decide (core < 576)
  | .launchMessage _ => true
  | .launchPlacement slice => decide (slice < 8)
  | .codeLine _ => true
  | .shapeStore _ => true
  | .startMessage _ => true
  | .gridEnd slice task => decide (slice < 8) && decide (task < 256)
  | .workGraphRecord _ => true
  | .userMessage _ => true
  | .handlerGroupForm core binding => decide (core < 576) && decide (binding < 128)
  | .loopbackTransfer core => decide (core < 576)
  | .sendQueueInject core _ => decide (core < 576)
  | .packetHop _ => true
  | .readRequest _ => true
  | .writeRequest _ => true
  | .l2FillComplete core _ => decide (core < 576)
  | .atomicRequest _ => true
  | .reductionRequest _ => true
  | .rangeRequest _ => true
  | .writeAcknowledgement _ => true
  | .tlbWalkComplete core _ => decide (core < 576)
  | .codeRefetchComplete core _ _ => decide (core < 576)
  | .combineRequest _ => true
  | .combinerWaveClose core _ => decide (core < 576)
  | .combinerWaveStart core _ => decide (core < 576)
  | .sectionRequest _ => true
  | .sectionGrant _ => true
  | .sectionDeadlockProbe _ => true
  | .sectionWaitWithdrawal _ => true
  | .barrierArrivalPacket _ => true
  | .barrierCompletion _ => true
  | .leaseRequest _ => true
  | .leaseGrant block => decide (block < 144)
  | .matrixCommand _ => true
  | .matrixTileStep block => decide (block < 144)
  | .engineCompletion _ => true
  | .copyCommandRun core => decide (core < 576)
  | .rayMessage _ => true
  | .traversalNodeVisit core _ => decide (core < 576)
  | .hitRecord _ => true
  | .ringToBasinMove core _ => decide (core < 576)
  | .shadingWaveForm core _ => decide (core < 576)
  | .creditBatchTake core slice task queue => decide (core < 576) && decide (slice < 8) && decide (task < 256) && decide (queue < 65536)
  | .treeletTransfer _ => true
  | .pumpCommand _ => true
  | .pumpCommandStart stack _ => decide (stack < 16)
  | .pumpCommandComplete stack _ => decide (stack < 16)
  | .pumpInvalidation _ => true
  | .invalidationAcknowledgement _ => true
  | .migrationControl _ => true
  | .migrationBlock _ => true
  | .migrationPassEnd slice => decide (slice < 8)
  | .faultBatch _ => true
  | .faultServiceActivation core => decide (core < 576)
  | .faultReply _ => true
  | .shootDown _ => true
  | .shootDownProcess core => decide (core < 576)
  | .shootDownAcknowledgement _ => true
  | .controlRegisterBroadcast _ core => decide (core < 576)
  | .promotionRequest _ => true
  | .promotionAcknowledgement _ => true
  | .errorLogEntry _ => true
  | .ccmdPreempt slice => decide (slice < 8)
  | .preemptionSaveComplete slice => decide (slice < 8)
  | .ccmdResume slice => decide (slice < 8)
  | .ccmdDebugStop slice => decide (slice < 8)
  | .ccmdDebugResume slice => decide (slice < 8)
  | .ccmdSingleStep slice => decide (slice < 8)
  | .encoderFrameComplete encoder => decide (encoder < 8)
  | .creditReturn _ => true
  | .errorDetected _ => true
  | .fetchParityError core _ => decide (core < 576)
  | .hbmParityAlert stack _ _ => decide (stack < 16)
  | .pumpReadError stack _ => decide (stack < 16)
  | .selfTestStart _ => true
  | .selfTestComplete _ _ => true
  | .laneRepair stack _ _ => decide (stack < 16)
  | .laneRepairComplete stack _ => decide (stack < 16)
  | .launchDoorbell fn window => decide (fn < 9) && decide (window < 10)
  | .debuggerStateWrite _ => true
  | .debuggerAttach slice => decide (slice < 8)
  | .debuggerDetach slice => decide (slice < 8)
  | .hostRegisterWrite fn offset size _ => decide (fn < 9) && decide (offset < 2 ^ 24) && decide (offset % size = 0) && [1, 2, 4, 8].contains size
  | .ctlTimebaseWrite _ => true
  | .completionCounterWrite slice index _ => decide (slice < 8) && decide (index < 4096)
  | .descriptorImageWrite slice offset _ => decide (slice < 8) && decide (offset < 0x300) && decide (offset % 32 = 0)
  | .apertureAccess slice offset size _ => decide (slice < 8) && decide (offset < 2 ^ 34) && decide (offset % size = 0) && [1, 2, 4, 8].contains size
  | .physicalWindowAccess offset size _ => decide (offset < 2 ^ 36) && decide (offset % size = 0) && [1, 2, 4, 8].contains size
  | .sliceApply slice => decide (slice < 8)
  | .teamEnd core team => decide (core < 576) && decide (team < 64)
  | .draw _ => true
  | .ckptStart => true
  | .ckptEnd => true
  | .coldReset _ => true
  | .warmReset _ => true
  | .sliceReset slice => decide (slice < 8)
  | .junctionTemperature105 => true
  | .thermalTrip _ => true
  | .spanPortTrained port package _ => decide (port < 12) && decide (package < 16)
  | .spanLinkLoss port => decide (port < 12)
  | .getVersion => true
  | .getCapabilities => true
  | .negotiateAlgorithms _ => true
  | .getDigests => true
  | .getCertificate _ _ => true
  | .challenge _ => true
  | .getMeasurements _ => true
  | .basinBinTimeout core _ => decide (core < 576)
  | .teamWatchdogExpiry core team => decide (core < 576) && decide (team < 64)
  | .matrixWatchdogExpiry block slot => decide (block < 144) && decide (slot < 2)
  | .replayFilterExpiry core _ => decide (core < 576)
  | .creditIdleReturn core slice task queue => decide (core < 576) && decide (slice < 8) && decide (task < 256) && decide (queue < 65536)
  | .sectionTimeoutProbe core _ => decide (core < 576)
  | .parkTimeout core slot lane => decide (core < 576) && decide (slot < 65) && decide (lane < 32)
  | .barrierWaitTimeout core slot lane => decide (core < 576) && decide (slot < 65) && decide (lane < 32)
  | .quiesceTimeout core slot lane => decide (core < 576) && decide (slot < 65) && decide (lane < 32)

/-- Well-formed: no encoding check fails (R338), and a device step's parameters are in range. -/
def WellFormed (i : Instr) : Prop := i.firstBad = none ∧ i.stepOk = true

end Sys2Proof
end

