-- ==== Sys2Proof/Certificates/Slice0/Obligations.lean ====
section
/-!
DEFINITION. The statements for the provers. Each is about the machine for every state; what an instruction does is stated for every
form, as an equation for the next state that `exec` answers where the instruction issues (`Issues`), lane by lane where its lanes act
on their own (`ActsByLane`).
-/
namespace Sys2Proof.Claims

open Machine

/-! ## Results that land at packet ends -/

/-- The effects of a one-, two- and three-source operation. -/
def eff1 (o : BodyA) (f : Word → Word) (s : State) (is : Issue) (l : Nat) (x : Fibre) : List Eff := destEff o.d (f (srcOf s is l x o.imm o.a))
/-- Two sources. -/
def eff2 (o : BodyA) (f : Word → Word → Word) (s : State) (is : Issue) (l : Nat) (x : Fibre) : List Eff :=
  destEff o.d (f (srcOf s is l x o.imm o.a) (srcOf s is l x o.imm o.b))
/-- Three sources. -/
def eff3 (o : BodyA) (f : Word → Word → Word → Word) (s : State) (is : Issue) (l : Nat) (x : Fibre) : List Eff :=
  destEff o.d (f (srcOf s is l x o.imm o.a) (srcOf s is l x o.imm o.b) (srcOf s is l x o.imm o.c))
/-- A float operation: its function is given the rounding mode, FTZ and the operands, and answers bits and flags. -/
def feff (h : Head) (o : BodyA) (f : Nat → Bool → Word → Word → Word → Nat × BitVec 5) (s : State) (is : Issue) (l : Nat) (x : Fibre) : List Eff :=
  floatEff o.d (f (rndOf h x) (fsrFTZ x) (srcOf s is l x o.imm o.a) (srcOf s is l x o.imm o.b) (srcOf s is l x o.imm o.c))

/-- The integer and predicate operations whose result lands at a packet end: the head, the forwarding distance (R340) and each lane's
effects (R374, R375, R377-R379). -/
def shortInteger : Instr → Option (Head × Nat × (State → Issue → Nat → Fibre → List Eff))
  | .iadd h o => some (h, 1, eff2 o (resIadd h.mod.toNat))
  | .isub h o => some (h, 1, eff2 o (resIsub h.mod.toNat))
  | .imul h o => some (h, 2, eff2 o (resImul h.mod.toNat))
  | .imad h o => some (h, 2, eff3 o (resImad h.mod.toNat))
  | .imin h o => some (h, 1, eff2 o (resImin h.mod.toNat))
  | .imax h o => some (h, 1, eff2 o (resImax h.mod.toNat))
  | .iabs h o => some (h, 1, eff1 o (resIabs h.mod.toNat))
  | .and h o => some (h, 1, eff2 o fun a b => a &&& b)
  | .or h o => some (h, 1, eff2 o fun a b => a ||| b)
  | .xor h o => some (h, 1, eff2 o fun a b => a ^^^ b)
  | .andn h o => some (h, 1, eff2 o fun a b => a &&& ~~~ b)
  | .shl h o => some (h, 1, eff2 o resShl)
  | .shr h o => some (h, 1, eff2 o resShr)
  | .sar h o => some (h, 1, eff2 o resSar)
  | .rol h o => some (h, 1, eff2 o resRol)
  | .bfx h o => some (h, 1, eff2 o (resBfx h.mod.toNat))
  | .bfi h o => some (h, 1, eff3 o resBfi)
  | .popc h o => some (h, 1, eff1 o resPopc)
  | .clz h o => some (h, 1, eff1 o resClz)
  | .brev h o => some (h, 1, eff1 o resBrev)
  | .iset h o => some (h, 1, eff3 o (resIset h.mod.toNat))
  | .pset h o => some (h, 1, eff3 o (resPset h.mod))
  | .sel h o => some (h, 1, eff3 o fun a b c => if c ≠ 0 then a else b)
  | .mov h o => some (h, 1, eff1 o fun a => a)
  | .hmix h o => some (h, 2, eff2 o resHmix)
  | .movi h o => some (h, 1, fun _ _ _ _ => destEff o.d o.imm)
  | .movw h o => some (h, 1, fun _ _ _ _ => pairEff o.d o.imm)
  | .iadd64 h o => some (h, 2, fun _ _ _ x => pairEff o.d (resAdd64 (h.mod = 1#8) (pairSrc x o.imm o.a) (pairSrc x o.imm o.b)))
  | .isub64 h o => some (h, 2, fun _ _ _ x => pairEff o.d (resSub64 (h.mod = 1#8) (pairSrc x o.imm o.a) (pairSrc x o.imm o.b)))
  | .imad64 h o => some (h, 3, fun s is l x =>
      pairEff o.d (resMad64 (h.mod = 1#8) (srcOf s is l x o.imm o.a) (srcOf s is l x o.imm o.b) (pairSrc x o.imm o.c)))
  | .iset64 h o => some (h, 2, fun s is l x =>
      destEff o.d (resIset64 h.mod.toNat (pairSrc x o.imm o.a) (pairSrc x o.imm o.b) (srcOf s is l x o.imm o.c)))
  | .lea h o => some (h, 1, fun s is l x => pairEff o.d (resLea h.mod.toNat (pairSrc x o.imm o.a) (srcOf s is l x o.imm o.b)))
  | .pmov h o => some (h, 1, fun s is l x =>
      destEff o.d (x.preds.setWidth 32 ||| 1) ++ pmovEffs (srcOf s is l x o.imm o.a) (srcOf s is l x o.imm o.b))
  | _ => none

/-- The floating-point operations whose result lands at a packet end (R434-R443). -/
def shortFloat : Instr → Option (Head × Nat × (State → Issue → Nat → Fibre → List Eff))
  | .fadd h o => some (h, 4, feff h o fun m z a b _ => withSat h (fAdd fmtF32 m z (f32v z a) (f32v z b)))
  | .fsub h o => some (h, 4, feff h o fun m z a b _ => withSat h (fAdd fmtF32 m z (f32v z a) (f32v z b).negate))
  | .fmul h o => some (h, 4, feff h o fun m z a b _ => withSat h (fMul fmtF32 m z (f32v z a) (f32v z b)))
  | .ffma h o => some (h, 4, feff h o fun m z a b c => withSat h (fFma fmtF32 m z (f32v z a) (f32v z b) (f32v z c)))
  | .fmin h o => some (h, 4, feff h o fun _ z a b _ => fMinMax fmtF32 z true a.toNat b.toNat)
  | .fmax h o => some (h, 4, feff h o fun _ z a b _ => fMinMax fmtF32 z false a.toNat b.toNat)
  | .fset h o => some (h, 4, feff h o fun _ z a b c => resFset h.mod.toNat z a b c)
  | .fclass h o => some (h, 4, feff h o fun _ _ a b _ => ((resFclass a b).toNat, 0))
  | .frcp h o => some (h, 8, feff h o fun m z a _ _ => fDiv fmtF32 m z (.fin false 1 0) (f32v z a))
  | .frsq h o => some (h, 8, feff h o fun m z a _ _ => fRsqrt fmtF32 m z (f32v z a))
  | .fex2 h o => some (h, 8, feff h o fun _ z a _ _ => resFex2 z a)
  | .flg2 h o => some (h, 8, feff h o fun _ z a _ _ => resFlg2 z a)
  | .fsin h o => some (h, 8, feff h o fun _ z a _ _ => resTrig false z a)
  | .fcos h o => some (h, 8, feff h o fun _ z a _ _ => resTrig true z a)
  | .ftanh h o => some (h, 8, feff h o fun _ z a _ _ => resFtanh z a)
  | .fsigm h o => some (h, 8, feff h o fun _ z a _ _ => resFsigm z a)
  | .pkfma h o => some (h, 4, feff h o fun m z a b c => packed16 fun k =>
      fFma (pkFmt h) m z (decodeF (pkFmt h) z (elem16 a k)) (decodeF (pkFmt h) z (elem16 b k)) (decodeF (pkFmt h) z (elem16 c k)))
  | .pkadd h o => some (h, 4, feff h o fun m z a b _ => packed16 fun k =>
      fAdd (pkFmt h) m z (decodeF (pkFmt h) z (elem16 a k)) (decodeF (pkFmt h) z (elem16 b k)))
  | .pkmul h o => some (h, 4, feff h o fun m z a b _ => packed16 fun k =>
      fMul (pkFmt h) m z (decodeF (pkFmt h) z (elem16 a k)) (decodeF (pkFmt h) z (elem16 b k)))
  | .dot4 h o => some (h, 5, fun s is l x =>
      let f := fun (code : Nat) => if code = 0 then fmtF16 else fmtB16
      floatEff o.d (dotResult (rndOf h x) (fsrFTZ x) (dotElems16 (f (h.mod.toNat / 16 % 4)) (fsrFTZ x) (pairSrc x o.imm o.a))
        (dotElems16 (f (h.mod.toNat / 64)) (fsrFTZ x) (pairSrc x o.imm o.b)) (f32v (fsrFTZ x) (srcOf s is l x o.imm o.c))))
  | .dot8 h o => some (h, 5, fun s is l x =>
      floatEff o.d (dotResult (rndOf h x) (fsrFTZ x) (dotElems8 (h.mod.toNat / 16 % 4) (pairSrc x o.imm o.a))
        (dotElems8 (h.mod.toNat / 64) (pairSrc x o.imm o.b)) (f32v (fsrFTZ x) (srcOf s is l x o.imm o.c))))
  | _ => none

/-- The operations on narrow codes that take no prefix, and the special-register moves with a short latency (R367, R384-R387). -/
def shortOther : Instr → Option (Head × Nat × (State → Issue → Nat → Fibre → List Eff))
  | .i4tx h o => some (h, 4, fun s is l x =>
      let t := (getCore s is.core).i4t
      let a := (srcOf s is l x o.imm o.a).toNat
      let b := (srcOf s is l x o.imm o.b).toNat
      destEff o.d (match h.mod.toNat with
        | 0 => (i4tEntry t (a / 2 ^ (4 * (b % 8)))).signExtend 32
        | 1 => (i4tEntry t (a / 2 ^ (4 * (b % 8)))).setWidth 32
        | _ => BitVec.ofNat 32 (leNat ((List.range 4).map fun i => i4tEntry t (a / 2 ^ (16 * (b % 2) + 4 * i))))))
  | .q4x h o => some (h, 4, fun s is l x =>
      floatEff o.d (convertTo 2 false false (fsrFTZ x) (rndOf h x) (sourceValue 10 false (fsrFTZ x) 0
        ((srcOf s is l x o.imm o.a).toNat / 2 ^ (4 * ((srcOf s is l x o.imm o.b).toNat % 8))) (srcOf s is l x o.imm o.c).toNat)))
  | .qscl h o => some (h, 4, fun s is l x => floatEff o.d (q4Scale (srcOf s is l x o.imm o.a) ((srcOf s is l x o.imm o.b).toNat % 256)))
  | .pack h o => some (h, 4, eff3 o fun a b c => BitVec.ofNat 32 (placeNarrow (h.mod = 0#8) (h.mod = 2#8) a.toNat b.toNat c.toNat))
  | .unpk h o => some (h, 4, eff2 o fun a b =>
      let m := 2 ^ (h.mod.toNat % 3 + 1)
      let e := a.toNat / 2 ^ (32 / m * (b.toNat % m)) % 2 ^ (32 / m)
      if h.mod.toNat < 3 then BitVec.ofNat 32 e else (BitVec.ofNat (32 / m) e).signExtend 32)
  | .frnd h o => some (h, 4, fun s is l x =>
      if h.mod.getLsbD 3 then doubleEff o.d (resFrnd fmtF64 (rndOf h x) false (pairSrc x o.imm o.a).toNat)
      else floatEff o.d (resFrnd fmtF32 (rndOf h x) (fsrFTZ x) (srcOf s is l x o.imm o.a).toNat))
  | .movs h o => if o.a = 0x133#9 ∨ o.a = 0x134#9 then none
      else some (h, 1, fun s is l x => destEff o.d (specialOf s (is.fref l) x is.lanes o.a.toNat))
  | .movsW h o => some (h, 1, fun _ _ _ x => [.fsr (regOf x o.a.toNat)])
  | _ => none

/-- An instruction whose active lanes each gain the pending effects `eff` and nothing else: every other fibre and every other part of the
state is what it was; no register changes before the packet end at the result's distance (R13, R48, R49). -/
def LandsLater (table : Instr → Option (Head × Nat × (State → Issue → Nat → Fibre → List Eff))) : Prop :=
  ∀ (i : Instr) (h : Head) (dist : Nat) (eff : State → Issue → Nat → Fibre → List Eff), table i = some (h, dist, eff) →
    ∀ (s : State) (is : Issue) (act : List Nat), Issues s h (namedOf i) is act →
      ∃ t, exec i s = .next t ∧
        (∀ l ∈ act, ∀ x, getFib s (is.fref l) = some x → getFib t (is.fref l) = some (addPends x dist (eff s is l x))) ∧
        (∀ f, (∀ l ∈ act, f ≠ is.fref l) → getFib t f = getFib s f) ∧
        { t with fibres := s.fibres } = s

/-! ## Results that the core writes at the run end -/

/-- The long-latency operations that the core computes itself (R85, R376, R406, R435, R441): each lane's effects. -/
def longKnown : Instr → Option (Head × (State → Issue → Nat → Fibre → List Eff))
  | .idiv h o => some (h, eff2 o (resIdiv h.mod.toNat))
  | .irem h o => some (h, eff2 o (resIrem h.mod.toNat))
  | .fsqrt h o => some (h, feff h o fun m z a _ _ => fSqrt fmtF32 m z (f32v z a))
  | .fdiv h o => some (h, feff h o fun m z a b _ => fDiv fmtF32 m z (f32v z a) (f32v z b))
  | .dadd h o => some (h, fun _ _ _ x => doubleEff o.d (fAdd fmtF64 (rndOf h x) false
      (decodeF fmtF64 false (pairSrc x o.imm o.a).toNat) (decodeF fmtF64 false (pairSrc x o.imm o.b).toNat)))
  | .dmul h o => some (h, fun _ _ _ x => doubleEff o.d (fMul fmtF64 (rndOf h x) false
      (decodeF fmtF64 false (pairSrc x o.imm o.a).toNat) (decodeF fmtF64 false (pairSrc x o.imm o.b).toNat)))
  | .dfma h o => some (h, fun _ _ _ x => doubleEff o.d (fFma fmtF64 (rndOf h x) false
      (decodeF fmtF64 false (pairSrc x o.imm o.a).toNat) (decodeF fmtF64 false (pairSrc x o.imm o.b).toNat)
      (decodeF fmtF64 false (pairSrc x o.imm o.c).toNat)))
  | .movs h o => if o.a = 0x133#9 then some (h, fun s is _ _ => pairEff o.d (coreClk s is.core))
      else if o.a = 0x134#9 then some (h, fun s _ _ _ => pairEff o.d s.time) else none
  | .extq h o => some (h, fun s is l x =>
      let r := extStatus s (is.fref l) o.ext.toNat ((regOf x o.a.toNat).toNat + o.off.toInt)
      if h.mod = 1#8 then pairEff o.d r.2 else destEff o.d r.1)
  | _ => none

/-- An instruction whose active lanes each gain one known long-latency result, written at the run end, and nothing else, but for its signal
entry in the issue buffer (R48, R53). -/
def WritesAtRunEnd (table : Instr → Option (Head × (State → Issue → Nat → Fibre → List Eff))) : Prop :=
  ∀ (i : Instr) (h : Head) (eff : State → Issue → Nat → Fibre → List Eff), table i = some (h, eff) →
    ∀ (s : State) (is : Issue) (act : List Nat), Issues s h (namedOf i) is act →
      ∃ t, exec i s = .next (entered i is act t) ∧
        (∀ l ∈ act, ∀ x, getFib s (is.fref l) = some x → ∃ id, getFib t (is.fref l) = some (addKnown x id (eff s is l x))) ∧
        (∀ f, (∀ l ∈ act, f ≠ is.fref l) → getFib t f = getFib s f) ∧
        { t with fibres := s.fibres, nextId := s.nextId } = s

/-! ## Control, fibres and exceptions -/

/-- The state after an identity has been taken. -/
def afterId (s : State) : State := { s with nextId := s.nextId + 1 }

/-- A failing page check of a lane (R297, R391): the instruction stands in the fibre's program order, the fault is posted, and the fibre waits on its
mailbox for the reply, upon which the instruction is performed afresh from the registers it had. -/
def pageActAs (s' : State) (f : FRef) (pc : Word) (va k acc : Nat) (mk : Nat → Acc) (ll : Bool) (i : Instr) (x : Fibre) : LaneAct :=
  .does (postPageFaults (modFib { s' with nextId := s'.nextId + 1 } f fun x =>
      { (if ll then addLL x (s'.nextId + 1) else x) with accs := x.accs ++ [mk (s'.nextId + 1)] }) f.core f.slot pc acc
    [(f.lane, BitVec.ofNat 64 va, k, .instr i x.regs (s'.nextId + 1))])

/-- The same for an instruction without a result, whose record is that of its path. -/
def pageAct (s' : State) (f : FRef) (pc : Word) (va k : Nat) (p : Path) (kind : Nat) (i : Instr) (x : Fibre) : LaneAct :=
  pageActAs s' f pc va k (accCode p kind) (fun id => plainAcc id p) false i x

/-- A branch without a call (R354): at the run end it sets the next PC to a marked target of the fibre's code object. -/
def branchAct (tgt : CodeObj → Fibre → Option Nat) (_s : State) (is : Issue) (s' : State) (l : Nat) (x : Fibre) : LaneAct :=
  match codeObjOf s' (is.fref l) with
  | none => .other
  | some obj =>
    if ¬ is.runEnd then .traps (trapOf 0 0x03)
    else
      match tgt obj x with
      | none => .traps (trapOf 0 0x04)
      | some t =>
        if ¬ isTarget s' is.core obj t then .traps (trapOf 0 0x04)
        else .does (modFib s' (is.fref l) fun x => { x with next := some (BitVec.ofNat 32 t) })

/-- A call (R92, R93, R354): it pushes the PC after it; with eight entries on chip the oldest goes to the fibre's stack area, as a request of the
issue buffer (R53). -/
def callAct (tgt : CodeObj → Fibre → Option Nat) (s : State) (is : Issue) (s' : State) (l : Nat) (x : Fibre) : LaneAct :=
  let f := is.fref l
  match codeObjOf s' f with
  | none => .other
  | some obj =>
    if ¬ is.runEnd then .traps (trapOf 0 0x03)
    else
      match tgt obj x with
      | none => .traps (trapOf 0 0x04)
      | some t =>
        if ¬ isTarget s' is.core obj t then .traps (trapOf 0 0x04)
        else if x.stack.length < 8 then
          .does (putFib s' f { x with stack := nextPc is.pc :: x.stack, next := some (BitVec.ofNat 32 t) })
        else if x.spill = 65535 then .traps (trapOf 4 0x08)
        else
          let a := stackArea s' f + BitVec.ofNat 64 (8 * x.spill)
          match stackFails s' f x .wr a with
          | none =>
            let s1 := putFib (afterId s') f { x with stack := nextPc is.pc :: x.stack.dropLast, spill := x.spill + 1, next := some (BitVec.ofNat 32 t) }
            .does (stackEntry s1 f (s.nextId + 1) is.pc (stackAcc s1 f x (s'.nextId + 1) .wr a) (.spill a (x.stack.getLastD 0)))
          | some (va, .trap c d) => .traps (trapAt c d (BitVec.ofNat 64 va))
          | some (va, .page k) => .does (postPageFaults (goTo s' f is.pc) f.core f.slot is.pc (accCode .ls 1)
              [(f.lane, BitVec.ofNat 64 va, k, .call (BitVec.ofNat 32 t) (nextPc is.pc))])
          | some _ => .other

/-- A return (R92, R93): the newest entry on chip, or a request for the newest in memory. -/
def retAct (s : State) (is : Issue) (s' : State) (l : Nat) (x : Fibre) : LaneAct :=
  let f := is.fref l
  match codeObjOf s' f with
  | none => .other
  | some obj =>
    if ¬ is.runEnd then .traps (trapOf 0 0x03)
    else
      match x.stack with
      | t :: rest => if isReturnPoint s' is.core obj t.toNat then .does (putFib s' f { x with stack := rest, next := some t }) else .traps (trapOf 0 0x04)
      | [] =>
        if x.spill = 0 then .traps (trapOf 0 0x09)
        else
          let a := stackArea s' f + BitVec.ofNat 64 (8 * (x.spill - 1))
          match stackFails s' f x .rd a with
          | none =>
            .does (stackEntry (goTo (afterId s') f is.pc) f (s.nextId + 1) is.pc (stackAcc (afterId s') f x (s'.nextId + 1) .rd a) .refill)
          | some (va, .trap c d) => .traps (trapAt c d (BitVec.ofNat 64 va))
          | some (va, .page k) => .does (postPageFaults (goTo s' f is.pc) f.core f.slot is.pc (accCode .ls 0) [(f.lane, BitVec.ofNat 64 va, k, .refill)])
          | some _ => .other

/-- The group of the fibre's team with index `gid` (R42). -/
def groupNamed (s : State) (is : Issue) (f : FRef) (gid : Nat) : Option ((Nat × Nat) × Group) :=
  s.groups.find? fun e => decide (e.1.1 = is.core ∧ e.2.gid = gid ∧ e.2.kind ≠ .sump) && some e.2.team == (teamOf s f).map Prod.fst

/-- FWAIT (R358): the result, the number of the group's lanes, comes once the group is gone; without such a group it is zero. -/
def fwaitAct (o : BodyS) (_s : State) (is : Issue) (s' : State) (l : Nat) (x : Fibre) : LaneAct :=
  let f := is.fref l
  let k := (regOf x o.a.toNat).toNat % 64
  if k = gidOf s' f then .traps (trapOf 0 0x05)
  else
    let id := s'.nextId + 1
    let s1 := { s' with nextId := id }
    match groupNamed s' is f k with
    | some g => .does (putFib s1 f { x with
        lls := x.lls ++ [{ id := id, done := false, poison := 0, effs := regsEff o.d.toNat [BitVec.ofNat 32 (lanesOf s1 is.core g.1.2).length] }]
        waits := x.waits ++ [.fwait is.pc k id (lanesOf s1 is.core g.1.2).length] })
    | none => .does (putFib s1 f (addKnown x id (regsEff o.d.toNat [0])))

/-- PARK (R359): a set wake flag is used up, else the fibre waits, at most 64 × IMM clocks unless IMM is zero. -/
def parkAct (o : BodyS) (_s : State) (is : Issue) (s' : State) (l : Nat) (x : Fibre) : LaneAct :=
  .does (putFib s' (is.fref l) (if x.wk then { x with wk := false } else { x with
    waits := x.waits ++ [.park is.pc (if o.imm = 0#16 then none else some (s'.clk + BitVec.ofNat 64 (64 * o.imm.toNat)))] }))

/-- WAKE (R360): the named fibre of the team. -/
def wakeAct (o : BodyS) (_s : State) (is : Issue) (s' : State) (l : Nat) (x : Fibre) : LaneAct :=
  match teamOf s' (is.fref l) with
  | none => .does s'
  | some (n, _) =>
    let fid := (regOf x o.a.toNat).toNat % 2048
    match slotOfGid s' is.core n (fid / 32) with
    | some sl => .does (modFib s' ⟨is.core, sl, fid % 32⟩ wakeFibre)
    | none => .does s'

/-- WAKE.grp (R360): every fibre of the named group of the team. -/
def wakeGrpAct (o : BodyS) (_s : State) (is : Issue) (s' : State) (l : Nat) (x : Fibre) : LaneAct :=
  match teamOf s' (is.fref l) with
  | none => .does s'
  | some (n, _) =>
    match slotOfGid s' is.core n ((regOf x o.a.toNat).toNat % 64) with
    | some sl => .does ((lanesOf s' is.core sl).foldl (fun s m => modFib s ⟨is.core, sl, m⟩ wakeFibre) s')
    | none => .does s'

/-- FMTP (R89, R364): PP is 1 and PFMT the format at once; the other FSR bits stay. -/
def fmtpAct (o : BodyS) (_s : State) (is : Issue) (s' : State) (l : Nat) (x : Fibre) : LaneAct :=
  .does (putFib s' (is.fref l) { x with fsr := (x.fsr &&& 0x07FFFFFF#32) ||| BitVec.ofNat 32 (2 ^ 31 + o.imm.toNat % 16 * 2 ^ 27) })

/-- FEND and HEND of a fibre whose HA is clear (R41, R357, R428): the fibre ends. -/
def endAct (_s : State) (is : Issue) (s' : State) (l : Nat) (x : Fibre) : LaneAct :=
  if fsrHA x then .other else .does (endFibre s' (is.fref l))

/-- The same where HA is set (R428): the results of a combiner lane are kept, the fault-queue slot is freed, held accesses are performed,
the message cannot come again, and the fibre ends with its held packets released. -/
def activationEndAct (fend : Bool) (_s : State) (is : Issue) (s' : State) (l : Nat) (x : Fibre) : LaneAct :=
  let f := is.fref l
  if ¬ fsrHA x then .other
  else
    let s1 := match x.origin.combine with | some q => keepResults s' f (if fend then [] else regsFrom x 17 q.nres) | none => s'
    let s2 := match x.origin.faultSlot with
      | some (j, _, _, _) => modCore s1 f.core fun k => { k with faultSlots := k.faultSlots.filter fun n => decide (n ≠ j) }
      | none => s1
    let s3 := performHeld (hendRelease s2 f) f
    let s4 := modCore s3 f.core fun k => { k with
      redeliver := k.redeliver.filter fun e => decide (some e.1 ≠ x.origin.redeliver)
      sumpAgain := k.sumpAgain || decide (f.slot = 64 ∧ 224 ≤ k.inbox.length) }
    .does (endFibre (modFib s4 f fun x => { x with commit := true }) f)

/-- TRET (R53, R294, R366): at the run end the fibre asks for its frame, which is read once the run's results are written. -/
def tretAct (s : State) (is : Issue) (s' : State) (l : Nat) (_x : Fibre) : LaneAct :=
  let f := is.fref l
  if is.runEnd then
    .does (waitEntry (bufAdd (goTo s' f is.pc) is.core is.part { entry := s.nextId + 1, f := f, pc := is.pc, acc := 0, cmd := .frameRead }) f (s.nextId + 1))
  else .traps (trapOf 0 0x03)

/-- BASIN of the bins `ns` (R53, R467): the settings go to the basin by the issue buffer. -/
def basinAct (o : BodyS) (ns : List Nat) (s : State) (is : Issue) (s' : State) (l : Nat) (x : Fibre) : LaneAct :=
  .does (waitEntry (bufAdd s' is.core is.part
    { entry := s.nextId + 1, f := is.fref l, pc := is.pc, acc := 0, cmd := .basin ns (regOf x o.a.toNat) (regOf x o.b.toNat) }) (is.fref l) (s.nextId + 1))

/-- BASIN.own (R53, R467): the team asks to own the basin; a user-level fibre may not take it from another live team. -/
def basinOwnAct (s : State) (is : Issue) (s' : State) (l : Nat) (_x : Fibre) : LaneAct :=
  match teamOf s' (is.fref l) with
  | none => .does s'
  | some (n, _) =>
    if basinTaken s' (is.fref l) n then .traps (trapOf 4 0x07)
    else .does (waitEntry (bufAdd s' is.core is.part { entry := s.nextId + 1, f := is.fref l, pc := is.pc, acc := 0, cmd := .basinOwn n }) (is.fref l) (s.nextId + 1))

/-! ## Control registers and core control -/

/-- CTLRD (R101, R102, R368): the core's copy lands at distance 3; a read that R101 forbids is a privilege trap. -/
def ctlrdAct (h : Head) (o : BodyS) (_s : State) (is : Issue) (s' : State) (l : Nat) (x : Fibre) : LaneAct :=
  let f := is.fref l
  if mayRead s' f x o.imm then
    let v := ctlRead s' is.core (addrKey s' f o.imm)
    .does (putFib s' f (addPends x 3 (if h.mod = 1#8 then pairEff o.d v else destEff o.d (loHalf v))))
  else .traps (trapOf 4 0x07)

/-- CTLWR (R101, R102, R368): the local copy takes the value at distance 3; the write of a shared register also goes to router (17, 0). -/
def ctlwrAct (h : Head) (o : BodyS) (s : State) (is : Issue) (s' : State) (l : Nat) (x : Fibre) : LaneAct :=
  let f := is.fref l
  if mayWrite s' f x o.imm then
    let v : DWord := if h.mod = 1#8 then pairOf (regOf x o.a.toNat) (regOf x (o.a.toNat + 1)) else (regOf x o.a.toNat).setWidth 64
    let key := addrKey s' f o.imm
    let id := s'.nextId + 1
    let s1 := addCorePend (afterId s') is 3 (.ctl key v id)
    .does (if isCoreReg (o.imm.toNat % 0x1000) then s1 else sendCtl s1 is (s.nextId + 1) f id key v)
  else .traps (trapOf 4 0x07)

/-- LAUNCH (R370, R371): a readable record; the entry waits in the issue buffer and brings the result. -/
def launchAct (i : Instr) (o : BodyS) (s : State) (is : Issue) (s' : State) (l : Nat) (x : Fibre) : LaneAct :=
  let f := is.fref l
  let a := pairSrc x 0 o.a
  if fsrRST x then .traps (trapOf 0 0x0E)
  else
    match checkBlock s' f x .rd a 256 64 with
    | none =>
      let id := s'.nextId + 1
      .does (bufPut (modFib { s' with nextId := id } f fun x => addLL x id) is.core is.part
        { entry := s.nextId + 1, f := f, pc := is.pc, acc := id, cmd := .launch a (min (o.imm.toNat % 4) (fsrPRV x)) id o.d.toNat })
    | some (va, .trap c d) => .traps (trapAt c d (BitVec.ofNat 64 va))
    | some (va, .page k) => pageActAs s' f is.pc va k (accCode .ls 0) (fun id => plainAcc id .ls) true i x
    | some _ => .other

/-- QUIESCE (R372): the core is closed to placement; the wait ends when no other team is resident, or after 1,024 × IMM clocks. -/
def quiesceAct (o : BodyS) (_s : State) (is : Issue) (s' : State) (l : Nat) (x : Fibre) : LaneAct :=
  let f := is.fref l
  let c := (regOf x o.a.toNat).toNat % 1024
  if mayQuiesce s' f x c then
    let id := s'.nextId + 1
    .does (modFib (modCore { s' with nextId := id } c fun k => { k with closed := true }) f fun x => { addLL x id with
      waits := x.waits ++ [.quiesce c (if o.imm = 0#16 then none else some (s'.clk + BitVec.ofNat 64 (1024 * o.imm.toNat))) id o.d.toNat] })
  else .traps (trapOf 4 0x07)

/-- QUIESCE.open (R372): the core is open again; the result is the number of its resident teams. -/
def quiesceOpenAct (o : BodyS) (_s : State) (is : Issue) (s' : State) (l : Nat) (x : Fibre) : LaneAct :=
  let f := is.fref l
  let c := (regOf x o.a.toNat).toNat % 1024
  if mayQuiesce s' f x c then
    let id := s'.nextId + 1
    .does (modFib (modCore { s' with nextId := id } c fun k => { k with closed := false }) f fun x =>
      addKnown x id (regsEff o.d.toNat [BitVec.ofNat 32 (s'.teams.filter fun e => e.1.1 = c).length]))
  else .traps (trapOf 4 0x07)

/-! ## Memory instructions -/

/-- A memory instruction issues its lanes' accesses (R176, R391-R394): `mk` is what each lane's registers ask for. -/
def IssuesAccess (i : Instr) (h : Head) (kind : OpKind) (path : Path) (res : Bool) (mk : Issue → Nat → Fibre → MemOp) : Prop :=
  ∀ (s : State) (is : Issue) (act : List Nat), Issues s h (namedOf i) is act →
    exec i s = .next (issueMem s is act kind path res fun _ l x => mk is l x)

/-- The state in which a lane's access is recorded, waits to be sent and, with a result, is waited for. -/
def recorded (s : State) (f : FRef) (res : Bool) (a : Acc) (ll : Nat) : State :=
  addAcc (if res then modFib s f fun x => addLL x ll else s) f a

/-- The place that a range operation acts on, sent home by home; a failing check traps (R399, R400). -/
def rangeAct (i : Instr) (opc : Nat) (o : BodyM) (s : State) (is : Issue) (s' : State) (l : Nat) (x : Fibre) : LaneAct :=
  let f := is.fref l
  if fsrRST x ∧ opc ≠ 0 then .traps (trapOf 0 0x0E)
  else
    match (if opc = 0 then none else rangeFailure s' f o x) with
    | none => .does (rangeSend s' is (s.nextId + 1) opc f x i (rangeSpan s' f o x).1 (rangeHomes s' f o x))
    | some (va, .trap c d) => .traps (trapAt c d (BitVec.ofNat 64 va))
    | some (va, .page k) => pageAct s' f is.pc va k .ls 0 i x
    | some _ => .other

/-- MIGR (R401): the request goes to the slice's fault-service core; while the slice has none it is dropped. -/
def migrAct (i : Instr) (o : BodyM) (s : State) (is : Issue) (s' : State) (l : Nat) (x : Fibre) : LaneAct :=
  let f := is.fref l
  let t := (regOf x o.b.toNat).toNat
  if fsrRST x then .traps (trapOf 0 0x0E)
  else
    match (migrPage s' f o x).2 with
    | .error (va, .trap c d) => .traps (trapAt c d (BitVec.ofNat 64 va))
    | .error (va, .page k) => pageAct s' f is.pc va k .ls 0 i x
    | .error _ => .other
    | .ok tg =>
      if t / 1024 ≠ 0 then .traps (trapAt 4 0x05 (migrPage s' f o x).1)
      else
        match faultService s' is.core (sliceOf s' f) with
        | none => .does s'
        | some d =>
          let pa := match tg.loc with | .phys pa => pa | .cist _ _ => 0
          let s1 := { s' with nextId := s'.nextId + 1 }
          let r := newPacket s1 .sys 0x0F is.core d (pkgNum s1) 1 0
            (.migrate (sliceOf s1 f) (migrPage s1 f o x).1 pa t (whoWord (taskOf s1 f) x.gen f.slot f.core))
          .does (waitEntry (bufAdd r.2 is.core is.part (packetEntry (s.nextId + 1) f (s'.nextId + 1) r.1)) f (s.nextId + 1))

/-- A fence of one lane (R184, R189): an ordering point at the end of the fibre's order; one that is over already leaves nothing. -/
def fenceAct (k : FenceKind) (scope : Nat) (_s : State) (is : Issue) (s' : State) (l : Nat) (x : Fibre) : LaneAct :=
  let s1 := { s' with nextId := s'.nextId + 1 }
  .does (putFib s1 (is.fref l) (dropFences (sentWrites s1 (is.fref l)) { x with
    accs := x.accs ++ [{ plainAcc (s'.nextId + 1) .ls with fence := some k, scope := scope }] }))

/-- A copy command (R403-R405): checked whole, then put into the issue buffer with a record on path CP. -/
def copyAct (i : Instr) (mk : Fibre → FRef → CopyCmd) (s : State) (is : Issue) (s' : State) (l : Nat) (x : Fibre) : LaneAct :=
  let f := is.fref l
  let id := s'.nextId + 1
  let s1 := { s' with nextId := id }
  let c := { mk x f with pc := is.pc, acc := id }
  if fsrRST x then .traps (trapOf 0 0x0E)
  else
    match copyFails s1 f x c with
    | none => .does (waitEntry (bufAdd (addAcc s1 f (plainAcc id .cp)) is.core is.part
        { entry := s.nextId + 1, f := f, pc := is.pc, acc := id, cmd := .copy c }) f (s.nextId + 1))
    | some (va, .trap c d, _) => .trapsIn s1 (trapAt c d (BitVec.ofNat 64 va))
    | some (va, .page k, r) => pageActAs s1 f is.pc va k (copyAcc r) copyRec false i x
    | some _ => .other

/-! ## Combining, sections, barriers -/

/-- COMBINE (R411, R412): one request to the object's home, with a result to come and an acquire and release record on MS. -/
def combineAct (i : Instr) (o : BodyK) (s : State) (is : Issue) (s' : State) (l : Nat) (x : Fibre) : LaneAct :=
  let f := is.fref l
  let ea := pairSrc x 0 o.a
  if fsrRST x then .traps (trapOf 0 0x0E)
  else
    match objectTarget s' f x ea with
    | .ok t =>
      let pa := match t.loc with | .phys pa => pa | .cist _ _ => 0
      let s1 := tlbNote s' f.core (sliceOf s' f) ea.toNat
      let id := s1.nextId + 1
      let s2 := recorded { s1 with nextId := id } f true { plainAcc id .ms with acq := fibreBits, rel := fibreBits } id
      let r := newPacket s2 .mreq 0x05 is.core t.home t.pkg 2 (replyTag x.gen id)
        (.combine f x.gen id id o.d.toNat (predNum o.c) ea pa (regsFrom x o.b.toNat (o.mlen.toNat + 1)) (o.num.toNat % 8 + 1))
      .does (waitEntry (bufAdd r.2 is.core is.part (packetEntry (s.nextId + 1) f id r.1)) f (s.nextId + 1))
    | .trap c d => .traps (trapAt c d (BitVec.ofNat 64 ea.toNat))
    | .page k => pageActAs s' f is.pc ea.toNat k (accCode .ms 2) combineRec true i x

/-- CMBREG (R414): the descriptor goes to the object's home; one that does not fit is protection 0x0A. -/
def cmbregAct (i : Instr) (o : BodyK) (s : State) (is : Issue) (s' : State) (l : Nat) (x : Fibre) : LaneAct :=
  let f := is.fref l
  let ea := pairSrc x 0 o.a
  let desc := regOf x o.b.toNat
  if fsrRST x then .traps (trapOf 0 0x0E)
  else
    match objectTarget s' f x ea with
    | .ok t =>
      let pa := match t.loc with | .phys pa => pa | .cist _ _ => 0
      if desc.toNat / 2 ^ 18 ≠ 0 ∨ 31 < fld pa 10 6 + fld desc.toNat 11 7 then .traps (trapAt 4 0x0A ea)
      else
        let s1 := tlbNote s' f.core (sliceOf s' f) ea.toNat
        let id := s1.nextId + 1
        let s2 := recorded { s1 with nextId := id } f true { cmbregRec id with redo := some (is.pc, ea, i, x.regs) } id
        let r := newPacket s2 .mreq 0x05 is.core t.home t.pkg 1 (replyTag x.gen id) (.cmbreg f x.gen id id (predNum o.c) pa desc)
        .does (waitEntry (bufAdd r.2 is.core is.part (packetEntry (s.nextId + 1) f id r.1)) f (s.nextId + 1))
    | .trap c d => .traps (trapAt c d (BitVec.ofNat 64 ea.toNat))
    | .page k => pageActAs s' f is.pc ea.toNat k (accCode .ms 2) cmbregRec true i x

/-- OSENT (R415, R416): with two sections held, or one whose key is not lower, class 7 detail 0x03; else the fibre waits for its turn. -/
def osentAct (o : BodyK) (s : State) (is : Issue) (s' : State) (l : Nat) (x : Fibre) : LaneAct :=
  let f := is.fref l
  let key := pairSrc x 0 o.a
  let n := regOf x o.b.toNat
  if 2 ≤ x.heldKeys.length ∨ (x.heldKeys.any fun k => decide (key ≤ k.1)) then .traps { trapOf 7 0x03 with aux := key }
  else
    let id := s'.nextId + 1
    let s1 := modFib { s' with nextId := id } f fun x => { addLL x id with waits := x.waits ++ [.ordered is.pc key n (predNum o.c) id id] }
    .does (sendSection (addAcc s1 f { plainAcc id .ms with acq := sectionBits }) is (s.nextId + 1) 0 f x id key n)

/-- OSLEAVE (R417): of a section the fibre does not hold, class 7 detail 0x02; else it is held no more and a release goes to its home. -/
def osleaveAct (o : BodyK) (s : State) (is : Issue) (s' : State) (l : Nat) (x : Fibre) : LaneAct :=
  let f := is.fref l
  let key := pairSrc x 0 o.a
  match x.heldKeys.find? fun k => k.1 = key with
  | none => .traps { trapOf 7 0x02 with aux := key }
  | some k =>
    let id := s'.nextId + 1
    let s1 := modFib { s' with nextId := id } f fun x => { x with
      heldKeys := x.heldKeys.filter fun k => k.1 ≠ key
      origin := { x.origin with pixelLeft := x.origin.pixelLeft || x.origin.pixelKey == some key } }
    .does (sendSection (addAcc s1 f { plainAcc id .ms with rel := sectionBits }) is (s.nextId + 1) 1 f x id key k.2)

/-- OSSKIP (R417): the fibre waits for the home's acknowledgement. -/
def osskipAct (o : BodyK) (s : State) (is : Issue) (s' : State) (l : Nat) (x : Fibre) : LaneAct :=
  let f := is.fref l
  let key := pairSrc x 0 o.a
  let n := regOf x o.b.toNat
  let id := s'.nextId + 1
  let s1 := modFib { s' with nextId := id } f fun x => { x with waits := x.waits ++ [.skip is.pc key n id] }
  .does (sendSection (addAcc s1 f (plainAcc id .ms)) is (s.nextId + 1) 2 f x id key n)

/-- BARARV, BARWT and BARAW (R420): a barrier not initialised is protection 0x0B (R278). -/
def barAct (o : BodyK) (arrive wait : Bool) (_s : State) (is : Issue) (s' : State) (l : Nat) (_x : Fibre) : LaneAct :=
  let f := is.fref l
  let num := o.num.toNat % 32
  if (barOf s' is.core (barTeam s' f) num).v then
    let s1 := if arrive then arriveLane s' f num else s'
    let s2 := if wait then waitLane s1 is f o num else s1
    .does (if arrive then pollArrivals s2 f else s2)
  else .traps (trapOf 4 0x0B)

/-! ## Messages and records -/

/-- Where a packet of SEND, REPLY, EMIT or HITPUT goes (R225, R226, R290): a full request share is class 5 detail 0, a sixteenth held packet
detail 1, then the instruction's own trap; held in an activation, else recorded as a release. -/
def sentAct (s : State) (is : Issue) (eid : Nat) (f : FRef) (p : Packet) (own : Option TrapInfo) : LaneAct :=
  match getFib s f with
  | none => .other
  | some x =>
    if p.vc = .ureq ∧ (fsrHA x ∨ ! isLoop is.core p) ∧ 96 ≤ requestUsed s is.core then .trapsIn (bump s f.core 0x028 1) (trapOf 5 0)
    else if fsrHA x ∧ 16 ≤ heldCount s f then .trapsIn (bump s f.core 0x028 1) (trapOf 5 1)
    else
      match own with
      | some t => .trapsIn s t
      | none => .does (sendPacket s is eid f p)

/-- SEND (R421-R423). -/
def sendAct (o : BodyK) (s : State) (is : Issue) (s' : State) (l : Nat) (x : Fibre) : LaneAct :=
  let f := is.fref l
  let t := if o.c = 0 then 0 else (regOf x o.c.toNat).toNat % 2 ^ 18
  let d := regOf x o.a.toNat
  let words := regsFrom x o.b.toNat (o.mlen.toNat + 1)
  let w := (words.getD 15 0).toNat
  let r := userPacket s' f o.cls.toNat (d.toNat % 1024) (fld d.toNat 13 10) (BitVec.ofNat 18 t) words
  sentAct r.2 is (s.nextId + 1) f r.1 (if t / 2 ^ 17 = 1 ∨ fld t 16 15 = 3 ∨ (o.mlen = 15#4 ∧ (w / 2 ^ 18 ≠ 0 ∨ fld w 17 15 ≠ 1)) then some (trapOf 0 0x05)
    else if destBad r.2 f d then some (trapOf 4 0x07) else none)

/-- SENDR (R424): a result to come, an acquire and release record, and the packet in the issue buffer. -/
def sendrAct (o : BodyK) (s : State) (is : Issue) (s' : State) (l : Nat) (x : Fibre) : LaneAct :=
  let f := is.fref l
  let d := regOf x o.a.toNat
  if fsrRST x then .traps (trapOf 0 0x0E)
  else
    let words := (regsFrom x o.b.toNat (o.mlen.toNat + 1) ++ List.replicate 16 0).take 15
    let r := userPacket s' f o.cls.toNat (d.toNat % 1024) (fld d.toNat 13 10) 0 words
    if r.1.vc = .ureq ∧ ! isLoop is.core r.1 ∧ 96 ≤ requestUsed r.2 is.core then .trapsIn (bump r.2 f.core 0x028 1) (trapOf 5 0)
    else if destBad r.2 f d then .trapsIn r.2 (trapOf 4 0x07)
    else
      let id := r.2.nextId + 1
      let s2 := recorded { r.2 with nextId := id } f true { plainAcc id .ms with acq := fibreBits, rel := fibreBits } id
      .does (waitEntry (bufAdd s2 is.core is.part
        { entry := s.nextId + 1, f := f, pc := is.pc, acc := id, cmd := .sendr r.1 id o.d.toNat (o.num.toNat % 16 + 1) (predNum o.c) }) f (s.nextId + 1))

/-- REPLY (R298, R425): to the sender of the fibre's message with the tag of its word 15, or a fault reply; without a reply address
an illegal operand trap. -/
def replyAct (o : BodyK) (s : State) (is : Issue) (s' : State) (l : Nat) (x : Fibre) : LaneAct :=
  let f := is.fref l
  let words := regsFrom x o.b.toNat (o.mlen.toNat + 1)
  match x.origin.faultSlot with
  | some (_, core, slot, gen) =>
    let r := newPacket s' .sys 0x08 is.core core (pkgNum s') 1 (x.origin.word15.setWidth 18) (.faultAnswer slot gen (words.getD 0 0) (words.getD 1 0))
    sentAct r.2 is (s.nextId + 1) f r.1 none
  | none =>
    let r := newPacket s' .ursp 0x01 is.core (srcCore x.origin.src) (fld x.origin.src.toNat 13 10) 1 (x.origin.word15.setWidth 18) (.user words)
    sentAct r.2 is (s.nextId + 1) f r.1 (if x.origin.hasReply then none else some (trapOf 0 0x05))

/-- MBOX (R429): PRV 0b00 traps; the oldest message of the inbox leaves it and is the result, C 1; an empty inbox gives C 0 alone. -/
def mboxAct (o : BodyK) (_s : State) (is : Issue) (s' : State) (l : Nat) (x : Fibre) : LaneAct :=
  let f := is.fref l
  let id := s'.nextId + 1
  let s1 := { s' with nextId := id }
  if fsrPRV x = 0 then .traps (trapOf 4 0x07)
  else
    match (getCore s' is.core).inbox with
    | [] => .does (modFib s1 f fun x => addKnown x id (statusEff o.c false))
    | m :: rest =>
      let hd : DWord := BitVec.ofNat 64 (entryHeader m 0 0 0)
      .does (modFib (modCore s1 is.core fun k => { k with inbox := rest }) f fun x => addKnown x id
        (regsEff o.d.toNat ([loHalf hd, hiHalf hd] ++ (m.words ++ List.replicate 16 0).take 16) ++ statusEff o.c true))

/-- MBOX.rp (R429): the message that D and the registers after it hold goes to the loop-back port; C is 1. -/
def mboxRpAct (o : BodyK) (s : State) (is : Issue) (s' : State) (l : Nat) (x : Fibre) : LaneAct :=
  let f := is.fref l
  let v := (pairSrc x 0 o.d).toNat
  let id := s'.nextId + 1
  let s1 := modFib { s' with nextId := id } f fun x => addKnown x id (statusEff o.c true)
  let r := newPacket s1 (vcOf (fld v 35 33)) (fld v 28 24) is.core is.core (pkgNum s1) 1 (BitVec.ofNat 18 v)
    (.user (replayWords x o v))
  if fsrPRV x = 0 then .traps (trapOf 4 0x07)
  else .does (waitEntry (bufAdd r.2 is.core is.part (packetEntry (s.nextId + 1) f 0
    { r.1 with cls := fld v 32 29, src := placeAt (fld v 45 40) (fld v 39 36), spkg := fld v 49 46, dpkg := fld v 49 46 })) f (s.nextId + 1))

/-- EMIT (R430): the record goes to the home of an open work-graph queue; any other name is protection 0x02. -/
def emitAct (o : BodyK) (s : State) (is : Issue) (s' : State) (l : Nat) (x : Fibre) : LaneAct :=
  let f := is.fref l
  if fsrRST x then .traps (trapOf 0 0x0E)
  else
    let q := emitQueue s' f (o.num.toNat % 8) (regOf x o.a.toNat).toNat
    let home := ((tget (getSlice s' (sliceOf s' f)).recQueues (extTask s' f, q.getD 0)).map RecQueue.home).getD is.core
    let r := newPacket s' .hit 0x03 is.core home (pkgNum s') 1 0
      (.work (sliceOf s' f) (extTask s' f) (q.getD 0) ((regsFrom x o.b.toNat (o.mlen.toNat + 1) ++ List.replicate 16 0).take 16))
    sentAct r.2 is (s.nextId + 1) f r.1 (if q.isNone then some (trapOf 4 0x02) else none)

/-! ## Instructions that act once for their batch, and the matrix instructions -/

/-- An instruction that acts once for its batch (R338, R361): where it issues and `cond` holds, it answers `t`. -/
def ActsAsOne (i : Instr) (h : Head) (ops : Named) (cond : State → Issue → List Nat → Prop) (t : State → Issue → List Nat → State) : Prop :=
  ∀ (s : State) (is : Issue) (act : List Nat), Issues s h ops is act → cond s is act →
    exec i s = .next (entered i is act (t s is act))

/-- The lowest active fibre, for which an instruction that is performed once is performed. -/
def low (is : Issue) (act : List Nat) : FRef := is.fref (act.headD 0)

/-- An instruction that is performed once, for its lowest active fibre `x`: where it issues and `cond` holds, it answers `t`. -/
def ActsForLowest (i : Instr) (h : Head) (ops : Named) (cond : State → Issue → List Nat → Fibre → Prop)
    (t : State → Issue → List Nat → Fibre → State) : Prop :=
  ∀ (s : State) (is : Issue) (act : List Nat) (x : Fibre), Issues s h ops is act → getFib s (low is act) = some x → cond s is act x →
    exec i s = .next (entered i is act (t s is act x))

/-- The mask bits that the lanes of a CMASK keep and set, each lane over those below it (R427). -/
def maskBits (s : State) (is : Issue) (o : BodyK) (act : List Nat) : BitVec 16 × BitVec 16 :=
  act.foldl (fun m l => match getFib s (is.fref l) with
    | some x => (m.1 &&& ~~~ (regOf x o.b.toNat).setWidth 16, (m.2 &&& ~~~ (regOf x o.b.toNat).setWidth 16) |||
        ((regOf x o.a.toNat).setWidth 16 &&& (regOf x o.b.toNat).setWidth 16))
    | none => m) (0xFFFF, 0)

/-- An instruction whose result for a lane is computed from the operands of all active lanes (R362): each active lane gains its pending
effects, and nothing else changes. -/
def LandsTogether (table : Instr → Option (Head × Nat × (State → Issue → List Nat → Nat → Fibre → List Eff))) : Prop :=
  ∀ (i : Instr) (h : Head) (dist : Nat) (eff : State → Issue → List Nat → Nat → Fibre → List Eff), table i = some (h, dist, eff) →
    ∀ (s : State) (is : Issue) (act : List Nat), Issues s h (namedOf i) is act →
      ∃ t, exec i s = .next t ∧
        (∀ l ∈ act, ∀ x, getFib s (is.fref l) = some x → getFib t (is.fref l) = some (addPends x dist (eff s is act l x))) ∧
        (∀ f, (∀ l ∈ act, f ≠ is.fref l) → getFib t f = getFib s f) ∧
        { t with fibres := s.fibres } = s

/-- The instructions over the active fibres (R362, R442): ELECT, VOTE, SHFL and BRED. -/
def collective : Instr → Option (Head × Nat × (State → Issue → List Nat → Nat → Fibre → List Eff))
  | .elect h o => some (h, 2, fun _ _ act l _ => destEff o.d (if some l = act.head? then 1 else 0))
  | .vote h o => some (h, 2, fun s is act _ _ => destEff o.d (resVote h.mod.toNat (laneValues s is act o.imm o.a)))
  | .shfl h o => some (h, 2, fun s is act l x =>
      destEff o.d (((shflLane h.mod.toNat l (srcOf s is l x o.imm o.b)).bind fun n => tget (laneValues s is act o.imm o.a) n).getD (srcOf s is l x o.imm o.c)))
  | .bred h o => some (h, 6, fun s is act _ _ =>
      let low := getFib s (is.fref (act.headD 0))
      floatEff o.d (resBred (h.mod.toNat / 8 % 8) ((low.map (rndOf h)).getD 0) ((low.map fsrFTZ).getD false)
        (act.filterMap fun l => (getFib s (is.fref l)).map fun x => srcOf s is l x o.imm o.a)))
  | _ => none

/-- No active fibre is restartable (R433). -/
def NoneRestartable (s : State) (is : Issue) (act : List Nat) : Prop :=
  ∀ l ∈ act, ∀ x, getFib s (is.fref l) = some x → fsrRST x = false

/-- The lowest active fibre's team, number `n`, holds the tiles `first` to `last` under a lease (R445, R448). -/
def Leased (s : State) (is : Issue) (act : List Nat) (n first last : Nat) : Prop :=
  (∃ tm, teamOf s (low is act) = some (n, tm)) ∧ ∃ e, leaseOf s is.core n = some e ∧ e.2.first ≤ first ∧ last < e.2.first + e.2.count

/-- SPAWN to the target `t` (R355): each active fibre waits with what its fibre to come is given, and the placing is tried at once. -/
def spawnNow (o : BodyB) (h : Head) (s : State) (is : Issue) (act : List Nat) (t : Nat) (x : Fibre) : State :=
  let k := (regOf x o.a.toNat).toNat % 64
  let allot := if h.mod = 0#8 then allotOf s (is.fref 0) else 8 * h.mod.toNat
  let id := s.nextId + 1
  trySpawn (eachLane act (fun s l => modFib s (is.fref l) fun x => { x with
    waits := x.waits ++ [.spawn id k allot (BitVec.ofNat 32 t) (regsFrom x 1 7 ++ [specialOf s (is.fref l) x is.lanes 0x110])] })
    { s with nextId := id }) is.core is.slot id

/-- A conversion (R89, R380-R383): every fibre of the batch consumes its prefix; each whose guard holds gains its pending result at
distance 4, where the format named by its prefix, or by the instruction, is one the instruction takes and its registers exist (`eff` is
then its effects). Nothing else changes. -/
def ConvertsLanes (i : Instr) (h : Head) (eff : Option Nat → State → Issue → Nat → Fibre → Option (List Eff)) : Prop :=
  ∀ (s : State) (is : Issue) (effs : Nat → List Eff), issuing s = some is → is.lanes.Nodup →
    (∀ l ∈ is.lanes, ∀ x, getFib s (is.fref l) = some x → guardOf h x = true →
      eff (if fsrPP x then some (fsrPFMT x) else none) s is l x = some (effs l)) →
      ∃ t, exec i s = .next t ∧
        (∀ l ∈ is.lanes, ∀ x, getFib s (is.fref l) = some x →
          getFib t (is.fref l) = some (if guardOf h x then addPends (clearPrefix x) 4 (effs l) else clearPrefix x)) ∧
        (∀ f, (∀ l ∈ is.lanes, f ≠ is.fref l) → getFib t f = getFib s f) ∧
        { t with fibres := s.fibres } = s

/-- The effects of CVT (R381) under the prefix's format `pf`; none where a check refuses it. -/
def cvtEffs (h : Head) (o : BodyA) (pf : Option Nat) (s : State) (is : Issue) (l : Nat) (x : Fibre) : Option (List Eff) :=
  let dst := h.mod.toNat / 16
  let u := h.mod.getLsbD 3
  let f := pf.getD (o.c.toNat % 16)
  let refused : Bool := pf.isSome && (decide (o.b ≠ 0 ∧ f ≠ 10) || (u && ! isIntFmt dst && ! isIntFmt f) ||
    (decide (f = 1) && (decide (o.a.toNat < 0x100 ∧ o.a.toNat % 2 = 1) || decide (0x100 ≤ o.a.toNat ∧ o.a ≠ 0x140#9))))
  let ops : Named := (0, o.d, if dst = 1 then 2 else 1) :: (1, o.a, if f = 1 then 2 else 1) :: (if f = 10 then [(2, o.b, 1)] else [])
  if refused ∨ outOfRange (allotOf s (is.fref l)) ops ≠ none then none
  else
    let bits := if f = 1 then (pairSrc x o.imm o.a).toNat else (srcOf s is l x o.imm o.a).toNat
    let v := sourceValue f u (fsrFTZ x) (getCore s is.core).i4t bits (srcOf s is l x o.imm o.b).toNat
    some (convEff (dst = 1) o.d (convertTo dst u (isIntFmt f) (fsrFTZ x) (rndOf h x) v))

/-- The effects of CVTN (R382). -/
def cvtnEffs (h : Head) (o : BodyA) (pf : Option Nat) (s : State) (is : Issue) (l : Nat) (x : Fibre) : Option (List Eff) :=
  let f := pf.getD 2
  let one := fun (c : Code) => convertTo (h.mod.toNat / 16) false (isIntFmt f) (fsrFTZ x) (rndOf h x)
    (sourceValue f false (fsrFTZ x) (getCore s is.core).i4t (srcOf s is l x o.imm c).toNat 0)
  if (f = 2 ∨ f = 3 ∨ f = 4 ∨ f = 7 ∨ f = 8) ∧ outOfRange (allotOf s (is.fref l)) (namedOf (.cvtn h o)) = none then
    some (floatEff o.d (placeNarrow (h.mod.toNat / 16 < 5) (h.mod.getLsbD 3) (one o.a).1 (one o.b).1 (srcOf s is l x o.imm o.c).toNat,
      (one o.a).2 ||| (one o.b).2))
  else none

/-- The effects of CVTW (R383). -/
def cvtwEffs (h : Head) (o : BodyA) (pf : Option Nat) (s : State) (is : Issue) (l : Nat) (x : Fibre) : Option (List Eff) :=
  let dst := if h.mod.getLsbD 5 then 7 else if h.mod.getLsbD 3 then 1 else 2
  let u := h.mod.getLsbD 4
  let f := pf.getD (o.c.toNat % 16)
  let m := if f < 5 then 2 else if f = 9 then 8 else 4
  let bits := (srcOf s is l x o.imm o.a).toNat / 2 ^ (32 / m * ((srcOf s is l x o.imm o.b).toNat % m)) % 2 ^ (32 / m)
  if (f = 3 ∨ f = 4 ∨ f = 5 ∨ f = 6 ∨ f = 8 ∨ f = 9) ∧ outOfRange (allotOf s (is.fref l)) (namedOf (.cvtw h o)) = none then
    some (convEff (dst = 1) o.d (convertTo dst u (isIntFmt f) (fsrFTZ x) (rndOf h x) (sourceValue f u (fsrFTZ x) (getCore s is.core).i4t bits 0)))
  else none

/-- The barrier slot that an issue-buffer entry asks another core to write: core, slice, task, cluster, number, mask, count (R278). -/
def barSetOf (e : BufEntry) : Option (Nat × Nat × Nat × Nat × Nat × BitVec 7 × Nat) :=
  match e.cmd with
  | .packet p _ => (match p.body with
    | .barSet sl t cl n m lexp _ _ => some (p.dst, sl, t, cl, n, m, lexp)
    | _ => none)
  | _ => none

/-! ## Rays, raster, pumps, encoders -/

/-- TRV (R463): a result to come and a record on TR; the ray of sixteen registers waits for a ray slot. -/
def trvAct (o : BodyX) (s : State) (is : Issue) (s' : State) (l : Nat) (x : Fibre) : LaneAct :=
  let f := is.fref l
  let id := s'.nextId + 1
  .does (waitEntry (bufAdd (recorded { s' with nextId := id } f true { plainAcc id .tr with writes := false } id) is.core is.part
    { entry := s.nextId + 1, f := f, pc := is.pc, acc := id, cmd := .ray (regsFrom x o.b.toNat 16) (some (f, id, o.d.toNat, o.b.toNat)) }) f (s.nextId + 1))

/-- RAYSEND (R464, R265): to the nearest replica of its treelet; with none, its final record goes to its hit queue, or is counted. -/
def raysendAct (o : BodyK) (s : State) (is : Issue) (s' : State) (l : Nat) (x : Fibre) : LaneAct :=
  let f := is.fref l
  let w := setStatus (regsFrom x o.b.toNat 16) 0
  match chooseReplica s' is.core (rayTreelet w) none with
  | some d =>
    if fsrHA x ∧ 16 ≤ heldCount s' f then .trapsIn (bump s' f.core 0x028 1) (trapOf 5 1)
    else
      let r := newPacket s' .ray 0x01 is.core d (pkgNum s') 1 0 (.ray w 0 none)
      .does (waitEntry (bufAdd r.2 is.core is.part { entry := s.nextId + 1, f := f, pc := is.pc, acc := 0, cmd := .packet r.1 (fsrHA x) }) f (s.nextId + 1))
  | none =>
    let w := finalWords w 4 (0, 0)
    match hitQueue s' (sliceOf s' f) (rayQueue w).1 (rayQueue w).2 with
    | none => .does (bump s' is.core 0x004 1)
    | some q =>
      let r := newPacket s' .hit 0x01 is.core q.2 (pkgNum s') 1 0 (.hit (sliceOf s' f) (rayQueue w).1 q.1 w)
      sentAct r.2 is (s.nextId + 1) f r.1 none

/-- RAYSEND.local (R69, R464): the ray waits for a ray slot of this core, and nobody waits for it; an activation holds it until HEND (the model's
choice, log 85). -/
def raysendLocalAct (o : BodyK) (s : State) (is : Issue) (s' : State) (l : Nat) (x : Fibre) : LaneAct :=
  let f := is.fref l
  let w := setStatus (regsFrom x o.b.toNat 16) 0
  if ¬ fsrHA x then .does (waitEntry (bufAdd s' is.core is.part { entry := s.nextId + 1, f := f, pc := is.pc, acc := 0, cmd := .ray w none }) f (s.nextId + 1))
  else if 16 ≤ heldCount s' f then .trapsIn (bump s' f.core 0x028 1) (trapOf 5 1)
  else
    let r := newPacket s' .ray 0x01 is.core is.core (pkgNum s') 1 0 (.ray w 0 none)
    .does (waitEntry (bufAdd r.2 is.core is.part { entry := s.nextId + 1, f := f, pc := is.pc, acc := 0, cmd := .packet r.1 true }) f (s.nextId + 1))

/-- HITPUT (R464): a final record to its hit queue; STATUS 0 is an illegal operand, a queue that is none is protection 0x02. -/
def hitputAct (o : BodyK) (s : State) (is : Issue) (s' : State) (l : Nat) (x : Fibre) : LaneAct :=
  let f := is.fref l
  let w := regsFrom x o.b.toNat 16
  let q := hitQueue s' (sliceOf s' f) (rayQueue w).1 (rayQueue w).2
  let r := newPacket s' .hit 0x01 is.core (q.getD (0, 0)).2 (pkgNum s') 1 0 (.hit (sliceOf s' f) (rayQueue w).1 (q.getD (0, 0)).1 w)
  sentAct r.2 is (s.nextId + 1) f r.1 (if rayStatus w = 0 then some (trapOf 0 0x05) else if q.isNone then some (trapOf 4 0x02) else none)

/-- A TLOAD command in the issue buffer with its record on TR (R465). -/
def tloadSent (s : State) (is : Issue) (eid kind : Nat) (f : FRef) (x : Fibre) (o : BodyX) (size : Nat) : State :=
  let id := s.nextId + 1
  waitEntry (bufAdd (addAcc { s with nextId := id } f (plainAcc id .tr)) is.core is.part
    { entry := eid, f := f, pc := is.pc, acc := id, cmd := .tload (tloadCmd s kind f x o id size) }) f eid

/-- TLOAD of a treelet (R465): source and offset 64-byte aligned, inside the treelet area, readable; a size of zero is refused. -/
def tloadAct (i : Instr) (o : BodyX) (s : State) (is : Issue) (s' : State) (l : Nat) (x : Fibre) : LaneAct :=
  let f := is.fref l
  let d := (regOf x o.d.toNat).toNat
  let size := if fld d 15 15 = 1 then 0 else 64 * fld d 31 16
  let off := (regOf x o.b.toNat).toNat
  if fsrRST x then .traps (trapOf 0 0x0E)
  else
    match checkBlock s' f x .rd (pairSrc x 0 o.a) 0 64 with
    | some (va, .trap c d) => .traps (trapAt c d (BitVec.ofNat 64 va))
    | some (va, .page k) => pageAct s' f is.pc va k .tr 0 i x
    | some _ => .other
    | none =>
      if off % 64 ≠ 0 then .traps (trapAt 2 0 (BitVec.ofNat 64 off))
      else if 0x3C0000 < off + size then .traps (trapAt 4 0x03 (BitVec.ofNat 64 off))
      else
        match checkBlock s' f x .rd (pairSrc x 0 o.a) size 64 with
        | some (va, .trap c d) => .traps (trapAt c d (BitVec.ofNat 64 va))
        | some (va, .page k) => pageAct s' f is.pc va k .tr 0 i x
        | some _ => .other
        | none => .does (if size = 0 then refuseCommand s' f o.cidx.toNat else tloadSent s' is (s.nextId + 1) 0 f x o size)

/-- TLOAD.tds and TLOAD.rds (R465, R467): privileged; a set number over `bits` bits is refused. -/
def tdescAct (i : Instr) (o : BodyX) (kind bits : Nat) (s : State) (is : Issue) (s' : State) (l : Nat) (x : Fibre) : LaneAct :=
  let f := is.fref l
  if fsrRST x then .traps (trapOf 0 0x0E)
  else if fsrPRV x = 0 then .traps (trapOf 4 0x07)
  else
    match checkBlock s' f x .rd (pairSrc x 0 o.a) 32 1 with
    | some (va, .trap c d) => .traps (trapAt c d (BitVec.ofNat 64 va))
    | some (va, .page k) => pageAct s' f is.pc va k .tr 0 i x
    | some _ => .other
    | none => .does (if (regOf x o.d.toNat).toNat / 2 ^ bits ≠ 0 then refuseCommand s' f o.cidx.toNat else tloadSent s' is (s.nextId + 1) kind f x o 32)

/-- TOWN (R466): the directory write, bits [19:0] clear, goes to router (17, 0); a replica that is no ray core of the slice is a privilege
trap, an entry number over 12 bits protection 0x0E. -/
def townAct (o : BodyX) (s : State) (is : Issue) (s' : State) (l : Nat) (x : Fibre) : LaneAct :=
  let f := is.fref l
  let b := (regOf x o.b.toNat).toNat
  let v := (pairSrc x 0 o.a).toNat
  let sl := sliceOf s' f
  let bad := (List.range 4).any fun j =>
    decide (fld v (60 + j) (60 + j) = 1) && ! (decide (fld v (29 + 10 * j) (20 + 10 * j) < 576) && isRay (fld v (29 + 10 * j) (20 + 10 * j)) &&
      (getCore s' (fld v (29 + 10 * j) (20 + 10 * j))).slice == some sl)
  if fsrRST x then .traps (trapOf 0 0x0E)
  else if b / 2 ^ 12 ≠ 0 then .traps (trapOf 4 0x0E)
  else if bad then .traps (trapOf 4 0x07)
  else
    let id := s'.nextId + 1
    let r := newPacket (addAcc { s' with nextId := id } f (plainAcc id .tr)) .sys 0x09 is.core hostPort (pkgNum s') 1 0
      (.town sl b (BitVec.ofNat 64 (v / 2 ^ 20 * 2 ^ 20)) [] f (((teamOf s' f).map Prod.fst).getD 64) o.cidx.toNat id)
    .does (waitEntry (bufAdd r.2 is.core is.part (packetEntry (s.nextId + 1) f id r.1)) f (s.nextId + 1))

/-- RATE (R470): a canonical, 64-byte aligned image address goes to router (17, 0) with the entry number and the control word. -/
def rateAct (o : BodyS) (s : State) (is : Issue) (s' : State) (l : Nat) (x : Fibre) : LaneAct :=
  let f := is.fref l
  let img := pairSrc x 0 o.a
  if img.toNat / 2 ^ 48 ≠ 0 then .traps (trapAt 4 0x01 img)
  else if img.toNat % 64 ≠ 0 then .traps (trapAt 2 0 img)
  else
    let id := s'.nextId + 1
    let r := newPacket (addAcc { s' with nextId := id } f (plainAcc id .ls)) .sys 0x09 is.core hostPort (pkgNum s') 1 0
      (.rate (sliceOf s' f) (o.imm.toNat % 64) img (regOf x o.b.toNat) f id)
    .does (waitEntry (bufAdd r.2 is.core is.part (packetEntry (s.nextId + 1) f id r.1)) f (s.nextId + 1))

/-- DISCARD of a fibre that shades a pixel (R72, R471): its pixel's section is skipped unless it has left or holds it, the sections it holds
are left, and it ends; any other fibre ends as by FEND. -/
def discardAct (s : State) (is : Issue) (s' : State) (l : Nat) (x : Fibre) : LaneAct :=
  let f := is.fref l
  match x.origin.pixelKey with
  | none => if fsrHA x then activationEndAct true s is s' l x else endAct s is s' l x
  | some key =>
    let id := s'.nextId + 1
    let s1 := if x.origin.pixelLeft ∨ (x.heldKeys.any fun k => k.1 = key) then s'
      else sendSection (addAcc { s' with nextId := id } f (plainAcc id .ms)) is (s.nextId + 1) 2 f x id key x.origin.seq
    .does (endFibre (x.heldKeys.foldl (fun t k => leaveSection t is (s.nextId + 1) f k.1 k.2) s1) f)

/-- A PUMP whose words are well-formed and whose operands pass their checks (R472, R473): its command goes to the
stack's controller; a malformed one completes at once with ST 0x03, one without operands with ST 0. -/
def pumpAct (i : Instr) (o : BodyX) (s : State) (is : Issue) (s' : State) (l : Nat) (x : Fibre) : LaneAct :=
  let f := is.fref l
  let w := regsFrom x o.b.toNat 16
  let ops := pumpOperands w
  let opc := (rayW w 0).toNat % 16
  if fsrRST x then .traps (trapOf 0 0x0E)
  else if ¬ pumpFormed w then .does (refuseCommand s' f o.cidx.toNat)
  else
    match pumpCheck s' f x ops with
    | .error (.fails va (.trap c d), _) => .traps (trapAt c d (BitVec.ofNat 64 va))
    | .error (.fails va (.page k), wr) => pageAct s' f is.pc va k .pm (if wr then 1 else 0) i x
    | .error (.moving pa, _) => .does (modFib (addAcc { s' with nextId := s'.nextId + 1 } f (plainAcc (s'.nextId + 1) .pm)) f fun y => { y with
        waits := y.waits ++ [.migrating is.pc i x.regs (s'.nextId + 1) pa] })
    | .error _ => .other
    | .ok pas =>
      let id := s'.nextId + 1
      let s1 := addAcc { s' with nextId := id } f (plainAcc id .pm)
      if ops = [] then .does (accDone (countCompletion s1 is.core (((teamOf s1 f).map Prod.fst).getD 64) o.cidx.toNat 0 0) f id)
      else
        let written := if opc = 4 then ops.getLast? else ops.head?
        let c : PumpCmd := {
          op := opc, fmt := (rayW w 0).toNat / 16, n := (rayW w 1).toNat, y := if (rayW w 1).toNat = 0 then 0 else pas.getD 0 0, x := if opc = 4 then 0 else pas.getD 1 0
          r := if opc = 4 then pas.getLastD 0 else 0, alpha := rayW w 6, beta := rayW w 7, f := f, slice := sliceOf s1 f, who := whoWord (taskOf s1 f) x.gen f.slot f.core, team := ((teamOf s1 f).map Prod.fst).getD 64
          cidx := o.cidx.toNat, acc := id, seq := id, status := 0, first := 0, acks := 0
          homes := match written with | some (a, b, _) => granuleHomes s1 f x a b | none => [], running := false, finished := false }
        let r := newPacket s1 .mreq 0x09 is.core (stackRouter (stackOf (pas.headD 0))) (pkgNum s1) 1 (replyTag x.gen id) (.pumpCmd c)
        .does (waitEntry (bufAdd r.2 is.core is.part (packetEntry (s.nextId + 1) f id r.1)) f (s.nextId + 1))

/-- MWAIT and PUMPW (R457, R474): with index 0 the wait ends when the fibre's earlier commands have; else at the count in A. -/
def drainAct (o : BodyX) (pump : Bool) (_s : State) (is : Issue) (s' : State) (l : Nat) (x : Fibre) : LaneAct :=
  let id := s'.nextId + 1
  .does (putFib { s' with nextId := id } (is.fref l) { addLL x id with
    waits := x.waits ++ [if o.cidx = 0 then .drained id o.d.toNat id pump else .completion o.cidx.toNat ((regOf x o.a.toNat).setWidth 16) id o.d.toNat] })

/-- ENCQ (R475): the slice must own an encoder and the descriptor be readable; the frame waits in the issue buffer. -/
def encqAct (i : Instr) (o : BodyX) (s : State) (is : Issue) (s' : State) (l : Nat) (x : Fibre) : LaneAct :=
  let f := is.fref l
  let sl := sliceOf s' f
  if fsrRST x then .traps (trapOf 0 0x0E)
  else
    match checkBlock s' f x .rd (pairSrc x 0 o.a) 64 1 with
    | some (va, .trap c d) => .traps (trapAt c d (BitVec.ofNat 64 va))
    | some (va, .page k) => pageAct s' f is.pc va k .ls 0 i x
    | some _ => .other
    | none => if ¬ (getSlice s' sl).enc.getLsbD 7 then .traps (trapOf 4 0x07) else .does (waitEntry (bufAdd s' is.core is.part { entry := s.nextId + 1, f := f, pc := is.pc, acc := 0, cmd := .frame sl {
        desc := pairSrc x 0 o.a, f := f, team := ((teamOf s' f).map Prod.fst).getD 64, uid := ((teamOf s' f).map fun t => t.2.uid).getD 0
        prv := fsrPRV x, cidx := o.cidx.toNat } }) f (s.nextId + 1))

/-- RINGQ (R450), per lane: a result to come, sampled when the entry reaches the block. -/
def ringqAct (o : BodyX) (s : State) (is : Issue) (s' : State) (l : Nat) : State :=
  let f := is.fref l
  let id := s'.nextId + 1
  waitEntry (bufAdd (modFib { s' with nextId := id } f fun x => addLL x id) is.core is.part
    { entry := s.nextId + 1, f := f, pc := is.pc, acc := 0, cmd := .ringQ o.qa.toNat id o.d.toNat }) f (s.nextId + 1)

/-! ## The device's own steps -/

/-- The packet `p` of identity `id`, whose body is `b`, stands at its destination. -/
def Arrived (s : State) (id : Nat) (p : Packet) (b : Body) : Prop := arrivedPacket s id = some p ∧ p.body = b

/-- The steps that act on one packet at its destination (R210). -/
def packetSteps : List (Nat → Instr) :=
  [.longLatencyResult, .launchMessage, .codeLine, .shapeStore, .startMessage, .workGraphRecord, .userMessage, .readRequest, .writeRequest,
   .atomicRequest, .reductionRequest, .rangeRequest, .writeAcknowledgement, .combineRequest, .sectionRequest, .sectionGrant, .sectionDeadlockProbe,
   .sectionWaitWithdrawal, .barrierArrivalPacket, .barrierCompletion, .leaseRequest, .matrixCommand, .engineCompletion, .rayMessage, .hitRecord,
   .treeletTransfer, .pumpCommand, .pumpInvalidation, .invalidationAcknowledgement, .migrationControl, .migrationBlock, .faultBatch, .faultReply,
   .shootDown, .shootDownAcknowledgement, .promotionRequest, .promotionAcknowledgement, .errorLogEntry, .creditReturn]

/-- The wait of a fibre that a time limit ends: the first of its kind whose limit the clock has reached. -/
def dueWait (s : State) (f : FRef) (limit : Wait → Option DWord) : Option Wait :=
  (getFib s f).bind fun x => x.waits.find? fun w => match limit w with | some l => reached s l | none => false

/-- The time limit of a PARK. -/
def parkLimit : Wait → Option DWord
  | .park _ l => l
  | _ => none
/-- The clock after the time limit of a barrier wait: a completion of the limit's own clock still counts (R73, R279). -/
def barrierLimit : Wait → Option DWord
  | .barrier _ _ _ l _ _ _ => l.map (· + 1)
  | _ => none
/-- The time limit of a QUIESCE. -/
def quiesceLimit : Wait → Option DWord
  | .quiesce _ l _ _ => l
  | _ => none

/-- The messages of an inbox that are bound to a binding, oldest first (R68, R244). -/
def bindingMessages (s : State) (core binding : Nat) : List Msg :=
  (getCore s core).inbox.filter fun m => ! classMasked (getCore s core) m.cls && bindingOf s core ((getCore s core).slice.getD 0) m.cls m.tags == some binding

/-- A request at its home that nothing holds back: no earlier request of its source for its bytes, room in the replay filter, a slice that is
neither retired nor under test, no release of its clock to go first, no paused channel that it or an eviction for it needs, no migration of its page (R120, R128, R141,
R144, R176, R203, R207, R305, R308). -/
structure Unheld (s : State) (p : Packet) (l : List LaneReq) (pc : Nat) : Prop where
  piece : reqPiece l = some pc
  first : requestBlocked s p = false
  replayRoom : filterFull s p.dst p l = false
  alive : (getCore s p.dst).l2Failed = false
  untested : l2Testing s p.dst = false
  alone : tieWaits s p l = false
  running : ¬ (channelPaused s (pc * 64) = true ∧ ((l2Piece (getCore s p.dst) pc).isNone = true ∨ l.any LaneReq.wt = true))
  roomRunning : evictPaused s p.dst pc = false
  still : migrationHolds s pc = none

/-- A piece's promotion tag cleared by an acknowledgement `p` (R193). -/
def tagCleared (s : State) (id : Nat) (p : Packet) (pc : Nat) : State :=
  setPromo (modCore (dropPacket s id) p.dst fun k => { k with promoOwed := k.promoOwed.filter fun e => e.1 ≠ pc }) p.dst pc 0x3FF

/-- Every lane of a request performed in order, as by a home (R199). -/
def performAll (s : State) (kind : Nat) (p : Packet) (l : List LaneReq) : State :=
  l.foldl (fun s q => performLane s p.dst kind p q) (dropPacket s p.id)

/-- The request that a COMBINE packet carries (R412). -/
def combReq (f : FRef) (gen : BitVec 8) (acc ll dst cdst : Nat) (base : DWord) (pa : Nat) (args : List Word) (nres : Nat) : CombReq :=
  { f := f, gen := gen, acc := acc, ll := ll, dst := dst, cdst := cdst, base := base, pa := pa, args := args, nres := nres }

/-- The record that a doorbell sends: the window's 64 words, at the window's level (R87, R317). -/
def doorbellRecord (s : State) (w : Nat × Nat) (lvl : Nat) : List Word := setLevel (((getWindow s w).record ++ List.replicate 64 0).take 64) lvl

/-- A message of a doorbell is still in flight, before its router (R317). -/
def doorbellFlies (s : State) (w : Nat × Nat) : Bool :=
  s.mesh.any fun p => decide (p.side = 6 ∨ p.side = 9) && (match p.body with | .launch _ _ _ v _ => v == some w | _ => false)

/-- The place of a new fibre of a node task, in the first of its teams that has one (R40, R67): core, team, slot, lane, and the group index if
the group must be made. -/
def deliveryPlace (s : State) (slice node : Nat) (k : Task) : Option ((Nat × Nat) × Team × Nat × Nat × Option Nat) :=
  (launchTeams s slice node).findSome? fun e =>
    if e.2.halted ∨ e.2.stopped then none
    else (nodePlace s e.1.1 e.1.2 e.2.allot (recField k.record 0x12 2)).map fun p => (e.1, e.2, p)

/-- The head command of a lease's queue, where it can step: its rings have tiles, it waits on no fault, its context is not being saved unless its group is open, and no
core of the quad tests its accumulators (R229, R305, R309, R453). -/
def steppable (s : State) (block sl : Nat) : Option MatCmd :=
  if (quadCores block).any (underTest s 0x06) then none
  else (tget (getBlock s block).leases sl).bind fun l => match l.queue.head? with
    | some c => if canStep s c && (midGroup c || ! (getTeam s c.f.core c.team).any (saving s)) then some c else none
    | none => none

/-- An earlier command of the same team stands at the block (R229). -/
def earlierCommand (s : State) (p : Packet) (c : MatCmd) : Bool :=
  s.mesh.any fun e => e.arrived && decide (e.order < p.order) && (match e.body with | .matrix d => decide (d.f.core = c.f.core ∧ d.team = c.team) | _ => false)

/-- The block takes its turn for a queue (R229). -/
def turnTo (s : State) (block sl : Nat) : State :=
  putBlock s block { getBlock s block with turn := (sl + 1) % 2 }

/-- A step of the command at the head of a queue, by its operation (R453-R459); event 0x0F counts one that does not fault (R288). -/
def stepOf (s : State) (block sl : Nat) (c : MatCmd) : State :=
  let u := match c.op with
    | 0 | 1 => stepMma s block sl c
    | 2 => stepMzero s block sl c
    | 3 => stepMepi s block sl c
    | 4 => stepMldacc s block sl c
    | _ => stepInfer s block sl c
  if stepFaulted s u block c then u else perfEvent u c.f.core 0x0F 1 none none

/-! ## Statements about every instruction -/

/-- Instructions with rules of their own for the guard, a pending prefix or the registers they name: NOP, SIGMARK and the three that accept
a format prefix (R82, R89, R254, R341, R364). -/
def ownRules : Instr → Bool
  | .nop _ _ | .sigmark _ _ | .cvt _ _ | .cvtn _ _ | .cvtw _ _ => true
  | _ => false

/-- The register operands an instruction names: position, code, registers in a row (R76). -/
def operandsOf (i : Instr) : Named :=
  match i with
  | .combine _ o => [(0, o.d, o.num.toNat % 8 + 1), (1, o.a, 2), (2, o.b, o.mlen.toNat + 1)]
  | .send _ o => [(1, o.a, 1), (2, o.b, o.mlen.toNat + 1), (3, o.c, 1)]
  | .sendr _ o => [(0, o.d, o.num.toNat % 16 + 1), (1, o.a, 1), (2, o.b, o.mlen.toNat + 1)]
  | .reply _ o => [(2, o.b, o.mlen.toNat + 1)]
  | .mbox _ o => [(0, o.d, 18)]
  | .mboxRp _ o => [(0, o.d, 18)]
  | .emit _ o => [(1, o.a, 1), (2, o.b, o.mlen.toNat + 1)]
  | .trv _ o => [(0, o.d, 1), (2, o.b, 16)]
  | .raysend _ o => [(2, o.b, 16)]
  | .raysendLocal _ o => [(2, o.b, 16)]
  | .hitput _ o => [(2, o.b, 16)]
  | .pump _ o => [(2, o.b, 16)]
  | .infer _ o => [(0, o.d, o.sub.toNat + 1), (1, o.a, 2), (2, o.b, 1)]
  | i => namedOf i

/-- What a lane does leaves memory, every cistern, every L2 slice and every fibre's registers, predicates, FSR and return stack as they were. -/
def LeavesData (eff : State → Issue → State → Nat → Fibre → LaneAct) : Prop :=
  ∀ (s : State) (is : Issue) (s' : State) (l : Nat) (x : Fibre) (t : State), getFib s' (is.fref l) = some x → eff s is s' l x = .does t →
    t.mem = s'.mem ∧ t.memPoison = s'.memPoison ∧ t.blockState = s'.blockState ∧
    (∀ c, (getCore t c).cistern = (getCore s' c).cistern ∧ (getCore t c).l2 = (getCore s' c).l2) ∧
    ∀ f, (getFib t f).map (fun y => (y.regs, y.preds, y.fsr, y.stack, y.pc)) = (getFib s' f).map fun y => (y.regs, y.preds, y.fsr, y.stack, y.pc)

/-- The state in which a trap is taken: the fibre has left its batch, its earlier short-latency results have landed, it stands at the
instruction (R51, R293). -/
def atTrap (s : State) (f : FRef) (pc : Word) : State :=
  modFib (leaveBatch s f.core f.slot [f.lane]) f fun x => { flushPend 9 x with
    pc := pc, next := none, mates := [], sigOnKept := x.sigOn, sigNewKept := x.sigNew }

/-- The fibre runs no combiner method, where a trap ends the wave instead (R413). -/
def outsideWave (s : State) (f : FRef) : Prop := ∀ g, getGroup s f.core f.slot = some g → ∀ n e, g.kind ≠ .wave n e

/-- The byte at physical address `a` after `bytes` were written at `b`. -/
def byteAfter (m : List Host.Cell) (b : Nat) (bytes : List Byte) (a : Nat) : Byte :=
  if b ≤ a ∧ a < b + bytes.length then bytes.getD (a - b) 0 else Memory.read m a

/-- An instruction that each active lane performs alone, with a result that lands at a packet end: `f` of its operands a, b and c is written to its
destination at the distance given, and nothing else changes. -/
def Lands (i : Instr) (h : Head) (o : BodyA) (dist : Nat) (f : Word → Word → Word → Word) : Prop :=
  ∀ (s : State) (is : Issue) (act : List Nat), Issues s h (namedOf i) is act →
    ∃ t, exec i s = .next t ∧
      (∀ l ∈ act, ∀ x, getFib s (is.fref l) = some x → getFib t (is.fref l) =
        some (addPends x dist (destEff o.d (f (srcOf s is l x o.imm o.a) (srcOf s is l x o.imm o.b) (srcOf s is l x o.imm o.c))))) ∧
      (∀ g, (∀ l ∈ act, g ≠ is.fref l) → getFib t g = getFib s g) ∧ { t with fibres := s.fibres } = s

/-- The same for a long-latency instruction whose result is written at the run end (R48). -/
def LandsAtRunEnd (i : Instr) (h : Head) (o : BodyA) (f : Word → Word → Word) : Prop :=
  ∀ (s : State) (is : Issue) (act : List Nat), Issues s h (namedOf i) is act →
    ∃ t, exec i s = .next t ∧
      (∀ l ∈ act, ∀ x, getFib s (is.fref l) = some x → ∃ id, getFib t (is.fref l) =
        some (addKnown x id (destEff o.d (f (srcOf s is l x o.imm o.a) (srcOf s is l x o.imm o.b))))) ∧
      (∀ g, (∀ l ∈ act, g ≠ is.fref l) → getFib t g = getFib s g) ∧ { t with fibres := s.fibres, nextId := s.nextId } = s

/-- pos and w of BFX and BFI (R375). -/
def fieldPos (b : Word) : Nat := b.toNat % 32
/-- The width of a bit field (R375). -/
def fieldWidth (b : Word) : Nat := min (b.toNat / 256 % 64) 32

/-- The lanes of a fault reply's mask whose fibre, of its generation, waits on its mailbox (R298). -/
def replyTakers (s : State) (core slot : Nat) (gen : BitVec 8) (w1 : Word) : List FRef :=
  (((List.range 32).filter fun l => w1.getLsbD l).map fun l => (⟨core, slot, l⟩ : FRef)).filter fun f => match getFib s f with
    | some x => decide (x.gen = gen) && x.waits.any fun w => match w with | .mailbox _ _ _ => true | _ => false
    | none => false

end Sys2Proof.Claims

open Sys2Proof Sys2Proof.Machine Sys2Proof.Claims

/-- Where the instruction issues (the batch stands at it, no prefix is pending, its guard is true in the lanes act, its registers lie in the allotment), exec answers the next state in which each active lane gains the pending result of its operation at its forwarding distance, and no other fibre and no other part of the state changes. -/
def Obligations.IntegerResults : Prop :=
  LandsLater shortInteger

/-- Where the instruction issues (the batch stands at it, no prefix is pending, its guard is true in the lanes act, its registers lie in the allotment), each active lane of a floating-point, packed, dot-product, narrow-code or short special-register operation gains its pending result, with its flags, at its forwarding distance; no other fibre and no other part of the state changes. Where the manual states only a bound on a transcendental result the value is a free value of the model. -/
def Obligations.FloatResults : Prop :=
  (LandsLater shortFloat) ∧
  (LandsLater shortOther)

/-- Where the instruction issues (the batch stands at it, no prefix is pending, its guard is true in the lanes act, its registers lie in the allotment), each active lane of IDIV, IREM, FSQRT, FDIV, DADD, DMUL, DFMA, MOVS of the 64-bit clocks and EXTQ gains one known result that is written at the run end; no other fibre and no other part of the state but the identity counter changes. -/
def Obligations.RunEndResults : Prop :=
  WritesAtRunEnd longKnown

/-- BRA, BRX, CALL, CALLX and RET: each active lane sets its next PC to a marked target at the run end, a call pushes the PC after it and spills the oldest of eight entries, a return takes the newest entry; no run end and an unmarked target are illegal-instruction details 0x03 and 0x04. -/
def Obligations.BranchesAndReturns : Prop :=
  (∀ h o, ActsByLane (.bra h o) h (namedOf (.bra h o)) afterId (fun s is => branchAct (fun _ _ => dispTarget is.pc o) s is)) ∧
  (∀ h o, ActsByLane (.brx h o) h (namedOf (.brx h o)) afterId (branchAct fun obj x => regTarget obj (regOf x o.a.toNat))) ∧
  (∀ h o, ActsByLane (.call h o) h (namedOf (.call h o)) afterId (fun s is => callAct (fun _ _ => dispTarget is.pc o) s is)) ∧
  (∀ h o, ActsByLane (.callx h o) h (namedOf (.callx h o)) afterId (callAct fun obj x => regTarget obj (regOf x o.a.toNat))) ∧
  (∀ h o, ActsByLane (.ret h o) h (namedOf (.ret h o)) afterId retAct)

/-- FWAIT, PARK, WAKE, WAKE to a group, FMTP, FEND, HEND of a fibre and of an activation, and TRET: what each active lane does, in lane order. -/
def Obligations.FibreControl : Prop :=
  (∀ h o, ActsByLane (.fwait h o) h (namedOf (.fwait h o)) id (fwaitAct o)) ∧
  (∀ h o, ActsByLane (.park h o) h (namedOf (.park h o)) id (parkAct o)) ∧
  (∀ h o, ActsByLane (.wake h o) h (namedOf (.wake h o)) id (wakeAct o)) ∧
  (∀ h o, ActsByLane (.wakeGrp h o) h (namedOf (.wakeGrp h o)) id (wakeGrpAct o)) ∧
  (∀ h o, ActsByLane (.fmtp h o) h (namedOf (.fmtp h o)) id (fmtpAct o)) ∧
  (∀ h o, ActsByLane (.fend h o) h (namedOf (.fend h o)) id endAct) ∧
  (∀ h o, ActsByLane (.hend h o) h (namedOf (.hend h o)) id endAct) ∧
  (∀ h o, ActsByLane (.fend h o) h (namedOf (.fend h o)) id (activationEndAct true)) ∧
  (∀ h o, ActsByLane (.hend h o) h (namedOf (.hend h o)) id (activationEndAct false)) ∧
  (∀ h o, ActsByLane (.tret h o) h (namedOf (.tret h o)) afterId tretAct)

/-- CTLRD, CTLWR, LAUNCH, both forms of QUIESCE and the three forms of BASIN: what each active lane does, in lane order, with its traps. -/
def Obligations.ControlRegistersAndCore : Prop :=
  (∀ h o, ActsByLane (.ctlrd h o) h (namedOf (.ctlrd h o)) id (ctlrdAct h o)) ∧
  (∀ h o, ActsByLane (.ctlwr h o) h (namedOf (.ctlwr h o)) afterId (ctlwrAct h o)) ∧
  (∀ h o, ActsByLane (.launch h o) h (namedOf (.launch h o)) afterId (launchAct (.launch h o) o)) ∧
  (∀ h o, ActsByLane (.quiesce h o) h (namedOf (.quiesce h o)) id (quiesceAct o)) ∧
  (∀ h o, ActsByLane (.quiesceOpen h o) h (namedOf (.quiesceOpen h o)) id (quiesceOpenAct o)) ∧
  (∀ h o, ActsByLane (.basin h o) h (namedOf (.basin h o)) afterId (basinAct o [o.imm.toNat % 32])) ∧
  (∀ h o, ActsByLane (.basinAll h o) h (namedOf (.basinAll h o)) afterId (basinAct o (List.range 32))) ∧
  (∀ h o, ActsByLane (.basinOwn h o) h (namedOf (.basinOwn h o)) afterId basinOwnAct)

/-- NOP changes nothing, and a SIGMARK that finds its signature changes nothing; SPAWN, REGCLM and REGREL wait as the last act of their run; TRAP is the exception of class 11 with its number, BKPT that of class 12 or, with a debugger attached, the stop of its team; DISCARD ends its lane after skipping and leaving its sections; TBLLD loads the I4T table two packets on. -/
def Obligations.BatchControl : Prop :=
  (∀ h o s, exec (.nop h o) s = .next s) ∧
  (∀ h o t obj, ActsForLowest (.spawn h o) h (namedOf (.spawn h o))
    (fun s is _ x => codeObjOf s (is.fref 0) = some obj ∧ dispTarget is.pc o = some t ∧ isTarget s is.core obj t = true ∧
      (regOf x o.a.toNat).toNat % 64 ≠ gidOf s (is.fref 0) ∧ fsrRST x = false)
    (fun s is act x => spawnNow o h s is act t x)) ∧
  (∀ h o, ActsAsOne (.regclm h o) h (namedOf (.regclm h o))
    (fun s is _ => is.runEnd = true ∧ (∀ l ∈ lanesOf s is.core is.slot, ∀ w, (getFib s (is.fref l)).bind regWait = some w → w.1 = is.pc) ∧ badAllot s is o.imm.toNat = false ∧ allotOf s (is.fref 0) ≤ o.imm.toNat)
    (fun s is act => eachLane act (fun s l => modFib s (is.fref l) fun x => { x with waits := x.waits ++ [.registers is.pc o.imm.toNat] }) s)) ∧
  (∀ h o, ActsAsOne (.regrel h o) h (namedOf (.regrel h o))
    (fun s is _ => is.runEnd = true ∧ (∀ l ∈ lanesOf s is.core is.slot, ∀ w, (getFib s (is.fref l)).bind regWait = some w → w.1 = is.pc) ∧ badAllot s is o.imm.toNat = false ∧ o.imm.toNat ≤ allotOf s (is.fref 0))
    (fun s is act => eachLane act (fun s l => modFib s (is.fref l) fun x => { x with waits := x.waits ++ [.registers is.pc o.imm.toNat] }) s)) ∧
  (∀ h o, ActsAsOne (.trap h o) h (namedOf (.trap h o)) (fun _ _ _ => True) (fun s is act => trapSelf s is (.trap h o) act (trapOf 11 (o.imm.toNat % 256)))) ∧
  (∀ h o n tm, ActsAsOne (.bkpt h o) h (namedOf (.bkpt h o)) (fun s is act => teamOf s (low is act) = some (n, tm))
    (fun s is act => if (getSlice s tm.slice).debugger then stopTeam s is.core n
      else trapSelf s is (.bkpt h o) act (trapOf 12 0))) ∧
  (∀ h o s is, issuing s = some is → lanesWhere s is fsrPP = [] → (∀ obj, codeObjOf s (is.fref (is.lanes.headD 0)) = some obj →
      objSigned (getCore s is.core) obj = false ∨ ∀ l ∈ is.lanes, ∀ x, getFib s (is.fref l) = some x → x.sigOn = true → x.sig = o.imm) →
    exec (.sigmark h o) s = .next s) ∧
  (∀ h o s is obj bad, issuing s = some is → lanesWhere s is fsrPP = [] → codeObjOf s (is.fref (is.lanes.headD 0)) = some obj →
    (ctlCopy s is.core 0x005).getLsbD 0 = true → objSigned (getCore s is.core) obj = true →
    bad = lanesWhere s is (fun x => ! fsrPP x && x.sigOn && decide (x.sig ≠ o.imm)) → bad ≠ [] →
      exec (.sigmark h o) s = .next (sigMismatch s is.core is.part (bad.map is.fref))) ∧
  (∀ h o, ActsByLane (.discard h o) h (namedOf (.discard h o)) afterId discardAct) ∧
  (∀ h o, ActsForLowest (.tblld h o) h (namedOf (.tblld h o)) (fun s is act x => getFib s (is.fref (act.getLastD 0)) = some x)
    (fun s is _ x => addCorePend s is 2 (.i4t ((regsFrom x o.a.toNat 4).getD 3 0 ++ (regsFrom x o.a.toNat 4).getD 2 0 ++
      (regsFrom x o.a.toNat 4).getD 1 0 ++ (regsFrom x o.a.toNat 4).getD 0 0))))

/-- LD, LDC, LDA, ST, STC, STA, ATOM, RED and BLEND: each active lane issues the access its operands ask for, lane by lane, with the traps of its checks; data words are read at issue. -/
def Obligations.MemoryAccessesIssue : Prop :=
  (∀ h o, IssuesAccess (.ld h o) h .load .ls true fun is _ x => memOp h o .load .ls false is.pc x 0 [] []) ∧
  (∀ h o, IssuesAccess (.ldc h o) h .load .ls true fun is _ x => memOp h o .load .ls true is.pc x 0 [] []) ∧
  (∀ h o, IssuesAccess (.lda h o) h .load .ls true fun is l x => memOp h o .load .ls false is.pc x (l * sizeBytes o.size) [] []) ∧
  (∀ h o, IssuesAccess (.st h o) h .store .ls false fun is _ x => memOp h o .store .ls false is.pc x 0 (dataWords x o.d (sizeBytes o.size)) []) ∧
  (∀ h o, IssuesAccess (.stc h o) h .store .ls false fun is _ x => memOp h o .store .ls true is.pc x 0 (dataWords x o.d (sizeBytes o.size)) []) ∧
  (∀ h o, IssuesAccess (.sta h o) h .store .ls false fun is l x =>
    memOp h o .store .ls false is.pc x (l * sizeBytes o.size) (dataWords x o.d (sizeBytes o.size)) []) ∧
  (∀ h o, IssuesAccess (.atom h o) h .atomic .ms true fun is _ x =>
    { memOp h o .atomic .ms false is.pc x 0 (dataWords x o.b (sizeBytes o.size))
        (if h.mod.toNat % 16 = 9 then regsFrom x (o.b.toNat + sizeBytes o.size / 4) (sizeBytes o.size / 4) else []) with
      retryId := rtyId h x (o.d.toNat + sizeBytes o.size / 4) }) ∧
  (∀ h o, IssuesAccess (.red h o) h .reduce .ms (decide (o.d ≠ 0#9)) fun is _ x =>
    { memOp h o .reduce .ms false is.pc x 0 (dataWords x o.b (sizeBytes o.size)) [] with retryId := rtyId h x o.d.toNat }) ∧
  (∀ h o, IssuesAccess (.blend h o) h .blend .rb false fun is _ x => memOp h o .blend .rb false is.pc x 0 (dataWords x o.d (sizeBytes o.size)) [])

/-- PREF, FLUSH, INVL, PIN, UNPIN, MIGR, CPY, CPYW and GATH: each active lane checks its range, traps where a check fails, and otherwise sends its operation as one command. -/
def Obligations.RangesAndCopies : Prop :=
  (∀ h o, ActsByLane (.pref h o) h (namedOf (.pref h o)) afterId (rangeAct (.pref h o) 0 o)) ∧
  (∀ h o, ActsByLane (.flush h o) h (namedOf (.flush h o)) afterId (rangeAct (.flush h o) 1 o)) ∧
  (∀ h o, ActsByLane (.invl h o) h (namedOf (.invl h o)) afterId (rangeAct (.invl h o) 2 o)) ∧
  (∀ h o, ActsByLane (.pin h o) h (namedOf (.pin h o)) afterId (rangeAct (.pin h o) 3 o)) ∧
  (∀ h o, ActsByLane (.unpin h o) h (namedOf (.unpin h o)) afterId (rangeAct (.unpin h o) 4 o)) ∧
  (∀ h o, ActsByLane (.migr h o) h (namedOf (.migr h o)) afterId (migrAct (.migr h o) o)) ∧
  (∀ h o, ActsByLane (.cpy h o) h (namedOf (.cpy h o)) afterId (copyAct (.cpy h o) (cpyCmd o))) ∧
  (∀ h o, ActsByLane (.cpyw h o) h (namedOf (.cpyw h o)) afterId (copyAct (.cpyw h o) (cpywCmd o))) ∧
  (∀ h o, ActsByLane (.gath h o) h (namedOf (.gath h o)) afterId (copyAct (.gath h o) (gathCmd o)))

/-- COMBINE, CMBREG, OSENT, OSLEAVE, OSSKIP, BARARV, BARWT and BARAW act lane by lane. BARINIT writes the slot of this core, and of every other core of the cluster under .cl; N outside 1 to 2,048 is protection 0x0B. -/
def Obligations.CombiningSectionsBarriers : Prop :=
  (∀ h o, ActsByLane (.combine h o) h [(0, o.d, o.num.toNat % 8 + 1), (1, o.a, 2), (2, o.b, o.mlen.toNat + 1)] afterId (combineAct (.combine h o) o)) ∧
  (∀ h o, ActsByLane (.cmbreg h o) h (namedOf (.cmbreg h o)) afterId (cmbregAct (.cmbreg h o) o)) ∧
  (∀ h o, ActsByLane (.osent h o) h (namedOf (.osent h o)) afterId (osentAct o)) ∧
  (∀ h o, ActsByLane (.osleave h o) h (namedOf (.osleave h o)) afterId (osleaveAct o)) ∧
  (∀ h o, ActsByLane (.osskip h o) h (namedOf (.osskip h o)) afterId (osskipAct o)) ∧
  (∀ h o, ActsByLane (.bararv h o) h (namedOf (.bararv h o)) id (barAct o true false)) ∧
  (∀ h o, ActsByLane (.barwt h o) h (namedOf (.barwt h o)) id (barAct o false true)) ∧
  (∀ h o, ActsByLane (.baraw h o) h (namedOf (.baraw h o)) id (barAct o true true)) ∧
  (∀ h o, ActsForLowest (.barinit h o) h (namedOf (.barinit h o))
    (fun _ _ _ x => 1 ≤ (regOf x o.a.toNat).toNat ∧ (regOf x o.a.toNat).toNat ≤ 2048 ∧ o.scope ≠ 5#4)
    (fun s is act x => signalEntry (initBar s is.core (barTeam s (low is act)) (o.num.toNat % 32)
      { v := true, cluster := false, ph := false, mask := o.mask1, lcnt := 0, lexp := (regOf x o.a.toNat).toNat, lnext := 0
        texp := match teamOf s (low is act) with | some (_, t) => t.cw * t.ch | none => 1, tcnt := 0 }) is act)) ∧
  (∀ h o n tm s is act x, Issues s h (namedOf (.barinit h o)) is act → getFib s (low is act) = some x → 1 ≤ (regOf x o.a.toNat).toNat →
    (regOf x o.a.toNat).toNat ≤ 2048 → o.scope = 5#4 → teamOf s (low is act) = some (n, tm) →
      ∃ t es, exec (.barinit h o) s = .next t ∧ (getPart t is.core is.part).buffer = (getPart s is.core is.part).buffer ++ es ∧
        es.map barSetOf = ((clusterCores tm).filter (· ≠ is.core)).map (fun c =>
          some (c, tm.slice, tm.task, tm.cluster, o.num.toNat % 32, o.mask1, (regOf x o.a.toNat).toNat)) ∧
        barOf t is.core (barTeam s (low is act)) (o.num.toNat % 32) =
          { v := true, cluster := true, ph := false, mask := o.mask1, lcnt := 0, lexp := (regOf x o.a.toNat).toNat, lnext := 0, texp := tm.cw * tm.ch, tcnt := 0 }) ∧
  (∀ h o, ActsForLowest (.barinit h o) h (namedOf (.barinit h o))
    (fun _ _ _ x => (regOf x o.a.toNat).toNat = 0 ∨ 2048 < (regOf x o.a.toNat).toNat)
    (fun s is act _ => takeTrap s (low is act) is.pc (trapOf 4 0x0B)))

/-- SEND, SENDR, REPLY, MBOX, MBOX.rp and EMIT: what each active lane sends or takes, with its traps and the status it writes. -/
def Obligations.Messages : Prop :=
  (∀ h o, ActsByLane (.send h o) h [(1, o.a, 1), (2, o.b, o.mlen.toNat + 1), (3, o.c, 1)] afterId (sendAct o)) ∧
  (∀ h o, ActsByLane (.sendr h o) h [(0, o.d, o.num.toNat % 16 + 1), (1, o.a, 1), (2, o.b, o.mlen.toNat + 1)] afterId (sendrAct o)) ∧
  (∀ h o, ActsByLane (.reply h o) h [(2, o.b, o.mlen.toNat + 1)] afterId (replyAct o)) ∧
  (∀ h o, ActsByLane (.mbox h o) h [(0, o.d, 18)] id (mboxAct o)) ∧
  (∀ h o, ActsByLane (.mboxRp h o) h [(0, o.d, 18)] afterId (mboxRpAct o)) ∧
  (∀ h o, ActsByLane (.emit h o) h [(1, o.a, 1), (2, o.b, o.mlen.toNat + 1)] afterId (emitAct o))

/-- TRV, RAYSEND, RAYSEND.local, HITPUT, the three forms of TLOAD, TOWN, RATE, PUMP, PUMPW and ENCQ: each active lane checks its operands, traps or is refused where a check fails, and otherwise sends its command or record, or waits. -/
def Obligations.RaysPumpsEncoders : Prop :=
  (∀ h o, ActsByLane (.trv h o) h [(0, o.d, 1), (2, o.b, 16)] afterId (trvAct o)) ∧
  (∀ h o, ActsByLane (.raysend h o) h [(2, o.b, 16)] afterId (raysendAct o)) ∧
  (∀ h o, ActsByLane (.raysendLocal h o) h [(2, o.b, 16)] afterId (raysendLocalAct o)) ∧
  (∀ h o, ActsByLane (.hitput h o) h [(2, o.b, 16)] afterId (hitputAct o)) ∧
  (∀ h o, ActsByLane (.tload h o) h (namedOf (.tload h o)) afterId (tloadAct (.tload h o) o)) ∧
  (∀ h o, ActsByLane (.tloadTds h o) h (namedOf (.tloadTds h o)) afterId (tdescAct (.tloadTds h o) o 1 3)) ∧
  (∀ h o, ActsByLane (.tloadRds h o) h (namedOf (.tloadRds h o)) afterId (tdescAct (.tloadRds h o) o 2 4)) ∧
  (∀ h o, ActsByLane (.town h o) h (namedOf (.town h o)) afterId (townAct o)) ∧
  (∀ h o, ActsByLane (.rate h o) h (namedOf (.rate h o)) afterId (rateAct o)) ∧
  (∀ h o, ActsByLane (.pump h o) h [(2, o.b, 16)] afterId (pumpAct (.pump h o) o)) ∧
  (∀ h o, ActsByLane (.pumpw h o) h (namedOf (.pumpw h o)) id (drainAct o true)) ∧
  (∀ h o, ActsByLane (.encq h o) h (namedOf (.encq h o)) afterId (encqAct (.encq h o) o))

/-- ELECT, VOTE, SHFL and BRED compute one result from the operands of all active lanes; each active lane gains its pending result and nothing else changes. -/
def Obligations.CollectiveResults : Prop :=
  LandsTogether collective

/-- CVT, CVTN and CVTW convert with the pending format prefix of each lane, consume it, and land the result and the flags at their distance. -/
def Obligations.Conversions : Prop :=
  (∀ h o, ConvertsLanes (.cvt h o) h (cvtEffs h o)) ∧ (∀ h o, ConvertsLanes (.cvtn h o) h (cvtnEffs h o)) ∧
  (∀ h o, ConvertsLanes (.cvtw h o) h (cvtwEffs h o))

/-- FENCE.ar, .acq and .rel and FENCEP: each active lane records the wait of its scope and paths; a FENCEP of one fibre path on both sides is a fence of both kinds. The active lanes park until the issue buffer has passed the fence on. -/
def Obligations.Fences : Prop :=
  (∀ h o, ActsByLane (.fence h o) h (namedOf (.fence h o)) id (fenceAct (match h.mod.toNat with | 0 => .ar | 1 => .acq | _ => .rel) o.scope.toNat)) ∧
  (∀ h o, o.mask1 = o.mask2 → fibreMask o.mask1 = true → ActsByLane (.fencep h o) h (namedOf (.fencep h o)) id (fenceAct .ar o.scope.toNat)) ∧
  (∀ h o, ¬ (o.mask1 = o.mask2 ∧ fibreMask o.mask1 = true) →
    ActsByLane (.fencep h o) h (namedOf (.fencep h o))
      (fun s => match issuing s with
        | some is => eachLane (lanesWhere s is (guardOf h)) (fun s l => modFib s (is.fref l) fun x => { x with waits := x.waits ++ (engineAccs x o.mask1).map .engine }) s
        | none => s)
      (fenceAct (.paths o.mask1 o.mask2) o.scope.toNat))

/-- HBIND writes the lowest free binding and its tag, or answers none; HUNBIND of a live tag ends the binding and of a stale tag changes nothing; CMASK exchanges the class mask under its mask; NDONE asks for its node queue to be closed. -/
def Obligations.HandlerControl : Prop :=
  (∀ h o obj pc i n tm, ActsForLowest (.hbind h o) h (namedOf (.hbind h o))
    (fun s is act x => codeObjOf s (low is act) = some obj ∧ regTarget obj (regOf x o.a.toNat) = some pc ∧ isTarget s is.core obj pc = true ∧
      h.mod.getLsbD 1 = false ∧ teamOf s (low is act) = some (n, tm) ∧
      ((List.range 126).findSome? fun i => if bindV (tgetD (pendingBindings s is) (i + 2) 0) then none else some (i + 2)) = some i)
    (fun s is act _ => eachLane act (fun s' l => modFib s' (is.fref l) fun x => addPends x 2
        (destEff o.d ((handlerTag (bindGen (tgetD (pendingBindings s is) i 0)) i).setWidth 32) ++ statusEff o.c true))
      (addCorePend s is 2 (.bind i (bindWord (h.mod.getLsbD 0) (bindGen (tgetD (pendingBindings s is) i 0)) n (o.num.toNat % 64) pc))))) ∧
  (∀ h o obj pc, ActsForLowest (.hbind h o) h (namedOf (.hbind h o))
    (fun s is act x => codeObjOf s (low is act) = some obj ∧ regTarget obj (regOf x o.a.toNat) = some pc ∧ isTarget s is.core obj pc = true ∧
      h.mod.getLsbD 1 = false ∧
      ((List.range 126).findSome? fun i => if bindV (tgetD (pendingBindings s is) (i + 2) 0) then none else some (i + 2)) = none)
    (fun s is act _ => eachLane act (fun s l => modFib s (is.fref l) fun x => addPends x 2 (destEff o.d 0 ++ statusEff o.c false)) s)) ∧
  (∀ h o obj, ActsForLowest (.hbind h o) h (namedOf (.hbind h o))
    (fun s is act x => codeObjOf s (low is act) = some obj ∧
      (regTarget obj (regOf x o.a.toNat) = none ∨ ∃ pc, regTarget obj (regOf x o.a.toNat) = some pc ∧ isTarget s is.core obj pc = false))
    (fun s is act _ => trapLanes s is act (trapOf 0 0x04))) ∧
  (∀ h o, ActsForLowest (.hunbind h o) h (namedOf (.hunbind h o))
    (fun s is act x =>
      let w := tgetD (pendingBindings s is) ((regOf x o.a.toNat).toNat % 128) 0
      (bindGen w).toNat = fld (regOf x o.a.toNat).toNat 14 7 ∧ bindV w = true ∧ 2 ≤ (regOf x o.a.toNat).toNat % 128 ∧
        ∃ tm, teamOf s (low is act) = some (bindTeam w, tm))
    (fun s is _ x => let i := (regOf x o.a.toNat).toNat % 128
      landCore (dropBindPend s is i) is.core (.bind i (unbindWord (tgetD (pendingBindings s is) i 0))))) ∧
  (∀ h o, ActsForLowest (.hunbind h o) h (namedOf (.hunbind h o))
    (fun s is _ x => (bindGen (tgetD (pendingBindings s is) ((regOf x o.a.toNat).toNat % 128) 0)).toNat ≠ fld (regOf x o.a.toNat).toNat 14 7 ∨
      bindV (tgetD (pendingBindings s is) ((regOf x o.a.toNat).toNat % 128) 0) = false)
    (fun s _ _ _ => s)) ∧
  (∀ h o, ActsAsOne (.cmask h o) h (namedOf (.cmask h o)) (fun _ _ _ => True)
    (fun s is act =>
      addCorePend (eachLane act (fun t l => modFib t (is.fref l) fun x => addPends x 1 (destEff o.d ((getCore s is.core).classMask.setWidth 32))) s) is 1
        (.cmask (maskBits s is o act).1 (maskBits s is o act).2))) ∧
  (∀ h o q, ActsForLowest (.ndone h o) h (namedOf (.ndone h o))
    (fun s is act x => fsrRST x = false ∧
      queueClosed s (sliceOf s (low is act)) (extTask s (low is act)) (queueId (o.num.toNat % 8) (regOf x o.a.toNat).toNat) = false ∧
      emitQueue s (low is act) (o.num.toNat % 8) (regOf x o.a.toNat).toNat = some q)
    (fun s is act _ => waitEntry (bufAdd (addAcc { s with nextId := s.nextId + 2 } (low is act) { plainAcc (s.nextId + 2) .ms with rel := fibreBits }) is.core is.part
      { entry := s.nextId + 1, f := low is act, pc := is.pc, acc := s.nextId + 2, cmd := .close (sliceOf s (low is act)) (extTask s (low is act)) q })
      (low is act) (s.nextId + 1)))

/-- A team that holds its tiles under a lease: each matrix command goes to the issue buffer once, with its fields and tokens; INFER carries each lane's operands. Rings are set, advanced and sampled in the block's order; a ring outside the cistern is protection 0x03 and a tile range beyond 63 protection 0x0D. -/
def Obligations.MatrixInstructions : Prop :=
  (∀ h o n slot l, ActsAsOne (.mlease h o) h (namedOf (.mlease h o))
    (fun s is act => NoneRestartable s is act ∧ o.tile.toNat + o.nt.toNat ≤ 63 ∧ (∃ tm, teamOf s (low is act) = some (n, tm)) ∧ leaseOf s is.core n = some (slot, l))
    (fun s is act => eachLane act (fun s l => modFib { s with nextId := s.nextId + 1 } (is.fref l) fun x =>
      addKnown x (s.nextId + 1) (regsEff o.d.toNat [BitVec.ofNat 32 (0x100 + slot)])) s)) ∧
  (∀ h o n s is act, Issues s h (namedOf (.mlease h o)) is act → NoneRestartable s is act → o.tile.toNat + o.nt.toNat ≤ 63 →
    (∃ tm, teamOf s (low is act) = some (n, tm)) → leaseOf s is.core n = none →
      ∃ t e p ws, exec (.mlease h o) s = .next t ∧ (getPart t is.core is.part).buffer = (getPart s is.core is.part).buffer ++ [e] ∧
        e.cmd = .packet p false ∧ p.body = .lease is.core n ws o.tile.toNat (o.nt.toNat + 1) none ∧ ws.map (fun w => (w.1, w.2.2)) = act.map (fun l => (is.fref l, o.d.toNat)) ∧
        ∀ w ∈ ws, ∀ x, getFib s w.1 = some x → ∃ y, getFib t w.1 = some y ∧ y.lls = (addLL x w.2.1).lls) ∧
  (∀ h o, ActsAsOne (.mlease h o) h (namedOf (.mlease h o)) (fun s is act => NoneRestartable s is act ∧ 63 < o.tile.toNat + o.nt.toNat)
    (fun s is act => trapLanes s is act (trapOf 4 0x0D))) ∧
  (∀ h o n slot (l : Lease), ActsForLowest (.mrel h o) h (namedOf (.mrel h o))
    (fun s is act _ => NoneRestartable s is act ∧ (∃ tm, teamOf s (low is act) = some (n, tm)) ∧ leaseOf s is.core n = some (slot, l) ∧ 0 < l.count)
    (fun s is act _ => matOnce s is act 6 n (low is act) id)) ∧
  (∀ h o n, ActsForLowest (.mma h o) h (namedOf (.mma h o))
    (fun s is act _ => NoneRestartable s is act ∧ Leased s is act n o.tile.toNat o.tile.toNat ∧
      (ringOf s is.core o.qa.toNat).tsz = tileUnits o.fa.toNat 0 ∧ (ringOf s is.core o.qb.toNat).tsz = tileUnits o.fb.toNat 0)
    (fun s is act _ => matOnce (takeToken s is).1 is act 0 n (low is act) fun c => { c with
      qa := o.qa.toNat, qb := o.qb.toNat, tile := o.tile.toNat, nt := o.nt.toNat, fa := o.fa.toNat, fb := o.fb.toNat
      cidx := o.cidx.toNat, sub := o.sub.toNat, tokens := (takeToken s is).2 })) ∧
  (∀ h o n, ActsForLowest (.mmas h o) h (namedOf (.mmas h o))
    (fun s is act _ => NoneRestartable s is act ∧ Leased s is act n o.tile.toNat o.tile.toNat ∧
      (ringOf s is.core o.qa.toNat).tsz = tileUnits o.fa.toNat (sparseOf 1 o.sub.toNat).1 ∧
      (ringOf s is.core o.qb.toNat).tsz = tileUnits o.fb.toNat (sparseOf 1 o.sub.toNat).2)
    (fun s is act _ => matOnce (takeToken s is).1 is act 1 n (low is act) fun c => { c with
      qa := o.qa.toNat, qb := o.qb.toNat, tile := o.tile.toNat, nt := o.nt.toNat, fa := o.fa.toNat, fb := o.fb.toNat
      cidx := o.cidx.toNat, sub := o.sub.toNat, tokens := (takeToken s is).2 })) ∧
  (∀ h o n, ActsForLowest (.mzero h o) h (namedOf (.mzero h o))
    (fun s is act _ => NoneRestartable s is act ∧ Leased s is act n o.tile.toNat (o.tile.toNat + o.nt.toNat))
    (fun s is act _ => matOnce s is act 2 n (low is act) fun c => { c with tile := o.tile.toNat, nt := o.nt.toNat, cidx := o.cidx.toNat })) ∧
  (∀ h o n, ActsForLowest (.mepi h o) h (namedOf (.mepi h o))
    (fun s is act _ => NoneRestartable s is act ∧ Leased s is act n o.tile.toNat o.tile.toNat)
    (fun s is act x => matOnce s is act 3 n (low is act) fun c => { c with
      tile := o.tile.toNat, fa := o.fa.toNat, cidx := o.cidx.toNat, sub := o.sub.toNat, addr := pairSrc x 0 o.a, stride := regOf x o.b.toNat
      scale := if o.d = 0 then 0x3F800000 else regOf x o.d.toNat })) ∧
  (∀ h o n, ActsForLowest (.mldacc h o) h (namedOf (.mldacc h o))
    (fun s is act _ => NoneRestartable s is act ∧ Leased s is act n o.tile.toNat o.tile.toNat)
    (fun s is act x => matOnce s is act 4 n (low is act) fun c => { c with
      tile := o.tile.toNat, cidx := o.cidx.toNat, addr := pairSrc x 0 o.a, stride := regOf x o.b.toNat })) ∧
  (∀ h o, ActsForLowest (.ringset h o) h (namedOf (.ringset h o))
    (fun s is act x => NoneRestartable s is act ∧
      let base := (regOf x o.a.toNat).toNat
      let cap := (regOf x o.b.toNat).toNat % 65536
      let tsz := (regOf x o.b.toNat).toNat / 65536
      base % 64 = 0 ∧ 1 ≤ cap ∧ cap ≤ 4096 ∧ 1 ≤ tsz ∧ tsz ≤ 128 ∧ base + 64 * cap * tsz ≤ cisternSize is.core)
    (fun s is act x => waitEntry (bufAdd (addAcc { s with nextId := s.nextId + 2 } (low is act) (plainAcc (s.nextId + 2) .mx)) is.core is.part
      { entry := s.nextId + 1, f := low is act, pc := is.pc, acc := s.nextId + 2
        cmd := .ringSet o.qa.toNat (regOf x o.a.toNat).toNat ((regOf x o.b.toNat).toNat % 65536) ((regOf x o.b.toNat).toNat / 65536) }) (low is act) (s.nextId + 1))) ∧
  (∀ h o, ActsForLowest (.ringset h o) h (namedOf (.ringset h o))
    (fun s is act x => NoneRestartable s is act ∧ ((regOf x o.a.toNat).toNat % 64 ≠ 0 ∨
      cisternSize is.core < (regOf x o.a.toNat).toNat + 64 * ((regOf x o.b.toNat).toNat % 65536) * ((regOf x o.b.toNat).toNat / 65536)))
    (fun s is act _ => trapLanes s is act (trapOf 4 0x03))) ∧
  (∀ h o, ActsForLowest (.ringadv h o) h (namedOf (.ringadv h o))
    (fun s is act x => NoneRestartable s is act ∧ (regOf x o.a.toNat).toNat ≠ 0)
    (fun s is act x => waitEntry (bufAdd (addAcc { s with nextId := s.nextId + 2 } (low is act) (plainAcc (s.nextId + 2) .mx)) is.core is.part
      { entry := s.nextId + 1, f := low is act, pc := is.pc, acc := s.nextId + 2, cmd := .ringAdv o.qa.toNat (regOf x o.a.toNat).toNat })
      (low is act) (s.nextId + 1))) ∧
  (∀ h o, ActsAsOne (.ringq h o) h (namedOf (.ringq h o)) NoneRestartable
    (fun s is act => eachLane act (fun s' l => ringqAct o s is s' l) (afterId s))) ∧
  (∀ h o, ActsAsOne (.mwait h o) h (namedOf (.mwait h o)) NoneRestartable
    (fun s is act => eachLane act (fun s l => modFib { s with nextId := s.nextId + 1 } (is.fref l) fun x => { addLL x (s.nextId + 1) with
      waits := x.waits ++ [if o.cidx = 0 then .drained (s.nextId + 1) o.d.toNat (s.nextId + 1) false
        else .completion o.cidx.toNat ((regOf x o.a.toNat).setWidth 16) (s.nextId + 1) o.d.toNat] }) s)) ∧
  (∀ h o n s is act, Issues s h [(0, o.d, o.sub.toNat + 1), (1, o.a, 2), (2, o.b, 1)] is act → NoneRestartable s is act →
    Leased s is act n o.tile.toNat o.tile.toNat → (∀ l ∈ act, ∀ x, getFib s (is.fref l) = some x → inferBad is.core o x = none) →
      ∃ t e p c, exec (.infer h o) s = .next t ∧ (getPart t is.core is.part).buffer = (getPart s is.core is.part).buffer ++ [e] ∧
        e.cmd = .packet p false ∧ p.body = .matrix c ∧ c.op = 5 ∧ c.team = n ∧ c.tile = o.tile.toNat ∧ c.nt = o.nt.toNat ∧ c.fa = o.fa.toNat ∧
        c.fb = o.fb.toNat ∧ c.sub = o.sub.toNat ∧ c.dst = o.d.toNat ∧ c.lanes.map InferLane.lane = act ∧
        ∀ q ∈ c.lanes, ∀ x, getFib s (is.fref q.lane) = some x → q.x = (regOf x o.b.toNat).toNat ∧ q.w = pairSrc x 0 o.a ∧ q.step = 0)

/-- A step for a packet that is not at its destination changes nothing; at its destination a result, an acknowledgement, a completion or a credit is delivered to the fibre, command or counter that waits for it, and is dropped where none does. -/
def Obligations.RepliesDelivered : Prop :=
  (∀ mk ∈ packetSteps, ∀ (s : State) (id : Nat), arrivedPacket s id = none → exec (mk id) s = .next s) ∧
  (∀ s id p f gen ll acc psn effs, Arrived s id p (.results f gen ll acc psn effs) → awaited s f (some gen) [ll, acc] = true →
    exec (.longLatencyResult id) s = .next (accDone (llDone (dropPacket s id) f ll psn effs) f acc)) ∧
  (∀ s id p f gen acc ll effs, Arrived s id p (.combineDone f gen acc ll effs) → awaited s f (some gen) [ll, acc] = true →
    exec (.longLatencyResult id) s = .next (accDone (llDone (dropPacket s id) f ll 0 effs) f acc)) ∧
  (∀ s id p f gen ll acc psn effs, (Arrived s id p (.results f gen ll acc psn effs) ∨ Arrived s id p (.combineDone f gen acc ll effs)) →
    awaited s f (some gen) [ll, acc] = false → exec (.longLatencyResult id) s = .next (bump (dropPacket s id) p.dst 0x004 1)) ∧
  (∀ s id p tag kind, Arrived s id p (.failed tag kind) →
    exec (.longLatencyResult id) s = .next (takeReply (answered (dropPacket s id) p.dst tag) p.dst tag (failedEffs kind))) ∧
  (∀ s id p w, Arrived s id p (.user w) → p.tags.getLsbD 17 = true →
    exec (.longLatencyResult id) s = .next (takeReply (answered (dropPacket s id) p.dst p.tags) p.dst p.tags (replyEffs w))) ∧
  (∀ s id p f acc, Arrived s id p (.ack f acc) → awaited s f none [acc] = true →
    exec (.writeAcknowledgement id) s = .next (accDone (dropPacket s id) f acc)) ∧
  (∀ s id p f acc, Arrived s id p (.ack f acc) → awaited s f none [acc] = false →
    exec (.writeAcknowledgement id) s = .next (bump (dropPacket s id) p.dst 0x004 1)) ∧
  (∀ s id p team cidx st first acc f, Arrived s id p (.engineDone team cidx st first acc f) →
    exec (.engineCompletion id) s = .next (accDone (countCompletion (dropPacket s id) f.core team cidx st first) f acc)) ∧
  (∀ s id p sl t q n, Arrived s id p (.credits sl t q n) → n ≠ 0 →
    exec (.creditReturn id) s = .next (modQueue (dropPacket s id) sl t q fun r => { r with credits := r.credits + n })) ∧
  (∀ s id p stack seq f, Arrived s id p (.invalAck stack seq f) → stack < 16 →
    exec (.invalidationAcknowledgement id) s = .next (modStack (dropPacket s id) stack fun k => { k with
      queue := k.queue.map fun c => if c.seq = seq then { c with acks := c.acks - 1 } else c }))

/-- PARK, barrier, section, MBOX and QUIESCE limits and the watchdogs, ages and time-outs of the units: before the limit the step changes nothing; from it on, the wait ends or the unit acts as its rule says. -/
def Obligations.WaitsAndWatchdogs : Prop :=
  (∀ s core slot lane w, dueWait s ⟨core, slot, lane⟩ parkLimit = some w →
    exec (.parkTimeout core slot lane) s = .next (dropWait s ⟨core, slot, lane⟩ w)) ∧
  (∀ s core slot lane, dueWait s ⟨core, slot, lane⟩ parkLimit = none → exec (.parkTimeout core slot lane) s = .next s) ∧
  (∀ s core slot lane x pc num par lim ll dst acc, getFib s ⟨core, slot, lane⟩ = some x →
    dueWait s ⟨core, slot, lane⟩ barrierLimit = some (.barrier pc num par lim ll dst acc) →
    exec (.barrierWaitTimeout core slot lane) s = .next (endBarWait s ⟨core, slot, lane⟩ (.barrier pc num par lim ll dst acc)
      (barDone s ⟨core, slot, lane⟩ x num par))) ∧
  (∀ s core slot lane, dueWait s ⟨core, slot, lane⟩ barrierLimit = none → exec (.barrierWaitTimeout core slot lane) s = .next s) ∧
  (∀ s core slot lane c lim ll dst, dueWait s ⟨core, slot, lane⟩ quiesceLimit = some (.quiesce c lim ll dst) →
    exec (.quiesceTimeout core slot lane) s = .next (llDone (dropWait s ⟨core, slot, lane⟩ (.quiesce c lim ll dst)) ⟨core, slot, lane⟩ ll 0
      (regsEff dst [BitVec.ofNat 32 (otherTeams s c ⟨core, slot, lane⟩)]))) ∧
  (∀ s core slot lane, dueWait s ⟨core, slot, lane⟩ quiesceLimit = none → exec (.quiesceTimeout core slot lane) s = .next s) ∧
  (∀ s core team t, getTeam s core team = some t →
    (sliceCtl s core t.slice 0x108).toNat = 0 ∨ t.watchdog.toNat < (sliceCtl s core t.slice 0x108).toNat →
    exec (.teamWatchdogExpiry core team) s = .next s) ∧
  (∀ s core team t, getTeam s core team = some t → (sliceCtl s core t.slice 0x108).toNat ≠ 0 →
    (sliceCtl s core t.slice 0x108).toNat ≤ t.watchdog.toNat → t.halted = false →
    (∀ f ∈ teamFibres (bump s core 0x044 1) core team, ∀ x, getFib (bump s core 0x044 1) f = some x → ∀ w ∈ x.waits, watchedWait w = none) →
    let u := modTeam (bump s core 0x044 1) core team fun t => { t with watchdog := 0 }
    exec (.teamWatchdogExpiry core team) s = .next (teamFault u core team (teamHead u core team) (faultPc u (teamHead u core team)) 0xFF04)) ∧
  (∀ s core n w, (getCore s core).waves[n]? = some w → w.closed = false → 16 < (s.clk - w.opened).toNat → laneInTime s core w = false →
    exec (.combinerWaveClose core n) s = .next (closeWave s core w.wid)) ∧
  (∀ s core n w, (getCore s core).waves[n]? = some w → ((s.clk - w.opened).toNat ≤ 16 ∨ laneInTime s core w = true) →
    exec (.combinerWaveClose core n) s = .next s) ∧
  (∀ s core n r, (getCore s core).replay[n]? = some r → 64000 ≤ (loHalf s.time - r.t).toNat →
    exec (.replayFilterExpiry core n) s = .next (modCore s core fun k => { k with replay := k.replay.take n ++ k.replay.drop (n + 1) })) ∧
  (∀ s core n r, (getCore s core).replay[n]? = some r → (loHalf s.time - r.t).toNat < 64000 → exec (.replayFilterExpiry core n) s = .next s) ∧
  (∀ s core bin r rest, (binOf (getCore s core) bin).records = r :: rest → (binOf (getCore s core) bin).timeout.toNat < (s.clk - r.arrived).toNat →
    (binOf (getCore s core) bin).due = false →
    exec (.basinBinTimeout core bin) s = .next (putCore s core { getCore s core with
      bins := tput (getCore s core).bins bin { binOf (getCore s core) bin with due := true } })) ∧
  (∀ s core sl t q n last, tget (getCore s core).credits (sl, t, q) = some (n, last) → 1024 ≤ (s.clk - last).toNat → n ≠ 0 →
    exec (.creditIdleReturn core sl t q) s = .next (returnCredits (modCore s core fun k => { k with credits := tdel k.credits (sl, t, q) }) core sl t q n)) ∧
  (∀ s core n w e, (getCore s core).waiters[n]? = some w → w.skip = false → agePaused s w.f w.gen = false → w.period ≠ 0 →
    w.period ≤ (s.clk.extractLsb' 0 24 - w.wstart).toNat → secOf s core w.key = some e → e.held = true →
    exec (.sectionTimeoutProbe core n) s = .next (emit (bump (modCore s core fun k => { k with
      waiters := k.waiters.map fun v => if v = w then { v with wstart := s.clk.extractLsb' 0 24 } else v }) core 0x048 1) .sys 0x11 core e.holder.core 1 0
        (.probe core w.key w.f (s.clk.extractLsb' 0 24) e.holder e.hgen 0 [] none))) ∧
  (∀ s core n w, (getCore s core).waiters[n]? = some w → (w.period = 0 ∨ (s.clk.extractLsb' 0 24 - w.wstart).toNat < w.period) →
    exec (.sectionTimeoutProbe core n) s = .next s)

/-- A batch forms from fibres that stand at one PC and wait for nothing; tokens and register claims are granted in order; the issue buffer and the send queue pass on their oldest entry that may go. A user message joins the inbox of its class, or the dead-letter path; handler groups form from bound messages, oldest first. -/
def Obligations.IssueAndMessageArrival : Prop :=
  (∀ s core part, (getPart s core part).batch.isSome = true → exec (.batchForm core part) s = .next s) ∧
  (∀ s core part t b, (s.fibres.map Prod.fst).Nodup → (getPart s core part).batch = none → (getCore s core).stoppedBatches = [] → exec (.batchForm core part) s = .next t →
    (getPart t core part).batch = some b →
      b.lanes ≠ [] ∧ b.count = 0 ∧ slotPart b.slot = part ∧
      ∀ l ∈ b.lanes, ∃ x, getFib s ⟨core, b.slot, l⟩ = some x ∧ x.pc = b.pc ∧ x.ended = false ∧ x.waits = [] ∧ x.lls = [] ∧ x.pend = []) ∧
  (∀ s core part c, (getPart s core part).batch = none → (getPart s core part).testing = false → (getCore s core).retired = false →
    underTest s 0x04 core = false → underTest s 0x05 core = false → (getCore s core).stoppedBatches = [] →
    ((getPart s core part).buffer.map BufEntry.entry).dedup.length ≤ 24 → s.parked = [] → nextCandidate (getPart s core part) (candidates s core part) = some c →
    (∀ d ∈ candidates s core part, runTokens (getCore s core) 24 (BitVec.ofNat 32 d.2) 0 = 0) →
      ∃ t b, exec (.batchForm core part) s = .next t ∧ (getPart t core part).batch = some b ∧ b.slot = c.1 ∧ b.pc = BitVec.ofNat 32 c.2) ∧
  (∀ s core slot pc size rest, (reclaimTokens s).tokenQ = (core, slot, pc, size) :: rest → (reclaimTokens s).tokensNow.1 ≠ s.clk →
    let k := runTokens (getCore (reclaimTokens s) core) 24 (BitVec.ofNat 32 pc) 0
    (reclaimTokens s).tokensUsed + k ≤ size →
      exec .tokenGrant s = .next (grantTokens 3 { reclaimTokens s with
        tokensUsed := (reclaimTokens s).tokensUsed + k, tokenQ := rest, tokenHeld := (reclaimTokens s).tokenHeld ++ [(core, slot, pc, k)]
        tokGr := s.tokGr + 1, tokensNow := (s.clk, 1) })) ∧
  (∀ s core slot pc size rest, (reclaimTokens s).tokenQ = (core, slot, pc, size) :: rest →
    size < (reclaimTokens s).tokensUsed + runTokens (getCore (reclaimTokens s) core) 24 (BitVec.ofNat 32 pc) 0 →
      exec .tokenGrant s = .next (reclaimTokens s)) ∧
  (∀ s core, exec (.claimGrant core) s = .next (grantClaim s core)) ∧
  (∀ s core part n e t, (getPart s core part).buffer[n]? = some e → entrySaved s e = false → entryMayGo s e = true →
    (∀ d ∈ (getPart s core part).buffer.take n, unitOf core d ≠ unitOf core e ∨ entryMayGo s d = false ∨ entrySaved s d = true) →
    acceptCmd (popEntry s core part n) core e = some t → exec (.issueBufferAccept core part n) s = .next t) ∧
  (∀ s core part n e, (getPart s core part).buffer[n]? = some e → entryMayGo s e = false → exec (.issueBufferAccept core part n) s = .next s) ∧
  (∀ s core n e p u, (getCore s core).sendQ[n]? = some e → injectable s core n = some (p, u) → underTest s 0x0B core = false →
    addressed s e.packet ≠ none → isLoop core p = false → injectLater s core n p = false →
      let r := turnTaken (modCore u core fun k => { k with sendQ := k.sendQ.take n ++ k.sendQ.drop (n + 1) }) p 8
      exec (.sendQueueInject core n) s = .next (enterBuffer { r with mesh := r.mesh ++ [p] } p)) ∧
  (∀ s core n e p u, (getCore s core).sendQ[n]? = some e → injectable s core n = some (p, u) → underTest s 0x0B core = false →
    (576 ≤ e.packet.dst ∨ (e.packet.dpkg ≠ pkgNum s ∧ spanPort s e.packet.src e.packet.dpkg = none)) →
      exec (.sendQueueInject core n) s = .next (bump (modCore s core fun k => { k with sendQ := k.sendQ.take n ++ k.sendQ.drop (n + 1) }) core 0x008 1)) ∧
  (∀ s core n, injectable s core n = none → exec (.sendQueueInject core n) s = .next s) ∧
  (∀ s core n e, (getCore s core).sendQ[n]? = some e → (e.holder.isSome = true ∨
      ((getCore s core).sendQ.take n).any (fun d => d.holder.isNone && decide (d.packet.vc = e.packet.vc) && decide (d.packet.cls = e.packet.cls)) = true) →
    injectable s core n = none) ∧
  (∀ s id p w b, Arrived s id p (.user w) → earlierWaits s p = false → replyOffered s p = false → underTest s 0x0B p.dst = false →
    savedBinding s p.dst (((getCore s p.dst).slice).getD 0) p.tags = none → p.vc = .ureq → p.tags.getLsbD 17 = false → fld p.tags.toNat 16 15 ≠ 3 →
    classMasked (getCore s p.dst) p.cls = false → (getCore s p.dst).inbox.length < 256 →
    let u := dropPacket (msgOf s p w).2 id
    (bindMsg u p.dst (msgOf s p w).1).bound = some b → b.1 ≠ 0 →
      exec (.userMessage id) s = .next (enterInbox u p.dst (bindMsg u p.dst (msgOf s p w).1))) ∧
  (∀ s id p w, Arrived s id p (.user w) → earlierWaits s p = false → replyOffered s p = false → underTest s 0x0B p.dst = false →
    savedBinding s p.dst (((getCore s p.dst).slice).getD 0) p.tags = none → p.vc = .ureq → p.tags.getLsbD 17 = false → fld p.tags.toNat 16 15 ≠ 3 →
    classMasked (getCore s p.dst) p.cls = false →
    let u := dropPacket (msgOf s p w).2 id
    (bindMsg u p.dst (msgOf s p w).1).bound = none →
      exec (.userMessage id) s = .next (dropStale u p.dst p.src p.spkg w)) ∧
  (∀ s id p w, Arrived s id p (.user w) → (earlierWaits s p = true ∨ replyOffered s p = true) → exec (.userMessage id) s = .next s) ∧
  (∀ s core m rest, (getCore s core).loopback = m :: rest → (getCore s core).inbox.length < 192 → underTest s 0x0B core = false → m.vc = .ureq → m.kind = 1 →
    m.tags.getLsbD 17 = false →
    savedBinding (putCore s core { getCore s core with loopback := rest }) core (((getCore s core).slice).getD 0) m.tags = none →
      exec (.loopbackTransfer core) s = .next ((takeMessage (putCore s core { getCore s core with loopback := rest }) core { m with clock := s.clk } 192).getD
        (putCore s core { getCore s core with loopback := rest }))) ∧
  (∀ s core m rest, (getCore s core).loopback = m :: rest → (192 ≤ (getCore s core).inbox.length ∨ underTest s 0x0B core = true) → exec (.loopbackTransfer core) s = .next s) ∧
  (∀ s core m rest, (getCore s core).loopback = m :: rest → (getCore s core).inbox.length < 192 → underTest s 0x0B core = false → m.vc = .sys → m.kind = 7 →
      exec (.loopbackTransfer core) s = .next (replayRecord (putCore s core { getCore s core with loopback := rest }) core m)) ∧
  (∀ s core binding, purgeStale s core = s → nextStart (startable s core) (getCore s core).lastClass = none →
    exec (.handlerGroupForm core binding) s = .next s) ∧
  (∀ s core binding b cls, purgeStale s core = s → nextStart (startable s core) (getCore s core).lastClass = some (cls, b) → b ≠ binding →
    exec (.handlerGroupForm core binding) s = .next s) ∧
  (∀ s core binding cls slot t, purgeStale s core = s → nextStart (startable s core) (getCore s core).lastClass = some (cls, binding) →
    freeSlot s core = some slot → underTest s 0x0B core = false → getTeam s core (bindTeam (bindingAt (getCore s core) binding)) = some t →
      let take := groupMessages (startable s core) binding
      exec (.handlerGroupForm core binding) s = .next (((List.range take.length).zip take).foldl (fun u e => startActivation u ⟨core, slot, e.1⟩
          (bindingAt (getCore s core) binding) t.prv binding e.2)
        (makeGroup (modCore s core fun k => { k with inbox := k.inbox.filter fun e => ! take.contains e, lastClass := cls }) core slot
          { team := bindTeam (bindingAt (getCore s core) binding), gid := 64 + slot, allot := 8 * bindAreg (bindingAt (getCore s core) binding)
            base := 0, kind := .handler binding })))

/-- Read, write, atomic and reduction requests at their home: performed lane by lane in order and answered, held back where an earlier request, a test, a pause or a migration stands before it, and answered from the replay filter when repeated. -/
def Obligations.RequestsAtHomes : Prop :=
  (∀ s id p l, Arrived s id p (.read l) → exec (.readRequest id) s = .next (serveRequest s p l 1)) ∧
  (∀ s id p l, Arrived s id p (.write l) → exec (.writeRequest id) s = .next (serveRequest s p l 2)) ∧
  (∀ s id p l, Arrived s id p (.atomic l) → exec (.atomicRequest id) s = .next (serveRequest s p l 3)) ∧
  (∀ s id p l, Arrived s id p (.reduce l) → exec (.reductionRequest id) s = .next (serveRequest s p l 3)) ∧
  (∀ s p l kind, (requestBlocked s p = true ∨ filterFull s p.dst p l = true) → serveRequest s p l kind = s) ∧
  (∀ s p l kind, requestBlocked s p = false → filterFull s p.dst p l = false → reqPiece l = none → serveRequest s p l kind = performAll s kind p l) ∧
  (∀ s p l kind pc x c, Unheld s p l pc → l2Piece (getCore s p.dst) pc = some x → promotionNeeded s p x l = some c →
    serveRequest s p l kind = if promoting s p.dst pc then s else emit s .sys 0x0A p.dst c 1 0 (.promote p.dst pc false)) ∧
  (∀ s p l kind pc x, Unheld s p l pc → l2Piece (getCore s p.dst) pc = some x → promotionNeeded s p x l = none → (l.any fun q => q.op.rel) = false →
    (kind ≠ 2 ∨ coversPiece l = false) → p.side ≠ 8 →
    serveRequest s p l kind = performAll (perfEvent (l2Touch s p.dst (pc / 32)) p.dst 0x09 1 none none) kind p l) ∧
  (∀ s p l pc x, Unheld s p l pc → l2Piece (getCore s p.dst) pc = some x → promotionNeeded s p x l = none → (l.any fun q => q.op.rel) = true →
    coversPiece l = false → p.side ≠ 8 →
    let u := perfEvent (l2Touch s p.dst (pc / 32)) p.dst 0x09 1 none none
    serveRequest s p l 2 = setPromo (renewTag (performAll u 2 p l) p pc l) p.dst pc (promoAfter u p x.promo l)) ∧
  (∀ s p l kind pc, Unheld s p l pc → l2Piece (getCore s p.dst) pc = none → pinBefore s p pc = false → promoOwing s p.dst pc = none →
    (kind ≠ 2 ∨ coversPiece l = false) → l2CanFill s p.dst pc = true → serveRequest s p l kind = awaitFill s p pc) ∧
  (∀ s p l pc, Unheld s p l pc → l2Piece (getCore s p.dst) pc = none → pinBefore s p pc = false → promoOwing s p.dst pc = none →
    coversPiece l = true → l.any (narrowRelease s) = false → p.side = 8 →
    serveRequest s p l 2 = performWhole (dropPacket s p.id) p.dst pc l) ∧
  (∀ s p l kind pc, requestBlocked s p = false → filterFull s p.dst p l = false → reqPiece l = some pc → (getCore s p.dst).l2Failed = true →
    serveRequest s p l kind = homeRetired s p l)

/-- A home fills, writes back, invalidates, pins and promotes as its request says; a packet goes one link on where the next buffer takes it and leaves the mesh at its destination; a page walk ends in a translation or a fault, and a code line that fails its parity is fetched again. -/
def Obligations.HomesHopsAndWalks : Prop :=
  (∀ s u core pc, u = (modCore s core fun k => { k with homeWait := k.homeWait.filter fun n => decide (n ≠ pc) }) →
    (getCore s core).homeWait.contains pc = true → channelPaused s (pc * 64) = false → evictPaused s core pc = false → l2Testing s core = false →
    (getCore u core).l2Failed = false → ((l2Piece (getCore u core) pc).isSome = true ∨ l2CanFill u core pc = true) →
    exec (.l2FillComplete core pc) s = .next (l2Fill u core pc
      ((s.mesh.filter fun q => q.arrived && decide (q.dst = core) && decide (q.side = 8) && reqPiece (bodyLanes q.body) == some pc).any
        fun q => (bodyLanes q.body).any LaneReq.bcmp))) ∧
  (∀ s core pc, (getCore s core).homeWait.contains pc = false → exec (.l2FillComplete core pc) s = .next s) ∧
  (∀ s id p opc f acc pcs bcmp, Arrived s id p (.range opc f acc pcs bcmp) → rangeWaits s p opc pcs = false → rangeOwes s p.dst opc pcs = none →
    (getCore s p.dst).l2Failed = false → acc ≠ 0 →
    exec (.rangeRequest id) s = .next (sendAck (rangePart (dropPacket s id) p.dst opc pcs bcmp) p.dst f acc)) ∧
  (∀ s id p opc f pcs bcmp, Arrived s id p (.range opc f 0 pcs bcmp) → rangeWaits s p opc pcs = false → rangeOwes s p.dst opc pcs = none →
    (getCore s p.dst).l2Failed = false →
    exec (.rangeRequest id) s = .next (rangePart (dropPacket s id) p.dst opc pcs bcmp)) ∧
  (∀ s id p opc f acc pcs bcmp, Arrived s id p (.range opc f acc pcs bcmp) → rangeWaits s p opc pcs = true → exec (.rangeRequest id) s = .next s) ∧
  (∀ s id p home pc again, Arrived s id p (.promote home pc again) → writesBefore s p.dst p.order = false →
    exec (.promotionRequest id) s = .next (emit (dropPacket s id) .sys 0x0B p.dst home 1 0 (.promoteAck pc p.order again))) ∧
  (∀ s id p home pc again, Arrived s id p (.promote home pc again) → writesBefore s p.dst p.order = true → exec (.promotionRequest id) s = .next s) ∧
  (∀ s id p pc n, Arrived s id p (.promoteAck pc n true) → waitingFor (dropPacket s id) p.dst pc = [] →
    exec (.promotionAcknowledgement id) s = .next (dropPacket s id)) ∧
  (∀ s id p pc n, Arrived s id p (.promoteAck pc n false) → waitingFor (tagCleared s id p pc) p.dst pc = [] →
    exec (.promotionAcknowledgement id) s = .next (tagCleared s id p pc)) ∧
  (∀ s id p pc n q l, Arrived s id p (.promoteAck pc n false) → waitingFor (tagCleared s id p pc) p.dst pc = [q] → q.body = .read l →
    exec (.promotionAcknowledgement id) s = .next (serveRequest (tagCleared s id p pc) q l 1)) ∧
  (∀ s id p stack seq f pcs, Arrived s id p (.inval stack seq f pcs) →
    exec (.pumpInvalidation id) s = .next (emit (pcs.foldl (fun s pc => dropWritten (noteMigration s (pc * 64)) p.dst pc) (dropPacket s id))
      .sys 0x0D p.dst p.src 1 0 (.invalAck stack seq f))) ∧
  (∀ s id p port c, getPacket s id = some p → p.arrived = false → p.side < 6 → underTest s 0x08 p.pos = false →
    nextPort s p = port → granted s p port = true → port < 4 → neighbour p.pos port = some c →
      exec (.packetHop id) s = .next (enterBuffer (turnTaken s p port) { p with
        pos := c, side := oppositeSide port, yxHalf := p.yxHalf && (p.pinned.isNone || atSource p) })) ∧
  (∀ s id p, getPacket s id = some p → p.side < 6 → granted s p (nextPort s p) = false → exec (.packetHop id) s = .next s) ∧
  (∀ s p port, (notFirst s p = true ∨ nextPort s p ≠ port) → granted s p port = false) ∧
  (∀ s p port q, movedBy p port = some q → hasRoom s q = false → granted s p port = false) ∧
  (∀ s id p port, getPacket s id = some p → p.arrived = false → p.side < 6 → underTest s 0x08 p.pos = false →
    nextPort s p = port → granted s p port = true → 4 ≤ port → port ≠ 7 → listedKind p.vc p.kind = true →
    savedFor (turnTaken s p port) { p with side := port, arrived := true } = none →
      exec (.packetHop id) s = .next (enterBuffer (turnTaken s p port) { p with side := port, arrived := true })) ∧
  (∀ s id p port, getPacket s id = some p → p.arrived = false → p.side < 6 → underTest s 0x08 p.pos = false →
    nextPort s p = port → granted s p port = true → 4 ≤ port → port ≠ 7 → listedKind p.vc p.kind = false → (∀ w, p.body ≠ .user w) →
      exec (.packetHop id) s = .next (bump (dropPacket (turnTaken s p port) id) p.dst 0x008 1)) ∧
  (∀ s id p, getPacket s id = some p → (p.arrived = true ∨ p.side = 10 ∨ underTest s 0x08 p.pos = true) → exec (.packetHop id) s = .next s) ∧
  (∀ s id p, getPacket s id = some p → p.arrived = false → (p.side = 6 ∨ p.side = 9) → underTest s 0x08 p.pos = false →
    exec (.packetHop id) s = .next (nextDoorbell (enterRouter s p) p)) ∧
  (∀ s id p, getPacket s id = some p → p.arrived = false → p.side = 7 → underTest s 0x08 p.pos = false →
    exec (.packetHop id) s = .next (if notFirst s p then s else leaveSpan s p)) ∧
  (∀ c d, d < 576 → c < 576 → stepXY c d = none → c = d) ∧
  (∀ c side n, c < 576 → side < 4 → neighbour c side = some n → n < 576 ∧ neighbour n (oppositeSide side) = some c) ∧
  (∀ s core n slice va e, (getCore s core).walks[n]? = some (slice, va) →
    pageOf (modCore s core fun k => { k with walks := k.walks.take n ++ k.walks.drop (n + 1) }) core slice va.toNat = .ok e →
    exec (.tlbWalkComplete core n) s = .next (tlbFill (modCore s core fun k => { k with walks := k.walks.take n ++ k.walks.drop (n + 1) }) core e)) ∧
  (∀ s core n, (getCore s core).walks[n]? = none → exec (.tlbWalkComplete core n) s = .next s) ∧
  (∀ s core line o, lineObject (getCore s core) line = some o → (getCore s core).codeBad.contains line = false →
    exec (.fetchParityError core line) s = .next (parityError s core line o.slice)) ∧
  (∀ s core line o, lineObject (getCore s core) line = some o → (getCore s core).codeBad.contains line = true →
    exec (.fetchParityError core line) s = .next s) ∧
  (∀ s core line, lineObject (getCore s core) line = none → exec (.fetchParityError core line) s = .next s) ∧
  (∀ s core line o b, (getCore s core).codeBad.contains line = true → lineObject (getCore s core) line = some o →
    niRead s core o.slice (o.code.toNat + 64 * (line - o.first)) 64 = some b → parityOk (wordsOf b) = true →
    exec (.codeRefetchComplete core line true) s = .next (checkAgain (writeLine s core line (wordsOf b)) core line)) ∧
  (∀ s core line good, (getCore s core).codeBad.contains line = false → exec (.codeRefetchComplete core line good) s = .next s)

/-- Writes of shared control registers, directory and rate records are performed at router (17, 0) and acknowledged when every core has the value; an error report is one entry of the log in memory, or is counted as lost when the log is full. -/
def Obligations.SharedRegistersAndErrorLog : Prop :=
  (∀ s id core p key v f acc, Arrived s id p (.ctl key v [] f acc) → core < 576 → broadcastBlocked s p core = false →
    exec (.controlRegisterBroadcast id core) s = .next (serialised (takeControl (flushEarly (ctlSerialise s key v)) core key v f acc) id (.ctl key v [core] f acc))) ∧
  (∀ s id core p key v taken f acc, Arrived s id p (.ctl key v taken f acc) → taken ≠ [] → core < 576 → taken.contains core = false →
    broadcastBlocked s p core = false → taken.length < 575 →
    exec (.controlRegisterBroadcast id core) s = .next (setBody (takeControl s core key v f acc) id (.ctl key v (core :: taken) f acc))) ∧
  (∀ s id core p key v taken f acc, Arrived s id p (.ctl key v taken f acc) → core < 576 → taken.contains core = false →
    broadcastBlocked s p core = false → taken.length = 575 →
    exec (.controlRegisterBroadcast id core) s = .next (accDone (dropPacket (takeControl s core key v f acc) id) f acc)) ∧
  (∀ s id core p key v taken f acc, Arrived s id p (.ctl key v taken f acc) → (576 ≤ core ∨ taken.contains core = true) →
    exec (.controlRegisterBroadcast id core) s = .next s) ∧
  (∀ s id core p sl n img w f acc, Arrived s id p (.rate sl n img w f acc) →
    exec (.controlRegisterBroadcast id core) s = .next (accDone (setRate (dropPacket s id) sl n img w) f acc)) ∧
  (∀ s id p e, Arrived s id p (.error e) → p.came ≠ s.clk → earlierWaits s p = false → behindSame s p = false → ctlHome s 0x006 ≠ 0 → s.earlyErrors = [] →
    exec (.errorLogEntry id) s = .next (logEntry (dropPacket s id) e)) ∧
  (∀ s id p e, Arrived s id p (.error e) → (p.came = s.clk ∨ earlierWaits s p = true ∨ behindSame s p = true) → exec (.errorLogEntry id) s = .next s) ∧
  (∀ s id p e, Arrived s id p (.error e) → p.came ≠ s.clk → earlierWaits s p = false → behindSame s p = false → ctlHome s 0x006 = 0 → s.earlyErrors.length < 16 →
    exec (.errorLogEntry id) s = .next { dropPacket s id with earlyErrors := s.earlyErrors ++ [e] })

/-- Requests to combiner objects join the object's queue or are answered as faults; the objects' table and the waves that run their methods follow their rules. Barrier arrivals count at the lead, and the last sends the completion to every core of the cluster. -/
def Obligations.CombinersAndBarrierPackets : Prop :=
  (∀ s id p f gen acc ll dst cdst base pa args nres, Arrived s id p (.combine f gen acc ll dst cdst base pa args nres) → combineWaits s p = false → underTest s 0x0C p.dst = false →
    (getCore s p.dst).l2Failed = false → objectKept s p.dst pa = none →
    objectAt (getCore s p.dst) pa = none →
      exec (.combineRequest id) s = .next (combineReply (dropPacket s p.id) p.dst (combReq f gen acc ll dst cdst base pa args nres) true [])) ∧
  (∀ s id p f gen acc ll dst cdst base pa args nres o, Arrived s id p (.combine f gen acc ll dst cdst base pa args nres) → combineWaits s p = false → underTest s 0x0C p.dst = false →
    (getCore s p.dst).l2Failed = false → objectKept s p.dst pa = none →
    objectAt (getCore s p.dst) pa = some o → (o.poisoned = true ∨ args.length ≠ o.narg + 1 ∨ nres ≠ o.nres + 1) →
      exec (.combineRequest id) s = .next (combineReply (dropPacket s p.id) p.dst (combReq f gen acc ll dst cdst base pa args nres) true [])) ∧
  (∀ s id p f gen acc ll dst cdst base pa args nres o, Arrived s id p (.combine f gen acc ll dst cdst base pa args nres) → combineWaits s p = false → underTest s 0x0C p.dst = false →
    (getCore s p.dst).l2Failed = false → objectKept s p.dst pa = none →
    objectAt (getCore s p.dst) pa = some o → o.poisoned = false → args.length = o.narg + 1 → nres = o.nres + 1 → wellheadUsed (getCore s p.dst) < 256 →
      exec (.combineRequest id) s = .next (closeFull (joinWave (dropPacket s p.id) p.dst (combReq f gen acc ll dst cdst base pa args nres)) p.dst)) ∧
  (∀ s id p f gen acc ll dst cdst base pa args nres c, Arrived s id p (.combine f gen acc ll dst cdst base pa args nres) → combineWaits s p = false →
    underTest s 0x0C p.dst = false → (getCore s p.dst).l2Failed = false → objectKept s p.dst pa = some c → exec (.combineRequest id) s = .next (forwardPacket s p c)) ∧
  (∀ s id p f gen acc ll dst cdst base pa args nres, Arrived s id p (.combine f gen acc ll dst cdst base pa args nres) → combineWaits s p = false → underTest s 0x0C p.dst = false →
    (getCore s p.dst).l2Failed = true → exec (.combineRequest id) s = .next (postRetired s p f acc (accCode .ms 2))) ∧
  (∀ s id p f gen acc ll cdst pa desc, Arrived s id p (.cmbreg f gen acc ll cdst pa desc) → combineWaits s p = false → (getCore s p.dst).l2Failed = false →
    exec (.combineRequest id) s = .next (sendResults (registerObject (dropPacket s id) p.dst pa desc).1 0x02 p.dst f gen ll acc 0
      (predEff cdst (registerObject (dropPacket s id) p.dst pa desc).2))) ∧
  (∀ s id p f gen acc ll cdst pa desc, Arrived s id p (.cmbreg f gen acc ll cdst pa desc) → combineWaits s p = false → (getCore s p.dst).l2Failed = true →
    exec (.combineRequest id) s = .next (postRetired s p f acc (accCode .ms 2))) ∧
  (∀ s home pa desc, fld desc.toNat 6 0 ≠ 0 → bindV (bindingAt (getCore s home) (fld desc.toNat 6 0)) = true → objectAt (getCore s home) pa = none →
    (getCore s home).objectsTable.length < 64 →
      (registerObject s home pa desc).2 = true ∧ (getCore (registerObject s home pa desc).1 home).objectsTable = (getCore s home).objectsTable ++ [
        { pa := pa, poisoned := false, bidx := fld desc.toNat 6 0, bgen := bindGen (bindingAt (getCore s home) (fld desc.toNat 6 0))
          len := fld desc.toNat 11 7, narg := fld desc.toNat 14 12, nres := fld desc.toNat 17 15 }]) ∧
  (∀ s home pa desc, (bindV (bindingAt (getCore s home) (fld desc.toNat 6 0)) = false ∨ fld desc.toNat 6 0 = 0 ∨ (objectAt (getCore s home) pa = none ∧
    64 ≤ (getCore s home).objectsTable.length)) → registerObject s home pa desc = (s, false)) ∧
  (∀ s core n w, (getCore s core).waves[n]? = some w → (w.closed = false ∨ w.running = true ∨ ((getCore s core).waves.take n).any (fun v => decide (v.pa = w.pa)) = true) →
    exec (.combinerWaveStart core n) s = .next s) ∧
  (∀ s core n w, (getCore s core).waves[n]? = some w → w.closed = true → w.running = false →
    ((getCore s core).waves.take n).any (fun v => decide (v.pa = w.pa)) = false → (w.entry = none ∨ objectAt (getCore s core) w.pa = none) →
      exec (.combinerWaveStart core n) s = .next (faultWave s core w)) ∧
  (∀ s core n w o now slot t, (getCore s core).waves[n]? = some w → w.closed = true → w.running = false →
    ((getCore s core).waves.take n).any (fun v => decide (v.pa = w.pa)) = false → w.entry = some o → objectAt (getCore s core) w.pa = some now →
    o.poisoned = false → now.poisoned = false → bindingSaved s core o.bidx o.bgen = false →
    bindV (bindingAt (getCore s core) o.bidx) = true → bindGen (bindingAt (getCore s core) o.bidx) = o.bgen →
    ((getCore s core).waves.filter fun v => v.running).length < 4 → freeSlot s core = some slot →
    admits s core (32 * (8 * bindAreg (bindingAt (getCore s core) o.bidx))) = true → getTeam s core (bindTeam (bindingAt (getCore s core) o.bidx)) = some t →
    t.stopped = false → t.halted = false → exec (.combinerWaveStart core n) s = .next (runWave s core slot w o)) ∧
  (∀ s id p sl task cl num n t, Arrived s id p (.barArrive sl task cl num) → clusterTeam s p.dst sl task cl = some (n, t) →
    (barOf (dropPacket s id) p.dst n num).tcnt + 1 < (barOf (dropPacket s id) p.dst n num).texp →
      exec (.barrierArrivalPacket id) s = .next (putBar (dropPacket s id) p.dst n num { barOf (dropPacket s id) p.dst n num with
        tcnt := (barOf (dropPacket s id) p.dst n num).tcnt + 1 })) ∧
  (∀ s id p sl task cl num n t, Arrived s id p (.barArrive sl task cl num) → clusterTeam s p.dst sl task cl = some (n, t) →
    (barOf (dropPacket s id) p.dst n num).texp ≤ (barOf (dropPacket s id) p.dst n num).tcnt + 1 →
      exec (.barrierArrivalPacket id) s = .next ((clusterCores t).foldl (fun s c => emit s .mrsp 0x02 p.dst c 1 0 (.completion sl task cl num))
        (putBar (dropPacket s id) p.dst n num { barOf (dropPacket s id) p.dst n num with tcnt := 0 }))) ∧
  (∀ s id p sl task cl num, Arrived s id p (.barArrive sl task cl num) → clusterTeam s p.dst sl task cl = none →
    exec (.barrierArrivalPacket id) s = .next (arriveLead (dropPacket s id) p.dst sl task cl num)) ∧
  (∀ s lead sl task cl num k b, tget (getSlice s sl).tasks task = some k → tget k.leads (cl, num) = some b → b.tcnt + 1 < b.texp →
    arriveLead s lead sl task cl num = setLead s lead sl task cl num { b with tcnt := b.tcnt + 1 }) ∧
  (∀ s lead sl task cl num, tget (getSlice s sl).tasks task = none → arriveLead s lead sl task cl num = s) ∧
  (∀ s id p sl task cl num mask lexp acc f n t, Arrived s id p (.barSet sl task cl num mask lexp acc f) → clusterTeam s p.dst sl task cl = some (n, t) →
    exec (.barrierArrivalPacket id) s = .next (sendAck (initBar (dropPacket s id) p.dst n num
      { v := true, cluster := true, ph := false, mask := mask, lcnt := 0, lexp := lexp, lnext := 0, texp := t.cw * t.ch, tcnt := 0 }) p.dst f acc)) ∧
  (∀ s id p sl task cl num mask lexp acc f, Arrived s id p (.barSet sl task cl num mask lexp acc f) → clusterTeam s p.dst sl task cl = none →
    stillStarting s sl task = true → exec (.barrierArrivalPacket id) s = .next s) ∧
  (∀ s id p sl task cl num n t, Arrived s id p (.completion sl task cl num) → clusterTeam s p.dst sl task cl = some (n, t) →
    exec (.barrierCompletion id) s = .next (barComplete (dropPacket s id) p.dst n num)) ∧
  (∀ s id p sl task cl num, Arrived s id p (.completion sl task cl num) → clusterTeam s p.dst sl task cl = none →
    exec (.barrierCompletion id) s = .next (dropPacket s id))

/-- What a section's home does with an enter, a skip, a leave and an abandonment; what a fibre does with its grant, and how a deadlock probe and a withdrawal end. -/
def Obligations.SectionHomesAndAnswers : Prop :=
  (∀ s id p f gen acc key seq s' e u, Arrived s id p (.ordered 0 f gen acc key seq) → earlierWaits s p = false → underTest s 0x0C p.dst = false →
    needEntry s p.dst key = .ready s' e → enterSection s' p.dst e f gen acc seq = some u →
      exec (.sectionRequest id) s = .next (settleSection (dropPacket u id) p.dst key)) ∧
  (∀ s id p f gen acc key seq s' e u, Arrived s id p (.ordered 2 f gen acc key seq) → earlierWaits s p = false → underTest s 0x0C p.dst = false →
    needEntry s p.dst key = .ready s' e → skipSection s' p.dst e f gen acc seq = some u →
      exec (.sectionRequest id) s = .next (settleSection (dropPacket u id) p.dst key)) ∧
  (∀ s id p f gen acc key seq, Arrived s id p (.ordered 1 f gen acc key seq) → earlierWaits s p = false → underTest s 0x0C p.dst = false →
    exec (.sectionRequest id) s = .next (sendAck (homeLeave (dropPacket s id) p.dst key f gen false) p.dst f acc)) ∧
  (∀ s id p f gen acc key seq, Arrived s id p (.ordered 3 f gen acc key seq) → earlierWaits s p = false → underTest s 0x0C p.dst = false →
    exec (.sectionRequest id) s = .next (homeLeave (dropPacket s id) p.dst key f gen true)) ∧
  (∀ s id p f gen acc key seq, Arrived s id p (.ordered 0 f gen acc key seq) → earlierWaits s p = false → underTest s 0x0C p.dst = false →
    needEntry s p.dst key = .full none → exec (.sectionRequest id) s = .next (answerSection (dropPacket s id) p.dst f gen acc key seq 3)) ∧
  (∀ s home key e, secOf s home key = some e → needEntry s home key = .ready s e) ∧
  (∀ s home e f gen acc n, seqPassed e n = true → enterSection s home e f gen acc n = some (answerSection s home f gen acc e.key n 2)) ∧
  (∀ s home e f gen acc, e.held = false → enterSection s home e f gen acc e.next = some (grantSection s home e f gen acc e.next)) ∧
  (∀ s home e f gen acc n, seqPassed e n = false → (n ≠ e.next ∨ e.held = true) → waitersFull (getCore s home) = false →
    enterSection s home e f gen acc n = some (addWaiter s home false e.key n f gen acc)) ∧
  (∀ s home key e f gen ab, secOf s home key = some e → (e.held = false ∨ e.holder ≠ f ∨ e.hgen ≠ gen) → homeLeave s home key f gen ab = s) ∧
  (∀ s id p f gen acc key seq x pc k n dst ll b, Arrived s id p (.secAnswer f gen acc key seq b) → b < 2 → getFib s f = some x → x.gen = gen →
    sectionWait x acc = some (.ordered pc k n dst ll acc, pc, some (ll, dst)) →
      exec (.sectionGrant id) s = .next (accDone (llDone (modFib (dropRst (dropWait (dropPacket s id) f (.ordered pc k n dst ll acc)) f) f fun x => { x with
        heldKeys := x.heldKeys ++ [(key, seq)] }) f ll 0 (predEff dst (b == 1))) f acc)) ∧
  (∀ s id p f gen acc key seq x pc k n, Arrived s id p (.secAnswer f gen acc key seq 4) → getFib s f = some x → x.gen = gen →
    sectionWait x acc = some (.skip pc k n acc, pc, none) →
      exec (.sectionGrant id) s = .next (accDone (dropWait (dropPacket s id) f (.skip pc k n acc)) f acc)) ∧
  (∀ s id p f gen acc key seq x pc k n dst ll a, Arrived s id p (.secAnswer f gen acc key seq a) → (a = 2 ∨ a = 3 ∨ a = 7) → getFib s f = some x → x.gen = gen →
    sectionWait x acc = some (.ordered pc k n dst ll acc, pc, some (ll, dst)) → inBatch s f = false →
      exec (.sectionGrant id) s = .next (takeTrap (dropLL (accDone (dropWait (dropPacket s id) f (.ordered pc k n dst ll acc)) f acc) f ll) f pc
        { trapOf 7 (sectionDetail a) with aux := key })) ∧
  (∀ s id p f gen acc key seq a, Arrived s id p (.secAnswer f gen acc key seq a) → getFib s f = none → a < 2 →
    exec (.sectionGrant id) s = .next (emit (dropPacket s id) .mreq 0x06 f.core (sectionHome s (((getCore s f.core).slice).getD 0) key) 1 (replyTag gen 0)
      (.ordered 3 f gen 0 key seq))) ∧
  (∀ s id p f gen acc key seq a, Arrived s id p (.secAnswer f gen acc key seq a) → getFib s f = none → 2 ≤ a →
    exec (.sectionGrant id) s = .next (bump (dropPacket s id) f.core 0x004 1)) ∧
  (∀ s id p f gen key seq, Arrived s id p (.withdraw f gen key seq) →
    exec (.sectionWaitWithdrawal id) s = .next (withdrawWaiter (dropPacket s id) p.dst f gen key seq)) ∧
  (∀ s home f gen key seq, (∀ w ∈ (getCore s home).waiters, w.f = f → w.gen = gen → w.key = key → w.seq = seq → w.skip = true) →
    withdrawWaiter s home f gen key seq = s) ∧
  (∀ s id p home key f ws look gen hops chain k, Arrived s id p (.probe home key f ws look gen hops chain none) → waitedKey s look gen = some k →
    exec (.sectionDeadlockProbe id) s = .next (emit (dropPacket s id) .sys 0x11 p.dst (sectionHome s (sliceOf s look) k) 1 0
      (.probe home key f ws look gen (hops + 1) chain (some k)))) ∧
  (∀ s id p home key f ws look gen hops chain, Arrived s id p (.probe home key f ws look gen hops chain none) → waitedKey s look gen = none →
    exec (.sectionDeadlockProbe id) s = .next (dropPacket s id)) ∧
  (∀ s id p home key f ws look gen hops chain next, Arrived s id p (.probe home key f ws look gen hops chain (some next)) →
    exec (.sectionDeadlockProbe id) s = .next (probeAtHome (dropPacket s id) p.dst home key f ws look gen hops chain next))

/-- A doorbell sends its record at its window's level; a launch record that fails a check is refused with its code and one that passes joins its queue; a grid is placed, its code and shape are sent, its teams start, and the end of the last team ends it. -/
def Obligations.LaunchesAndPlacement : Prop :=
  (∀ s fn window w slice lvl, s.imageGood = true → windowOf s fn window = some (w, slice, lvl) → doorbellFlies s w = false →
    exec (.launchDoorbell fn window) s = .next (emitFrom true (putWindow s w { getWindow s w with sent := (getWindow s w).sent + 1 }) .sys 0x01 hostPort hostPort 4 0
      (.launch slice lvl (doorbellRecord s w lvl) (some w) none))) ∧
  (∀ s fn window w slice lvl, s.imageGood = true → windowOf s fn window = some (w, slice, lvl) → doorbellFlies s w = true →
    exec (.launchDoorbell fn window) s = .next (putWindow s w { getWindow s w with
      sent := (getWindow s w).sent + 1, waiting := (getWindow s w).waiting ++ [(slice, lvl, doorbellRecord s w lvl)] })) ∧
  (∀ s fn window, (s.imageGood = false ∨ windowOf s fn window = none) → exec (.launchDoorbell fn window) s = .next s) ∧
  (∀ s id p sl lvl r window reply, Arrived s id p (.launch sl lvl r window reply) → rejects s sl r = none → launchFull s sl r = false → s.ckpt = 0 →
    exec (.launchMessage id) s = .next (answerLaunch (enqueueLaunch (dropPacket s id) sl { record := r, window := window, node := none }) reply 0)) ∧
  (∀ s id p sl lvl r window reply, Arrived s id p (.launch sl lvl r window reply) → rejects s sl r = none → (launchFull s sl r = true ∨ s.ckpt ≠ 0) →
    exec (.launchMessage id) s = .next (answerLaunch (refuseLaunch (bumpSlice (dropPacket s id) sl 0x000 1) sl 0 window 1 0 reply.isNone) reply 1)) ∧
  (∀ s id p sl lvl r window reply f, Arrived s id p (.launch sl lvl r window reply) → rejects s sl r = some f →
    exec (.launchMessage id) s = .next (answerLaunch (refuseLaunch (dropPacket s id) sl 0 window 2 f true) reply 2)) ∧
  (∀ s sl r f, badField r = some f → rejects s sl r = some f) ∧
  (∀ r, recField r 0 8 % 64 ≠ 0 → badField r = some 0x00) ∧
  (∀ r f, badField r = none → f ∈ [0x18, 0x1A, 0x1C] → recField r f 2 ≠ 0) ∧
  (∀ r, badField r = none → 1 ≤ recField r 0x11 1 ∧ recField r 0x11 1 ≤ 32 ∧ 1 ≤ recField r 0x12 2 ∧ recField r 0x12 2 ≤ 2048 ∧
    recField r 0x14 1 * recField r 0x15 1 ≤ 12) ∧
  (∀ s sl n t, let u := reapTasks (deliverSpilled (deliverPending s sl) sl) sl
    ((getSlice u sl).tasks.find? fun e => e.2.placed && ! e.2.started && ! e.2.waiting && ! e.2.saved) = some (n, t) →
      exec (.launchPlacement sl) s = .next (continueLaunch u sl n t)) ∧
  (∀ s sl, let u := reapTasks (deliverSpilled (deliverPending s sl) sl) sl
    ((getSlice u sl).tasks.find? fun e => e.2.placed && ! e.2.started && ! e.2.waiting && ! e.2.saved) = none →
      exec (.launchPlacement sl) s = .next (serveQueues u sl)) ∧
  (∀ s sl, (∀ p q rest, p < 8 → tgetD (getSlice s sl).queues p [] = q :: rest → depsHold s sl q.record = false) → serveQueues s sl = s) ∧
  (∀ s id p sl task line words, Arrived s id p (.codeLine sl task line words) → earlierWaits s p = false →
    exec (.codeLine id) s = .next (writeLine (dropPacket s id) p.dst line words)) ∧
  (∀ s id p sl task off bytes, Arrived s id p (.shape sl task off bytes) → earlierWaits s p = false →
    exec (.shapeStore id) s = .next (cistWrite (dropPacket s id) p.dst off bytes 0)) ∧
  (∀ s id p sl task cl rank, Arrived s id p (.start sl task cl rank) → earlierWaits s p = false → tget (getSlice s sl).tasks task = none →
    exec (.startMessage id) s = .next (dropPacket s id)) ∧
  (∀ s id p sl task cl rank k n t i, Arrived s id p (.start sl task cl rank) → earlierWaits s p = false → tget (getSlice s sl).tasks task = some k →
    clusterTeam s p.dst sl task cl = some (n, t) → k.node = none → t.halted = false →
    findObject (getCore s p.dst) sl (pairOf (k.record.getD 0 0) (k.record.getD 1 0)) (k.record.getD 2 0) = some i →
      ∃ u, exec (.startMessage id) s = .next u ∧
        (getTeam u p.dst n).map (fun v => (v.codeObj, v.entry)) = some (i, BitVec.ofNat 32
          (64 * (((getCore s p.dst).objects[i]?.map CodeObj.first).getD 0 + recField k.record 0x0E 2 / 8) + 12 * (recField k.record 0x0E 2 % 8)))) ∧
  (∀ s sl task t, tget (getSlice s sl).tasks task = some t → gridOver s sl task t = false → exec (.gridEnd sl task) s = .next s) ∧
  (∀ s sl task t, tget (getSlice s sl).tasks task = some t → gridOver s sl task t = true → t.node = none → recField t.record 0x1E 2 < 4096 →
    liveQueues s sl task = [] → ∃ u, exec (.gridEnd sl task) s = .next u ∧ tget (getSlice u sl).tasks task = none ∧
      tgetD (getSlice u sl).dones (recField t.record 0x1E 2) 0 = tgetD (getSlice s sl).dones (recField t.record 0x1E 2) 0 + 1) ∧
  (∀ s sl task t, tget (getSlice s sl).tasks task = some t → gridOver s sl task t = true → liveQueues s sl task ≠ [] →
    ∃ u, exec (.gridEnd sl task) s = .next u ∧ (tget (getSlice u sl).tasks task).map (fun v => (v.past, v.closedQueues)) = some (true, liveQueues s sl task)) ∧
  (∀ s sl n v, s.imageGood = true → sl < 8 → n < 4096 → exec (.completionCounterWrite sl n v) s = .next (modSlice s sl fun x => { x with dones := tput x.dones n v })) ∧
  (∀ s sl n v, ¬ (sl < 8 ∧ n < 4096 ∧ s.imageGood = true) → exec (.completionCounterWrite sl n v) s = .next s)

/-- A work-graph record joins its queue or is turned away with a credit; rays wait for a slot, are traversed and answered; hit and pixel records fill basins and form shading waves. -/
def Obligations.WorkGraphsAndRays : Prop :=
  (∀ s id p sl task q w, Arrived s id p (.work sl task q w) → earlierWaits s p = false →
    ((getSlice s sl).saved.find? fun v => decide (v.task = task)) = none → tget (getSlice s sl).tasks task = none →
      exec (.workGraphRecord id) s = .next (dropRecord (dropPacket s id) p sl task q)) ∧
  (∀ s id p sl task q w t rq n k u, Arrived s id p (.work sl task q w) → earlierWaits s p = false →
    ((getSlice s sl).saved.find? fun v => decide (v.task = task)) = none → tget (getSlice s sl).tasks task = some t →
    tget (getSlice s sl).recQueues (task, q) = some rq → nodeTask s sl task q = some (n, k) → k.saved = false →
    ((getSlice s sl).pending.any fun d => decide (d.task = task) && decide (d.queue = q)) = false → (getSlice s sl).pendSpill.contains (some (task, q)) = false →
    deliverNow (dropPacket s id) sl task q w = some u →
      exec (.workGraphRecord id) s = .next (returnCredits u p.dst sl task q 1)) ∧
  (∀ s id p sl task q w t rq n k, Arrived s id p (.work sl task q w) → earlierWaits s p = false →
    ((getSlice s sl).saved.find? fun v => decide (v.task = task)) = none → tget (getSlice s sl).tasks task = some t →
    tget (getSlice s sl).recQueues (task, q) = some rq → nodeTask s sl task q = some (n, k) → k.saved = false →
    (((getSlice s sl).pending.any fun d => decide (d.task = task) && decide (d.queue = q)) = true ∨ (getSlice s sl).pendSpill.contains (some (task, q)) = true ∨
      deliverNow (dropPacket s id) sl task q w = none) →
      exec (.workGraphRecord id) s = .next (pendRecord (dropPacket s id) sl p { task := task, queue := q, words := w, src := p.src, tags := p.tags })) ∧
  (∀ s sl p e, (getSlice s sl).pending.length < 256 → (getSlice s sl).pendSpill.contains (some (e.task, e.queue)) = false →
    pendRecord s sl p e = modSlice s sl fun x => { x with pending := x.pending ++ [e] }) ∧
  (∀ s sl p e, (256 ≤ (getSlice s sl).pending.length ∨ (getSlice s sl).pendSpill.contains (some (e.task, e.queue)) = true) →
    let r := sumpSpill (bumpSlice s sl 0x004 1) hostPort sl 576 (messageEntries (workMsg s e) 2 e.task)
    pendRecord s sl p e = if r.2 then modSlice r.1 sl fun x => { x with pendSpill := x.pendSpill ++ [some (e.task, e.queue)] }
      else dropRecord r.1 p sl e.task e.queue) ∧
  (∀ s sl task q w n k rq, nodeTask s sl task q = some (n, k) → tget (getSlice s sl).recQueues (task, q) = some rq →
    k.started = true → k.starting = 0 → k.saved = false → deliverNow s sl task q w = deliverNode s sl n k rq.target w) ∧
  (∀ s sl n k tgt w c team tm sl' lane, deliveryPlace s sl n k = some ((c, team), tm, sl', lane, none) →
    deliverNode s sl n k tgt w = some (createFibre (bumpGen s c sl') ⟨c, sl', lane⟩ tm.allot
      (BitVec.ofNat 32 ((((getCore (bumpGen s c sl') c).objects[tm.codeObj]?).bind fun o => regTarget o (tgt.setWidth 32)).getD 0))
      (fsrNew tm.prv false false) w Origin.none)) ∧
  (∀ s sl n k tgt w, deliveryPlace s sl n k = none → deliverNode s sl n k tgt w = none) ∧
  (∀ s id p w fw best n e, Arrived s id p (.ray w fw best) → earlierWaits s p = false → freeRay (getCore s p.dst) = some n →
    treeletEntry (getCore s p.dst) (rayTreelet w) = some e →
      exec (.rayMessage id) s = .next (putRay (dropPacket s id) p.dst n (some (newRay w fw best none)))) ∧
  (∀ s id p w fw best n, Arrived s id p (.ray w fw best) → earlierWaits s p = false → freeRay (getCore s p.dst) = some n →
    treeletEntry (getCore s p.dst) (rayTreelet w) = none →
      exec (.rayMessage id) s = .next (leaveCore (putRay (dropPacket s id) p.dst n (some (newRay w fw best none))) p.dst n (newRay w fw best none) (some p.dst))) ∧
  (∀ s id p w fw best, Arrived s id p (.ray w fw best) → freeRay (getCore s p.dst) = none → exec (.rayMessage id) s = .next s) ∧
  (∀ s core n r, underTest s 0x0D core = false → tget (getCore s core).rays n = some r → rayStatus r.words ≠ 0 →
    exec (.traversalNodeVisit core n) s = .next (sendFinal s core n r)) ∧
  (∀ s core n r, underTest s 0x0D core = false → tget (getCore s core).rays n = some r → rayStatus r.words = 0 →
    treeletEntry (getCore s core) (rayTreelet r.words) = none → exec (.traversalNodeVisit core n) s = .next (leaveCore s core n r (some core))) ∧
  (∀ s core n r i e, underTest s 0x0D core = false → tget (getCore s core).rays n = some r → rayStatus r.words = 0 →
    treeletEntry (getCore s core) (rayTreelet r.words) = some (i, e) →
    tget (getSlice s ((getCore s core).slice.getD 0)).tdsets (fld e.toNat 50 48) = none →
      exec (.traversalNodeVisit core n) s = .next (finishRay s core n r 5)) ∧
  (∀ s core n r i e d, underTest s 0x0D core = false → tget (getCore s core).rays n = some r → rayStatus r.words = 0 →
    treeletEntry (getCore s core) (rayTreelet r.words) = some (i, e) →
    tget (getSlice s ((getCore s core).slice.getD 0)).tdsets (fld e.toNat 50 48) = some d →
    let p := visitNode s { core := core, entry := e, desc := d } { w := r.words, next := r.next, stack := r.stack, best := r.best, free := s.free, st := 0 }
    p.st = 0 → rayTreelet p.w = rayTreelet r.words →
      exec (.traversalNodeVisit core n) s = .next (putRay (perfEvent { s with free := p.free } core 0x0E 1 none none) core n
        (some { r with words := p.w, next := p.next, stack := p.stack, best := p.best }))) ∧
  (∀ s core r, binTakes (getCore s core) r = true → ∃ n, binFor (getCore s core) r.entry = some n ∧
    (binOf (getCore (enterBin s core r) core) n).records = (binOf (getCore s core) n).records ++ [{ r with arrived := s.clk }]) ∧
  (∀ s id p sl t q w, Arrived s id p (.hit sl t q w) → earlierWaits s p = false → binTakes (getCore s p.dst) { arrived := s.clk, pixel := false, entry := hitEntry w, words := w, cov := [], seq := 0, slice := sl, task := t, queue := q, pos := 0 } = true →
    (∀ r ∈ (getCore s p.dst).spilled, ¬ (r.slice = sl ∧ r.task = t ∧ r.queue = q)) →
      ∃ u pos, exec (.hitRecord id) s = .next (enterBin u p.dst { arrived := s.clk, pixel := false, entry := hitEntry w, words := w, cov := [], seq := 0, slice := sl, task := t, queue := q, pos := pos })) ∧
  (∀ s id p sl t q en w cov seq, Arrived s id p (.pixel sl t q en w cov seq) → earlierWaits s p = false → (getCore s p.dst).spilled.any (fun r => decide (r.slice = sl) && decide (r.task = t) && decide (r.queue = q)) = true →
      ∃ u pos, exec (.hitRecord id) s = .next (spillRecord u p.dst { arrived := s.clk, pixel := true, entry := en, words := w, cov := cov, seq := seq, slice := sl, task := t, queue := q, pos := pos })) ∧
  (∀ s core n r, (getCore s core).spilled[n]? = some r → binTakes (getCore s core) r = false → exec (.ringToBasinMove core n) s = .next s) ∧
  (∀ s core r rest, (getCore s core).spilled = r :: rest → binTakes (getCore s core) r = true → tget (getSlice s r.slice).recQueues (r.task, r.queue) = none →
    exec (.ringToBasinMove core 0) s = .next (enterBin (putCore s core { getCore s core with spilled := rest }) core r))

/-- A lease is granted where its tiles are free and else queued; a command joins its lease's queue; a block steps the head of a queue that can step; a head that has not stepped for the watchdog's limit ends its team's command. -/
def Obligations.MatrixBlocks : Prop :=
  (∀ s id p core team ws first count sl, Arrived s id p (.lease core team ws first count sl) → earlierLease s p = false → (getBlock s (coreQuad core)).requests.length < 8 →
    exec (.leaseRequest id) s = .next (putBlock (dropPacket s id) (coreQuad core) { getBlock s (coreQuad core) with
      requests := (getBlock s (coreQuad core)).requests ++ [{ core := core, team := team, waiters := ws, first := first, count := count, slot := none }] })) ∧
  (∀ s id p core team ws first count sl, Arrived s id p (.lease core team ws first count sl) → 8 ≤ (getBlock s (coreQuad core)).requests.length →
    exec (.leaseRequest id) s = .next s) ∧
  (∀ s block r rest, (getBlock s block).leases = [] → (getBlock s block).requests = r :: rest → r.slot = none →
    ∃ u, exec (.leaseGrant block) s = .next u ∧ (getBlock u block).requests = rest ∧
      (getBlock u block).leases = [(0, { core := r.core, team := r.team, first := r.first, count := r.count, acc := 0, queue := [], ending := false, reentry := none, watchdog := 0 })]) ∧
  (∀ s block r rest l, (getBlock s block).leases = [(0, l)] → l.ending = false → l.reentry = none → (getBlock s block).requests = r :: rest → r.slot = none →
    (l.core ≠ r.core ∨ l.team ≠ r.team) → l.first < r.first + r.count → r.first < l.first + l.count → ∃ u, exec (.leaseGrant block) s = .next u ∧ getBlock u block = getBlock s block) ∧
  (∀ s id p c, Arrived s id p (.matrix c) → earlierCommand s p c = false →
    leaseOf s c.f.core c.team = none → exec (.matrixCommand id) s = .next (finishMat (dropPacket s id) (coreQuad c.f.core) 2 c 2)) ∧
  (∀ s id p c sl l, Arrived s id p (.matrix c) → earlierCommand s p c = false →
    leaseOf s c.f.core c.team = some (sl, l) → c.op ≠ 6 → l.queue.length < 32 → l.acc < 16 → l.reentry = none →
      exec (.matrixCommand id) s = .next (putBlock (dropPacket s id) (coreQuad c.f.core) { getBlock s (coreQuad c.f.core) with
        leases := tput (getBlock s (coreQuad c.f.core)).leases sl { l with
          queue := l.queue ++ [{ c with i4t := if c.old then c.i4t else (getCore s c.f.core).i4t }], acc := l.acc + 1
          reentry := if l.acc = 15 then some s.clk else none } })) ∧
  (∀ s id p c sl l, Arrived s id p (.matrix c) → leaseOf s c.f.core c.team = some (sl, l) → c.op ≠ 6 → (32 ≤ l.queue.length ∨ 16 ≤ l.acc ∨ l.reentry ≠ none) →
    exec (.matrixCommand id) s = .next s) ∧
  (∀ s block c, steppable s block ((getBlock s block).turn % 2) = some c →
    exec (.matrixTileStep block) s = .next (stepOf (turnTo s block ((getBlock s block).turn % 2)) block ((getBlock s block).turn % 2) c)) ∧
  (∀ s block c, steppable s block ((getBlock s block).turn % 2) = none → steppable s block (((getBlock s block).turn + 1) % 2) = some c →
    exec (.matrixTileStep block) s = .next (stepOf (turnTo s block (((getBlock s block).turn + 1) % 2)) block (((getBlock s block).turn + 1) % 2) c)) ∧
  (∀ s block, steppable s block ((getBlock s block).turn % 2) = none → steppable s block (((getBlock s block).turn + 1) % 2) = none →
    exec (.matrixTileStep block) s = .next s) ∧
  (∀ s block core slice t i j, tileWord (getBlock (zeroTile s block core slice t) block) t i j = 0) ∧
  (∀ s block sl l c, tget (getBlock s block).leases sl = some l → l.queue.head? = some c →
    (let lim := (sliceCtl s l.core (((getTeam s l.core l.team).map Team.slice).getD 0) 0x109).toNat; lim = 0 ∨ l.watchdog.toNat < lim ∨ cmdStuck c = true ∨ c.cut = true) →
      exec (.matrixWatchdogExpiry block sl) s = .next s) ∧
  (∀ s block sl l c, tget (getBlock s block).leases sl = some l → l.queue = [c] →
    (let lim := (sliceCtl s l.core (((getTeam s l.core l.team).map Team.slice).getD 0) 0x109).toNat; lim ≠ 0 ∧ lim ≤ l.watchdog.toNat) → cmdStuck c = false → c.cut = false →
      let u := putBlock (bump s l.core 0x044 1) block { getBlock (bump s l.core 0x044 1) block with
        leases := tput (getBlock (bump s l.core 0x044 1) block).leases sl { l with ending := true } }
      exec (.matrixWatchdogExpiry block sl) s = .next (modFib (if midGroup c then holdMat u block sl { c with cut := true } else finishMat u block sl c 2)
        c.f fun x => if x.ended then x else { x with asyncTrap := some (9, 1 + sl, 0, 0) }))

/-- Shading waves form where records suffice or have aged; credits go back to their senders; treelet transfers, descriptor images and draws are taken and completed. -/
def Obligations.ShadingTreeletsDraws : Prop :=
  (∀ s core bin, (binOf (getCore s core) bin).due = false → exec (.shadingWaveForm core bin) s = .next s) ∧
  (∀ s core bin n t slot r rs, (binOf (getCore s core) bin).due = true → (getCore s core).basinOwner = some n → getTeam s core n = some t →
    freeSlot s core = some slot → t.halted = false → t.stopped = false → (binOf (getCore s core) bin).records = r :: rs →
    admits s core (32 * t.allot) = true →
      ∃ u, exec (.shadingWaveForm core bin) s = .next u ∧
        (binOf (getCore u core) bin).records = (r :: rs).drop (waveRecords (binOf (getCore s core) bin)).length ∧
        ∃ b, getGroup u core slot = some { team := n, gid := 64 + slot, allot := t.allot, base := b, kind := .shading bin }) ∧
  (∀ b : Bin, (waveRecords b).length ≤ 32 ∧ (∀ r ∈ waveRecords b, ∀ e ∈ waveRecords b, r.pixel = e.pixel) ∧ waveRecords b <+: b.records) ∧
  (∀ s core sl t q r p, creditAsk s core sl t q = some p → tget (getSlice s sl).recQueues (t, q) = some r → creditsBack s sl t q = false →
    creditsOf s core sl t q ≤ 8 → 8 ≤ r.credits →
    exec (.creditBatchTake core sl t q) s = .next (modCore (modQueue (dropPacket s p.id) sl t q fun q => { q with credits := q.credits - 8 }) core fun k => { k with
      credits := tput k.credits (sl, t, q) (creditsOf s core sl t q + 8, s.clk) })) ∧
  (∀ s core sl t q, creditAsk s core sl t q = none → exec (.creditBatchTake core sl t q) s = .next s) ∧
  (∀ s core sl t q r p, creditAsk s core sl t q = some p → tget (getSlice s sl).recQueues (t, q) = some r →
    (creditsBack s sl t q = true ∨ r.credits < 8) → exec (.creditBatchTake core sl t q) s = .next s) ∧
  (∀ s id p c off b psn, Arrived s id p (.treelet c off b psn) → c.kind ≠ 0 → exec (.treeletTransfer id) s = .next (loadImage (dropPacket s id) c b)) ∧
  (∀ s id p c off b psn, Arrived s id p (.treelet c off b psn) → c.kind = 0 → off + b.length < c.size →
    exec (.treeletTransfer id) s = .next (sendTreeletBlock (cistWrite (dropPacket s id) p.dst (c.off + off) b psn) c (off + b.length))) ∧
  (∀ s id p c off b psn, Arrived s id p (.treelet c off b psn) → c.kind = 0 → c.size ≤ off + b.length →
    ∃ u, exec (.treeletTransfer id) s = .next u ∧
      ((∃ i, u = endTload (modCore (cistWrite (dropPacket s id) p.dst (c.off + off) b psn) p.dst fun k => { k with treelets := tput k.treelets i (treeletWord c) }) c 0) ∨
        u = endTload (cistWrite (dropPacket s id) p.dst (c.off + off) b psn) c 3)) ∧
  (∀ s sl off v, s.imageGood = true → off % 32 = 0 → off < 0x100 → let img := (List.range 4).map fun i => v.extractLsb' (64 * i) 64
    exec (.descriptorImageWrite sl off v) s = .next (if tdsLegal img then setTraversal s sl (off % 0x100 / 32) img else s)) ∧
  (∀ s sl off v, s.imageGood = true → off % 32 = 0 → 0x100 ≤ off → off < 0x300 → let img := (List.range 4).map fun i => v.extractLsb' (64 * i) 64
    exec (.descriptorImageWrite sl off v) s = .next (if rdsLegal img then setRaster s (if off < 0x200 then 1 else 4) sl (off % 0x100 / 32) img else s)) ∧
  (∀ s sl off v, (off % 32 ≠ 0 ∨ 0x300 ≤ off ∨ s.imageGood = false) → exec (.descriptorImageWrite sl off v) s = .next s) ∧
  (∀ s d, drawOf s d.die = none → tget (tgetD s.raster (d.die, d.slice) { sets := [], rates := [] }).sets d.set = none →
    exec (.draw d) s = .next (refuseLaunch s d.slice d.task none 2 0 true)) ∧
  (∀ s d set q, drawOf s d.die = none → tget (tgetD s.raster (d.die, d.slice) { sets := [], rates := [] }).sets d.set = some set →
    tget (getSlice s d.slice).recQueues (d.task, d.queue) = some q → q.qkind = 2 →
      exec (.draw d) s = .next (putDraw s d.die (some { spec := d, prims := d.prims, recs := [] }))) ∧
  (∀ s d r, drawOf s d.die = some r → r.spec ≠ d → exec (.draw d) s = .next s) ∧
  (∀ s d r q set p ps, drawOf s d.die = some r → r.spec = d → tget (getSlice s d.slice).recQueues (d.task, d.queue) = some q →
    r.recs = [] → r.prims = p :: ps → tget (tgetD s.raster (d.die, d.slice) { sets := [], rates := [] }).sets d.set = some set →
    let rate := (tgetD (tgetD s.raster (d.die, d.slice) { sets := [], rates := [] }).rates d.drawState 0).toNat
    exec (.draw d) s = .next (putDraw s d.die (some { r with prims := ps, recs := (primQuads s d set rate p).map fun e => (p.seq, e) }))) ∧
  (∀ s d r q e rest, drawOf s d.die = some r → r.spec = d → tget (getSlice s d.slice).recQueues (d.task, d.queue) = some q → r.recs = e :: rest →
    if creditsOf s (rasterRouter d.die) d.slice d.task d.queue = 0 then
      exec (.draw d) s = .next (askCredit s (rasterRouter d.die) d.slice d.task d.queue)
    else ∃ u p, exec (.draw d) s = .next u ∧ u.mesh = s.mesh ++ [p] ∧
      (match p.body with | .pixel sl t qn en w cov seq => some (p.vc, p.kind, p.src, p.dst, sl, t, qn, en, w.drop 14, cov, seq) | _ => none) =
        some (VC.hit, 2, rasterRouter d.die, q.target.toNat % 1024, d.slice, d.task, d.queue, d.entry,
          [loHalf (tileKey d e.2.1 e.2.2.1), hiHalf (tileKey d e.2.1 e.2.2.1)], e.2.2.2, e.1))

/-- A pump command is queued at its stack, invalidates its homes, runs element by element on memory, and completes with its status. -/
def Obligations.PumpCommands : Prop :=
  (∀ s id p c, Arrived s id p (.pumpCmd c) → earlierWaits s p = false → c.op ≠ 4 → (stackAt s (stackOf (normPa s c.y))).queue.length < 64 →
    exec (.pumpCommand id) s = .next (modStack (dropPacket s id) (stackOf (normPa s c.y)) fun k => { k with queue := k.queue ++ [c] })) ∧
  (∀ s id p c, Arrived s id p (.pumpCmd c) → 64 ≤ (stackAt s (stackOf (normPa s (if c.op = 4 ∧ c.n = 0 then c.r else c.y)))).queue.length →
    exec (.pumpCommand id) s = .next s) ∧
  (∀ s st n c, (stackAt s st).queue[n]? = some c → pumpStartable s c = true → ((stackAt s st).queue.filter PumpCmd.running).length < 4 →
    stackTesting s st = false → ((stackAt s st).queue.take n).any (pumpStartable s) = false →
      exec (.pumpCommandStart st n) s = .next (putCmd s st { c with running := true })) ∧
  (∀ s st n c, (stackAt s st).queue[n]? = some c → (pumpStartable s c = false ∨ 4 ≤ ((stackAt s st).queue.filter PumpCmd.running).length ∨ stackTesting s st = true ∨
    ((stackAt s st).queue.take n).any (pumpStartable s) = true) → exec (.pumpCommandStart st n) s = .next s) ∧
  (∀ s c d, d ∈ (stackAt s (stackOf c.y)).queue → d.f = c.f → d.seq < c.seq → getFib s c.f = none → pumpStartable s c = false) ∧
  (∀ s st n c, (stackAt s st).queue[n]? = some c → c.running = true → c.finished = false →
    (pumpFirst c fun t => memPoisoned s (t * 64) 64) = c.n → (pumpFirst c fun t => channelPaused s (t * 64)) = c.n →
      exec (.pumpCommandComplete st n) s = .next (putCmd (pumpEnds s st c 0 c.n).1 st (pumpEnds s st c 0 c.n).2)) ∧
  (∀ s st n c, (stackAt s st).queue[n]? = some c → c.running = true → c.finished = true → c.acks = 0 →
    exec (.pumpCommandComplete st n) s = .next (sendPumpDone (modStack s st fun k => { k with queue := k.queue.filter fun d => decide (d.seq ≠ c.seq) }) st c)) ∧
  (∀ s st n c, (stackAt s st).queue[n]? = some c → (c.running = false ∨ (c.finished = true ∧ c.acks ≠ 0)) → exec (.pumpCommandComplete st n) s = .next s) ∧
  (∀ s st c f k, (pumpEnds s st c f k).2 = { c with status := f, first := k, acks := (pumpEnds s st c f k).2.acks, finished := true }) ∧
  (∀ s st pa, (∀ c ∈ (stackAt s st).queue, c.running = false ∨ c.finished = true ∨ pumpFirst c (fun t => decide (t = pa / 64)) = c.n) →
    exec (.pumpReadError st pa) s = .next s) ∧
  (∀ s st pa c, c ∈ (stackAt s st).queue → c.running = true → c.finished = false → pumpFirst c (fun t => decide (t = pa / 64)) < c.n →
    ∃ u e, exec (.pumpReadError st pa) s = .next u ∧ u.tests = (if testJoined s e = true then s.tests else s.tests ++ [{ e := e, started := false }]) ∧
      e.struct = 0x09 ∧ e.core = 0xFFFF ∧ e.stack = st ∧ e.part = 0 ∧ e.addr = pa ∧ e.corrected = false)

/-- Each step of a migration: its passes of blocks, its switch, its acknowledgements and its end; requests to the page are held and then relocated. One migration at a time in a slice is the model's choice (assumption log). -/
def Obligations.Migrations : Prop :=
  (∀ s id p sl va pa tg who, Arrived s id p (.migrate sl va pa tg who) → (getSlice s sl).migration.isSome = true → exec (.migrationControl id) s = .next s) ∧
  (∀ s id p sl va pa tg who, Arrived s id p (.migrate sl va pa tg who) → earlierWaits s p = false → behindSame s p = false → (getSlice s sl).migration = none →
    let u := (freshFree (dropPacket s id)).2
    (∀ e big q, walk u p.dst sl va.toNat ≠ .leaf e big q) → exec (.migrationControl id) s = .next (postMigration u p.dst sl va 2 who)) ∧
  (∀ s id p sl va pa tg who e big q, Arrived s id p (.migrate sl va pa tg who) → earlierWaits s p = false → behindSame s p = false → (getSlice s sl).migration = none →
    let u := (freshFree (dropPacket s id)).2
    let bytes := if big then 2 ^ 21 else 2 ^ 16
    let old := normPa u (fld e 47 16 * 2 ^ 16)
    walk u p.dst sl va.toNat = .leaf e big q → (migrationPlace u sl tg bytes (freshFree (dropPacket s id)).1 = none ∨ pagePinned u old bytes = true) →
      exec (.migrationControl id) s = .next (postMigration u p.dst sl va 2 who)) ∧
  (∀ s id p sl va pa tg who e big q new, Arrived s id p (.migrate sl va pa tg who) → earlierWaits s p = false → behindSame s p = false → (getSlice s sl).migration = none →
    let u := (freshFree (dropPacket s id)).2
    let bytes := if big then 2 ^ 21 else 2 ^ 16
    let old := normPa u (fld e 47 16 * 2 ^ 16)
    let m : Migration := {
      va := BitVec.ofNat 64 (va.toNat / bytes * bytes), entryPa := q, oldPa := old, newPa := normPa u new, bytes := bytes, pass := 1, dirty := []
      todo := (List.range (bytes / 256)).map fun i => (old + 256 * i, 256), held := [], who := who, acksLeft := 0, switched := false }
    walk u p.dst sl va.toNat = .leaf e big q → migrationPlace u sl tg bytes (freshFree (dropPacket s id)).1 = some new → pagePinned u old bytes = false →
      exec (.migrationControl id) s = .next (nextBlock (flushPage (modSlice (setEntry u q true none) sl fun x => { x with migration := some m }) m) sl)) ∧
  (∀ s id p sl pa b psn, Arrived s id p (.migBlock sl pa b psn) → channelPaused s pa = false →
    exec (.migrationBlock id) s = .next (nextBlock ((holders (memWrite (dropPacket s id) pa b psn false) pa b.length).foldl (fun s h =>
      emit s .sys 0x0C p.dst h.1 1 0 (.inval (16 + sl) 0 ⟨p.dst, 0, 0⟩ h.2)) (memWrite (dropPacket s id) pa b psn false)) sl)) ∧
  (∀ s sl, (getSlice s sl).migration = none → exec (.migrationPassEnd sl) s = .next s) ∧
  (∀ s sl m, (getSlice s sl).migration = some m → (m.switched = true ∨ passRunning s sl = true ∨ (m.todo = [] ∧ pumpNames s m = true)) →
    exec (.migrationPassEnd sl) s = .next s) ∧
  (∀ s sl m, (getSlice s sl).migration = some m → m.switched = false → passRunning s sl = false → m.todo ≠ [] →
    exec (.migrationPassEnd sl) s = .next (nextBlock s sl)) ∧
  (∀ s sl m, (getSlice s sl).migration = some m → m.switched = false → m.todo = [] → passRunning s sl = false → pumpNames s m = false → m.dirty = [] →
    ∃ u, exec (.migrationPassEnd sl) s = .next ((getSlice s sl).cores.foldl (fun t c => emit t .sys 0x05 ((faultService s hostPort sl).getD hostPort) c 1 0
        (.shoot sl m.va m.bytes ((faultService s hostPort sl).getD hostPort))) u) ∧
      (getSlice u sl).migration = some { m with switched := true, acksLeft := (getSlice s sl).cores.length }) ∧
  (∀ s sl m, (getSlice s sl).migration = some m → m.switched = false → m.todo = [] → passRunning s sl = false → pumpNames s m = false → m.dirty ≠ [] →
    4 ≤ m.pass → exec (.migrationPassEnd sl) s = .next (releaseMoving (postMigration (modSlice (setEntry s m.entryPa false none) sl fun x => { x with migration := none })
      ((faultService s hostPort sl).getD hostPort) sl m.va 3 m.who))) ∧
  (∀ s sl m, (getSlice s sl).migration = some m → m.switched = false → m.todo = [] → passRunning s sl = false → pumpNames s m = false → m.dirty ≠ [] →
    m.pass < 4 → exec (.migrationPassEnd sl) s = .next (nextBlock (modSlice (flushPage s m) sl fun x => { x with
      migration := some { m with pass := m.pass + 1, dirty := [], todo := m.dirty.map fun pc => (pc * 64, 64) } }) sl)) ∧
  (∀ s id p sl core m, Arrived s id p (.shootAck sl core) → (getSlice s sl).migration = some m → m.switched = true → 1 < m.acksLeft →
    exec (.shootDownAcknowledgement id) s = .next (modSlice (dropPacket s id) sl fun x => { x with migration := some { m with acksLeft := m.acksLeft - 1 } })) ∧
  (∀ s id p sl core m, Arrived s id p (.shootAck sl core) → (getSlice s sl).migration = some m → m.switched = true → m.acksLeft ≤ 1 →
    exec (.shootDownAcknowledgement id) s = .next (finishMove (dropPacket s id) sl m)) ∧
  (∀ s id p sl core, Arrived s id p (.shootAck sl core) → (getSlice s sl).migration = none →
    exec (.shootDownAcknowledgement id) s = .next (dropPacket s id))

/-- The copy engine performs a command as loads and stores of its elements and completes it; a team that has ended gives back what it holds; an encoder takes a frame and answers bytes that are free values. -/
def Obligations.EnginesAndTeamEnd : Prop :=
  (∀ s core, (getCore s core).copyQ = [] → exec (.copyCommandRun core) s = .next s) ∧
  (∀ s core c rest x, (getCore s core).copyQ = c :: rest → getFib s c.f = some x → copyFails s c.f x c = none →
    (c.kind ≠ 2 ∨ gathFails s (sliceOf s c.f) (fsrPRV x) c = none) → (copyRows c).1 * (copyRows c).2 ≤ c.pos →
      exec (.copyCommandRun core) s = .next (accDone (modCore s core fun k => { k with copyQ := rest }) c.f c.acc)) ∧
  (∀ s core c rest x, (getCore s core).copyQ = c :: rest → getFib s c.f = some x → copyFails s c.f x c = none →
    (c.kind ≠ 2 ∨ gathFails s (sliceOf s c.f) (fsrPRV x) c = none) → c.pos < (copyRows c).1 * (copyRows c).2 → shareUsed (getCore s core) false < 96 →
    copyHeld s core (sliceOf s c.f) (fsrPRV x) c = false →
      let r := copyPart s core (sliceOf s c.f) (fsrPRV x) c
      exec (.copyCommandRun core) s = .next (if (copyRows c).1 * (copyRows c).2 ≤ r.2 then accDone (modCore r.1 core fun k => { k with copyQ := rest }) c.f c.acc
        else modCore r.1 core fun k => { k with copyQ := { c with pos := r.2 } :: rest })) ∧
  (∀ s core c rest x, (getCore s core).copyQ = c :: rest → getFib s c.f = some x → copyFails s c.f x c = none →
    (c.kind ≠ 2 ∨ gathFails s (sliceOf s c.f) (fsrPRV x) c = none) → c.pos < (copyRows c).1 * (copyRows c).2 →
    (96 ≤ shareUsed (getCore s core) false ∨ copyHeld s core (sliceOf s c.f) (fsrPRV x) c = true) →
      exec (.copyCommandRun core) s = .next s) ∧
  (∀ s core sl prv c, c.kind = 0 → c.pos < c.rowBytes → (c.dst.toNat + c.rowBytes ≤ c.src.toNat ∨ c.src.toNat + c.rowBytes ≤ c.dst.toNat) →
    copyPart s core sl prv c = (copyRow s core sl prv (c.src.toNat + c.pos) (c.dst.toNat + c.pos) (min 64 (c.rowBytes - c.pos)), c.pos + min 64 (c.rowBytes - c.pos))) ∧
  (∀ s core team, getTeam s core team = none → exec (.teamEnd core team) s = .next s) ∧
  (∀ s core team t, getTeam s core team = some t → teamFibres s core team = [] → teamSlots s core team = [] →
    ∃ u, exec (.teamEnd core team) s = .next u ∧ getTeam u core team = none) ∧
  (∀ s e, (∀ x ∈ s.slices, x.2.enc.toNat ≠ 0x80 + e % 8 ∨ x.2.frames = []) → exec (.encoderFrameComplete e) s = .next s) ∧
  (∀ s e sl x, (s.slices.find? fun x => decide (x.2.enc.toNat = 0x80 + e % 8) && ! x.2.frames.isEmpty) = some (sl, x) →
    ∃ fr rest u st len, x.frames = fr :: rest ∧ (st = 0 ∨ (st = 3 ∧ len = 0)) ∧
      exec (.encoderFrameComplete e) s = .next (endFrame u sl fr st len))

/-- A page fault joins a batch, the batch reaches the fault service as a message, its reply resumes, retries or ends the fibres it names, and a shoot-down removes a translation from every core and is acknowledged. -/
def Obligations.FaultsAndShootDowns : Prop :=
  (∀ s id p sl recs, Arrived s id p (.faults sl recs) → (earlierWaits s p = true ∨ behindSame s p = true ∨ underTest s 0x0B p.dst = true) →
    exec (.faultBatch id) s = .next s) ∧
  (∀ s id p sl recs, Arrived s id p (.faults sl recs) → earlierWaits s p = false → behindSame s p = false → underTest s 0x0B p.dst = false → (getCore s p.dst).faultQ.length < 64 →
    ∃ u, exec (.faultBatch id) s = .next u ∧ (getCore u p.dst).faultQ = (getCore s p.dst).faultQ ++ [recs] ∧ u.mem = s.mem ∧ u.fibres = s.fibres) ∧
  (∀ s core, (getCore s core).faultQ = [] → exec (.faultServiceActivation core) s = .next s) ∧
  (∀ s core, bindV (bindingAt (getCore s core) 1) = false → exec (.faultServiceActivation core) s = .next s) ∧
  (∀ s core recs rest slot t, (getCore s core).faultQ = recs :: rest → (getCore s core).faultSlots = [] → freeSlot s core = some slot →
    let w := bindingAt (getCore s core) 1
    bindV w = true → getTeam s core (bindTeam w) = some t → t.halted = false → t.stopped = false → admits s core (32 * (8 * bindAreg w)) = true →
    ∀ v, niWrite (modCore s core fun k => { k with faultQ := rest }) core ((getCore s core).slice.getD 0)
        ((sliceCtl s core ((getCore s core).slice.getD 0) 0x103).toNat + 0x28000000) (recs.flatMap faultRecBytes) = some v →
      ∃ u x, exec (.faultServiceActivation core) s = .next u ∧ getFib u ⟨core, slot, 0⟩ = some x ∧ x.pc = bindPc w ∧
        x.origin.binding = 1 ∧ (getGroup u core slot).map Group.team = some (bindTeam w)) ∧
  (∀ s id p slot gen w0 w1, Arrived s id p (.faultAnswer slot gen w0 w1) → slot < 64 → w0.toNat % 4 ≠ 3 → w0.toNat < 2 ^ 14 →
    replyTakers s p.dst slot gen w1 ≠ [] → (replyTakers s p.dst slot gen w1).any (inBatch s) = false →
      exec (.faultReply id) s = .next ((replyTakers s p.dst slot gen w1).foldl (fun s f => takeFaultReply s f w0.toNat) (dropPacket s id))) ∧
  (∀ s id p slot gen w0 w1, Arrived s id p (.faultAnswer slot gen w0 w1) → slot < 64 → (w0.toNat % 4 = 3 ∨ 2 ^ 14 ≤ w0.toNat) →
    exec (.faultReply id) s = .next (bump (dropPacket s id) p.dst 0x004 1)) ∧
  (∀ s id p sl va bytes req, Arrived s id p (.shoot sl va bytes req) → behindSame s p = true → exec (.shootDown id) s = .next s) ∧
  (∀ s id p sl va bytes req, Arrived s id p (.shoot sl va bytes req) → behindSame s p = false → (getCore s p.dst).shootQ.length < 8 →
    exec (.shootDown id) s = .next (modCore (dropPacket s id) p.dst fun k => { k with shootQ := k.shootQ ++ [(sl, va, bytes, req)] })) ∧
  (∀ s id p sl va bytes req, Arrived s id p (.shoot sl va bytes req) → behindSame s p = false → 8 ≤ (getCore s p.dst).shootQ.length →
    ∃ u v, exec (.shootDown id) s = .next u ∧ (getCore v p.dst).tlb = [] ∧ (getCore v p.dst).shootQ = [] ∧ v.mesh = (dropPacket s id).mesh ∧
      u = ((getCore (dropPacket s id) p.dst).shootQ ++ [(sl, va, bytes, req)]).foldl (fun s q => ackShoot s p.dst q) v) ∧
  (∀ s core, (getCore s core).shootQ = [] → exec (.shootDownProcess core) s = .next s) ∧
  (∀ s core q rest, (getCore s core).shootQ = q :: rest →
    ∃ v, exec (.shootDownProcess core) s = .next (ackShoot v core q) ∧ (getCore v core).shootQ = rest ∧ v.mesh = s.mesh ∧
      (∀ e, e ∈ (getCore v core).tlb ↔ e ∈ (getCore s core).tlb ∧
        ¬ (e.slice = q.1 ∧ e.vpn * (if e.big then 2 ^ 21 else 2 ^ 16) < q.2.1.toNat + q.2.2.1 ∧ q.2.1.toNat < e.vpn * (if e.big then 2 ^ 21 else 2 ^ 16) + (if e.big then 2 ^ 21 else 2 ^ 16))))

/-- A corrected error changes no memory; an uncorrectable one poisons its bytes; a failed self-test takes a spare while one is left; a channel that fails is retired. -/
def Obligations.ErrorsAndSelfTest : Prop :=
  (∀ s e, e.struct = 0 ∨ 0x0E < e.struct → exec (.errorDetected e) s = .next s) ∧
  (∀ s e, 1 ≤ e.struct → e.struct ≤ 0x0E → e.struct ≠ 9 → e.struct ≠ 0x0A → e.corrected = true →
    exec (.errorDetected e) s = .next (addTest (bump (logSpec s 0x01 e) e.core 0x01C 1) e)) ∧
  (∀ s e, e.struct = 9 → e.corrected = true → exec (.errorDetected e) s = .next (addTest (modStack (logSpec s 0x01 e) e.stack fun k => { k with
    pins := k.pins ++ [(Config.channelOf (blockOf e.addr), e.part, s.time)] }) e)) ∧
  (∀ s e, e.struct = 0x0A → e.corrected = true → exec (.errorDetected e) s = .next (addTest (logSpec s 0x01 e) e)) ∧
  (∀ s e, 1 ≤ e.struct → e.struct ≤ 0x0E → e.corrected = false → exec (.errorDetected e) s = .next (addTest (uncorrected s e) e)) ∧
  (∀ s e, (testJoined s e = true → addTest s e = s) ∧ (testJoined s e = false → addTest s e = { s with tests := s.tests ++ [{ e := e, started := false }] })) ∧
  (∀ s n, s.tests.length ≤ n → exec (.selfTestStart n) s = .next s ∧ ∀ r, exec (.selfTestComplete n r) s = .next s) ∧
  (∀ s n t, s.tests[n]? = some t → t.started = false →
    exec (.selfTestStart n) s = .next (markTest { s with tests := lset s.tests n { t with started := true } } t.e true) ∧
    ∀ r, exec (.selfTestComplete n r) s = .next s) ∧
  (∀ s n t, s.tests[n]? = some t → t.started = true → exec (.selfTestStart n) s = .next s ∧
    exec (.selfTestComplete n .pass) s = .next (logSpec (markTest { s with tests := s.tests.take n ++ s.tests.drop (n + 1) } t.e false) 0x04 t.e)) ∧
  (∀ s n t, s.tests[n]? = some t → t.started = true → t.e.struct ≠ 9 →
    let u := markTest { s with tests := s.tests.take n ++ s.tests.drop (n + 1) } t.e false
    let used := tgetD u.spares (sparesOf t.e).2 0
    exec (.selfTestComplete n .fail) s = .next (if used < (sparesOf t.e).1 then logSpec { u with spares := tput u.spares (sparesOf t.e).2 (used + 1) } 0x05 t.e
      else noSpare u t.e)) ∧
  (∀ s n t, s.tests[n]? = some t → t.started = true → t.e.struct = 9 →
    let u := markTest { s with tests := s.tests.take n ++ s.tests.drop (n + 1) } t.e false
    exec (.selfTestComplete n .fail) s = .next (if tgetD u.spares (9, t.e.stack, Config.channelOf (blockOf t.e.addr)) 0 < 2
      then repairPin (logSpec u 0x05 t.e) t.e.stack (Config.channelOf (blockOf t.e.addr)) t.e.part else noSpare u t.e)) ∧
  (∀ s stack channel replayed, stack < 16 → ∃ u, exec (.hbmParityAlert stack channel replayed) s = .next u ∧
    let n := if replayed then 0 else tgetD (stackAt s stack).alerts channel 0 + 1
    tgetD (stackAt u stack).alerts channel 0 = (if n = 3 then 0 else n) ∧
    ((stackAt u stack).failed.contains channel = ((stackAt s stack).failed.contains channel || decide (n = 3)))) ∧
  (∀ s stack channel replayed, 16 ≤ stack → exec (.hbmParityAlert stack channel replayed) s = .next s) ∧
  (∀ s stack channel pin, pinDue (stackAt s stack) channel pin s.time = false ∨ 2 ≤ tgetD s.spares (9, stack, channel) 0 →
    exec (.laneRepair stack channel pin) s = .next s) ∧
  (∀ s stack channel pin, stack < 16 → pinDue (stackAt s stack) channel pin s.time = true → tgetD s.spares (9, stack, channel) 0 < 2 →
    (∀ e ∈ (stackAt s stack).paused, e.1 ≠ channel) →
      ∃ u, exec (.laneRepair stack channel pin) s = .next u ∧ tgetD u.spares (9, stack, channel) 0 = tgetD s.spares (9, stack, channel) 0 + 1 ∧
        (channel, pin) ∈ (stackAt u stack).paused) ∧
  (∀ s stack channel e, e ∈ (stackAt s stack).paused → e.1 = channel →
    exec (.laneRepairComplete stack channel) s = .next (modStack s stack fun k => { k with paused := k.paused.filter fun e => decide (e.1 ≠ channel) })) ∧
  (∀ s stack channel, (∀ e ∈ (stackAt s stack).paused, e.1 ≠ channel) → exec (.laneRepairComplete stack channel) s = .next s)

/-- Pre-empt, resume, stop, continue and single-step commands, what they save and restore, and the accesses of the debugger. The order of the parts of a saved area is the model's choice where the manual gives none (assumption log). -/
def Obligations.ContextControl : Prop :=
  (∀ s sl, (getSlice s sl).ccmd = [] → exec (.ccmdPreempt sl) s = .next s ∧ exec (.ccmdResume sl) s = .next s ∧ exec (.ccmdDebugStop sl) s = .next s ∧
    exec (.ccmdDebugResume sl) s = .next s ∧ exec (.ccmdSingleStep sl) s = .next s) ∧
  (∀ s sl task fid core t, ccmdAt s sl 1 = some (task, fid, core) → (∀ v ∈ (getSlice s sl).saved, v.task = task → v.complete = true) →
    tget (getSlice s sl).tasks task = some t → t.saved = false → t.started = true → t.starting = 0 →
      exec (.ccmdPreempt sl) s = .next (beginSave s sl task)) ∧
  (∀ s sl task fid core, ccmdAt s sl 1 = some (task, fid, core) → (∀ v ∈ (getSlice s sl).saved, v.task = task → v.complete = true) →
    tget (getSlice s sl).tasks task = none → exec (.ccmdPreempt sl) s = .next (endCmd s sl 1 task)) ∧
  (∀ s sl v, (getSlice s sl).saved.find? (fun v => ! v.complete) = some v → saveReady s sl v.task = true →
    exec (.preemptionSaveComplete sl) s = .next (endCmd (saveContext s sl v) sl 1 v.task)) ∧
  (∀ s sl v, (getSlice s sl).saved.find? (fun v => ! v.complete) = some v → saveReady s sl v.task = false → exec (.preemptionSaveComplete sl) s = .next s) ∧
  (∀ s sl, (∀ v ∈ (getSlice s sl).saved, v.complete = true) → exec (.preemptionSaveComplete sl) s = .next s) ∧
  (∀ s sl task fid core v, ccmdAt s sl 2 = some (task, fid, core) → (getSlice s sl).saved.find? (fun v => decide (v.task = task)) = some v → v.complete = true →
    (∀ e ∈ v.cores, coreFree s sl v e.1 e.2 = true) → leasesFree s v = true →
      exec (.ccmdResume sl) s = .next (endCmd (restoreContext s sl (readSaves s sl v)) sl 2 task)) ∧
  (∀ s sl task fid core v, ccmdAt s sl 2 = some (task, fid, core) → (getSlice s sl).saved.find? (fun v => decide (v.task = task)) = some v →
    (v.complete = false ∨ leasesFree s v = false ∨ ∃ e ∈ v.cores, coreFree s sl v e.1 e.2 = false) → exec (.ccmdResume sl) s = .next s) ∧
  (∀ s sl task fid core n t, ccmdAt s sl 3 = some (task, fid, core) → (getSlice s sl).debugger = true → focusTeam s sl task core = some (n, t) →
    exec (.ccmdDebugStop sl) s = .next (endCmd (stopTeam s core n) sl 3 task)) ∧
  (∀ s sl task fid core, ccmdAt s sl 3 = some (task, fid, core) → (getSlice s sl).debugger = false → exec (.ccmdDebugStop sl) s = .next (endCmd s sl 3 task)) ∧
  (∀ s sl task fid core n t, ccmdAt s sl 4 = some (task, fid, core) → focusTeam s sl task core = some (n, t) → t.stopped = true → saving s t = false →
    exec (.ccmdDebugResume sl) s = .next (endCmd (modTeam (resumeWaits s (core, n) t.stoppedAt ((teamFibres s core n).map fun f => (f, fibGen s f))) core n
      fun t => { t with stopped := false }) sl 4 task)) ∧
  (∀ s sl task fid core n t slot b, ccmdAt s sl 5 = some (task, fid, core) → focusTeam s sl task core = some (n, t) → t.stopped = true → t.halted = false →
    saving s t = false → gidSlot s core n (fid / 32) = some slot → stepBatch s ⟨core, slot, fid % 32⟩ = some b → (getPart s core (slotPart slot)).batch = none →
    s.tokenQ = [] → s.tokensUsed + b.tokens ≤ (ctlHome s 0x003).toNat →
      ∃ u, exec (.ccmdSingleStep sl) s = .next u ∧ (getPart u core (slotPart slot)).batch = some { b with stepped := true } ∧ (getPart u core (slotPart slot)).single = true) ∧
  (∀ s core slot lane v, (debugTeam s core slot).isSome = true →
    exec (.debuggerStateWrite (.pc core slot lane v)) s = .next (debugPc s ⟨core, slot, lane⟩ v) ∧
    (∀ p, exec (.debuggerStateWrite (.preds core slot lane p)) s = .next (debugLand s ⟨core, slot, lane⟩ ((List.range 16).map fun n => .pred n (p.getLsbD n)))) ∧
    exec (.debuggerStateWrite (.fsr core slot lane v)) s = .next (debugLand s ⟨core, slot, lane⟩ [.fsr v]) ∧
    ∀ n, n < allotOf s ⟨core, slot, 0⟩ → exec (.debuggerStateWrite (.reg core slot lane n v)) s = .next (debugLand s ⟨core, slot, lane⟩ [.reg n v])) ∧
  (∀ s f es, (∀ e ∈ (getCore s f.core).stoppedBatches, ¬ (e.2.slot = f.slot ∧ f.lane ∈ e.2.lanes ∧ e.2.atPacket = false)) →
    debugLand s f es = modFib s f fun x => es.foldl land x) ∧
  (∀ s f es e, e ∈ (getCore s f.core).stoppedBatches → e.2.slot = f.slot → f.lane ∈ e.2.lanes → e.2.atPacket = false →
    debugLand s f es = modFib s f fun x => { x with pend := (es.map fun e => ⟨1, e⟩) ++ x.pend }) ∧
  (∀ s core slot lane v, debugTeam s core slot = none → exec (.debuggerStateWrite (.pc core slot lane v)) s = .next s ∧
    (∀ p, exec (.debuggerStateWrite (.preds core slot lane p)) s = .next s) ∧ exec (.debuggerStateWrite (.fsr core slot lane v)) s = .next s ∧
    ∀ n, exec (.debuggerStateWrite (.reg core slot lane n v)) s = .next s) ∧
  (∀ s core line words, words.length ≠ 16 → exec (.debuggerStateWrite (.codeLine core line words)) s = .next s) ∧
  (∀ s core line words e o, words.length = 16 → e ∈ s.teams → e.1.1 = core → e.2.stopped = true → (getSlice s e.2.slice).debugger = true →
    codeOf s core e.2 = some o → o.first ≤ line → line < o.first + o.lines →
      exec (.debuggerStateWrite (.codeLine core line words)) s = .next (writeLine s core line words)) ∧
  (∀ s sl, sl < 8 → (∃ u, exec (.debuggerAttach sl) s = .next u ∧ (getSlice u sl).debugger = true) ∧
    ∃ u, exec (.debuggerDetach sl) s = .next u ∧ (getSlice u sl).debugger = false)

/-- Host reads and writes of the register spaces and windows, cold and slice reset, firmware authentication, checkpoints and link events. -/
def Obligations.HostWritesAndResets : Prop :=
  (∀ s off v, s.imageGood = true → off % 8 = 0 → off < 0x800 →
    exec (.hostRegisterWrite 0 off 8 v) s = .next (hostCtl s 0 true off 8 v)) ∧
  (∀ s k off v, s.imageGood = true → 1 ≤ k → k ≤ 8 → off % 8 = 0 → off < 0x400000 →
    exec (.hostRegisterWrite k off 8 v) s = .next (hostSlice s (k - 1) false off 8 v)) ∧
  (∀ s fn off size v, (8 < fn ∨ (size ≠ 1 ∧ size ≠ 2 ∧ size ≠ 4 ∧ size ≠ 8) ∨ off % size ≠ 0 ∨ s.imageGood = false) → exec (.hostRegisterWrite fn off size v) s = .next s) ∧
  (∀ s v, exec (.ctlTimebaseWrite v) s = .next (if s.imageGood then ctlSerialise s 0x011 v else s)) ∧
  (∀ s sl off size v pa, s.imageGood = true → sl < 8 → (size = 1 ∨ size = 2 ∨ size = 4 ∨ size = 8) → off % size = 0 → off < 2 ^ 34 →
    let va := (ctlHome s (ctlKey 0x120 sl)).toNat + off
    translate s hostPort sl 1 (BitVec.ofNat 64 va) size .wr true = .ok pa →
      exec (.apertureAccess sl off size (some v)) s = .next (virtWrite s hostPort sl 1 va (leBytes size v.toNat) 0)) ∧
  (∀ s sl off size pa, sl < 8 → (size = 1 ∨ size = 2 ∨ size = 4 ∨ size = 8) → off % size = 0 → off < 2 ^ 34 →
    let va := (ctlHome s (ctlKey 0x120 sl)).toNat + off
    translate s hostPort sl 1 (BitVec.ofNat 64 va) size .rd true = .ok pa →
      exec (.apertureAccess sl off size none) s = .next { s with hostReads := s.hostReads ++ [BitVec.ofNat 64 (leNat (virtRead s hostPort sl 1 va size).1)] }) ∧
  (∀ s sl off size, sl < 8 → (size = 1 ∨ size = 2 ∨ size = 4 ∨ size = 8) → off % size = 0 → off < 2 ^ 34 →
    (∀ t, translate s hostPort sl 1 (BitVec.ofNat 64 ((ctlHome s (ctlKey 0x120 sl)).toNat + off)) size .rd true ≠ .ok t) →
      ∃ u, exec (.apertureAccess sl off size none) s = .next { u with hostReads := u.hostReads ++ [BitVec.ofNat 64 (2 ^ (8 * size) - 1)] } ∧
        u = logErrorFrom true s 0x03 0x0B hostPort hostPort 0xFFFF sl (BitVec.ofNat 64 ((ctlHome s (ctlKey 0x120 sl)).toNat + off))) ∧
  (∀ s off size, (size = 1 ∨ size = 2 ∨ size = 4 ∨ size = 8) → off % size = 0 → off < 2 ^ 36 →
    channelPaused s (s.wbase % 16 * 2 ^ 36 + off) = false →
    exec (.physicalWindowAccess off size none) s =
      .next { s with hostReads := s.hostReads ++ [BitVec.ofNat 64 (leNat (Memory.reads s.mem (s.wbase % 16 * 2 ^ 36 + off) size))] } ∧
    (s.imageGood = true → ∀ v, exec (.physicalWindowAccess off size (some v)) s =
      .next { memWrite { s with ckpt := 0 } (s.wbase % 16 * 2 ^ 36 + off) (leBytes size v.toNat) 0 false with ckpt := s.ckpt })) ∧
  (∀ s sl off size v, s.imageGood = false → exec (.apertureAccess sl off size (some v)) s = .next s ∧ exec (.physicalWindowAccess off size (some v)) s = .next s) ∧
  (∀ s sl, s.imageGood = false → exec (.sliceApply sl) s = .next s) ∧
  (∀ s sl, sl < 8 → s.imageGood = true → (∃ c ∈ (getSlice s sl).cores, (getSlice s sl).newCores.contains c = false ∧ coreEmptied s c = false) →
    exec (.sliceApply sl) s = .next { s with pkgWindow := { s.pkgWindow with cause := 4, field := BitVec.ofNat 16 sl } }) ∧
  (∀ s sl, sl < 8 → s.imageGood = true → (∀ c ∈ (getSlice s sl).cores, (getSlice s sl).newCores.contains c = false → coreEmptied s c = true) →
    (∀ e ∈ s.slices, e.1 = sl ∨ configMeets (getSlice s sl) e.2 = false) →
      ∃ u v, exec (.sliceApply sl) s = .next u ∧ u = setSumps (ctlSetAll (clearSlice v sl) (ctlKey 0x100 sl) (BitVec.ofNat 64 ((getSlice s sl).newCores.foldl min 0x3FF)))
          ((getSlice s sl).newCores.filter fun c => ! (getSlice s sl).cores.contains c) ∧
        (getSlice v sl).cores = (getSlice v sl).newCores ∧ (getSlice v sl).stackMask = (getSlice v sl).newStacks) ∧
  (∀ s, s.ckpt.getLsbD 1 = true → exec .ckptStart s = .next s) ∧
  (∀ s, s.ckpt.getLsbD 1 = false → ∃ u, exec .ckptStart s = .next u ∧ u.ckpt.getLsbD 0 = true) ∧
  (∀ s, exec .ckptEnd s = .next { s with ckpt := 0 }) ∧
  (∀ s g, exec (.coldReset g) s = .next (resetPackage s g) ∧ exec (.thermalTrip g) s = .next (resetPackage s g) ∧
    ∃ u, exec (.warmReset g) s = .next u ∧ u.mem = s.mem ∧ u.fibres = [] ∧ u.teams = []) ∧
  (∀ s, (resetPackage s true).fibres = [] ∧ (resetPackage s true).teams = [] ∧ (resetPackage s true).mesh = [] ∧ (resetPackage s true).cores = State.reset.cores) ∧
  (∀ s sl, ∃ u, exec (.sliceReset sl) s = .next u ∧ (∀ e ∈ u.fibres, ¬ e.1.core ∈ (getSlice s sl).cores) ∧ ∀ e ∈ u.teams, ¬ e.1.1 ∈ (getSlice s sl).cores) ∧
  (∀ s, exec .junctionTemperature105 s = .next (ctlSetAll s 0x003 (ctlStored 0x003 (fun _ => true) 0 (BitVec.ofNat 64 ((ctlHome s 0x003).toNat / 2))))) ∧
  (∀ s port pkg t, port < 12 → ∃ u, exec (.spanPortTrained port pkg t) s = .next u ∧ (port, pkg % 16) ∈ u.trainedPorts ∧
    (u.time = if pkg % 16 = 0 ∧ pkgNum s ≠ 0 then t else s.time) ∧ (pkg % 16 = 0 → pkgNum s ≠ 0 → u.timeFollows = true)) ∧
  (∀ s port, port < 12 → ∃ u : State, exec (.spanLinkLoss port) s =
    .next ((u.mesh.filter fun p => decide (p.dpkg ≠ pkgNum u) && decide (p.dst = spanRouter port)).foldl (fun s p => lossPacket s (spanRouter port) p) u) ∧
    u.trainedPorts = (s.trainedPorts.filter fun p => decide (p.1 ≠ port)) ∧ u.timeFollows = (s.timeFollows && followsZero u)) ∧
  (∀ s port pkg t, 12 ≤ port → exec (.spanPortTrained port pkg t) s = .next s ∧ exec (.spanLinkLoss port) s = .next s) ∧
  (∀ s num, num < 0x100 → hostRead s 0 (8 * num) 8 = BitVec.ofNat 64 (hostCtlValue s 0 num)) ∧
  (∀ s fn off size, (8 < fn ∨ (size ≠ 1 ∧ size ≠ 2 ∧ size ≠ 4 ∧ size ≠ 8) ∨ off % size ≠ 0) → hostRead s fn off size = 0) ∧
  (∀ s k num, 1 ≤ k → k ≤ 8 → num < 0x1000 → hostRead s k (8 * num) 8 = BitVec.ofNat 64 (hostCtlValue s (k - 1) num)) ∧
  (∀ s, hostRead s 0 0x9108 8 = BitVec.ofNat 64 (lstat s.pkgWindow) ∧ hostRead s 0 0x8000 8 = BitVec.ofNat 64 s.slsel ∧
    hostRead s 0 0xA000 8 = s.ckpt.setWidth 64 ∧ hostRead s 0 0xB000 4 = s.tokGr.setWidth 64 ∧ hostRead s 0 0xB004 4 = s.tokWait.setWidth 64) ∧
  (∀ s k, 1 ≤ k → k ≤ 8 → hostRead s k 0x20000 8 = 0 ∧ hostRead s k 0x20008 8 = (getSlice s (k - 1)).cdesc ∧ hostRead s k 0x20010 4 = (getSlice s (k - 1)).cstat.setWidth 64) ∧
  (∀ s k c off, 1 ≤ k → k ≤ 8 → c < 576 → off % 4 = 0 → off < 0x50 → hostRead s k (0x100000 + c * 0x1000 + off) 4 =
    if (getCore s c).slice ≠ some (k - 1) then 0 else if off = 0x18 then BitVec.ofNat 64 (l2Sectors (getCore s c) % 2 ^ 32) else (tgetD (getCore s c).counters off 0).setWidth 64)

/-- The exchange of the attestation responder. The order of the requests is the model's reading of SPDM (assumption log, PRESUMED); an answer begins with the bytes of the certificate chain, of its digest or of the measurement asked for, which are fixed and free, and what follows them is free. -/
def Obligations.Attestation : Prop :=
  (∀ s, ∃ u, exec .getVersion s = .next u ∧ u.spdm = .version ∧ u.answers.length = s.answers.length + 1) ∧
  (∀ s, s.spdm = .version → ∃ u, exec .getCapabilities s = .next u ∧ u.spdm = .capabilities ∧ u.answers.length = s.answers.length + 1) ∧
  (∀ s offer, s.spdm = .capabilities → ∃ u, exec (.negotiateAlgorithms offer) s = .next u ∧ u.answers.length = s.answers.length + 1 ∧
    u.spdm = if .sm2 ∈ offer ∧ .sm3 ∈ offer then .negotiated else .capabilities) ∧
  (∀ s, s.spdm = .negotiated → (∃ u a, exec .getDigests s = .next u ∧ u.answers = s.answers ++ [a] ∧ (List.range 32).map Config.digestByte <+: a.bytes) ∧
    (∀ o n, ∃ u a, exec (.getCertificate o n) s = .next u ∧ u.answers = s.answers ++ [a] ∧
      (((List.range Config.certificateLength).drop o).take n).map Config.certificateByte <+: a.bytes) ∧
    (∀ n, ∃ u, exec (.challenge n) s = .next u ∧ u.answers.length = s.answers.length + 1) ∧
    ∀ i, ∃ u a, exec (.getMeasurements i) s = .next u ∧ u.answers = s.answers ++ [a] ∧
      (List.range (Config.measurementLength s.imageId i)).map (Config.measurementByte s.imageId i) <+: a.bytes) ∧
  (∀ s, s.spdm ≠ .negotiated → exec .getDigests s = .next s ∧ (∀ o n, exec (.getCertificate o n) s = .next s) ∧ (∀ n, exec (.challenge n) s = .next s) ∧
    ∀ i, exec (.getMeasurements i) s = .next s)

/-- Ten words of the manual, written out from its field tables, decode to the instructions they stand for. -/
def Obligations.WordsDecode : Prop :=
  decode 0x200000040281800000000000#96 = .ok (.iadd ⟨false, 0, 0⟩ ⟨4, 5, 6, 0, 0⟩) ∧
  decode 0x40E600080482816000000000#96 = .ok (.ffma ⟨true, 3, 0⟩ ⟨8, 9, 10, 11, 0⟩) ∧
  decode 0x01C000000000000000000000#96 = .ok (.fend ⟨false, 0, 0⟩ ⟨0, 0, 0, 0⟩) ∧
  decode 0#96 = .ok (.nop ⟨false, 0, 0⟩ ⟨0, 0, 0, 0⟩) ∧
  decode 0x8000000C0A00150200004000#96 = .ok (.ld ⟨false, 0, 0⟩ ⟨12, 20, 0, 5, 1, false, false, 0, 2, 0x40⟩) ∧
  decode 0xC0800000000000450D540400#96 = .ok (.mma ⟨false, 0, 0⟩ ⟨0, 0, 0, 0, 1, 5, 3, 5, 5, 2, 0⟩) ∧
  decode 0x600060040280004000000000#96 = .ok (.cvt ⟨false, 0, 0x30⟩ ⟨4, 5, 0, 2, 0⟩) ∧
  decode 0xA2C000000A0400003E000000#96 = .ok (.send ⟨false, 0, 0⟩ ⟨0, 20, 16, 0, 0, 1, 15, 0, 0, 0⟩) ∧
  decode 0xA08000140104A0AE00000000#96 = .ok (.combine ⟨false, 0, 0⟩ ⟨20, 2, 18, 0x105, 7, 0, 0, 0, 0, 0⟩) ∧
  decode 0xE24600000006000000000200#96 = .ok (.pump ⟨false, 3, 0⟩ ⟨0, 0, 24, 0, 0, 0, 0, 0, 0, 1, 0⟩)

/-- Every well-formed instruction's word decodes to it, with every operand; a core of the kind it needs accepts it, and one of the other kind answers detail 0x07. -/
def Obligations.DecodingUndoesEncoding : Prop :=
  ∀ i w, WellFormed i → encode i = some w → decode w = .ok i ∧
    (∀ ray, i.needsRay ≠ some (!ray) → decodeOn ray w = .ok i) ∧ (∀ ray, i.needsRay = some (!ray) → decodeOn ray w = .error 0x07)

/-- A word that decodes is the encoding of its instruction, which fails no check and is allowed on the core; two words never decode to one instruction; a word whose opcode or modifier names no instruction is refused with detail 0x01, and every refusal carries one of the six details of the encoding checks. -/
def Obligations.DecodingAcceptsOnlyEncodings : Prop :=
  (∀ ray w i, decodeOn ray w = .ok i → encode i = some w ∧ i.firstBad = none ∧ i.needsRay ≠ some (!ray)) ∧
  (∀ ray w w' i, decodeOn ray w = .ok i → decodeOn ray w' = .ok i → w = w') ∧
  (∀ ray w, ofOpcode (w.extractLsb' 86 10) (headOf w) w = none → decodeOn ray w = .error 0x01) ∧
  (∀ ray w, (∀ i, decodeOn ray w ≠ .ok i) → ∃ d, decodeOn ray w = .error d ∧ d ∈ [0x01, 0x02, 0x05, 0x06, 0x07, 0x0D])

/-- A step is the turn taken after the clock has moved, and finish: of a device step that is exec of it; of a partition with a batch whose next instruction decodes to i, it is exec i, followed by the batch's advance past the instruction. The turn of one unit a step is the model's form (assumption log). -/
def Obligations.StepRunsTheDecodedInstruction : Prop :=
  (∀ s e s1, takeTurn (tick s) = (.device e, s1) → step s = finish (exec e s1)) ∧
  (∀ s c p s1 b s3 i, takeTurn (tick s) = (.issue c p, s1) →
    let s2 : State := { s1 with turn := (c, p) }
    (getPart s2 c p).batch = some b → b.lanes ≠ [] → (partPaused s2 c p = false ∨ (getCore s2 c).retired = true) →
    (batchStopped s2 c b = false ∨ (getPart s2 c p).single = true) →
    prepare (modPart s2 c p fun q => { q with single := false }) c p b = (s3, some i) →
      step s = finish (afterInstr c p i (rawInstr (getCore s2 c) b.pc) (exec i s3)) ∧ decodeOn (isRay c) (rawInstr (getCore s2 c) b.pc) = .ok i) ∧
  (∀ c p i raw t, finish (afterInstr c p i raw (.next t)) = .next (canonState (flushFaults (settleStep (advance t c p i raw))))) ∧
  (∀ s c p b o i, (getPart s c p).batch = some b → codeObjOf s ⟨c, b.slot, b.lanes.headD 0⟩ = some o → inObject o b.pc.toNat = true →
    (getCore s c).codeBad.contains (b.pc.toNat / 64) = false → b.line = some (b.pc.toNat / 64) → b.atPacket = false → isMarked (getCore s c) b.pc.toNat = false →
    (∀ l ∈ b.lanes, ∀ x, getFib s ⟨c, b.slot, l⟩ = some x → x.sigNew = false) → decodeOn (isRay c) (rawInstr (getCore s c) b.pc) = .ok i →
      prepare s c p b = (modPart s c p fun q => { q with batch := q.batch.map fun b' => { b' with
        line := some (b.pc.toNat / 64), runEnd := runEndBit (getCore s c) b.pc, packetEnd := packetEndsAt (getCore s c) b.pc b.count } }, some i))

/-- From every state in which physical memory and every cistern are in canonical form, a step answers a state in which they are, so that equal memories are equal data. The form is the model's (assumption log 1). -/
def Obligations.StepsKeepCanonicalMemories : Prop :=
  KeptByStep CanonicalMemories

/-- Physical memory and every cistern after reset are in canonical form. The form is the model's (assumption log 1). -/
def Obligations.ResetMemoriesAreCanonical : Prop :=
  CanonicalMemories State.reset

/-- Every instruction and every device step answers a next state, in every state, and so does every step of the package: nothing that the manual gives an effect is refused. -/
def Obligations.NothingStops : Prop :=
  (∀ i s, ∃ t, exec i s = .next t) ∧ ∀ s, StepsOn s

/-- No team, fibre or packet; clocks zero; control registers at the values of the table; firmware's error-log descriptor in memory. That a byte of memory which nothing has written reads as zero is the model's choice (assumption log 1); it is not stated here. -/
def Obligations.ResetState : Prop :=
  State.reset.clk = 0 ∧ State.reset.time = 0 ∧ State.reset.teams = [] ∧ State.reset.groups = [] ∧ State.reset.fibres = [] ∧ State.reset.mesh = [] ∧
  ctlHome State.reset 0x001 = 0 ∧ ctlHome State.reset 0x003 = 1536 ∧ ctlHome State.reset 0x006 = 0x0000000FFFFF0000 ∧
  (∀ c, ctlCopy State.reset c 0x003 = 1536 ∧ ctlCopy State.reset c 0x001 = 0) ∧
  (∀ sl, sl < 8 → ∀ c, sliceCtl State.reset c sl 0x100 = 0x3FF ∧ (getSlice State.reset sl).cores = []) ∧
  leNat (Memory.reads State.reset.mem 0xFFFFF0000 8) = 0x0000000FFFFF1000 ∧ leNat (Memory.reads State.reset.mem 0xFFFFF0008 4) = 64 ∧
  leNat (Memory.reads State.reset.mem 0xFFFFF000C 4) = 0 ∧ ∀ c, (getCore State.reset c).retired = false ∧ (getCore State.reset c).cistern = []

/-- A word's bytes are its bits [7:0], [15:8], [23:16] and [31:24], lowest address first; bytes and words undo one another; the number of a byte list counts its first byte lowest. -/
def Obligations.LittleEndian : Prop :=
  (∀ w : Word, bytesOf [w] = [w.extractLsb' 0 8, w.extractLsb' 8 8, w.extractLsb' 16 8, w.extractLsb' 24 8]) ∧
  (∀ l : List Word, wordsOf (bytesOf l) = l) ∧ (∀ (v : BitVec 64), BitVec.ofNat 64 (leNat (leBytes 8 v.toNat)) = v) ∧
  (∀ (b : Byte) (l : List Byte), leNat (b :: l) = b.toNat + 256 * leNat l)

/-- g0 reads as zero and keeps nothing, in a pair too; p0 reads as 1 and keeps nothing; every other register and predicate keeps what lands, and no other changes. A flag set by a floating-point operation is kept; only MOVS's write form clears one, and it writes FTZ, RM and the flags alone. -/
def Obligations.ConstantRegistersAndFlags : Prop :=
  (∀ s is l x imm, regOf x 0 = 0 ∧ srcOf s is l x imm 0x000#9 = 0 ∧ srcOf s is l x imm 0x100#9 = 1 ∧ srcOf s is l x imm 0x140#9 = imm) ∧
  (∀ x v b, land x (.reg 0 v) = x ∧ land x (.pred 0 b) = x) ∧
  (∀ x n v, n ≠ 0 → n < x.regs.length → regOf (land x (.reg n v)) n = v ∧ (∀ m, m ≠ n → regOf (land x (.reg n v)) m = regOf x m) ∧
    (land x (.reg n v)).preds = x.preds ∧ (land x (.reg n v)).fsr = x.fsr) ∧
  (∀ x n b, n ≠ 0 → n < 16 → predOf (land x (.pred n b)) n = b ∧ (∀ m, m ≠ n → predOf (land x (.pred n b)) m = predOf x m) ∧
    (land x (.pred n b)).regs = x.regs ∧ (land x (.pred n b)).fsr = x.fsr) ∧
  (∀ v d, destEff 0x000#9 v = [] ∧ destEff 0x100#9 v = [] ∧ pairEff 0x000#9 d = [.reg 1 (d.extractLsb' 32 32)]) ∧
  (∀ x imm, pairSrc x imm 0x000#9 = (regOf x 1).setWidth 64 <<< 32 ∧ pairSrc x imm 0x140#9 = imm.signExtend 64) ∧
  (∀ x f i, (land x (.flags f)).fsr.getLsbD i = (x.fsr.getLsbD i || f.getLsbD i)) ∧
  (∀ x v i, (land x (.fsr v)).fsr.getLsbD i = if i = 12 ∨ i = 10 ∨ i = 9 ∨ i < 5 then v.getLsbD i else x.fsr.getLsbD i) ∧
  (∀ x f v, (land x (.flags f)).regs = x.regs ∧ (land x (.flags f)).preds = x.preds ∧ (land x (.fsr v)).regs = x.regs ∧ (land x (.fsr v)).preds = x.preds)

/-- A result with distance n lands at the n-th packet end, and a result still pending lands when the run is over; a later write of the same register with a shorter distance replaces the earlier one. -/
def Obligations.ForwardingDistances : Prop :=
  (∀ x e, x.pend = [] → packetEnd (addPends x 1 [e]) = { land x e with pend := [] }) ∧
  (∀ x n e, x.pend = [] → 1 < n → (packetEnd (addPends x n [e])).pend = [⟨n - 1, e⟩] ∧ (packetEnd (addPends x n [e])).regs = x.regs ∧
    (packetEnd (addPends x n [e])).preds = x.preds) ∧
  (∀ x n e, x.pend = [] → n ≤ 8 → flushPend 9 (addPends x n [e]) = { land x e with pend := [] }) ∧
  (∀ x n v m w, x.pend = [] → m < n → (addPends (addPends x n [.reg 4 v]) m [.reg 4 w]).pend = [⟨m, .reg 4 w⟩])

/-- BFX extracts the field of a that b names, zero- or sign-extended, and BFI inserts the low bits of a into c at the field that b names; a width of zero gives 0 and c. -/
def Obligations.BitFields : Prop :=
  (∀ h o, h.mod = 0#8 → Lands (.bfx h o) h o 1 fun a b _ => BitVec.ofNat 32 (a.toNat / 2 ^ fieldPos b % 2 ^ fieldWidth b)) ∧
  (∀ h o, h.mod = 1#8 → Lands (.bfx h o) h o 1 fun a b _ =>
    let v := a.toNat / 2 ^ fieldPos b % 2 ^ fieldWidth b
    if fieldWidth b = 0 then 0 else if v < 2 ^ (fieldWidth b - 1) then BitVec.ofNat 32 v else BitVec.ofInt 32 ((v : Int) - 2 ^ fieldWidth b)) ∧
  (∀ h o, Lands (.bfi h o) h o 1 fun a b c =>
    (c &&& ~~~ BitVec.ofNat 32 ((2 ^ fieldWidth b - 1) * 2 ^ fieldPos b)) ||| BitVec.ofNat 32 (a.toNat % 2 ^ fieldWidth b * 2 ^ fieldPos b))

/-- IDIV and IREM truncate the quotient toward zero, and the remainder takes the sign of the dividend; a zero divisor gives all ones and the dividend, and the most negative number divided by -1 gives itself and 0. -/
def Obligations.Divisions : Prop :=
  (∀ h o, h.mod = 0#8 → LandsAtRunEnd (.idiv h o) h o fun a b =>
    if b = 0 then 0xFFFFFFFF#32 else if a = 0x80000000#32 ∧ b = 0xFFFFFFFF#32 then 0x80000000#32 else BitVec.ofInt 32 (a.toInt.tdiv b.toInt)) ∧
  (∀ h o, h.mod = 1#8 → LandsAtRunEnd (.idiv h o) h o fun a b => if b = 0 then 0xFFFFFFFF#32 else BitVec.ofNat 32 (a.toNat / b.toNat)) ∧
  (∀ h o, h.mod = 0#8 → LandsAtRunEnd (.irem h o) h o fun a b =>
    if b = 0 then a else if a = 0x80000000#32 ∧ b = 0xFFFFFFFF#32 then 0 else BitVec.ofInt 32 (a.toInt.tmod b.toInt)) ∧
  (∀ h o, h.mod = 1#8 → LandsAtRunEnd (.irem h o) h o fun a b => if b = 0 then a else BitVec.ofNat 32 (a.toNat % b.toNat))

/-- HMIX computes t := ((a XOR ROL(b, 16)) × 0x9E37_79B1) mod 2³², and then d := t XOR ⌊t ÷ 2¹⁵⌋. The worked values of the integer operations come out as the table has them. -/
def Obligations.HmixAndTheTable : Prop :=
  (∀ h o, Lands (.hmix h o) h o 2 fun a b _ =>
    let t := (a ^^^ b.rotateLeft 16) * 0x9E3779B1#32
    t ^^^ BitVec.ofNat 32 (t.toNat / 2 ^ 15)) ∧
  resIadd 1 0x7FFFFFF0 0x20 = 0x7FFFFFFF ∧ resIadd 0 0x7FFFFFF0 0x20 = 0x80000010 ∧ resIsub 2 5 9 = 0 ∧ resImul 1 0x80000000 2 = 0xFFFFFFFF ∧
  resIdiv 0 0xFFFFFFF9 2 = 0xFFFFFFFD ∧ resIrem 0 0xFFFFFFF9 2 = 0xFFFFFFFF ∧ resIdiv 1 9 0 = 0xFFFFFFFF ∧ resSar 0x80000000 40 = 0xFFFFFFFF ∧
  resBfx 1 0x00000F00 0x00000408 = 0xFFFFFFFF ∧ resClz 0x00000100 = 23

/-- With no guard true and no prefix pending, an instruction changes nothing, and a guard is its predicate, inverted when its bit is set. An instruction that accepts no prefix traps every fibre that has one pending, with class 0 and detail 0x08, before its guard and its registers are looked at. -/
def Obligations.GuardsAndPrefixes : Prop :=
  (∀ i w s is, encode i = some w → ownRules i = false → issuing s = some is → lanesWhere s is fsrPP = [] →
    lanesWhere s is (guardOf (headOf w)) = [] → exec i s = .next s) ∧
  (∀ x h, h.gp = 0 → guardOf h x = !h.gn) ∧
  (∀ i w s is, encode i = some w → ownRules i = false → issuing s = some is →
    (lanesWhere s is fun x => ! fsrPP x && guardOf (headOf w) x) = [] →
      exec i s = .next (trapLanes s is (lanesWhere s is fsrPP) (trapOf 0 0x08)))

/-- A register at or above the group's allotment traps every fibre of the batch with class 1, naming the position and the register, and the instruction has no other effect. -/
def Obligations.RegisterRangeTraps : Prop :=
  (∀ i w s is act n, encode i = some w → ownRules i = false → issuing s = some is → lanesWhere s is fsrPP = [] →
    lanesWhere s is (guardOf (headOf w)) = act → act ≠ [] → outOfRange (allotOf s (is.fref 0)) (operandsOf i) = some n →
      exec i s = .next (trapLanes s is act ⟨1, 0, n, 0, 0⟩)) ∧
  (∀ a ops n, a ≤ 255 → outOfRange a ops = some n → ∃ p ∈ ops, p.1 = n / 256 ∧ p.2.1.toNat < 0x100 ∧ p.2.1.toNat ≤ n % 256 ∧
    n % 256 < p.2.1.toNat + p.2.2 ∧ a ≤ n % 256) ∧
  (∀ a ops, outOfRange a ops = none ↔ ∀ p ∈ ops, p.2.2 = 0 ∨ 0x100 ≤ p.2.1.toNat ∨ p.2.1.toNat + p.2.2 ≤ a)

/-- The fibre's frame is written at the top of its stack stride, and the fibre goes on at its team's vector with its registers and predicates, PP and PFMT cleared; with no valid vector, a stride below 64 or a routine already running its team faults. -/
def Obligations.TrapEntry : Prop :=
  (∀ s f pc t x vec, getFib (atTrap s f pc) f = some x → outsideWave (atTrap s f pc) f → x.inTrap = false → x.waits.any entersTrap = false →
    vectorOf (atTrap s f pc) f t.cls = some vec → 64 ≤ (sliceCtl (atTrap s f pc) f.core (sliceOf (atTrap s f pc) f) 0x105).toNat →
    stackHeld (atTrap s f pc) f x true (frameAddr (atTrap s f pc) f) 64 = false →
    rangeFails (atTrap s f pc) f.core (sliceOf (atTrap s f pc) f) (fsrPRV x) .wr (frameAddr (atTrap s f pc) f).toNat 64 = none →
      takeTrap s f pc t = modFib (virtWrite (atTrap s f pc) f.core (sliceOf (atTrap s f pc) f) (fsrPRV x) (frameAddr (atTrap s f pc) f).toNat
          (bytesOf (frameWords x pc (rawInstr (getCore (atTrap s f pc) f.core) pc) t)) 0) f
        fun y => { y with fsr := y.fsr &&& 0x07FFFFFF#32, pc := vec, next := none, inTrap := true, sigNew := true }) ∧
  (∀ s f pc t x vec, getFib (atTrap s f pc) f = some x → outsideWave (atTrap s f pc) f → x.inTrap = false → x.waits.any entersTrap = false →
    vectorOf (atTrap s f pc) f t.cls = some vec → 64 ≤ (sliceCtl (atTrap s f pc) f.core (sliceOf (atTrap s f pc) f) 0x105).toNat →
    stackHeld (atTrap s f pc) f x true (frameAddr (atTrap s f pc) f) 64 = true →
      takeTrap s f pc t = modFib (atTrap s f pc) f fun y => { y with
        waits := y.waits ++ [.stack pc (.frame (frameWords x pc (rawInstr (getCore (atTrap s f pc) f.core) pc) t) t.cls t.detail)] }) ∧
  (∀ s f pc t x, getFib (atTrap s f pc) f = some x → outsideWave (atTrap s f pc) f →
    (x.inTrap = true ∨ vectorOf (atTrap s f pc) f t.cls = none ∨ (sliceCtl (atTrap s f pc) f.core (sliceOf (atTrap s f pc) f) 0x105).toNat < 64) →
      takeTrap s f pc t = fibreTeamFault (atTrap s f pc) f (t.cls * 256 + t.detail)) ∧
  (∀ s f, frameAddr s f = stackArea s f + sliceCtl s f.core (sliceOf s f) 0x105 - 64) ∧
  (∀ x pc raw t, (frameWords x pc raw t).length = 16 ∧ (frameWords x pc raw t).take 2 = [pc, if t.cls = 11 ∨ t.cls = 12 then nextPc pc else pc] ∧
    (frameWords x pc raw t)[2]? = some (fsrOf x) ∧ (frameWords x pc raw t)[6]? = some (raw.extractLsb' 0 32) ∧
    (frameWords x pc raw t)[8]? = some (raw.extractLsb' 64 32))

/-- TRET reloads PP, PFMT, FTZ, RM and the sticky flags and keeps the FSR's other fields; it resumes at NPC, which must be a marked target where it was changed; a malformed prefix reads as none. -/
def Obligations.TrapReturnReloads : Prop :=
  (∀ s f x epc npc fsr w3 sg, getFib s f = some x → npc = (if w3.toNat % 256 = 11 ∨ w3.toNat % 256 = 12 then nextPc epc else epc) →
    ∃ y, getFib (returnTrap s f epc npc fsr w3 sg) f = some y ∧ y.pc = npc ∧ y.inTrap = false ∧ y.sig = sg.setWidth 16 ∧ y.sigOn = x.sigOnKept ∧ y.regs = x.regs ∧ y.preds = x.preds ∧
      y.stack = x.stack ∧ y.heldKeys = x.heldKeys ∧
      (∀ i, i < 27 → y.fsr.getLsbD i = if i = 12 ∨ i = 10 ∨ i = 9 ∨ i < 5 then fsr.getLsbD i else x.fsr.getLsbD i) ∧
      (∀ i, 27 ≤ i → i < 32 → y.fsr.getLsbD i = (fsr.getLsbD i && fsr.getLsbD 31 && decide (1 ≤ fsr.toNat / 2 ^ 27 % 16 ∧ fsr.toNat / 2 ^ 27 % 16 ≤ 10)))) ∧
  (∀ s f x o epc npc fsr w3 sg, getFib s f = some x → npc ≠ (if w3.toNat % 256 = 11 ∨ w3.toNat % 256 = 12 then nextPc epc else epc) →
    codeObjOf s f = some o → isTarget s f.core o npc.toNat = false → returnTrap s f epc npc fsr w3 sg = fibreTeamFault (resumeMatrix s f) f 0xFF02) ∧
  (∀ s f x o epc npc fsr w3 sg, getFib s f = some x → npc ≠ (if w3.toNat % 256 = 11 ∨ w3.toNat % 256 = 12 then nextPc epc else epc) →
    codeObjOf s f = some o → isTarget s f.core o npc.toNat = true → ∃ y, getFib (returnTrap s f epc npc fsr w3 sg) f = some y ∧ y.pc = npc ∧ y.sigNew = true ∧
      y.inTrap = false ∧ y.regs = x.regs ∧ y.preds = x.preds) ∧
  (∀ s f x, getFib s f = some x → rangeFails s f.core (sliceOf s f) (fsrPRV x) .rd (frameAddr s f).toNat 64 = none →
    (virtRead s f.core (sliceOf s f) (fsrPRV x) (frameAddr s f).toNat 64).2 = 0 →
    ∃ w, w = wordsOf (virtRead s f.core (sliceOf s f) (fsrPRV x) (frameAddr s f).toNat 64).1 ∧
      readFrame s f = returnTrap s f (w.getD 0 0) (w.getD 1 0) (w.getD 2 0) (w.getD 3 0) (w.getD 9 0))

/-- What the lanes of a branch, a wait, a wake, a control-register access, a launch, a range operation, a copy, a section, a combine, a message or a work-graph instruction do leaves memory, cisterns, L2 slices and every fibre's registers, predicates, FSR, return stack and PC as they were; results come with later packets. -/
def Obligations.IssueLeavesData : Prop :=
  (∀ tgt, LeavesData (branchAct tgt)) ∧ (∀ o, LeavesData (fwaitAct o)) ∧ (∀ o, LeavesData (parkAct o)) ∧ (∀ o, LeavesData (wakeAct o)) ∧
  (∀ o, LeavesData (wakeGrpAct o)) ∧ LeavesData tretAct ∧ (∀ o ns, LeavesData (basinAct o ns)) ∧ LeavesData basinOwnAct ∧
  (∀ h o, LeavesData (ctlrdAct h o)) ∧ (∀ h o, LeavesData (ctlwrAct h o)) ∧ (∀ i o, LeavesData (launchAct i o)) ∧ (∀ o, LeavesData (quiesceAct o)) ∧
  (∀ o, LeavesData (quiesceOpenAct o)) ∧ (∀ i n o, LeavesData (rangeAct i n o)) ∧ (∀ i o, LeavesData (migrAct i o)) ∧ (∀ i mk, LeavesData (copyAct i mk)) ∧
  (∀ i o, LeavesData (combineAct i o)) ∧ (∀ i o, LeavesData (cmbregAct i o)) ∧ (∀ o, LeavesData (osentAct o)) ∧ (∀ o, LeavesData (osleaveAct o)) ∧
  (∀ o, LeavesData (osskipAct o)) ∧ (∀ o, LeavesData (sendAct o)) ∧ (∀ o, LeavesData (sendrAct o)) ∧ (∀ o, LeavesData (replyAct o)) ∧
  (∀ o, LeavesData (mboxAct o)) ∧ (∀ o, LeavesData (mboxRpAct o)) ∧ (∀ o, LeavesData (emitAct o))

/-- A write of physical memory changes the bytes it names and no other; while a checkpoint holds the package's memory, and to a channel that has failed, it changes none. A store to a cistern changes the bytes it names, of that core's cistern alone; memory and every register stay; a load answers the cistern's bytes. -/
def Obligations.WritesToMemoryAndCisterns : Prop :=
  (∀ s pa bytes psn z a, normPa s pa % 256 + bytes.length ≤ 256 → Memory.wf s.mem = true →
    (s.ckpt.getLsbD 1 = false ∨ isLocalHbm (normPa s pa) = false) → channelFailed s (normPa s pa) = false →
    Memory.read (memWrite s pa bytes psn z).mem a = byteAfter s.mem (normPa s pa) bytes a) ∧
  (∀ s pa bytes psn z, normPa s pa % 256 + bytes.length ≤ 256 → s.ckpt.getLsbD 1 = true → isLocalHbm (normPa s pa) = true → memWrite s pa bytes psn z = s) ∧
  (∀ s pa bytes psn z, normPa s pa % 256 + bytes.length ≤ 256 → channelFailed s (normPa s pa) = true → (memWrite s pa bytes psn z).mem = s.mem) ∧
  (∀ s pa bytes psn z, (memWrite s pa bytes psn z).cores = s.cores ∧ (memWrite s pa bytes psn z).fibres = s.fibres ∧
    (memWrite s pa bytes psn z).teams = s.teams ∧ (memWrite s pa bytes psn z).slices = s.slices) ∧
  (∀ s c off bytes psn a, Memory.wf (getCore s c).cistern = true →
    Memory.read (getCore (cistWrite s c off bytes psn) c).cistern a = byteAfter (getCore s c).cistern off bytes a) ∧
  (∀ s c off bytes psn d, d ≠ c → getCore (cistWrite s c off bytes psn) d = getCore s d) ∧
  (∀ s c off bytes psn, (cistWrite s c off bytes psn).mem = s.mem ∧ (cistWrite s c off bytes psn).fibres = s.fibres ∧
    (cistWrite s c off bytes psn).slices = s.slices ∧ ((getCore s c).cistPoison = [] → (cistWrite s c off bytes psn).mesh = s.mesh)) ∧
  (∀ s c off bytes w, (bytes.length = 8 ∧ off = 8 * w) → (cistRead (cistWrite s c off bytes 0) c off 8).2 = 0) ∧
  (∀ s home q c off, q.loc = .cist c off → q.op.kind = .store → (serveLane s home q).1 = cistWrite s c off (storeBytes q.op) 0 ∧ (serveLane s home q).2.1 = []) ∧
  (∀ s home q c off, q.loc = .cist c off → q.op.kind = .load → q.fwd = [] → (serveLane s home q).1 = cistSeen s c off q.op.size ∧
    ((cistRead s c off q.op.size).2 = 0 → cistSeen s c off q.op.size = s) ∧ (serveLane s home q).2.2 = (cistRead s c off q.op.size).2 ∧
    (serveLane s home q).2.1 = loadEffs q.op (Memory.reads (getCore s c).cistern off q.op.size))

/-- At its home a store to a present piece whose coding needs no more room changes the bytes it names and no other byte of any present piece; with WT clear memory stays; a load answers the home's bytes; an atomic stores the new value and answers the old one. -/
def Obligations.StoresAtHome : Prop :=
  (∀ s home pa bytes wt bcmp psn p, l2Piece (getCore s home) (pa / 64) = some p → p.data.length = 64 → pa % 64 + bytes.length ≤ 64 →
    sectorsOf (if p.pin then 0 else codingOf (spliceBytes p.data (pa % 64) bytes)) ≤ sectorsOf p.coding →
    (∀ g, l2Tag (getCore s home) (pa / 64 / 32) = some g → g.kept.contains (pa / 64 % 32) = false) →
      (∃ r, l2Piece (getCore (homeWrite s home pa bytes wt bcmp psn) home) (pa / 64) = some r ∧ r.data = spliceBytes p.data (pa % 64) bytes ∧ r.dirty = (!wt || p.dirty) ∧
        r.pin = p.pin) ∧
      (∀ i, (spliceBytes p.data (pa % 64) bytes)[i]? = if pa % 64 ≤ i ∧ i < pa % 64 + bytes.length then bytes[i - pa % 64]? else p.data[i]?) ∧
      (∀ pc, pc ≠ pa / 64 → l2Piece (getCore (homeWrite s home pa bytes wt bcmp psn) home) pc = l2Piece (getCore s home) pc) ∧
      (wt = false → (homeWrite s home pa bytes wt bcmp psn).mem = s.mem)) ∧
  (∀ s home q pa, q.loc = .phys pa → q.op.kind = .load → q.fwd = [] →
    (serveLane s home q).1 = (if (homeRead s home pa q.op.size).2 = 0 then s else markSeen s home pa) ∧
    (serveLane s home q).2.2 = (homeRead s home pa q.op.size).2 ∧ (serveLane s home q).2.1 = loadEffs q.op (homeRead s home pa q.op.size).1) ∧
  (∀ s home q pa, q.loc = .phys pa → q.op.kind = .store → (serveLane s home q).1 = homeWrite s home pa (storeBytes q.op) q.wt q.bcmp 0) ∧
  (∀ s home q pa, q.loc = .phys pa → q.op.kind = .atomic →
    let old := leNat (homeRead s home pa q.op.size).1
    (serveLane s home q).1 = homeWrite (if (homeRead s home pa q.op.size).2 = 0 then s else markSeen s home pa) home pa (leBytes q.op.size (atomNew q.op.opc q.op.size old (wordsNat q.op.data % 2 ^ (8 * q.op.size))
      (wordsNat q.op.data2 % 2 ^ (8 * q.op.size)))) q.wt q.bcmp (homeRead s home pa q.op.size).2 ∧
    (serveLane s home q).2.1 = atomEffs q.op 0 old)

/-- A failing check is its trap, with the address; otherwise, outside a restartable activation, its access is recorded in the fibre's order and its request carries the place and what the lane's registers ask for; a blend in a restartable activation is illegal detail 0x0E, and a helper fibre stores nothing. -/
def Obligations.LaneAccesses : Prop :=
  (∀ s is l op res x c d, getFib s (is.fref l) = some x → fsrRST x = false → x.origin.helper = false → checkOp s (is.fref l) x op = .trap c d →
    issueLane s is l op res = (takeTrap s (is.fref l) is.pc (trapAt c d (eaOf s (is.fref l) op)), .none)) ∧
  (∀ s is l op res x t, getFib s (is.fref l) = some x → fsrRST x = false → x.origin.helper = false → checkOp s (is.fref l) x op = .ok t →
    ∃ u q, issueLane s is l op res = (u, .req q t.home t.pkg) ∧ q.f = is.fref l ∧ q.loc = t.loc ∧ q.op.kind = op.kind ∧ q.op.data = op.data ∧
      q.op.size = op.size ∧ q.op.dst = op.dst ∧ u.mem = s.mem ∧
      (∃ y a, getFib u (is.fref l) = some y ∧ y.regs = x.regs ∧ y.accs = x.accs ++ [a] ∧ a.id = q.acc ∧ a.loc = some t.loc ∧ a.path = op.path)) ∧
  (∀ s is l op res x, getFib s (is.fref l) = some x → fsrRST x = true → op.kind = .blend →
    issueLane s is l op res = (takeTrap s (is.fref l) is.pc (trapOf 0 0x0E), .none)) ∧
  (∀ s is l op res x, getFib s (is.fref l) = some x → fsrRST x = false → x.origin.helper = true → op.kind = .store → issueLane s is l op res = (s, .none))
end

