-- ==== Sys2Proof/Laws/Encoding.lean ====
section
/-!
SUPPORT. The fields of a packed word (R333, R335): opcode, head and body read back what was packed.
-/
namespace Sys2Proof

/-- A bit of an appended vector above its lower part. -/
theorem getLsbD_append_ge {n m i : Nat} (x : BitVec n) (y : BitVec m) (h : m ≤ i) : (x ++ y).getLsbD i = x.getLsbD (i - m) := by
  rw [BitVec.getLsbD_append]; simp [Nat.not_lt.2 h]

/-- A bit of an appended vector inside its lower part. -/
theorem getLsbD_append_lt {n m i : Nat} (x : BitVec n) (y : BitVec m) (h : i < m) : (x ++ y).getLsbD i = y.getLsbD i := by
  rw [BitVec.getLsbD_append]; simp [h]

/-- The bit of a one-bit vector. -/
theorem getLsbD_ofBool_zero (b : Bool) : (BitVec.ofBool b).getLsbD 0 = b := by cases b <;> rfl

/-- The opcode of a format A word. -/
@[simp] theorem opc_packA (opc : BitVec 10) (h : Head) (o : BodyA) : (packA opc h o).extractLsb' 86 10 = opc := by
  simp (disch := decide) only [packA, packHead, BitVec.extractLsb'_append_eq_of_le, Nat.reduceSub, BitVec.extractLsb'_eq_self]

/-- The head of a format A word. -/
@[simp] theorem head_packA (opc : BitVec 10) (h : Head) (o : BodyA) : headOf (packA opc h o) = h := by
  simp (disch := decide) only [headOf, packA, packHead, getLsbD_append_ge, getLsbD_append_lt, getLsbD_ofBool_zero, Nat.reduceSub, BitVec.extractLsb'_append_eq_of_le,
    BitVec.extractLsb'_append_eq_of_add_le, BitVec.extractLsb'_eq_self]

/-- The body of a format A word. -/
@[simp] theorem body_packA (opc : BitVec 10) (h : Head) (o : BodyA) : bodyA (packA opc h o) = o := by
  simp (disch := decide) only [bodyA, packA, packHead, Nat.reduceSub, BitVec.extractLsb'_append_eq_of_le,
    BitVec.extractLsb'_append_eq_of_add_le, BitVec.extractLsb'_eq_self]

/-- The opcode of a format W word. -/
@[simp] theorem opc_packW (opc : BitVec 10) (h : Head) (o : BodyW) : (packW opc h o).extractLsb' 86 10 = opc := by
  simp (disch := decide) only [packW, packHead, BitVec.extractLsb'_append_eq_of_le, Nat.reduceSub, BitVec.extractLsb'_eq_self]

/-- The head of a format W word. -/
@[simp] theorem head_packW (opc : BitVec 10) (h : Head) (o : BodyW) : headOf (packW opc h o) = h := by
  simp (disch := decide) only [headOf, packW, packHead, getLsbD_append_ge, getLsbD_append_lt, getLsbD_ofBool_zero, Nat.reduceSub, BitVec.extractLsb'_append_eq_of_le,
    BitVec.extractLsb'_append_eq_of_add_le, BitVec.extractLsb'_eq_self]

/-- The body of a format W word. -/
@[simp] theorem body_packW (opc : BitVec 10) (h : Head) (o : BodyW) : bodyW (packW opc h o) = o := by
  simp (disch := decide) only [bodyW, packW, packHead, Nat.reduceSub, BitVec.extractLsb'_append_eq_of_le,
    BitVec.extractLsb'_append_eq_of_add_le, BitVec.extractLsb'_eq_self]

/-- The opcode of a format M word. -/
@[simp] theorem opc_packM (opc : BitVec 10) (h : Head) (o : BodyM) : (packM opc h o).extractLsb' 86 10 = opc := by
  simp (disch := decide) only [packM, packHead, BitVec.extractLsb'_append_eq_of_le, Nat.reduceSub, BitVec.extractLsb'_eq_self]

/-- The head of a format M word. -/
@[simp] theorem head_packM (opc : BitVec 10) (h : Head) (o : BodyM) : headOf (packM opc h o) = h := by
  simp (disch := decide) only [headOf, packM, packHead, getLsbD_append_ge, getLsbD_append_lt, getLsbD_ofBool_zero, Nat.reduceSub, BitVec.extractLsb'_append_eq_of_le,
    BitVec.extractLsb'_append_eq_of_add_le, BitVec.extractLsb'_eq_self]

/-- The body of a format M word. -/
@[simp] theorem body_packM (opc : BitVec 10) (h : Head) (o : BodyM) : bodyM (packM opc h o) = o := by
  simp (disch := decide) only [bodyM, packM, packHead, getLsbD_append_ge, getLsbD_append_lt, getLsbD_ofBool_zero, Nat.reduceSub, BitVec.extractLsb'_append_eq_of_le,
    BitVec.extractLsb'_append_eq_of_add_le, BitVec.extractLsb'_eq_self]

/-- The opcode of a format B word. -/
@[simp] theorem opc_packB (opc : BitVec 10) (h : Head) (o : BodyB) : (packB opc h o).extractLsb' 86 10 = opc := by
  simp (disch := decide) only [packB, packHead, BitVec.extractLsb'_append_eq_of_le, Nat.reduceSub, BitVec.extractLsb'_eq_self]

/-- The head of a format B word. -/
@[simp] theorem head_packB (opc : BitVec 10) (h : Head) (o : BodyB) : headOf (packB opc h o) = h := by
  simp (disch := decide) only [headOf, packB, packHead, getLsbD_append_ge, getLsbD_append_lt, getLsbD_ofBool_zero, Nat.reduceSub, BitVec.extractLsb'_append_eq_of_le,
    BitVec.extractLsb'_append_eq_of_add_le, BitVec.extractLsb'_eq_self]

/-- The body of a format B word. -/
@[simp] theorem body_packB (opc : BitVec 10) (h : Head) (o : BodyB) : bodyB (packB opc h o) = o := by
  simp (disch := decide) only [bodyB, packB, packHead, Nat.reduceSub, BitVec.extractLsb'_append_eq_of_le,
    BitVec.extractLsb'_append_eq_of_add_le, BitVec.extractLsb'_eq_self]

/-- The opcode of a format K word. -/
@[simp] theorem opc_packK (opc : BitVec 10) (h : Head) (o : BodyK) : (packK opc h o).extractLsb' 86 10 = opc := by
  simp (disch := decide) only [packK, packHead, BitVec.extractLsb'_append_eq_of_le, Nat.reduceSub, BitVec.extractLsb'_eq_self]

/-- The head of a format K word. -/
@[simp] theorem head_packK (opc : BitVec 10) (h : Head) (o : BodyK) : headOf (packK opc h o) = h := by
  simp (disch := decide) only [headOf, packK, packHead, getLsbD_append_ge, getLsbD_append_lt, getLsbD_ofBool_zero, Nat.reduceSub, BitVec.extractLsb'_append_eq_of_le,
    BitVec.extractLsb'_append_eq_of_add_le, BitVec.extractLsb'_eq_self]

/-- The body of a format K word. -/
@[simp] theorem body_packK (opc : BitVec 10) (h : Head) (o : BodyK) : bodyK (packK opc h o) = o := by
  simp (disch := decide) only [bodyK, packK, packHead, Nat.reduceSub, BitVec.extractLsb'_append_eq_of_le,
    BitVec.extractLsb'_append_eq_of_add_le, BitVec.extractLsb'_eq_self]

/-- The opcode of a format X word. -/
@[simp] theorem opc_packX (opc : BitVec 10) (h : Head) (o : BodyX) : (packX opc h o).extractLsb' 86 10 = opc := by
  simp (disch := decide) only [packX, packHead, BitVec.extractLsb'_append_eq_of_le, Nat.reduceSub, BitVec.extractLsb'_eq_self]

/-- The head of a format X word. -/
@[simp] theorem head_packX (opc : BitVec 10) (h : Head) (o : BodyX) : headOf (packX opc h o) = h := by
  simp (disch := decide) only [headOf, packX, packHead, getLsbD_append_ge, getLsbD_append_lt, getLsbD_ofBool_zero, Nat.reduceSub, BitVec.extractLsb'_append_eq_of_le,
    BitVec.extractLsb'_append_eq_of_add_le, BitVec.extractLsb'_eq_self]

/-- The body of a format X word. -/
@[simp] theorem body_packX (opc : BitVec 10) (h : Head) (o : BodyX) : bodyX (packX opc h o) = o := by
  simp (disch := decide) only [bodyX, packX, packHead, Nat.reduceSub, BitVec.extractLsb'_append_eq_of_le,
    BitVec.extractLsb'_append_eq_of_add_le, BitVec.extractLsb'_eq_self]

/-- The opcode of a format S word. -/
@[simp] theorem opc_packS (opc : BitVec 10) (h : Head) (o : BodyS) : (packS opc h o).extractLsb' 86 10 = opc := by
  simp (disch := decide) only [packS, packHead, BitVec.extractLsb'_append_eq_of_le, Nat.reduceSub, BitVec.extractLsb'_eq_self]

/-- The head of a format S word. -/
@[simp] theorem head_packS (opc : BitVec 10) (h : Head) (o : BodyS) : headOf (packS opc h o) = h := by
  simp (disch := decide) only [headOf, packS, packHead, getLsbD_append_ge, getLsbD_append_lt, getLsbD_ofBool_zero, Nat.reduceSub, BitVec.extractLsb'_append_eq_of_le,
    BitVec.extractLsb'_append_eq_of_add_le, BitVec.extractLsb'_eq_self]

/-- The body of a format S word. -/
@[simp] theorem body_packS (opc : BitVec 10) (h : Head) (o : BodyS) : bodyS (packS opc h o) = o := by
  simp (disch := decide) only [bodyS, packS, packHead, Nat.reduceSub, BitVec.extractLsb'_append_eq_of_le,
    BitVec.extractLsb'_append_eq_of_add_le, BitVec.extractLsb'_eq_self]

/-- The field SUB of a format X word. -/
@[simp] theorem sub_packX (opc : BitVec 10) (h : Head) (o : BodyX) : (packX opc h o).extractLsb' 5 4 = o.sub := by
  simp (disch := decide) only [packX, BitVec.extractLsb'_append_eq_of_le, BitVec.extractLsb'_append_eq_of_add_le, Nat.reduceSub, BitVec.extractLsb'_eq_self]

end Sys2Proof
end

