-- ==== Sys2Proof/Laws/Frame.lean ====
section
/-!
SUPPORT. The frame every instruction is executed in, said once: where an instruction issues, it is its effect on the active lanes.
-/
namespace Sys2Proof.Laws

open Machine

/-- A filter by the weaker of two tests that agree where it matters. -/
theorem lanesWhere_unprefixed {s : State} {is : Issue} {h : Head} (e : lanesWhere s is fsrPP = []) :
    lanesWhere s is (fun x => ! fsrPP x && guardOf h x) = lanesWhere s is (guardOf h) := by
  unfold lanesWhere at *
  apply List.filter_congr
  intro l hl
  have := List.filter_eq_nil_iff.mp e l hl
  cases hx : getFib s (is.fref l) with
  | none => rfl
  | some x => simp only [hx] at this ⊢; simp [this]

/-- Where an instruction issues, `onNamed` is the effect on the active lanes. -/
theorem onNamed_issues {s : State} {h : Head} {ops : Named} {is : Issue} {act : List Nat} (H : Issues s h ops is act)
    (k : Issue → List Nat → State → State) : onNamed s h ops k = .next (k is act s) := by
  unfold onNamed
  rw [H.batch]
  simp only [lanesWhere_unprefixed H.unprefixed, H.unprefixed, H.active]
  have e : act.isEmpty = false := by simpa using H.someLane
  simp [trapLanes, e, H.inRange]

/-- The same with the registers that the instruction's fields name. -/
theorem onActive_issues {s : State} {i : Instr} {h : Head} {is : Issue} {act : List Nat} (H : Issues s h (namedOf i) is act)
    (k : Issue → List Nat → State → State) : onActive s i h k = .next (k is act s) := onNamed_issues H k

/-- Where an instruction issues, `signalled` adds its signal entry for the active lanes to what it leaves. -/
theorem signalled_issues {s : State} {h : Head} {ops : Named} {is : Issue} {act : List Nat} (H : Issues s h ops is act) (t : State) :
    signalled s h (.next t) = .next (signalEntry t is act) := by
  simp only [signalled, H.batch, lanesWhere_unprefixed H.unprefixed, H.active]

/-- An instruction acts by lane where its effect is a fold over the active lanes: the first two hypotheses hold by unfolding. -/
theorem actsByLane {i : Instr} {h : Head} {ops : Named} {pre : State → State} {eff : State → Issue → State → Nat → Fibre → LaneAct}
    {k : Issue → List Nat → State → State} {lane : State → Issue → State → Nat → State} 
    (hk : ∀ s is act, Issues s h ops is act → exec i s = .next (entered i is act (k is act s)))
    (hl : ∀ s is act, k is act s = eachLane act (lane s is) (pre s))
    (he : ∀ s is s' l x, getFib s' (is.fref l) = some x → (eff s is s' l x).Makes is l s' (lane s is s' l)) :
    ActsByLane i h ops pre eff := by
  intro s is act H
  exact ⟨lane s is, by rw [hk s is act H, hl], he s is⟩

end Sys2Proof.Laws
end

