-- ==== Sys2Proof/Laws/State.lean ====
section
/-!
SUPPORT. What each update of the state leaves alone, one lemma per field, and what the accessors read after an update.
-/
namespace Sys2Proof.Machine

set_option Elab.async false

/-! ## Tables -/

/-- A table reads back what was put. -/
@[simp] theorem tget_tput_self {α β : Type} [DecidableEq α] (k : α) (v : β) : ∀ t : Tbl α β, tget (tput t k v) k = some v
  | [] => by simp [tput, tget]
  | (a, b) :: t => by
    unfold tput; split
    · simp [tget]
    · simp [tget, *, tget_tput_self k v t]

/-- Putting an entry leaves the others. -/
theorem tget_tput_ne {α β : Type} [DecidableEq α] {k k' : α} (v : β) (h : k' ≠ k) : ∀ t : Tbl α β, tget (tput t k v) k' = tget t k'
  | [] => by simp [tput, tget, h.symm]
  | (a, b) :: t => by
    unfold tput; split
    · subst_vars; simp [tget, h.symm]
    · simp only [tget]; split
      · rfl
      · exact tget_tput_ne v h t

/-- A deleted entry is gone from a table. -/
@[simp] theorem tget_tdel_self {α β : Type} [DecidableEq α] (k : α) : ∀ t : Tbl α β, tget (tdel t k) k = none
  | [] => rfl
  | (a, b) :: t => by
    unfold tdel; split
    · exact tget_tdel_self k t
    · simp [tget, *, tget_tdel_self k t]

/-! ## Accessors after updates -/

/-- The core just put. -/
@[simp] theorem getCore_putCore_self (s : State) (c : Nat) (k : Core) : getCore (putCore s c k) c = k := by simp [getCore, putCore, tgetD]
/-- Another core than the one put. -/
theorem getCore_putCore_ne (s : State) {c d : Nat} (k : Core) (h : d ≠ c) : getCore (putCore s c k) d = getCore s d := by
  simp [getCore, putCore, tgetD, tget_tput_ne _ h]
/-- The core just changed. -/
@[simp] theorem getCore_modCore_self (s : State) (c : Nat) (f : Core → Core) : getCore (modCore s c f) c = f (getCore s c) := by simp [modCore]
/-- Another core than the one changed. -/
theorem getCore_modCore_ne (s : State) {c d : Nat} (f : Core → Core) (h : d ≠ c) : getCore (modCore s c f) d = getCore s d := getCore_putCore_ne s _ h
/-- The slice just put. -/
@[simp] theorem getSlice_putSlice_self (s : State) (n : Nat) (x : Slice) : getSlice (putSlice s n x) n = x := by simp [getSlice, putSlice, tgetD]
/-- The slice just changed. -/
@[simp] theorem getSlice_modSlice_self (s : State) (n : Nat) (f : Slice → Slice) : getSlice (modSlice s n f) n = f (getSlice s n) := by simp [modSlice]
/-- Another slice than the one put. -/
theorem getSlice_putSlice_ne (s : State) {n m : Nat} (x : Slice) (h : m ≠ n) : getSlice (putSlice s n x) m = getSlice s m := by
  simp [getSlice, putSlice, tgetD, tget_tput_ne _ h]
/-- The fibre just put. -/
@[simp] theorem getFib_putFib_self (s : State) (f : FRef) (x : Fibre) : getFib (putFib s f x) f = some x := by simp [getFib, putFib]
/-- Another fibre than the one put. -/
theorem getFib_putFib_ne (s : State) {f g : FRef} (x : Fibre) (h : g ≠ f) : getFib (putFib s f x) g = getFib s g := by
  simp [getFib, putFib, tget_tput_ne _ h]
/-- The fibre just changed. -/
@[simp] theorem getFib_modFib_self (s : State) (f : FRef) (g : Fibre → Fibre) : getFib (modFib s f g) f = (getFib s f).map g := by
  unfold modFib; cases h : getFib s f <;> simp [h]
/-- Another fibre than the one changed. -/
theorem getFib_modFib_ne (s : State) {f f' : FRef} (g : Fibre → Fibre) (h : f' ≠ f) : getFib (modFib s f g) f' = getFib s f' := by
  unfold modFib; cases getFib s f <;> simp [getFib_putFib_ne _ _ h]
/-- A core after a fibre has changed. -/
@[simp] theorem getCore_putFib (s : State) (f : FRef) (x : Fibre) (c : Nat) : getCore (putFib s f x) c = getCore s c := rfl
/-- A core after a fibre has been changed. -/
@[simp] theorem getCore_modFib (s : State) (f : FRef) (g : Fibre → Fibre) (c : Nat) : getCore (modFib s f g) c = getCore s c := by
  unfold modFib; split <;> rfl
/-- A fibre after a core has changed. -/
@[simp] theorem getFib_modCore (s : State) (c : Nat) (g : Core → Core) (f : FRef) : getFib (modCore s c g) f = getFib s f := rfl
/-- A fibre after a slice has changed. -/
@[simp] theorem getFib_modSlice (s : State) (n : Nat) (g : Slice → Slice) (f : FRef) : getFib (modSlice s n g) f = getFib s f := rfl
/-- A fibre after a packet has been put into the mesh. -/
@[simp] theorem getFib_emit (s : State) (vc : VC) (kind src dst flits : Nat) (tags : BitVec 18) (body : Body) (f : FRef) :
    getFib (emit s vc kind src dst flits tags body) f = getFib s f := rfl
/-- A core after a packet has been put into the mesh. -/
@[simp] theorem getCore_emit (s : State) (vc : VC) (kind src dst flits : Nat) (tags : BitVec 18) (body : Body) (c : Nat) :
    getCore (emit s vc kind src dst flits tags body) c = getCore s c := rfl
/-- A fibre after a packet has left the mesh. -/
@[simp] theorem getFib_dropPacket (s : State) (id : Nat) (f : FRef) : getFib (dropPacket s id) f = getFib s f := rfl
/-- A core after a packet has left the mesh. -/
@[simp] theorem getCore_dropPacket (s : State) (id c : Nat) : getCore (dropPacket s id) c = getCore s c := rfl
/-- A packet that has left the mesh is not there. -/
theorem getPacket_dropPacket (s : State) (id : Nat) : getPacket (dropPacket s id) id = none := by
  simp [getPacket, dropPacket]

/-! ## Fields left alone -/

@[simp] theorem putCore_clk (s : State) (c : Nat) (k : Core) : (putCore s c k).clk = s.clk := rfl
@[simp] theorem putCore_time (s : State) (c : Nat) (k : Core) : (putCore s c k).time = s.time := rfl
@[simp] theorem putCore_timeSub (s : State) (c : Nat) (k : Core) : (putCore s c k).timeSub = s.timeSub := rfl
@[simp] theorem putCore_timeFollows (s : State) (c : Nat) (k : Core) : (putCore s c k).timeFollows = s.timeFollows := rfl
@[simp] theorem putCore_mem (s : State) (c : Nat) (k : Core) : (putCore s c k).mem = s.mem := rfl
@[simp] theorem putCore_memPoison (s : State) (c : Nat) (k : Core) : (putCore s c k).memPoison = s.memPoison := rfl
@[simp] theorem putCore_damaged (s : State) (c : Nat) (k : Core) : (putCore s c k).damaged = s.damaged := rfl
@[simp] theorem putCore_blockState (s : State) (c : Nat) (k : Core) : (putCore s c k).blockState = s.blockState := rfl
@[simp] theorem putCore_ctl (s : State) (c : Nat) (k : Core) : (putCore s c k).ctl = s.ctl := rfl
@[simp] theorem putCore_tokensUsed (s : State) (c : Nat) (k : Core) : (putCore s c k).tokensUsed = s.tokensUsed := rfl
@[simp] theorem putCore_tokenQ (s : State) (c : Nat) (k : Core) : (putCore s c k).tokenQ = s.tokenQ := rfl
@[simp] theorem putCore_tokenHeld (s : State) (c : Nat) (k : Core) : (putCore s c k).tokenHeld = s.tokenHeld := rfl
@[simp] theorem putCore_tokensNow (s : State) (c : Nat) (k : Core) : (putCore s c k).tokensNow = s.tokensNow := rfl
@[simp] theorem putCore_tokGr (s : State) (c : Nat) (k : Core) : (putCore s c k).tokGr = s.tokGr := rfl
@[simp] theorem putCore_tokWait (s : State) (c : Nat) (k : Core) : (putCore s c k).tokWait = s.tokWait := rfl
@[simp] theorem putCore_mesh (s : State) (c : Nat) (k : Core) : (putCore s c k).mesh = s.mesh := rfl
@[simp] theorem putCore_slices (s : State) (c : Nat) (k : Core) : (putCore s c k).slices = s.slices := rfl
@[simp] theorem putCore_groups (s : State) (c : Nat) (k : Core) : (putCore s c k).groups = s.groups := rfl
@[simp] theorem putCore_fibres (s : State) (c : Nat) (k : Core) : (putCore s c k).fibres = s.fibres := rfl
@[simp] theorem putCore_teams (s : State) (c : Nat) (k : Core) : (putCore s c k).teams = s.teams := rfl
@[simp] theorem putCore_blocks (s : State) (c : Nat) (k : Core) : (putCore s c k).blocks = s.blocks := rfl
@[simp] theorem putCore_raster (s : State) (c : Nat) (k : Core) : (putCore s c k).raster = s.raster := rfl
@[simp] theorem putCore_draws (s : State) (c : Nat) (k : Core) : (putCore s c k).draws = s.draws := rfl
@[simp] theorem putCore_stackUnits (s : State) (c : Nat) (k : Core) : (putCore s c k).stackUnits = s.stackUnits := rfl
@[simp] theorem putCore_tests (s : State) (c : Nat) (k : Core) : (putCore s c k).tests = s.tests := rfl
@[simp] theorem putCore_spares (s : State) (c : Nat) (k : Core) : (putCore s c k).spares = s.spares := rfl
@[simp] theorem putCore_earlyErrors (s : State) (c : Nat) (k : Core) : (putCore s c k).earlyErrors = s.earlyErrors := rfl
@[simp] theorem putCore_pkgWindow (s : State) (c : Nat) (k : Core) : (putCore s c k).pkgWindow = s.pkgWindow := rfl
@[simp] theorem putCore_slsel (s : State) (c : Nat) (k : Core) : (putCore s c k).slsel = s.slsel := rfl
@[simp] theorem putCore_ckpt (s : State) (c : Nat) (k : Core) : (putCore s c k).ckpt = s.ckpt := rfl
@[simp] theorem putCore_wbase (s : State) (c : Nat) (k : Core) : (putCore s c k).wbase = s.wbase := rfl
@[simp] theorem putCore_msix (s : State) (c : Nat) (k : Core) : (putCore s c k).msix = s.msix := rfl
@[simp] theorem putCore_hostReads (s : State) (c : Nat) (k : Core) : (putCore s c k).hostReads = s.hostReads := rfl
@[simp] theorem putCore_spdm (s : State) (c : Nat) (k : Core) : (putCore s c k).spdm = s.spdm := rfl
@[simp] theorem putCore_answers (s : State) (c : Nat) (k : Core) : (putCore s c k).answers = s.answers := rfl
@[simp] theorem putCore_imageGood (s : State) (c : Nat) (k : Core) : (putCore s c k).imageGood = s.imageGood := rfl
@[simp] theorem putCore_imageId (s : State) (c : Nat) (k : Core) : (putCore s c k).imageId = s.imageId := rfl
@[simp] theorem putCore_trainedPorts (s : State) (c : Nat) (k : Core) : (putCore s c k).trainedPorts = s.trainedPorts := rfl
@[simp] theorem putCore_postings (s : State) (c : Nat) (k : Core) : (putCore s c k).postings = s.postings := rfl
@[simp] theorem putCore_turn (s : State) (c : Nat) (k : Core) : (putCore s c k).turn = s.turn := rfl
@[simp] theorem putCore_parked (s : State) (c : Nat) (k : Core) : (putCore s c k).parked = s.parked := rfl
@[simp] theorem putCore_schedule (s : State) (c : Nat) (k : Core) : (putCore s c k).schedule = s.schedule := rfl
@[simp] theorem putCore_nextId (s : State) (c : Nat) (k : Core) : (putCore s c k).nextId = s.nextId := rfl
@[simp] theorem putCore_free (s : State) (c : Nat) (k : Core) : (putCore s c k).free = s.free := rfl

@[simp] theorem modCore_clk (s : State) (c : Nat) (f : Core → Core) : (modCore s c f).clk = s.clk := rfl
@[simp] theorem modCore_time (s : State) (c : Nat) (f : Core → Core) : (modCore s c f).time = s.time := rfl
@[simp] theorem modCore_timeSub (s : State) (c : Nat) (f : Core → Core) : (modCore s c f).timeSub = s.timeSub := rfl
@[simp] theorem modCore_timeFollows (s : State) (c : Nat) (f : Core → Core) : (modCore s c f).timeFollows = s.timeFollows := rfl
@[simp] theorem modCore_mem (s : State) (c : Nat) (f : Core → Core) : (modCore s c f).mem = s.mem := rfl
@[simp] theorem modCore_memPoison (s : State) (c : Nat) (f : Core → Core) : (modCore s c f).memPoison = s.memPoison := rfl
@[simp] theorem modCore_damaged (s : State) (c : Nat) (f : Core → Core) : (modCore s c f).damaged = s.damaged := rfl
@[simp] theorem modCore_blockState (s : State) (c : Nat) (f : Core → Core) : (modCore s c f).blockState = s.blockState := rfl
@[simp] theorem modCore_ctl (s : State) (c : Nat) (f : Core → Core) : (modCore s c f).ctl = s.ctl := rfl
@[simp] theorem modCore_tokensUsed (s : State) (c : Nat) (f : Core → Core) : (modCore s c f).tokensUsed = s.tokensUsed := rfl
@[simp] theorem modCore_tokenQ (s : State) (c : Nat) (f : Core → Core) : (modCore s c f).tokenQ = s.tokenQ := rfl
@[simp] theorem modCore_tokenHeld (s : State) (c : Nat) (f : Core → Core) : (modCore s c f).tokenHeld = s.tokenHeld := rfl
@[simp] theorem modCore_tokensNow (s : State) (c : Nat) (f : Core → Core) : (modCore s c f).tokensNow = s.tokensNow := rfl
@[simp] theorem modCore_tokGr (s : State) (c : Nat) (f : Core → Core) : (modCore s c f).tokGr = s.tokGr := rfl
@[simp] theorem modCore_tokWait (s : State) (c : Nat) (f : Core → Core) : (modCore s c f).tokWait = s.tokWait := rfl
@[simp] theorem modCore_mesh (s : State) (c : Nat) (f : Core → Core) : (modCore s c f).mesh = s.mesh := rfl
@[simp] theorem modCore_slices (s : State) (c : Nat) (f : Core → Core) : (modCore s c f).slices = s.slices := rfl
@[simp] theorem modCore_groups (s : State) (c : Nat) (f : Core → Core) : (modCore s c f).groups = s.groups := rfl
@[simp] theorem modCore_fibres (s : State) (c : Nat) (f : Core → Core) : (modCore s c f).fibres = s.fibres := rfl
@[simp] theorem modCore_teams (s : State) (c : Nat) (f : Core → Core) : (modCore s c f).teams = s.teams := rfl
@[simp] theorem modCore_blocks (s : State) (c : Nat) (f : Core → Core) : (modCore s c f).blocks = s.blocks := rfl
@[simp] theorem modCore_raster (s : State) (c : Nat) (f : Core → Core) : (modCore s c f).raster = s.raster := rfl
@[simp] theorem modCore_draws (s : State) (c : Nat) (f : Core → Core) : (modCore s c f).draws = s.draws := rfl
@[simp] theorem modCore_stackUnits (s : State) (c : Nat) (f : Core → Core) : (modCore s c f).stackUnits = s.stackUnits := rfl
@[simp] theorem modCore_tests (s : State) (c : Nat) (f : Core → Core) : (modCore s c f).tests = s.tests := rfl
@[simp] theorem modCore_spares (s : State) (c : Nat) (f : Core → Core) : (modCore s c f).spares = s.spares := rfl
@[simp] theorem modCore_earlyErrors (s : State) (c : Nat) (f : Core → Core) : (modCore s c f).earlyErrors = s.earlyErrors := rfl
@[simp] theorem modCore_pkgWindow (s : State) (c : Nat) (f : Core → Core) : (modCore s c f).pkgWindow = s.pkgWindow := rfl
@[simp] theorem modCore_slsel (s : State) (c : Nat) (f : Core → Core) : (modCore s c f).slsel = s.slsel := rfl
@[simp] theorem modCore_ckpt (s : State) (c : Nat) (f : Core → Core) : (modCore s c f).ckpt = s.ckpt := rfl
@[simp] theorem modCore_wbase (s : State) (c : Nat) (f : Core → Core) : (modCore s c f).wbase = s.wbase := rfl
@[simp] theorem modCore_msix (s : State) (c : Nat) (f : Core → Core) : (modCore s c f).msix = s.msix := rfl
@[simp] theorem modCore_hostReads (s : State) (c : Nat) (f : Core → Core) : (modCore s c f).hostReads = s.hostReads := rfl
@[simp] theorem modCore_spdm (s : State) (c : Nat) (f : Core → Core) : (modCore s c f).spdm = s.spdm := rfl
@[simp] theorem modCore_answers (s : State) (c : Nat) (f : Core → Core) : (modCore s c f).answers = s.answers := rfl
@[simp] theorem modCore_imageGood (s : State) (c : Nat) (f : Core → Core) : (modCore s c f).imageGood = s.imageGood := rfl
@[simp] theorem modCore_imageId (s : State) (c : Nat) (f : Core → Core) : (modCore s c f).imageId = s.imageId := rfl
@[simp] theorem modCore_trainedPorts (s : State) (c : Nat) (f : Core → Core) : (modCore s c f).trainedPorts = s.trainedPorts := rfl
@[simp] theorem modCore_postings (s : State) (c : Nat) (f : Core → Core) : (modCore s c f).postings = s.postings := rfl
@[simp] theorem modCore_turn (s : State) (c : Nat) (f : Core → Core) : (modCore s c f).turn = s.turn := rfl
@[simp] theorem modCore_parked (s : State) (c : Nat) (f : Core → Core) : (modCore s c f).parked = s.parked := rfl
@[simp] theorem modCore_schedule (s : State) (c : Nat) (f : Core → Core) : (modCore s c f).schedule = s.schedule := rfl
@[simp] theorem modCore_nextId (s : State) (c : Nat) (f : Core → Core) : (modCore s c f).nextId = s.nextId := rfl
@[simp] theorem modCore_free (s : State) (c : Nat) (f : Core → Core) : (modCore s c f).free = s.free := rfl

@[simp] theorem putSlice_clk (s : State) (n : Nat) (x : Slice) : (putSlice s n x).clk = s.clk := rfl
@[simp] theorem putSlice_time (s : State) (n : Nat) (x : Slice) : (putSlice s n x).time = s.time := rfl
@[simp] theorem putSlice_timeSub (s : State) (n : Nat) (x : Slice) : (putSlice s n x).timeSub = s.timeSub := rfl
@[simp] theorem putSlice_timeFollows (s : State) (n : Nat) (x : Slice) : (putSlice s n x).timeFollows = s.timeFollows := rfl
@[simp] theorem putSlice_mem (s : State) (n : Nat) (x : Slice) : (putSlice s n x).mem = s.mem := rfl
@[simp] theorem putSlice_memPoison (s : State) (n : Nat) (x : Slice) : (putSlice s n x).memPoison = s.memPoison := rfl
@[simp] theorem putSlice_damaged (s : State) (n : Nat) (x : Slice) : (putSlice s n x).damaged = s.damaged := rfl
@[simp] theorem putSlice_blockState (s : State) (n : Nat) (x : Slice) : (putSlice s n x).blockState = s.blockState := rfl
@[simp] theorem putSlice_ctl (s : State) (n : Nat) (x : Slice) : (putSlice s n x).ctl = s.ctl := rfl
@[simp] theorem putSlice_tokensUsed (s : State) (n : Nat) (x : Slice) : (putSlice s n x).tokensUsed = s.tokensUsed := rfl
@[simp] theorem putSlice_tokenQ (s : State) (n : Nat) (x : Slice) : (putSlice s n x).tokenQ = s.tokenQ := rfl
@[simp] theorem putSlice_tokenHeld (s : State) (n : Nat) (x : Slice) : (putSlice s n x).tokenHeld = s.tokenHeld := rfl
@[simp] theorem putSlice_tokensNow (s : State) (n : Nat) (x : Slice) : (putSlice s n x).tokensNow = s.tokensNow := rfl
@[simp] theorem putSlice_tokGr (s : State) (n : Nat) (x : Slice) : (putSlice s n x).tokGr = s.tokGr := rfl
@[simp] theorem putSlice_tokWait (s : State) (n : Nat) (x : Slice) : (putSlice s n x).tokWait = s.tokWait := rfl
@[simp] theorem putSlice_mesh (s : State) (n : Nat) (x : Slice) : (putSlice s n x).mesh = s.mesh := rfl
@[simp] theorem putSlice_cores (s : State) (n : Nat) (x : Slice) : (putSlice s n x).cores = s.cores := rfl
@[simp] theorem putSlice_groups (s : State) (n : Nat) (x : Slice) : (putSlice s n x).groups = s.groups := rfl
@[simp] theorem putSlice_fibres (s : State) (n : Nat) (x : Slice) : (putSlice s n x).fibres = s.fibres := rfl
@[simp] theorem putSlice_teams (s : State) (n : Nat) (x : Slice) : (putSlice s n x).teams = s.teams := rfl
@[simp] theorem putSlice_blocks (s : State) (n : Nat) (x : Slice) : (putSlice s n x).blocks = s.blocks := rfl
@[simp] theorem putSlice_raster (s : State) (n : Nat) (x : Slice) : (putSlice s n x).raster = s.raster := rfl
@[simp] theorem putSlice_draws (s : State) (n : Nat) (x : Slice) : (putSlice s n x).draws = s.draws := rfl
@[simp] theorem putSlice_stackUnits (s : State) (n : Nat) (x : Slice) : (putSlice s n x).stackUnits = s.stackUnits := rfl
@[simp] theorem putSlice_tests (s : State) (n : Nat) (x : Slice) : (putSlice s n x).tests = s.tests := rfl
@[simp] theorem putSlice_spares (s : State) (n : Nat) (x : Slice) : (putSlice s n x).spares = s.spares := rfl
@[simp] theorem putSlice_earlyErrors (s : State) (n : Nat) (x : Slice) : (putSlice s n x).earlyErrors = s.earlyErrors := rfl
@[simp] theorem putSlice_pkgWindow (s : State) (n : Nat) (x : Slice) : (putSlice s n x).pkgWindow = s.pkgWindow := rfl
@[simp] theorem putSlice_slsel (s : State) (n : Nat) (x : Slice) : (putSlice s n x).slsel = s.slsel := rfl
@[simp] theorem putSlice_ckpt (s : State) (n : Nat) (x : Slice) : (putSlice s n x).ckpt = s.ckpt := rfl
@[simp] theorem putSlice_wbase (s : State) (n : Nat) (x : Slice) : (putSlice s n x).wbase = s.wbase := rfl
@[simp] theorem putSlice_msix (s : State) (n : Nat) (x : Slice) : (putSlice s n x).msix = s.msix := rfl
@[simp] theorem putSlice_hostReads (s : State) (n : Nat) (x : Slice) : (putSlice s n x).hostReads = s.hostReads := rfl
@[simp] theorem putSlice_spdm (s : State) (n : Nat) (x : Slice) : (putSlice s n x).spdm = s.spdm := rfl
@[simp] theorem putSlice_answers (s : State) (n : Nat) (x : Slice) : (putSlice s n x).answers = s.answers := rfl
@[simp] theorem putSlice_imageGood (s : State) (n : Nat) (x : Slice) : (putSlice s n x).imageGood = s.imageGood := rfl
@[simp] theorem putSlice_imageId (s : State) (n : Nat) (x : Slice) : (putSlice s n x).imageId = s.imageId := rfl
@[simp] theorem putSlice_trainedPorts (s : State) (n : Nat) (x : Slice) : (putSlice s n x).trainedPorts = s.trainedPorts := rfl
@[simp] theorem putSlice_postings (s : State) (n : Nat) (x : Slice) : (putSlice s n x).postings = s.postings := rfl
@[simp] theorem putSlice_turn (s : State) (n : Nat) (x : Slice) : (putSlice s n x).turn = s.turn := rfl
@[simp] theorem putSlice_parked (s : State) (n : Nat) (x : Slice) : (putSlice s n x).parked = s.parked := rfl
@[simp] theorem putSlice_schedule (s : State) (n : Nat) (x : Slice) : (putSlice s n x).schedule = s.schedule := rfl
@[simp] theorem putSlice_nextId (s : State) (n : Nat) (x : Slice) : (putSlice s n x).nextId = s.nextId := rfl
@[simp] theorem putSlice_free (s : State) (n : Nat) (x : Slice) : (putSlice s n x).free = s.free := rfl

@[simp] theorem modSlice_clk (s : State) (n : Nat) (f : Slice → Slice) : (modSlice s n f).clk = s.clk := rfl
@[simp] theorem modSlice_time (s : State) (n : Nat) (f : Slice → Slice) : (modSlice s n f).time = s.time := rfl
@[simp] theorem modSlice_timeSub (s : State) (n : Nat) (f : Slice → Slice) : (modSlice s n f).timeSub = s.timeSub := rfl
@[simp] theorem modSlice_timeFollows (s : State) (n : Nat) (f : Slice → Slice) : (modSlice s n f).timeFollows = s.timeFollows := rfl
@[simp] theorem modSlice_mem (s : State) (n : Nat) (f : Slice → Slice) : (modSlice s n f).mem = s.mem := rfl
@[simp] theorem modSlice_memPoison (s : State) (n : Nat) (f : Slice → Slice) : (modSlice s n f).memPoison = s.memPoison := rfl
@[simp] theorem modSlice_damaged (s : State) (n : Nat) (f : Slice → Slice) : (modSlice s n f).damaged = s.damaged := rfl
@[simp] theorem modSlice_blockState (s : State) (n : Nat) (f : Slice → Slice) : (modSlice s n f).blockState = s.blockState := rfl
@[simp] theorem modSlice_ctl (s : State) (n : Nat) (f : Slice → Slice) : (modSlice s n f).ctl = s.ctl := rfl
@[simp] theorem modSlice_tokensUsed (s : State) (n : Nat) (f : Slice → Slice) : (modSlice s n f).tokensUsed = s.tokensUsed := rfl
@[simp] theorem modSlice_tokenQ (s : State) (n : Nat) (f : Slice → Slice) : (modSlice s n f).tokenQ = s.tokenQ := rfl
@[simp] theorem modSlice_tokenHeld (s : State) (n : Nat) (f : Slice → Slice) : (modSlice s n f).tokenHeld = s.tokenHeld := rfl
@[simp] theorem modSlice_tokensNow (s : State) (n : Nat) (f : Slice → Slice) : (modSlice s n f).tokensNow = s.tokensNow := rfl
@[simp] theorem modSlice_tokGr (s : State) (n : Nat) (f : Slice → Slice) : (modSlice s n f).tokGr = s.tokGr := rfl
@[simp] theorem modSlice_tokWait (s : State) (n : Nat) (f : Slice → Slice) : (modSlice s n f).tokWait = s.tokWait := rfl
@[simp] theorem modSlice_mesh (s : State) (n : Nat) (f : Slice → Slice) : (modSlice s n f).mesh = s.mesh := rfl
@[simp] theorem modSlice_cores (s : State) (n : Nat) (f : Slice → Slice) : (modSlice s n f).cores = s.cores := rfl
@[simp] theorem modSlice_groups (s : State) (n : Nat) (f : Slice → Slice) : (modSlice s n f).groups = s.groups := rfl
@[simp] theorem modSlice_fibres (s : State) (n : Nat) (f : Slice → Slice) : (modSlice s n f).fibres = s.fibres := rfl
@[simp] theorem modSlice_teams (s : State) (n : Nat) (f : Slice → Slice) : (modSlice s n f).teams = s.teams := rfl
@[simp] theorem modSlice_blocks (s : State) (n : Nat) (f : Slice → Slice) : (modSlice s n f).blocks = s.blocks := rfl
@[simp] theorem modSlice_raster (s : State) (n : Nat) (f : Slice → Slice) : (modSlice s n f).raster = s.raster := rfl
@[simp] theorem modSlice_draws (s : State) (n : Nat) (f : Slice → Slice) : (modSlice s n f).draws = s.draws := rfl
@[simp] theorem modSlice_stackUnits (s : State) (n : Nat) (f : Slice → Slice) : (modSlice s n f).stackUnits = s.stackUnits := rfl
@[simp] theorem modSlice_tests (s : State) (n : Nat) (f : Slice → Slice) : (modSlice s n f).tests = s.tests := rfl
@[simp] theorem modSlice_spares (s : State) (n : Nat) (f : Slice → Slice) : (modSlice s n f).spares = s.spares := rfl
@[simp] theorem modSlice_earlyErrors (s : State) (n : Nat) (f : Slice → Slice) : (modSlice s n f).earlyErrors = s.earlyErrors := rfl
@[simp] theorem modSlice_pkgWindow (s : State) (n : Nat) (f : Slice → Slice) : (modSlice s n f).pkgWindow = s.pkgWindow := rfl
@[simp] theorem modSlice_slsel (s : State) (n : Nat) (f : Slice → Slice) : (modSlice s n f).slsel = s.slsel := rfl
@[simp] theorem modSlice_ckpt (s : State) (n : Nat) (f : Slice → Slice) : (modSlice s n f).ckpt = s.ckpt := rfl
@[simp] theorem modSlice_wbase (s : State) (n : Nat) (f : Slice → Slice) : (modSlice s n f).wbase = s.wbase := rfl
@[simp] theorem modSlice_msix (s : State) (n : Nat) (f : Slice → Slice) : (modSlice s n f).msix = s.msix := rfl
@[simp] theorem modSlice_hostReads (s : State) (n : Nat) (f : Slice → Slice) : (modSlice s n f).hostReads = s.hostReads := rfl
@[simp] theorem modSlice_spdm (s : State) (n : Nat) (f : Slice → Slice) : (modSlice s n f).spdm = s.spdm := rfl
@[simp] theorem modSlice_answers (s : State) (n : Nat) (f : Slice → Slice) : (modSlice s n f).answers = s.answers := rfl
@[simp] theorem modSlice_imageGood (s : State) (n : Nat) (f : Slice → Slice) : (modSlice s n f).imageGood = s.imageGood := rfl
@[simp] theorem modSlice_imageId (s : State) (n : Nat) (f : Slice → Slice) : (modSlice s n f).imageId = s.imageId := rfl
@[simp] theorem modSlice_trainedPorts (s : State) (n : Nat) (f : Slice → Slice) : (modSlice s n f).trainedPorts = s.trainedPorts := rfl
@[simp] theorem modSlice_postings (s : State) (n : Nat) (f : Slice → Slice) : (modSlice s n f).postings = s.postings := rfl
@[simp] theorem modSlice_turn (s : State) (n : Nat) (f : Slice → Slice) : (modSlice s n f).turn = s.turn := rfl
@[simp] theorem modSlice_parked (s : State) (n : Nat) (f : Slice → Slice) : (modSlice s n f).parked = s.parked := rfl
@[simp] theorem modSlice_schedule (s : State) (n : Nat) (f : Slice → Slice) : (modSlice s n f).schedule = s.schedule := rfl
@[simp] theorem modSlice_nextId (s : State) (n : Nat) (f : Slice → Slice) : (modSlice s n f).nextId = s.nextId := rfl
@[simp] theorem modSlice_free (s : State) (n : Nat) (f : Slice → Slice) : (modSlice s n f).free = s.free := rfl

@[simp] theorem putFib_clk (s : State) (f : FRef) (x : Fibre) : (putFib s f x).clk = s.clk := rfl
@[simp] theorem putFib_time (s : State) (f : FRef) (x : Fibre) : (putFib s f x).time = s.time := rfl
@[simp] theorem putFib_timeSub (s : State) (f : FRef) (x : Fibre) : (putFib s f x).timeSub = s.timeSub := rfl
@[simp] theorem putFib_timeFollows (s : State) (f : FRef) (x : Fibre) : (putFib s f x).timeFollows = s.timeFollows := rfl
@[simp] theorem putFib_mem (s : State) (f : FRef) (x : Fibre) : (putFib s f x).mem = s.mem := rfl
@[simp] theorem putFib_memPoison (s : State) (f : FRef) (x : Fibre) : (putFib s f x).memPoison = s.memPoison := rfl
@[simp] theorem putFib_damaged (s : State) (f : FRef) (x : Fibre) : (putFib s f x).damaged = s.damaged := rfl
@[simp] theorem putFib_blockState (s : State) (f : FRef) (x : Fibre) : (putFib s f x).blockState = s.blockState := rfl
@[simp] theorem putFib_ctl (s : State) (f : FRef) (x : Fibre) : (putFib s f x).ctl = s.ctl := rfl
@[simp] theorem putFib_tokensUsed (s : State) (f : FRef) (x : Fibre) : (putFib s f x).tokensUsed = s.tokensUsed := rfl
@[simp] theorem putFib_tokenQ (s : State) (f : FRef) (x : Fibre) : (putFib s f x).tokenQ = s.tokenQ := rfl
@[simp] theorem putFib_tokenHeld (s : State) (f : FRef) (x : Fibre) : (putFib s f x).tokenHeld = s.tokenHeld := rfl
@[simp] theorem putFib_tokensNow (s : State) (f : FRef) (x : Fibre) : (putFib s f x).tokensNow = s.tokensNow := rfl
@[simp] theorem putFib_tokGr (s : State) (f : FRef) (x : Fibre) : (putFib s f x).tokGr = s.tokGr := rfl
@[simp] theorem putFib_tokWait (s : State) (f : FRef) (x : Fibre) : (putFib s f x).tokWait = s.tokWait := rfl
@[simp] theorem putFib_mesh (s : State) (f : FRef) (x : Fibre) : (putFib s f x).mesh = s.mesh := rfl
@[simp] theorem putFib_slices (s : State) (f : FRef) (x : Fibre) : (putFib s f x).slices = s.slices := rfl
@[simp] theorem putFib_cores (s : State) (f : FRef) (x : Fibre) : (putFib s f x).cores = s.cores := rfl
@[simp] theorem putFib_groups (s : State) (f : FRef) (x : Fibre) : (putFib s f x).groups = s.groups := rfl
@[simp] theorem putFib_teams (s : State) (f : FRef) (x : Fibre) : (putFib s f x).teams = s.teams := rfl
@[simp] theorem putFib_blocks (s : State) (f : FRef) (x : Fibre) : (putFib s f x).blocks = s.blocks := rfl
@[simp] theorem putFib_raster (s : State) (f : FRef) (x : Fibre) : (putFib s f x).raster = s.raster := rfl
@[simp] theorem putFib_draws (s : State) (f : FRef) (x : Fibre) : (putFib s f x).draws = s.draws := rfl
@[simp] theorem putFib_stackUnits (s : State) (f : FRef) (x : Fibre) : (putFib s f x).stackUnits = s.stackUnits := rfl
@[simp] theorem putFib_tests (s : State) (f : FRef) (x : Fibre) : (putFib s f x).tests = s.tests := rfl
@[simp] theorem putFib_spares (s : State) (f : FRef) (x : Fibre) : (putFib s f x).spares = s.spares := rfl
@[simp] theorem putFib_earlyErrors (s : State) (f : FRef) (x : Fibre) : (putFib s f x).earlyErrors = s.earlyErrors := rfl
@[simp] theorem putFib_pkgWindow (s : State) (f : FRef) (x : Fibre) : (putFib s f x).pkgWindow = s.pkgWindow := rfl
@[simp] theorem putFib_slsel (s : State) (f : FRef) (x : Fibre) : (putFib s f x).slsel = s.slsel := rfl
@[simp] theorem putFib_ckpt (s : State) (f : FRef) (x : Fibre) : (putFib s f x).ckpt = s.ckpt := rfl
@[simp] theorem putFib_wbase (s : State) (f : FRef) (x : Fibre) : (putFib s f x).wbase = s.wbase := rfl
@[simp] theorem putFib_msix (s : State) (f : FRef) (x : Fibre) : (putFib s f x).msix = s.msix := rfl
@[simp] theorem putFib_hostReads (s : State) (f : FRef) (x : Fibre) : (putFib s f x).hostReads = s.hostReads := rfl
@[simp] theorem putFib_spdm (s : State) (f : FRef) (x : Fibre) : (putFib s f x).spdm = s.spdm := rfl
@[simp] theorem putFib_answers (s : State) (f : FRef) (x : Fibre) : (putFib s f x).answers = s.answers := rfl
@[simp] theorem putFib_imageGood (s : State) (f : FRef) (x : Fibre) : (putFib s f x).imageGood = s.imageGood := rfl
@[simp] theorem putFib_imageId (s : State) (f : FRef) (x : Fibre) : (putFib s f x).imageId = s.imageId := rfl
@[simp] theorem putFib_trainedPorts (s : State) (f : FRef) (x : Fibre) : (putFib s f x).trainedPorts = s.trainedPorts := rfl
@[simp] theorem putFib_postings (s : State) (f : FRef) (x : Fibre) : (putFib s f x).postings = s.postings := rfl
@[simp] theorem putFib_turn (s : State) (f : FRef) (x : Fibre) : (putFib s f x).turn = s.turn := rfl
@[simp] theorem putFib_parked (s : State) (f : FRef) (x : Fibre) : (putFib s f x).parked = s.parked := rfl
@[simp] theorem putFib_schedule (s : State) (f : FRef) (x : Fibre) : (putFib s f x).schedule = s.schedule := rfl
@[simp] theorem putFib_nextId (s : State) (f : FRef) (x : Fibre) : (putFib s f x).nextId = s.nextId := rfl
@[simp] theorem putFib_free (s : State) (f : FRef) (x : Fibre) : (putFib s f x).free = s.free := rfl

@[simp] theorem putBlock_clk (s : State) (q : Nat) (b : Block) : (putBlock s q b).clk = s.clk := rfl
@[simp] theorem putBlock_time (s : State) (q : Nat) (b : Block) : (putBlock s q b).time = s.time := rfl
@[simp] theorem putBlock_timeSub (s : State) (q : Nat) (b : Block) : (putBlock s q b).timeSub = s.timeSub := rfl
@[simp] theorem putBlock_timeFollows (s : State) (q : Nat) (b : Block) : (putBlock s q b).timeFollows = s.timeFollows := rfl
@[simp] theorem putBlock_mem (s : State) (q : Nat) (b : Block) : (putBlock s q b).mem = s.mem := rfl
@[simp] theorem putBlock_memPoison (s : State) (q : Nat) (b : Block) : (putBlock s q b).memPoison = s.memPoison := rfl
@[simp] theorem putBlock_damaged (s : State) (q : Nat) (b : Block) : (putBlock s q b).damaged = s.damaged := rfl
@[simp] theorem putBlock_blockState (s : State) (q : Nat) (b : Block) : (putBlock s q b).blockState = s.blockState := rfl
@[simp] theorem putBlock_ctl (s : State) (q : Nat) (b : Block) : (putBlock s q b).ctl = s.ctl := rfl
@[simp] theorem putBlock_tokensUsed (s : State) (q : Nat) (b : Block) : (putBlock s q b).tokensUsed = s.tokensUsed := rfl
@[simp] theorem putBlock_tokenQ (s : State) (q : Nat) (b : Block) : (putBlock s q b).tokenQ = s.tokenQ := rfl
@[simp] theorem putBlock_tokenHeld (s : State) (q : Nat) (b : Block) : (putBlock s q b).tokenHeld = s.tokenHeld := rfl
@[simp] theorem putBlock_tokensNow (s : State) (q : Nat) (b : Block) : (putBlock s q b).tokensNow = s.tokensNow := rfl
@[simp] theorem putBlock_tokGr (s : State) (q : Nat) (b : Block) : (putBlock s q b).tokGr = s.tokGr := rfl
@[simp] theorem putBlock_tokWait (s : State) (q : Nat) (b : Block) : (putBlock s q b).tokWait = s.tokWait := rfl
@[simp] theorem putBlock_mesh (s : State) (q : Nat) (b : Block) : (putBlock s q b).mesh = s.mesh := rfl
@[simp] theorem putBlock_slices (s : State) (q : Nat) (b : Block) : (putBlock s q b).slices = s.slices := rfl
@[simp] theorem putBlock_cores (s : State) (q : Nat) (b : Block) : (putBlock s q b).cores = s.cores := rfl
@[simp] theorem putBlock_groups (s : State) (q : Nat) (b : Block) : (putBlock s q b).groups = s.groups := rfl
@[simp] theorem putBlock_fibres (s : State) (q : Nat) (b : Block) : (putBlock s q b).fibres = s.fibres := rfl
@[simp] theorem putBlock_teams (s : State) (q : Nat) (b : Block) : (putBlock s q b).teams = s.teams := rfl
@[simp] theorem putBlock_raster (s : State) (q : Nat) (b : Block) : (putBlock s q b).raster = s.raster := rfl
@[simp] theorem putBlock_draws (s : State) (q : Nat) (b : Block) : (putBlock s q b).draws = s.draws := rfl
@[simp] theorem putBlock_stackUnits (s : State) (q : Nat) (b : Block) : (putBlock s q b).stackUnits = s.stackUnits := rfl
@[simp] theorem putBlock_tests (s : State) (q : Nat) (b : Block) : (putBlock s q b).tests = s.tests := rfl
@[simp] theorem putBlock_spares (s : State) (q : Nat) (b : Block) : (putBlock s q b).spares = s.spares := rfl
@[simp] theorem putBlock_earlyErrors (s : State) (q : Nat) (b : Block) : (putBlock s q b).earlyErrors = s.earlyErrors := rfl
@[simp] theorem putBlock_pkgWindow (s : State) (q : Nat) (b : Block) : (putBlock s q b).pkgWindow = s.pkgWindow := rfl
@[simp] theorem putBlock_slsel (s : State) (q : Nat) (b : Block) : (putBlock s q b).slsel = s.slsel := rfl
@[simp] theorem putBlock_ckpt (s : State) (q : Nat) (b : Block) : (putBlock s q b).ckpt = s.ckpt := rfl
@[simp] theorem putBlock_wbase (s : State) (q : Nat) (b : Block) : (putBlock s q b).wbase = s.wbase := rfl
@[simp] theorem putBlock_msix (s : State) (q : Nat) (b : Block) : (putBlock s q b).msix = s.msix := rfl
@[simp] theorem putBlock_hostReads (s : State) (q : Nat) (b : Block) : (putBlock s q b).hostReads = s.hostReads := rfl
@[simp] theorem putBlock_spdm (s : State) (q : Nat) (b : Block) : (putBlock s q b).spdm = s.spdm := rfl
@[simp] theorem putBlock_answers (s : State) (q : Nat) (b : Block) : (putBlock s q b).answers = s.answers := rfl
@[simp] theorem putBlock_imageGood (s : State) (q : Nat) (b : Block) : (putBlock s q b).imageGood = s.imageGood := rfl
@[simp] theorem putBlock_imageId (s : State) (q : Nat) (b : Block) : (putBlock s q b).imageId = s.imageId := rfl
@[simp] theorem putBlock_trainedPorts (s : State) (q : Nat) (b : Block) : (putBlock s q b).trainedPorts = s.trainedPorts := rfl
@[simp] theorem putBlock_postings (s : State) (q : Nat) (b : Block) : (putBlock s q b).postings = s.postings := rfl
@[simp] theorem putBlock_turn (s : State) (q : Nat) (b : Block) : (putBlock s q b).turn = s.turn := rfl
@[simp] theorem putBlock_parked (s : State) (q : Nat) (b : Block) : (putBlock s q b).parked = s.parked := rfl
@[simp] theorem putBlock_schedule (s : State) (q : Nat) (b : Block) : (putBlock s q b).schedule = s.schedule := rfl
@[simp] theorem putBlock_nextId (s : State) (q : Nat) (b : Block) : (putBlock s q b).nextId = s.nextId := rfl
@[simp] theorem putBlock_free (s : State) (q : Nat) (b : Block) : (putBlock s q b).free = s.free := rfl

@[simp] theorem modPart_clk (s : State) (c p : Nat) (g : Partition → Partition) : (modPart s c p g).clk = s.clk := rfl
@[simp] theorem modPart_time (s : State) (c p : Nat) (g : Partition → Partition) : (modPart s c p g).time = s.time := rfl
@[simp] theorem modPart_timeSub (s : State) (c p : Nat) (g : Partition → Partition) : (modPart s c p g).timeSub = s.timeSub := rfl
@[simp] theorem modPart_timeFollows (s : State) (c p : Nat) (g : Partition → Partition) : (modPart s c p g).timeFollows = s.timeFollows := rfl
@[simp] theorem modPart_mem (s : State) (c p : Nat) (g : Partition → Partition) : (modPart s c p g).mem = s.mem := rfl
@[simp] theorem modPart_memPoison (s : State) (c p : Nat) (g : Partition → Partition) : (modPart s c p g).memPoison = s.memPoison := rfl
@[simp] theorem modPart_damaged (s : State) (c p : Nat) (g : Partition → Partition) : (modPart s c p g).damaged = s.damaged := rfl
@[simp] theorem modPart_blockState (s : State) (c p : Nat) (g : Partition → Partition) : (modPart s c p g).blockState = s.blockState := rfl
@[simp] theorem modPart_ctl (s : State) (c p : Nat) (g : Partition → Partition) : (modPart s c p g).ctl = s.ctl := rfl
@[simp] theorem modPart_tokensUsed (s : State) (c p : Nat) (g : Partition → Partition) : (modPart s c p g).tokensUsed = s.tokensUsed := rfl
@[simp] theorem modPart_tokenQ (s : State) (c p : Nat) (g : Partition → Partition) : (modPart s c p g).tokenQ = s.tokenQ := rfl
@[simp] theorem modPart_tokenHeld (s : State) (c p : Nat) (g : Partition → Partition) : (modPart s c p g).tokenHeld = s.tokenHeld := rfl
@[simp] theorem modPart_tokensNow (s : State) (c p : Nat) (g : Partition → Partition) : (modPart s c p g).tokensNow = s.tokensNow := rfl
@[simp] theorem modPart_tokGr (s : State) (c p : Nat) (g : Partition → Partition) : (modPart s c p g).tokGr = s.tokGr := rfl
@[simp] theorem modPart_tokWait (s : State) (c p : Nat) (g : Partition → Partition) : (modPart s c p g).tokWait = s.tokWait := rfl
@[simp] theorem modPart_mesh (s : State) (c p : Nat) (g : Partition → Partition) : (modPart s c p g).mesh = s.mesh := rfl
@[simp] theorem modPart_slices (s : State) (c p : Nat) (g : Partition → Partition) : (modPart s c p g).slices = s.slices := rfl
@[simp] theorem modPart_groups (s : State) (c p : Nat) (g : Partition → Partition) : (modPart s c p g).groups = s.groups := rfl
@[simp] theorem modPart_fibres (s : State) (c p : Nat) (g : Partition → Partition) : (modPart s c p g).fibres = s.fibres := rfl
@[simp] theorem modPart_teams (s : State) (c p : Nat) (g : Partition → Partition) : (modPart s c p g).teams = s.teams := rfl
@[simp] theorem modPart_blocks (s : State) (c p : Nat) (g : Partition → Partition) : (modPart s c p g).blocks = s.blocks := rfl
@[simp] theorem modPart_raster (s : State) (c p : Nat) (g : Partition → Partition) : (modPart s c p g).raster = s.raster := rfl
@[simp] theorem modPart_draws (s : State) (c p : Nat) (g : Partition → Partition) : (modPart s c p g).draws = s.draws := rfl
@[simp] theorem modPart_stackUnits (s : State) (c p : Nat) (g : Partition → Partition) : (modPart s c p g).stackUnits = s.stackUnits := rfl
@[simp] theorem modPart_tests (s : State) (c p : Nat) (g : Partition → Partition) : (modPart s c p g).tests = s.tests := rfl
@[simp] theorem modPart_spares (s : State) (c p : Nat) (g : Partition → Partition) : (modPart s c p g).spares = s.spares := rfl
@[simp] theorem modPart_earlyErrors (s : State) (c p : Nat) (g : Partition → Partition) : (modPart s c p g).earlyErrors = s.earlyErrors := rfl
@[simp] theorem modPart_pkgWindow (s : State) (c p : Nat) (g : Partition → Partition) : (modPart s c p g).pkgWindow = s.pkgWindow := rfl
@[simp] theorem modPart_slsel (s : State) (c p : Nat) (g : Partition → Partition) : (modPart s c p g).slsel = s.slsel := rfl
@[simp] theorem modPart_ckpt (s : State) (c p : Nat) (g : Partition → Partition) : (modPart s c p g).ckpt = s.ckpt := rfl
@[simp] theorem modPart_wbase (s : State) (c p : Nat) (g : Partition → Partition) : (modPart s c p g).wbase = s.wbase := rfl
@[simp] theorem modPart_msix (s : State) (c p : Nat) (g : Partition → Partition) : (modPart s c p g).msix = s.msix := rfl
@[simp] theorem modPart_hostReads (s : State) (c p : Nat) (g : Partition → Partition) : (modPart s c p g).hostReads = s.hostReads := rfl
@[simp] theorem modPart_spdm (s : State) (c p : Nat) (g : Partition → Partition) : (modPart s c p g).spdm = s.spdm := rfl
@[simp] theorem modPart_answers (s : State) (c p : Nat) (g : Partition → Partition) : (modPart s c p g).answers = s.answers := rfl
@[simp] theorem modPart_imageGood (s : State) (c p : Nat) (g : Partition → Partition) : (modPart s c p g).imageGood = s.imageGood := rfl
@[simp] theorem modPart_imageId (s : State) (c p : Nat) (g : Partition → Partition) : (modPart s c p g).imageId = s.imageId := rfl
@[simp] theorem modPart_trainedPorts (s : State) (c p : Nat) (g : Partition → Partition) : (modPart s c p g).trainedPorts = s.trainedPorts := rfl
@[simp] theorem modPart_postings (s : State) (c p : Nat) (g : Partition → Partition) : (modPart s c p g).postings = s.postings := rfl
@[simp] theorem modPart_turn (s : State) (c p : Nat) (g : Partition → Partition) : (modPart s c p g).turn = s.turn := rfl
@[simp] theorem modPart_parked (s : State) (c p : Nat) (g : Partition → Partition) : (modPart s c p g).parked = s.parked := rfl
@[simp] theorem modPart_schedule (s : State) (c p : Nat) (g : Partition → Partition) : (modPart s c p g).schedule = s.schedule := rfl
@[simp] theorem modPart_nextId (s : State) (c p : Nat) (g : Partition → Partition) : (modPart s c p g).nextId = s.nextId := rfl
@[simp] theorem modPart_free (s : State) (c p : Nat) (g : Partition → Partition) : (modPart s c p g).free = s.free := rfl

@[simp] theorem bump_clk (s : State) (c off n : Nat) : (bump s c off n).clk = s.clk := rfl
@[simp] theorem bump_time (s : State) (c off n : Nat) : (bump s c off n).time = s.time := rfl
@[simp] theorem bump_timeSub (s : State) (c off n : Nat) : (bump s c off n).timeSub = s.timeSub := rfl
@[simp] theorem bump_timeFollows (s : State) (c off n : Nat) : (bump s c off n).timeFollows = s.timeFollows := rfl
@[simp] theorem bump_mem (s : State) (c off n : Nat) : (bump s c off n).mem = s.mem := rfl
@[simp] theorem bump_memPoison (s : State) (c off n : Nat) : (bump s c off n).memPoison = s.memPoison := rfl
@[simp] theorem bump_damaged (s : State) (c off n : Nat) : (bump s c off n).damaged = s.damaged := rfl
@[simp] theorem bump_blockState (s : State) (c off n : Nat) : (bump s c off n).blockState = s.blockState := rfl
@[simp] theorem bump_ctl (s : State) (c off n : Nat) : (bump s c off n).ctl = s.ctl := rfl
@[simp] theorem bump_tokensUsed (s : State) (c off n : Nat) : (bump s c off n).tokensUsed = s.tokensUsed := rfl
@[simp] theorem bump_tokenQ (s : State) (c off n : Nat) : (bump s c off n).tokenQ = s.tokenQ := rfl
@[simp] theorem bump_tokenHeld (s : State) (c off n : Nat) : (bump s c off n).tokenHeld = s.tokenHeld := rfl
@[simp] theorem bump_tokensNow (s : State) (c off n : Nat) : (bump s c off n).tokensNow = s.tokensNow := rfl
@[simp] theorem bump_tokGr (s : State) (c off n : Nat) : (bump s c off n).tokGr = s.tokGr := rfl
@[simp] theorem bump_tokWait (s : State) (c off n : Nat) : (bump s c off n).tokWait = s.tokWait := rfl
@[simp] theorem bump_mesh (s : State) (c off n : Nat) : (bump s c off n).mesh = s.mesh := rfl
@[simp] theorem bump_slices (s : State) (c off n : Nat) : (bump s c off n).slices = s.slices := rfl
@[simp] theorem bump_groups (s : State) (c off n : Nat) : (bump s c off n).groups = s.groups := rfl
@[simp] theorem bump_fibres (s : State) (c off n : Nat) : (bump s c off n).fibres = s.fibres := rfl
@[simp] theorem bump_teams (s : State) (c off n : Nat) : (bump s c off n).teams = s.teams := rfl
@[simp] theorem bump_blocks (s : State) (c off n : Nat) : (bump s c off n).blocks = s.blocks := rfl
@[simp] theorem bump_raster (s : State) (c off n : Nat) : (bump s c off n).raster = s.raster := rfl
@[simp] theorem bump_draws (s : State) (c off n : Nat) : (bump s c off n).draws = s.draws := rfl
@[simp] theorem bump_stackUnits (s : State) (c off n : Nat) : (bump s c off n).stackUnits = s.stackUnits := rfl
@[simp] theorem bump_tests (s : State) (c off n : Nat) : (bump s c off n).tests = s.tests := rfl
@[simp] theorem bump_spares (s : State) (c off n : Nat) : (bump s c off n).spares = s.spares := rfl
@[simp] theorem bump_earlyErrors (s : State) (c off n : Nat) : (bump s c off n).earlyErrors = s.earlyErrors := rfl
@[simp] theorem bump_pkgWindow (s : State) (c off n : Nat) : (bump s c off n).pkgWindow = s.pkgWindow := rfl
@[simp] theorem bump_slsel (s : State) (c off n : Nat) : (bump s c off n).slsel = s.slsel := rfl
@[simp] theorem bump_ckpt (s : State) (c off n : Nat) : (bump s c off n).ckpt = s.ckpt := rfl
@[simp] theorem bump_wbase (s : State) (c off n : Nat) : (bump s c off n).wbase = s.wbase := rfl
@[simp] theorem bump_msix (s : State) (c off n : Nat) : (bump s c off n).msix = s.msix := rfl
@[simp] theorem bump_hostReads (s : State) (c off n : Nat) : (bump s c off n).hostReads = s.hostReads := rfl
@[simp] theorem bump_spdm (s : State) (c off n : Nat) : (bump s c off n).spdm = s.spdm := rfl
@[simp] theorem bump_answers (s : State) (c off n : Nat) : (bump s c off n).answers = s.answers := rfl
@[simp] theorem bump_imageGood (s : State) (c off n : Nat) : (bump s c off n).imageGood = s.imageGood := rfl
@[simp] theorem bump_imageId (s : State) (c off n : Nat) : (bump s c off n).imageId = s.imageId := rfl
@[simp] theorem bump_trainedPorts (s : State) (c off n : Nat) : (bump s c off n).trainedPorts = s.trainedPorts := rfl
@[simp] theorem bump_postings (s : State) (c off n : Nat) : (bump s c off n).postings = s.postings := rfl
@[simp] theorem bump_turn (s : State) (c off n : Nat) : (bump s c off n).turn = s.turn := rfl
@[simp] theorem bump_parked (s : State) (c off n : Nat) : (bump s c off n).parked = s.parked := rfl
@[simp] theorem bump_schedule (s : State) (c off n : Nat) : (bump s c off n).schedule = s.schedule := rfl
@[simp] theorem bump_nextId (s : State) (c off n : Nat) : (bump s c off n).nextId = s.nextId := rfl
@[simp] theorem bump_free (s : State) (c off n : Nat) : (bump s c off n).free = s.free := rfl

@[simp] theorem highWater_clk (s : State) (c off n : Nat) : (highWater s c off n).clk = s.clk := rfl
@[simp] theorem highWater_time (s : State) (c off n : Nat) : (highWater s c off n).time = s.time := rfl
@[simp] theorem highWater_timeSub (s : State) (c off n : Nat) : (highWater s c off n).timeSub = s.timeSub := rfl
@[simp] theorem highWater_timeFollows (s : State) (c off n : Nat) : (highWater s c off n).timeFollows = s.timeFollows := rfl
@[simp] theorem highWater_mem (s : State) (c off n : Nat) : (highWater s c off n).mem = s.mem := rfl
@[simp] theorem highWater_memPoison (s : State) (c off n : Nat) : (highWater s c off n).memPoison = s.memPoison := rfl
@[simp] theorem highWater_damaged (s : State) (c off n : Nat) : (highWater s c off n).damaged = s.damaged := rfl
@[simp] theorem highWater_blockState (s : State) (c off n : Nat) : (highWater s c off n).blockState = s.blockState := rfl
@[simp] theorem highWater_ctl (s : State) (c off n : Nat) : (highWater s c off n).ctl = s.ctl := rfl
@[simp] theorem highWater_tokensUsed (s : State) (c off n : Nat) : (highWater s c off n).tokensUsed = s.tokensUsed := rfl
@[simp] theorem highWater_tokenQ (s : State) (c off n : Nat) : (highWater s c off n).tokenQ = s.tokenQ := rfl
@[simp] theorem highWater_tokenHeld (s : State) (c off n : Nat) : (highWater s c off n).tokenHeld = s.tokenHeld := rfl
@[simp] theorem highWater_tokensNow (s : State) (c off n : Nat) : (highWater s c off n).tokensNow = s.tokensNow := rfl
@[simp] theorem highWater_tokGr (s : State) (c off n : Nat) : (highWater s c off n).tokGr = s.tokGr := rfl
@[simp] theorem highWater_tokWait (s : State) (c off n : Nat) : (highWater s c off n).tokWait = s.tokWait := rfl
@[simp] theorem highWater_mesh (s : State) (c off n : Nat) : (highWater s c off n).mesh = s.mesh := rfl
@[simp] theorem highWater_slices (s : State) (c off n : Nat) : (highWater s c off n).slices = s.slices := rfl
@[simp] theorem highWater_groups (s : State) (c off n : Nat) : (highWater s c off n).groups = s.groups := rfl
@[simp] theorem highWater_fibres (s : State) (c off n : Nat) : (highWater s c off n).fibres = s.fibres := rfl
@[simp] theorem highWater_teams (s : State) (c off n : Nat) : (highWater s c off n).teams = s.teams := rfl
@[simp] theorem highWater_blocks (s : State) (c off n : Nat) : (highWater s c off n).blocks = s.blocks := rfl
@[simp] theorem highWater_raster (s : State) (c off n : Nat) : (highWater s c off n).raster = s.raster := rfl
@[simp] theorem highWater_draws (s : State) (c off n : Nat) : (highWater s c off n).draws = s.draws := rfl
@[simp] theorem highWater_stackUnits (s : State) (c off n : Nat) : (highWater s c off n).stackUnits = s.stackUnits := rfl
@[simp] theorem highWater_tests (s : State) (c off n : Nat) : (highWater s c off n).tests = s.tests := rfl
@[simp] theorem highWater_spares (s : State) (c off n : Nat) : (highWater s c off n).spares = s.spares := rfl
@[simp] theorem highWater_earlyErrors (s : State) (c off n : Nat) : (highWater s c off n).earlyErrors = s.earlyErrors := rfl
@[simp] theorem highWater_pkgWindow (s : State) (c off n : Nat) : (highWater s c off n).pkgWindow = s.pkgWindow := rfl
@[simp] theorem highWater_slsel (s : State) (c off n : Nat) : (highWater s c off n).slsel = s.slsel := rfl
@[simp] theorem highWater_ckpt (s : State) (c off n : Nat) : (highWater s c off n).ckpt = s.ckpt := rfl
@[simp] theorem highWater_wbase (s : State) (c off n : Nat) : (highWater s c off n).wbase = s.wbase := rfl
@[simp] theorem highWater_msix (s : State) (c off n : Nat) : (highWater s c off n).msix = s.msix := rfl
@[simp] theorem highWater_hostReads (s : State) (c off n : Nat) : (highWater s c off n).hostReads = s.hostReads := rfl
@[simp] theorem highWater_spdm (s : State) (c off n : Nat) : (highWater s c off n).spdm = s.spdm := rfl
@[simp] theorem highWater_answers (s : State) (c off n : Nat) : (highWater s c off n).answers = s.answers := rfl
@[simp] theorem highWater_imageGood (s : State) (c off n : Nat) : (highWater s c off n).imageGood = s.imageGood := rfl
@[simp] theorem highWater_imageId (s : State) (c off n : Nat) : (highWater s c off n).imageId = s.imageId := rfl
@[simp] theorem highWater_trainedPorts (s : State) (c off n : Nat) : (highWater s c off n).trainedPorts = s.trainedPorts := rfl
@[simp] theorem highWater_postings (s : State) (c off n : Nat) : (highWater s c off n).postings = s.postings := rfl
@[simp] theorem highWater_turn (s : State) (c off n : Nat) : (highWater s c off n).turn = s.turn := rfl
@[simp] theorem highWater_parked (s : State) (c off n : Nat) : (highWater s c off n).parked = s.parked := rfl
@[simp] theorem highWater_schedule (s : State) (c off n : Nat) : (highWater s c off n).schedule = s.schedule := rfl
@[simp] theorem highWater_nextId (s : State) (c off n : Nat) : (highWater s c off n).nextId = s.nextId := rfl
@[simp] theorem highWater_free (s : State) (c off n : Nat) : (highWater s c off n).free = s.free := rfl

@[simp] theorem bumpSlice_clk (s : State) (sl off n : Nat) : (bumpSlice s sl off n).clk = s.clk := rfl
@[simp] theorem bumpSlice_time (s : State) (sl off n : Nat) : (bumpSlice s sl off n).time = s.time := rfl
@[simp] theorem bumpSlice_timeSub (s : State) (sl off n : Nat) : (bumpSlice s sl off n).timeSub = s.timeSub := rfl
@[simp] theorem bumpSlice_timeFollows (s : State) (sl off n : Nat) : (bumpSlice s sl off n).timeFollows = s.timeFollows := rfl
@[simp] theorem bumpSlice_mem (s : State) (sl off n : Nat) : (bumpSlice s sl off n).mem = s.mem := rfl
@[simp] theorem bumpSlice_memPoison (s : State) (sl off n : Nat) : (bumpSlice s sl off n).memPoison = s.memPoison := rfl
@[simp] theorem bumpSlice_damaged (s : State) (sl off n : Nat) : (bumpSlice s sl off n).damaged = s.damaged := rfl
@[simp] theorem bumpSlice_blockState (s : State) (sl off n : Nat) : (bumpSlice s sl off n).blockState = s.blockState := rfl
@[simp] theorem bumpSlice_ctl (s : State) (sl off n : Nat) : (bumpSlice s sl off n).ctl = s.ctl := rfl
@[simp] theorem bumpSlice_tokensUsed (s : State) (sl off n : Nat) : (bumpSlice s sl off n).tokensUsed = s.tokensUsed := rfl
@[simp] theorem bumpSlice_tokenQ (s : State) (sl off n : Nat) : (bumpSlice s sl off n).tokenQ = s.tokenQ := rfl
@[simp] theorem bumpSlice_tokenHeld (s : State) (sl off n : Nat) : (bumpSlice s sl off n).tokenHeld = s.tokenHeld := rfl
@[simp] theorem bumpSlice_tokensNow (s : State) (sl off n : Nat) : (bumpSlice s sl off n).tokensNow = s.tokensNow := rfl
@[simp] theorem bumpSlice_tokGr (s : State) (sl off n : Nat) : (bumpSlice s sl off n).tokGr = s.tokGr := rfl
@[simp] theorem bumpSlice_tokWait (s : State) (sl off n : Nat) : (bumpSlice s sl off n).tokWait = s.tokWait := rfl
@[simp] theorem bumpSlice_mesh (s : State) (sl off n : Nat) : (bumpSlice s sl off n).mesh = s.mesh := rfl
@[simp] theorem bumpSlice_cores (s : State) (sl off n : Nat) : (bumpSlice s sl off n).cores = s.cores := rfl
@[simp] theorem bumpSlice_groups (s : State) (sl off n : Nat) : (bumpSlice s sl off n).groups = s.groups := rfl
@[simp] theorem bumpSlice_fibres (s : State) (sl off n : Nat) : (bumpSlice s sl off n).fibres = s.fibres := rfl
@[simp] theorem bumpSlice_teams (s : State) (sl off n : Nat) : (bumpSlice s sl off n).teams = s.teams := rfl
@[simp] theorem bumpSlice_blocks (s : State) (sl off n : Nat) : (bumpSlice s sl off n).blocks = s.blocks := rfl
@[simp] theorem bumpSlice_raster (s : State) (sl off n : Nat) : (bumpSlice s sl off n).raster = s.raster := rfl
@[simp] theorem bumpSlice_draws (s : State) (sl off n : Nat) : (bumpSlice s sl off n).draws = s.draws := rfl
@[simp] theorem bumpSlice_stackUnits (s : State) (sl off n : Nat) : (bumpSlice s sl off n).stackUnits = s.stackUnits := rfl
@[simp] theorem bumpSlice_tests (s : State) (sl off n : Nat) : (bumpSlice s sl off n).tests = s.tests := rfl
@[simp] theorem bumpSlice_spares (s : State) (sl off n : Nat) : (bumpSlice s sl off n).spares = s.spares := rfl
@[simp] theorem bumpSlice_earlyErrors (s : State) (sl off n : Nat) : (bumpSlice s sl off n).earlyErrors = s.earlyErrors := rfl
@[simp] theorem bumpSlice_pkgWindow (s : State) (sl off n : Nat) : (bumpSlice s sl off n).pkgWindow = s.pkgWindow := rfl
@[simp] theorem bumpSlice_slsel (s : State) (sl off n : Nat) : (bumpSlice s sl off n).slsel = s.slsel := rfl
@[simp] theorem bumpSlice_ckpt (s : State) (sl off n : Nat) : (bumpSlice s sl off n).ckpt = s.ckpt := rfl
@[simp] theorem bumpSlice_wbase (s : State) (sl off n : Nat) : (bumpSlice s sl off n).wbase = s.wbase := rfl
@[simp] theorem bumpSlice_msix (s : State) (sl off n : Nat) : (bumpSlice s sl off n).msix = s.msix := rfl
@[simp] theorem bumpSlice_hostReads (s : State) (sl off n : Nat) : (bumpSlice s sl off n).hostReads = s.hostReads := rfl
@[simp] theorem bumpSlice_spdm (s : State) (sl off n : Nat) : (bumpSlice s sl off n).spdm = s.spdm := rfl
@[simp] theorem bumpSlice_answers (s : State) (sl off n : Nat) : (bumpSlice s sl off n).answers = s.answers := rfl
@[simp] theorem bumpSlice_imageGood (s : State) (sl off n : Nat) : (bumpSlice s sl off n).imageGood = s.imageGood := rfl
@[simp] theorem bumpSlice_imageId (s : State) (sl off n : Nat) : (bumpSlice s sl off n).imageId = s.imageId := rfl
@[simp] theorem bumpSlice_trainedPorts (s : State) (sl off n : Nat) : (bumpSlice s sl off n).trainedPorts = s.trainedPorts := rfl
@[simp] theorem bumpSlice_postings (s : State) (sl off n : Nat) : (bumpSlice s sl off n).postings = s.postings := rfl
@[simp] theorem bumpSlice_turn (s : State) (sl off n : Nat) : (bumpSlice s sl off n).turn = s.turn := rfl
@[simp] theorem bumpSlice_parked (s : State) (sl off n : Nat) : (bumpSlice s sl off n).parked = s.parked := rfl
@[simp] theorem bumpSlice_schedule (s : State) (sl off n : Nat) : (bumpSlice s sl off n).schedule = s.schedule := rfl
@[simp] theorem bumpSlice_nextId (s : State) (sl off n : Nat) : (bumpSlice s sl off n).nextId = s.nextId := rfl
@[simp] theorem bumpSlice_free (s : State) (sl off n : Nat) : (bumpSlice s sl off n).free = s.free := rfl

@[simp] theorem returnTokens_clk (s : State) (n : Nat) : (returnTokens s n).clk = s.clk := rfl
@[simp] theorem returnTokens_time (s : State) (n : Nat) : (returnTokens s n).time = s.time := rfl
@[simp] theorem returnTokens_timeSub (s : State) (n : Nat) : (returnTokens s n).timeSub = s.timeSub := rfl
@[simp] theorem returnTokens_timeFollows (s : State) (n : Nat) : (returnTokens s n).timeFollows = s.timeFollows := rfl
@[simp] theorem returnTokens_mem (s : State) (n : Nat) : (returnTokens s n).mem = s.mem := rfl
@[simp] theorem returnTokens_memPoison (s : State) (n : Nat) : (returnTokens s n).memPoison = s.memPoison := rfl
@[simp] theorem returnTokens_damaged (s : State) (n : Nat) : (returnTokens s n).damaged = s.damaged := rfl
@[simp] theorem returnTokens_blockState (s : State) (n : Nat) : (returnTokens s n).blockState = s.blockState := rfl
@[simp] theorem returnTokens_ctl (s : State) (n : Nat) : (returnTokens s n).ctl = s.ctl := rfl
@[simp] theorem returnTokens_tokenQ (s : State) (n : Nat) : (returnTokens s n).tokenQ = s.tokenQ := rfl
@[simp] theorem returnTokens_tokenHeld (s : State) (n : Nat) : (returnTokens s n).tokenHeld = s.tokenHeld := rfl
@[simp] theorem returnTokens_tokensNow (s : State) (n : Nat) : (returnTokens s n).tokensNow = s.tokensNow := rfl
@[simp] theorem returnTokens_tokGr (s : State) (n : Nat) : (returnTokens s n).tokGr = s.tokGr := rfl
@[simp] theorem returnTokens_tokWait (s : State) (n : Nat) : (returnTokens s n).tokWait = s.tokWait := rfl
@[simp] theorem returnTokens_mesh (s : State) (n : Nat) : (returnTokens s n).mesh = s.mesh := rfl
@[simp] theorem returnTokens_slices (s : State) (n : Nat) : (returnTokens s n).slices = s.slices := rfl
@[simp] theorem returnTokens_cores (s : State) (n : Nat) : (returnTokens s n).cores = s.cores := rfl
@[simp] theorem returnTokens_groups (s : State) (n : Nat) : (returnTokens s n).groups = s.groups := rfl
@[simp] theorem returnTokens_fibres (s : State) (n : Nat) : (returnTokens s n).fibres = s.fibres := rfl
@[simp] theorem returnTokens_teams (s : State) (n : Nat) : (returnTokens s n).teams = s.teams := rfl
@[simp] theorem returnTokens_blocks (s : State) (n : Nat) : (returnTokens s n).blocks = s.blocks := rfl
@[simp] theorem returnTokens_raster (s : State) (n : Nat) : (returnTokens s n).raster = s.raster := rfl
@[simp] theorem returnTokens_draws (s : State) (n : Nat) : (returnTokens s n).draws = s.draws := rfl
@[simp] theorem returnTokens_stackUnits (s : State) (n : Nat) : (returnTokens s n).stackUnits = s.stackUnits := rfl
@[simp] theorem returnTokens_tests (s : State) (n : Nat) : (returnTokens s n).tests = s.tests := rfl
@[simp] theorem returnTokens_spares (s : State) (n : Nat) : (returnTokens s n).spares = s.spares := rfl
@[simp] theorem returnTokens_earlyErrors (s : State) (n : Nat) : (returnTokens s n).earlyErrors = s.earlyErrors := rfl
@[simp] theorem returnTokens_pkgWindow (s : State) (n : Nat) : (returnTokens s n).pkgWindow = s.pkgWindow := rfl
@[simp] theorem returnTokens_slsel (s : State) (n : Nat) : (returnTokens s n).slsel = s.slsel := rfl
@[simp] theorem returnTokens_ckpt (s : State) (n : Nat) : (returnTokens s n).ckpt = s.ckpt := rfl
@[simp] theorem returnTokens_wbase (s : State) (n : Nat) : (returnTokens s n).wbase = s.wbase := rfl
@[simp] theorem returnTokens_msix (s : State) (n : Nat) : (returnTokens s n).msix = s.msix := rfl
@[simp] theorem returnTokens_hostReads (s : State) (n : Nat) : (returnTokens s n).hostReads = s.hostReads := rfl
@[simp] theorem returnTokens_spdm (s : State) (n : Nat) : (returnTokens s n).spdm = s.spdm := rfl
@[simp] theorem returnTokens_answers (s : State) (n : Nat) : (returnTokens s n).answers = s.answers := rfl
@[simp] theorem returnTokens_imageGood (s : State) (n : Nat) : (returnTokens s n).imageGood = s.imageGood := rfl
@[simp] theorem returnTokens_imageId (s : State) (n : Nat) : (returnTokens s n).imageId = s.imageId := rfl
@[simp] theorem returnTokens_trainedPorts (s : State) (n : Nat) : (returnTokens s n).trainedPorts = s.trainedPorts := rfl
@[simp] theorem returnTokens_postings (s : State) (n : Nat) : (returnTokens s n).postings = s.postings := rfl
@[simp] theorem returnTokens_turn (s : State) (n : Nat) : (returnTokens s n).turn = s.turn := rfl
@[simp] theorem returnTokens_parked (s : State) (n : Nat) : (returnTokens s n).parked = s.parked := rfl
@[simp] theorem returnTokens_schedule (s : State) (n : Nat) : (returnTokens s n).schedule = s.schedule := rfl
@[simp] theorem returnTokens_nextId (s : State) (n : Nat) : (returnTokens s n).nextId = s.nextId := rfl
@[simp] theorem returnTokens_free (s : State) (n : Nat) : (returnTokens s n).free = s.free := rfl

@[simp] theorem dropPacket_clk (s : State) (id : Nat) : (dropPacket s id).clk = s.clk := rfl
@[simp] theorem dropPacket_time (s : State) (id : Nat) : (dropPacket s id).time = s.time := rfl
@[simp] theorem dropPacket_timeSub (s : State) (id : Nat) : (dropPacket s id).timeSub = s.timeSub := rfl
@[simp] theorem dropPacket_timeFollows (s : State) (id : Nat) : (dropPacket s id).timeFollows = s.timeFollows := rfl
@[simp] theorem dropPacket_mem (s : State) (id : Nat) : (dropPacket s id).mem = s.mem := rfl
@[simp] theorem dropPacket_memPoison (s : State) (id : Nat) : (dropPacket s id).memPoison = s.memPoison := rfl
@[simp] theorem dropPacket_damaged (s : State) (id : Nat) : (dropPacket s id).damaged = s.damaged := rfl
@[simp] theorem dropPacket_blockState (s : State) (id : Nat) : (dropPacket s id).blockState = s.blockState := rfl
@[simp] theorem dropPacket_ctl (s : State) (id : Nat) : (dropPacket s id).ctl = s.ctl := rfl
@[simp] theorem dropPacket_tokensUsed (s : State) (id : Nat) : (dropPacket s id).tokensUsed = s.tokensUsed := rfl
@[simp] theorem dropPacket_tokenQ (s : State) (id : Nat) : (dropPacket s id).tokenQ = s.tokenQ := rfl
@[simp] theorem dropPacket_tokenHeld (s : State) (id : Nat) : (dropPacket s id).tokenHeld = s.tokenHeld := rfl
@[simp] theorem dropPacket_tokensNow (s : State) (id : Nat) : (dropPacket s id).tokensNow = s.tokensNow := rfl
@[simp] theorem dropPacket_tokGr (s : State) (id : Nat) : (dropPacket s id).tokGr = s.tokGr := rfl
@[simp] theorem dropPacket_tokWait (s : State) (id : Nat) : (dropPacket s id).tokWait = s.tokWait := rfl
@[simp] theorem dropPacket_slices (s : State) (id : Nat) : (dropPacket s id).slices = s.slices := rfl
@[simp] theorem dropPacket_cores (s : State) (id : Nat) : (dropPacket s id).cores = s.cores := rfl
@[simp] theorem dropPacket_groups (s : State) (id : Nat) : (dropPacket s id).groups = s.groups := rfl
@[simp] theorem dropPacket_fibres (s : State) (id : Nat) : (dropPacket s id).fibres = s.fibres := rfl
@[simp] theorem dropPacket_teams (s : State) (id : Nat) : (dropPacket s id).teams = s.teams := rfl
@[simp] theorem dropPacket_blocks (s : State) (id : Nat) : (dropPacket s id).blocks = s.blocks := rfl
@[simp] theorem dropPacket_raster (s : State) (id : Nat) : (dropPacket s id).raster = s.raster := rfl
@[simp] theorem dropPacket_draws (s : State) (id : Nat) : (dropPacket s id).draws = s.draws := rfl
@[simp] theorem dropPacket_stackUnits (s : State) (id : Nat) : (dropPacket s id).stackUnits = s.stackUnits := rfl
@[simp] theorem dropPacket_tests (s : State) (id : Nat) : (dropPacket s id).tests = s.tests := rfl
@[simp] theorem dropPacket_spares (s : State) (id : Nat) : (dropPacket s id).spares = s.spares := rfl
@[simp] theorem dropPacket_earlyErrors (s : State) (id : Nat) : (dropPacket s id).earlyErrors = s.earlyErrors := rfl
@[simp] theorem dropPacket_pkgWindow (s : State) (id : Nat) : (dropPacket s id).pkgWindow = s.pkgWindow := rfl
@[simp] theorem dropPacket_slsel (s : State) (id : Nat) : (dropPacket s id).slsel = s.slsel := rfl
@[simp] theorem dropPacket_ckpt (s : State) (id : Nat) : (dropPacket s id).ckpt = s.ckpt := rfl
@[simp] theorem dropPacket_wbase (s : State) (id : Nat) : (dropPacket s id).wbase = s.wbase := rfl
@[simp] theorem dropPacket_msix (s : State) (id : Nat) : (dropPacket s id).msix = s.msix := rfl
@[simp] theorem dropPacket_hostReads (s : State) (id : Nat) : (dropPacket s id).hostReads = s.hostReads := rfl
@[simp] theorem dropPacket_spdm (s : State) (id : Nat) : (dropPacket s id).spdm = s.spdm := rfl
@[simp] theorem dropPacket_answers (s : State) (id : Nat) : (dropPacket s id).answers = s.answers := rfl
@[simp] theorem dropPacket_imageGood (s : State) (id : Nat) : (dropPacket s id).imageGood = s.imageGood := rfl
@[simp] theorem dropPacket_imageId (s : State) (id : Nat) : (dropPacket s id).imageId = s.imageId := rfl
@[simp] theorem dropPacket_trainedPorts (s : State) (id : Nat) : (dropPacket s id).trainedPorts = s.trainedPorts := rfl
@[simp] theorem dropPacket_postings (s : State) (id : Nat) : (dropPacket s id).postings = s.postings := rfl
@[simp] theorem dropPacket_turn (s : State) (id : Nat) : (dropPacket s id).turn = s.turn := rfl
@[simp] theorem dropPacket_parked (s : State) (id : Nat) : (dropPacket s id).parked = s.parked := rfl
@[simp] theorem dropPacket_schedule (s : State) (id : Nat) : (dropPacket s id).schedule = s.schedule := rfl
@[simp] theorem dropPacket_nextId (s : State) (id : Nat) : (dropPacket s id).nextId = s.nextId := rfl
@[simp] theorem dropPacket_free (s : State) (id : Nat) : (dropPacket s id).free = s.free := rfl

@[simp] theorem setBody_clk (s : State) (id : Nat) (b : Body) : (setBody s id b).clk = s.clk := rfl
@[simp] theorem setBody_time (s : State) (id : Nat) (b : Body) : (setBody s id b).time = s.time := rfl
@[simp] theorem setBody_timeSub (s : State) (id : Nat) (b : Body) : (setBody s id b).timeSub = s.timeSub := rfl
@[simp] theorem setBody_timeFollows (s : State) (id : Nat) (b : Body) : (setBody s id b).timeFollows = s.timeFollows := rfl
@[simp] theorem setBody_mem (s : State) (id : Nat) (b : Body) : (setBody s id b).mem = s.mem := rfl
@[simp] theorem setBody_memPoison (s : State) (id : Nat) (b : Body) : (setBody s id b).memPoison = s.memPoison := rfl
@[simp] theorem setBody_damaged (s : State) (id : Nat) (b : Body) : (setBody s id b).damaged = s.damaged := rfl
@[simp] theorem setBody_blockState (s : State) (id : Nat) (b : Body) : (setBody s id b).blockState = s.blockState := rfl
@[simp] theorem setBody_ctl (s : State) (id : Nat) (b : Body) : (setBody s id b).ctl = s.ctl := rfl
@[simp] theorem setBody_tokensUsed (s : State) (id : Nat) (b : Body) : (setBody s id b).tokensUsed = s.tokensUsed := rfl
@[simp] theorem setBody_tokenQ (s : State) (id : Nat) (b : Body) : (setBody s id b).tokenQ = s.tokenQ := rfl
@[simp] theorem setBody_tokenHeld (s : State) (id : Nat) (b : Body) : (setBody s id b).tokenHeld = s.tokenHeld := rfl
@[simp] theorem setBody_tokensNow (s : State) (id : Nat) (b : Body) : (setBody s id b).tokensNow = s.tokensNow := rfl
@[simp] theorem setBody_tokGr (s : State) (id : Nat) (b : Body) : (setBody s id b).tokGr = s.tokGr := rfl
@[simp] theorem setBody_tokWait (s : State) (id : Nat) (b : Body) : (setBody s id b).tokWait = s.tokWait := rfl
@[simp] theorem setBody_slices (s : State) (id : Nat) (b : Body) : (setBody s id b).slices = s.slices := rfl
@[simp] theorem setBody_cores (s : State) (id : Nat) (b : Body) : (setBody s id b).cores = s.cores := rfl
@[simp] theorem setBody_groups (s : State) (id : Nat) (b : Body) : (setBody s id b).groups = s.groups := rfl
@[simp] theorem setBody_fibres (s : State) (id : Nat) (b : Body) : (setBody s id b).fibres = s.fibres := rfl
@[simp] theorem setBody_teams (s : State) (id : Nat) (b : Body) : (setBody s id b).teams = s.teams := rfl
@[simp] theorem setBody_blocks (s : State) (id : Nat) (b : Body) : (setBody s id b).blocks = s.blocks := rfl
@[simp] theorem setBody_raster (s : State) (id : Nat) (b : Body) : (setBody s id b).raster = s.raster := rfl
@[simp] theorem setBody_draws (s : State) (id : Nat) (b : Body) : (setBody s id b).draws = s.draws := rfl
@[simp] theorem setBody_stackUnits (s : State) (id : Nat) (b : Body) : (setBody s id b).stackUnits = s.stackUnits := rfl
@[simp] theorem setBody_tests (s : State) (id : Nat) (b : Body) : (setBody s id b).tests = s.tests := rfl
@[simp] theorem setBody_spares (s : State) (id : Nat) (b : Body) : (setBody s id b).spares = s.spares := rfl
@[simp] theorem setBody_earlyErrors (s : State) (id : Nat) (b : Body) : (setBody s id b).earlyErrors = s.earlyErrors := rfl
@[simp] theorem setBody_pkgWindow (s : State) (id : Nat) (b : Body) : (setBody s id b).pkgWindow = s.pkgWindow := rfl
@[simp] theorem setBody_slsel (s : State) (id : Nat) (b : Body) : (setBody s id b).slsel = s.slsel := rfl
@[simp] theorem setBody_ckpt (s : State) (id : Nat) (b : Body) : (setBody s id b).ckpt = s.ckpt := rfl
@[simp] theorem setBody_wbase (s : State) (id : Nat) (b : Body) : (setBody s id b).wbase = s.wbase := rfl
@[simp] theorem setBody_msix (s : State) (id : Nat) (b : Body) : (setBody s id b).msix = s.msix := rfl
@[simp] theorem setBody_hostReads (s : State) (id : Nat) (b : Body) : (setBody s id b).hostReads = s.hostReads := rfl
@[simp] theorem setBody_spdm (s : State) (id : Nat) (b : Body) : (setBody s id b).spdm = s.spdm := rfl
@[simp] theorem setBody_answers (s : State) (id : Nat) (b : Body) : (setBody s id b).answers = s.answers := rfl
@[simp] theorem setBody_imageGood (s : State) (id : Nat) (b : Body) : (setBody s id b).imageGood = s.imageGood := rfl
@[simp] theorem setBody_imageId (s : State) (id : Nat) (b : Body) : (setBody s id b).imageId = s.imageId := rfl
@[simp] theorem setBody_trainedPorts (s : State) (id : Nat) (b : Body) : (setBody s id b).trainedPorts = s.trainedPorts := rfl
@[simp] theorem setBody_postings (s : State) (id : Nat) (b : Body) : (setBody s id b).postings = s.postings := rfl
@[simp] theorem setBody_turn (s : State) (id : Nat) (b : Body) : (setBody s id b).turn = s.turn := rfl
@[simp] theorem setBody_parked (s : State) (id : Nat) (b : Body) : (setBody s id b).parked = s.parked := rfl
@[simp] theorem setBody_schedule (s : State) (id : Nat) (b : Body) : (setBody s id b).schedule = s.schedule := rfl
@[simp] theorem setBody_nextId (s : State) (id : Nat) (b : Body) : (setBody s id b).nextId = s.nextId := rfl
@[simp] theorem setBody_free (s : State) (id : Nat) (b : Body) : (setBody s id b).free = s.free := rfl

@[simp] theorem emit_clk (s : State) (vc : VC) (kind src dst flits : Nat) (tags : BitVec 18) (body : Body) : (emit s vc kind src dst flits tags body).clk = s.clk := rfl
@[simp] theorem emit_time (s : State) (vc : VC) (kind src dst flits : Nat) (tags : BitVec 18) (body : Body) : (emit s vc kind src dst flits tags body).time = s.time := rfl
@[simp] theorem emit_timeSub (s : State) (vc : VC) (kind src dst flits : Nat) (tags : BitVec 18) (body : Body) : (emit s vc kind src dst flits tags body).timeSub = s.timeSub := rfl
@[simp] theorem emit_timeFollows (s : State) (vc : VC) (kind src dst flits : Nat) (tags : BitVec 18) (body : Body) : (emit s vc kind src dst flits tags body).timeFollows = s.timeFollows := rfl
@[simp] theorem emit_mem (s : State) (vc : VC) (kind src dst flits : Nat) (tags : BitVec 18) (body : Body) : (emit s vc kind src dst flits tags body).mem = s.mem := rfl
@[simp] theorem emit_memPoison (s : State) (vc : VC) (kind src dst flits : Nat) (tags : BitVec 18) (body : Body) : (emit s vc kind src dst flits tags body).memPoison = s.memPoison := rfl
@[simp] theorem emit_damaged (s : State) (vc : VC) (kind src dst flits : Nat) (tags : BitVec 18) (body : Body) : (emit s vc kind src dst flits tags body).damaged = s.damaged := rfl
@[simp] theorem emit_blockState (s : State) (vc : VC) (kind src dst flits : Nat) (tags : BitVec 18) (body : Body) : (emit s vc kind src dst flits tags body).blockState = s.blockState := rfl
@[simp] theorem emit_ctl (s : State) (vc : VC) (kind src dst flits : Nat) (tags : BitVec 18) (body : Body) : (emit s vc kind src dst flits tags body).ctl = s.ctl := rfl
@[simp] theorem emit_tokensUsed (s : State) (vc : VC) (kind src dst flits : Nat) (tags : BitVec 18) (body : Body) : (emit s vc kind src dst flits tags body).tokensUsed = s.tokensUsed := rfl
@[simp] theorem emit_tokenQ (s : State) (vc : VC) (kind src dst flits : Nat) (tags : BitVec 18) (body : Body) : (emit s vc kind src dst flits tags body).tokenQ = s.tokenQ := rfl
@[simp] theorem emit_tokenHeld (s : State) (vc : VC) (kind src dst flits : Nat) (tags : BitVec 18) (body : Body) : (emit s vc kind src dst flits tags body).tokenHeld = s.tokenHeld := rfl
@[simp] theorem emit_tokensNow (s : State) (vc : VC) (kind src dst flits : Nat) (tags : BitVec 18) (body : Body) : (emit s vc kind src dst flits tags body).tokensNow = s.tokensNow := rfl
@[simp] theorem emit_tokGr (s : State) (vc : VC) (kind src dst flits : Nat) (tags : BitVec 18) (body : Body) : (emit s vc kind src dst flits tags body).tokGr = s.tokGr := rfl
@[simp] theorem emit_tokWait (s : State) (vc : VC) (kind src dst flits : Nat) (tags : BitVec 18) (body : Body) : (emit s vc kind src dst flits tags body).tokWait = s.tokWait := rfl
@[simp] theorem emit_slices (s : State) (vc : VC) (kind src dst flits : Nat) (tags : BitVec 18) (body : Body) : (emit s vc kind src dst flits tags body).slices = s.slices := rfl
@[simp] theorem emit_cores (s : State) (vc : VC) (kind src dst flits : Nat) (tags : BitVec 18) (body : Body) : (emit s vc kind src dst flits tags body).cores = s.cores := rfl
@[simp] theorem emit_groups (s : State) (vc : VC) (kind src dst flits : Nat) (tags : BitVec 18) (body : Body) : (emit s vc kind src dst flits tags body).groups = s.groups := rfl
@[simp] theorem emit_fibres (s : State) (vc : VC) (kind src dst flits : Nat) (tags : BitVec 18) (body : Body) : (emit s vc kind src dst flits tags body).fibres = s.fibres := rfl
@[simp] theorem emit_teams (s : State) (vc : VC) (kind src dst flits : Nat) (tags : BitVec 18) (body : Body) : (emit s vc kind src dst flits tags body).teams = s.teams := rfl
@[simp] theorem emit_blocks (s : State) (vc : VC) (kind src dst flits : Nat) (tags : BitVec 18) (body : Body) : (emit s vc kind src dst flits tags body).blocks = s.blocks := rfl
@[simp] theorem emit_raster (s : State) (vc : VC) (kind src dst flits : Nat) (tags : BitVec 18) (body : Body) : (emit s vc kind src dst flits tags body).raster = s.raster := rfl
@[simp] theorem emit_draws (s : State) (vc : VC) (kind src dst flits : Nat) (tags : BitVec 18) (body : Body) : (emit s vc kind src dst flits tags body).draws = s.draws := rfl
@[simp] theorem emit_stackUnits (s : State) (vc : VC) (kind src dst flits : Nat) (tags : BitVec 18) (body : Body) : (emit s vc kind src dst flits tags body).stackUnits = s.stackUnits := rfl
@[simp] theorem emit_tests (s : State) (vc : VC) (kind src dst flits : Nat) (tags : BitVec 18) (body : Body) : (emit s vc kind src dst flits tags body).tests = s.tests := rfl
@[simp] theorem emit_spares (s : State) (vc : VC) (kind src dst flits : Nat) (tags : BitVec 18) (body : Body) : (emit s vc kind src dst flits tags body).spares = s.spares := rfl
@[simp] theorem emit_earlyErrors (s : State) (vc : VC) (kind src dst flits : Nat) (tags : BitVec 18) (body : Body) : (emit s vc kind src dst flits tags body).earlyErrors = s.earlyErrors := rfl
@[simp] theorem emit_pkgWindow (s : State) (vc : VC) (kind src dst flits : Nat) (tags : BitVec 18) (body : Body) : (emit s vc kind src dst flits tags body).pkgWindow = s.pkgWindow := rfl
@[simp] theorem emit_slsel (s : State) (vc : VC) (kind src dst flits : Nat) (tags : BitVec 18) (body : Body) : (emit s vc kind src dst flits tags body).slsel = s.slsel := rfl
@[simp] theorem emit_ckpt (s : State) (vc : VC) (kind src dst flits : Nat) (tags : BitVec 18) (body : Body) : (emit s vc kind src dst flits tags body).ckpt = s.ckpt := rfl
@[simp] theorem emit_wbase (s : State) (vc : VC) (kind src dst flits : Nat) (tags : BitVec 18) (body : Body) : (emit s vc kind src dst flits tags body).wbase = s.wbase := rfl
@[simp] theorem emit_msix (s : State) (vc : VC) (kind src dst flits : Nat) (tags : BitVec 18) (body : Body) : (emit s vc kind src dst flits tags body).msix = s.msix := rfl
@[simp] theorem emit_hostReads (s : State) (vc : VC) (kind src dst flits : Nat) (tags : BitVec 18) (body : Body) : (emit s vc kind src dst flits tags body).hostReads = s.hostReads := rfl
@[simp] theorem emit_spdm (s : State) (vc : VC) (kind src dst flits : Nat) (tags : BitVec 18) (body : Body) : (emit s vc kind src dst flits tags body).spdm = s.spdm := rfl
@[simp] theorem emit_answers (s : State) (vc : VC) (kind src dst flits : Nat) (tags : BitVec 18) (body : Body) : (emit s vc kind src dst flits tags body).answers = s.answers := rfl
@[simp] theorem emit_imageGood (s : State) (vc : VC) (kind src dst flits : Nat) (tags : BitVec 18) (body : Body) : (emit s vc kind src dst flits tags body).imageGood = s.imageGood := rfl
@[simp] theorem emit_imageId (s : State) (vc : VC) (kind src dst flits : Nat) (tags : BitVec 18) (body : Body) : (emit s vc kind src dst flits tags body).imageId = s.imageId := rfl
@[simp] theorem emit_trainedPorts (s : State) (vc : VC) (kind src dst flits : Nat) (tags : BitVec 18) (body : Body) : (emit s vc kind src dst flits tags body).trainedPorts = s.trainedPorts := rfl
@[simp] theorem emit_postings (s : State) (vc : VC) (kind src dst flits : Nat) (tags : BitVec 18) (body : Body) : (emit s vc kind src dst flits tags body).postings = s.postings := rfl
@[simp] theorem emit_turn (s : State) (vc : VC) (kind src dst flits : Nat) (tags : BitVec 18) (body : Body) : (emit s vc kind src dst flits tags body).turn = s.turn := rfl
@[simp] theorem emit_parked (s : State) (vc : VC) (kind src dst flits : Nat) (tags : BitVec 18) (body : Body) : (emit s vc kind src dst flits tags body).parked = s.parked := rfl
@[simp] theorem emit_schedule (s : State) (vc : VC) (kind src dst flits : Nat) (tags : BitVec 18) (body : Body) : (emit s vc kind src dst flits tags body).schedule = s.schedule := rfl
@[simp] theorem emit_free (s : State) (vc : VC) (kind src dst flits : Nat) (tags : BitVec 18) (body : Body) : (emit s vc kind src dst flits tags body).free = s.free := rfl

@[simp] theorem modFib_clk (s : State) (f : FRef) (g : Fibre → Fibre) : (modFib s f g).clk = s.clk := by unfold modFib; split <;> rfl
@[simp] theorem modFib_time (s : State) (f : FRef) (g : Fibre → Fibre) : (modFib s f g).time = s.time := by unfold modFib; split <;> rfl
@[simp] theorem modFib_timeSub (s : State) (f : FRef) (g : Fibre → Fibre) : (modFib s f g).timeSub = s.timeSub := by unfold modFib; split <;> rfl
@[simp] theorem modFib_timeFollows (s : State) (f : FRef) (g : Fibre → Fibre) : (modFib s f g).timeFollows = s.timeFollows := by unfold modFib; split <;> rfl
@[simp] theorem modFib_mem (s : State) (f : FRef) (g : Fibre → Fibre) : (modFib s f g).mem = s.mem := by unfold modFib; split <;> rfl
@[simp] theorem modFib_memPoison (s : State) (f : FRef) (g : Fibre → Fibre) : (modFib s f g).memPoison = s.memPoison := by unfold modFib; split <;> rfl
@[simp] theorem modFib_damaged (s : State) (f : FRef) (g : Fibre → Fibre) : (modFib s f g).damaged = s.damaged := by unfold modFib; split <;> rfl
@[simp] theorem modFib_blockState (s : State) (f : FRef) (g : Fibre → Fibre) : (modFib s f g).blockState = s.blockState := by unfold modFib; split <;> rfl
@[simp] theorem modFib_ctl (s : State) (f : FRef) (g : Fibre → Fibre) : (modFib s f g).ctl = s.ctl := by unfold modFib; split <;> rfl
@[simp] theorem modFib_tokensUsed (s : State) (f : FRef) (g : Fibre → Fibre) : (modFib s f g).tokensUsed = s.tokensUsed := by unfold modFib; split <;> rfl
@[simp] theorem modFib_tokenQ (s : State) (f : FRef) (g : Fibre → Fibre) : (modFib s f g).tokenQ = s.tokenQ := by unfold modFib; split <;> rfl
@[simp] theorem modFib_tokenHeld (s : State) (f : FRef) (g : Fibre → Fibre) : (modFib s f g).tokenHeld = s.tokenHeld := by unfold modFib; split <;> rfl
@[simp] theorem modFib_tokensNow (s : State) (f : FRef) (g : Fibre → Fibre) : (modFib s f g).tokensNow = s.tokensNow := by unfold modFib; split <;> rfl
@[simp] theorem modFib_tokGr (s : State) (f : FRef) (g : Fibre → Fibre) : (modFib s f g).tokGr = s.tokGr := by unfold modFib; split <;> rfl
@[simp] theorem modFib_tokWait (s : State) (f : FRef) (g : Fibre → Fibre) : (modFib s f g).tokWait = s.tokWait := by unfold modFib; split <;> rfl
@[simp] theorem modFib_mesh (s : State) (f : FRef) (g : Fibre → Fibre) : (modFib s f g).mesh = s.mesh := by unfold modFib; split <;> rfl
@[simp] theorem modFib_slices (s : State) (f : FRef) (g : Fibre → Fibre) : (modFib s f g).slices = s.slices := by unfold modFib; split <;> rfl
@[simp] theorem modFib_cores (s : State) (f : FRef) (g : Fibre → Fibre) : (modFib s f g).cores = s.cores := by unfold modFib; split <;> rfl
@[simp] theorem modFib_groups (s : State) (f : FRef) (g : Fibre → Fibre) : (modFib s f g).groups = s.groups := by unfold modFib; split <;> rfl
@[simp] theorem modFib_teams (s : State) (f : FRef) (g : Fibre → Fibre) : (modFib s f g).teams = s.teams := by unfold modFib; split <;> rfl
@[simp] theorem modFib_blocks (s : State) (f : FRef) (g : Fibre → Fibre) : (modFib s f g).blocks = s.blocks := by unfold modFib; split <;> rfl
@[simp] theorem modFib_raster (s : State) (f : FRef) (g : Fibre → Fibre) : (modFib s f g).raster = s.raster := by unfold modFib; split <;> rfl
@[simp] theorem modFib_draws (s : State) (f : FRef) (g : Fibre → Fibre) : (modFib s f g).draws = s.draws := by unfold modFib; split <;> rfl
@[simp] theorem modFib_stackUnits (s : State) (f : FRef) (g : Fibre → Fibre) : (modFib s f g).stackUnits = s.stackUnits := by unfold modFib; split <;> rfl
@[simp] theorem modFib_tests (s : State) (f : FRef) (g : Fibre → Fibre) : (modFib s f g).tests = s.tests := by unfold modFib; split <;> rfl
@[simp] theorem modFib_spares (s : State) (f : FRef) (g : Fibre → Fibre) : (modFib s f g).spares = s.spares := by unfold modFib; split <;> rfl
@[simp] theorem modFib_earlyErrors (s : State) (f : FRef) (g : Fibre → Fibre) : (modFib s f g).earlyErrors = s.earlyErrors := by unfold modFib; split <;> rfl
@[simp] theorem modFib_pkgWindow (s : State) (f : FRef) (g : Fibre → Fibre) : (modFib s f g).pkgWindow = s.pkgWindow := by unfold modFib; split <;> rfl
@[simp] theorem modFib_slsel (s : State) (f : FRef) (g : Fibre → Fibre) : (modFib s f g).slsel = s.slsel := by unfold modFib; split <;> rfl
@[simp] theorem modFib_ckpt (s : State) (f : FRef) (g : Fibre → Fibre) : (modFib s f g).ckpt = s.ckpt := by unfold modFib; split <;> rfl
@[simp] theorem modFib_wbase (s : State) (f : FRef) (g : Fibre → Fibre) : (modFib s f g).wbase = s.wbase := by unfold modFib; split <;> rfl
@[simp] theorem modFib_msix (s : State) (f : FRef) (g : Fibre → Fibre) : (modFib s f g).msix = s.msix := by unfold modFib; split <;> rfl
@[simp] theorem modFib_hostReads (s : State) (f : FRef) (g : Fibre → Fibre) : (modFib s f g).hostReads = s.hostReads := by unfold modFib; split <;> rfl
@[simp] theorem modFib_spdm (s : State) (f : FRef) (g : Fibre → Fibre) : (modFib s f g).spdm = s.spdm := by unfold modFib; split <;> rfl
@[simp] theorem modFib_answers (s : State) (f : FRef) (g : Fibre → Fibre) : (modFib s f g).answers = s.answers := by unfold modFib; split <;> rfl
@[simp] theorem modFib_imageGood (s : State) (f : FRef) (g : Fibre → Fibre) : (modFib s f g).imageGood = s.imageGood := by unfold modFib; split <;> rfl
@[simp] theorem modFib_imageId (s : State) (f : FRef) (g : Fibre → Fibre) : (modFib s f g).imageId = s.imageId := by unfold modFib; split <;> rfl
@[simp] theorem modFib_trainedPorts (s : State) (f : FRef) (g : Fibre → Fibre) : (modFib s f g).trainedPorts = s.trainedPorts := by unfold modFib; split <;> rfl
@[simp] theorem modFib_postings (s : State) (f : FRef) (g : Fibre → Fibre) : (modFib s f g).postings = s.postings := by unfold modFib; split <;> rfl
@[simp] theorem modFib_turn (s : State) (f : FRef) (g : Fibre → Fibre) : (modFib s f g).turn = s.turn := by unfold modFib; split <;> rfl
@[simp] theorem modFib_parked (s : State) (f : FRef) (g : Fibre → Fibre) : (modFib s f g).parked = s.parked := by unfold modFib; split <;> rfl
@[simp] theorem modFib_schedule (s : State) (f : FRef) (g : Fibre → Fibre) : (modFib s f g).schedule = s.schedule := by unfold modFib; split <;> rfl
@[simp] theorem modFib_nextId (s : State) (f : FRef) (g : Fibre → Fibre) : (modFib s f g).nextId = s.nextId := by unfold modFib; split <;> rfl
@[simp] theorem modFib_free (s : State) (f : FRef) (g : Fibre → Fibre) : (modFib s f g).free = s.free := by unfold modFib; split <;> rfl

@[simp] theorem modTeam_clk (s : State) (c n : Nat) (g : Team → Team) : (modTeam s c n g).clk = s.clk := by unfold modTeam; split <;> rfl
@[simp] theorem modTeam_time (s : State) (c n : Nat) (g : Team → Team) : (modTeam s c n g).time = s.time := by unfold modTeam; split <;> rfl
@[simp] theorem modTeam_timeSub (s : State) (c n : Nat) (g : Team → Team) : (modTeam s c n g).timeSub = s.timeSub := by unfold modTeam; split <;> rfl
@[simp] theorem modTeam_timeFollows (s : State) (c n : Nat) (g : Team → Team) : (modTeam s c n g).timeFollows = s.timeFollows := by unfold modTeam; split <;> rfl
@[simp] theorem modTeam_mem (s : State) (c n : Nat) (g : Team → Team) : (modTeam s c n g).mem = s.mem := by unfold modTeam; split <;> rfl
@[simp] theorem modTeam_memPoison (s : State) (c n : Nat) (g : Team → Team) : (modTeam s c n g).memPoison = s.memPoison := by unfold modTeam; split <;> rfl
@[simp] theorem modTeam_damaged (s : State) (c n : Nat) (g : Team → Team) : (modTeam s c n g).damaged = s.damaged := by unfold modTeam; split <;> rfl
@[simp] theorem modTeam_blockState (s : State) (c n : Nat) (g : Team → Team) : (modTeam s c n g).blockState = s.blockState := by unfold modTeam; split <;> rfl
@[simp] theorem modTeam_ctl (s : State) (c n : Nat) (g : Team → Team) : (modTeam s c n g).ctl = s.ctl := by unfold modTeam; split <;> rfl
@[simp] theorem modTeam_tokensUsed (s : State) (c n : Nat) (g : Team → Team) : (modTeam s c n g).tokensUsed = s.tokensUsed := by unfold modTeam; split <;> rfl
@[simp] theorem modTeam_tokenQ (s : State) (c n : Nat) (g : Team → Team) : (modTeam s c n g).tokenQ = s.tokenQ := by unfold modTeam; split <;> rfl
@[simp] theorem modTeam_tokenHeld (s : State) (c n : Nat) (g : Team → Team) : (modTeam s c n g).tokenHeld = s.tokenHeld := by unfold modTeam; split <;> rfl
@[simp] theorem modTeam_tokensNow (s : State) (c n : Nat) (g : Team → Team) : (modTeam s c n g).tokensNow = s.tokensNow := by unfold modTeam; split <;> rfl
@[simp] theorem modTeam_tokGr (s : State) (c n : Nat) (g : Team → Team) : (modTeam s c n g).tokGr = s.tokGr := by unfold modTeam; split <;> rfl
@[simp] theorem modTeam_tokWait (s : State) (c n : Nat) (g : Team → Team) : (modTeam s c n g).tokWait = s.tokWait := by unfold modTeam; split <;> rfl
@[simp] theorem modTeam_mesh (s : State) (c n : Nat) (g : Team → Team) : (modTeam s c n g).mesh = s.mesh := by unfold modTeam; split <;> rfl
@[simp] theorem modTeam_slices (s : State) (c n : Nat) (g : Team → Team) : (modTeam s c n g).slices = s.slices := by unfold modTeam; split <;> rfl
@[simp] theorem modTeam_cores (s : State) (c n : Nat) (g : Team → Team) : (modTeam s c n g).cores = s.cores := by unfold modTeam; split <;> rfl
@[simp] theorem modTeam_groups (s : State) (c n : Nat) (g : Team → Team) : (modTeam s c n g).groups = s.groups := by unfold modTeam; split <;> rfl
@[simp] theorem modTeam_fibres (s : State) (c n : Nat) (g : Team → Team) : (modTeam s c n g).fibres = s.fibres := by unfold modTeam; split <;> rfl
@[simp] theorem modTeam_blocks (s : State) (c n : Nat) (g : Team → Team) : (modTeam s c n g).blocks = s.blocks := by unfold modTeam; split <;> rfl
@[simp] theorem modTeam_raster (s : State) (c n : Nat) (g : Team → Team) : (modTeam s c n g).raster = s.raster := by unfold modTeam; split <;> rfl
@[simp] theorem modTeam_draws (s : State) (c n : Nat) (g : Team → Team) : (modTeam s c n g).draws = s.draws := by unfold modTeam; split <;> rfl
@[simp] theorem modTeam_stackUnits (s : State) (c n : Nat) (g : Team → Team) : (modTeam s c n g).stackUnits = s.stackUnits := by unfold modTeam; split <;> rfl
@[simp] theorem modTeam_tests (s : State) (c n : Nat) (g : Team → Team) : (modTeam s c n g).tests = s.tests := by unfold modTeam; split <;> rfl
@[simp] theorem modTeam_spares (s : State) (c n : Nat) (g : Team → Team) : (modTeam s c n g).spares = s.spares := by unfold modTeam; split <;> rfl
@[simp] theorem modTeam_earlyErrors (s : State) (c n : Nat) (g : Team → Team) : (modTeam s c n g).earlyErrors = s.earlyErrors := by unfold modTeam; split <;> rfl
@[simp] theorem modTeam_pkgWindow (s : State) (c n : Nat) (g : Team → Team) : (modTeam s c n g).pkgWindow = s.pkgWindow := by unfold modTeam; split <;> rfl
@[simp] theorem modTeam_slsel (s : State) (c n : Nat) (g : Team → Team) : (modTeam s c n g).slsel = s.slsel := by unfold modTeam; split <;> rfl
@[simp] theorem modTeam_ckpt (s : State) (c n : Nat) (g : Team → Team) : (modTeam s c n g).ckpt = s.ckpt := by unfold modTeam; split <;> rfl
@[simp] theorem modTeam_wbase (s : State) (c n : Nat) (g : Team → Team) : (modTeam s c n g).wbase = s.wbase := by unfold modTeam; split <;> rfl
@[simp] theorem modTeam_msix (s : State) (c n : Nat) (g : Team → Team) : (modTeam s c n g).msix = s.msix := by unfold modTeam; split <;> rfl
@[simp] theorem modTeam_hostReads (s : State) (c n : Nat) (g : Team → Team) : (modTeam s c n g).hostReads = s.hostReads := by unfold modTeam; split <;> rfl
@[simp] theorem modTeam_spdm (s : State) (c n : Nat) (g : Team → Team) : (modTeam s c n g).spdm = s.spdm := by unfold modTeam; split <;> rfl
@[simp] theorem modTeam_answers (s : State) (c n : Nat) (g : Team → Team) : (modTeam s c n g).answers = s.answers := by unfold modTeam; split <;> rfl
@[simp] theorem modTeam_imageGood (s : State) (c n : Nat) (g : Team → Team) : (modTeam s c n g).imageGood = s.imageGood := by unfold modTeam; split <;> rfl
@[simp] theorem modTeam_imageId (s : State) (c n : Nat) (g : Team → Team) : (modTeam s c n g).imageId = s.imageId := by unfold modTeam; split <;> rfl
@[simp] theorem modTeam_trainedPorts (s : State) (c n : Nat) (g : Team → Team) : (modTeam s c n g).trainedPorts = s.trainedPorts := by unfold modTeam; split <;> rfl
@[simp] theorem modTeam_postings (s : State) (c n : Nat) (g : Team → Team) : (modTeam s c n g).postings = s.postings := by unfold modTeam; split <;> rfl
@[simp] theorem modTeam_turn (s : State) (c n : Nat) (g : Team → Team) : (modTeam s c n g).turn = s.turn := by unfold modTeam; split <;> rfl
@[simp] theorem modTeam_parked (s : State) (c n : Nat) (g : Team → Team) : (modTeam s c n g).parked = s.parked := by unfold modTeam; split <;> rfl
@[simp] theorem modTeam_schedule (s : State) (c n : Nat) (g : Team → Team) : (modTeam s c n g).schedule = s.schedule := by unfold modTeam; split <;> rfl
@[simp] theorem modTeam_nextId (s : State) (c n : Nat) (g : Team → Team) : (modTeam s c n g).nextId = s.nextId := by unfold modTeam; split <;> rfl
@[simp] theorem modTeam_free (s : State) (c n : Nat) (g : Team → Team) : (modTeam s c n g).free = s.free := by unfold modTeam; split <;> rfl

@[simp] theorem modGroup_clk (s : State) (c n : Nat) (g : Group → Group) : (modGroup s c n g).clk = s.clk := by unfold modGroup; split <;> rfl
@[simp] theorem modGroup_time (s : State) (c n : Nat) (g : Group → Group) : (modGroup s c n g).time = s.time := by unfold modGroup; split <;> rfl
@[simp] theorem modGroup_timeSub (s : State) (c n : Nat) (g : Group → Group) : (modGroup s c n g).timeSub = s.timeSub := by unfold modGroup; split <;> rfl
@[simp] theorem modGroup_timeFollows (s : State) (c n : Nat) (g : Group → Group) : (modGroup s c n g).timeFollows = s.timeFollows := by unfold modGroup; split <;> rfl
@[simp] theorem modGroup_mem (s : State) (c n : Nat) (g : Group → Group) : (modGroup s c n g).mem = s.mem := by unfold modGroup; split <;> rfl
@[simp] theorem modGroup_memPoison (s : State) (c n : Nat) (g : Group → Group) : (modGroup s c n g).memPoison = s.memPoison := by unfold modGroup; split <;> rfl
@[simp] theorem modGroup_damaged (s : State) (c n : Nat) (g : Group → Group) : (modGroup s c n g).damaged = s.damaged := by unfold modGroup; split <;> rfl
@[simp] theorem modGroup_blockState (s : State) (c n : Nat) (g : Group → Group) : (modGroup s c n g).blockState = s.blockState := by unfold modGroup; split <;> rfl
@[simp] theorem modGroup_ctl (s : State) (c n : Nat) (g : Group → Group) : (modGroup s c n g).ctl = s.ctl := by unfold modGroup; split <;> rfl
@[simp] theorem modGroup_tokensUsed (s : State) (c n : Nat) (g : Group → Group) : (modGroup s c n g).tokensUsed = s.tokensUsed := by unfold modGroup; split <;> rfl
@[simp] theorem modGroup_tokenQ (s : State) (c n : Nat) (g : Group → Group) : (modGroup s c n g).tokenQ = s.tokenQ := by unfold modGroup; split <;> rfl
@[simp] theorem modGroup_tokenHeld (s : State) (c n : Nat) (g : Group → Group) : (modGroup s c n g).tokenHeld = s.tokenHeld := by unfold modGroup; split <;> rfl
@[simp] theorem modGroup_tokensNow (s : State) (c n : Nat) (g : Group → Group) : (modGroup s c n g).tokensNow = s.tokensNow := by unfold modGroup; split <;> rfl
@[simp] theorem modGroup_tokGr (s : State) (c n : Nat) (g : Group → Group) : (modGroup s c n g).tokGr = s.tokGr := by unfold modGroup; split <;> rfl
@[simp] theorem modGroup_tokWait (s : State) (c n : Nat) (g : Group → Group) : (modGroup s c n g).tokWait = s.tokWait := by unfold modGroup; split <;> rfl
@[simp] theorem modGroup_mesh (s : State) (c n : Nat) (g : Group → Group) : (modGroup s c n g).mesh = s.mesh := by unfold modGroup; split <;> rfl
@[simp] theorem modGroup_slices (s : State) (c n : Nat) (g : Group → Group) : (modGroup s c n g).slices = s.slices := by unfold modGroup; split <;> rfl
@[simp] theorem modGroup_cores (s : State) (c n : Nat) (g : Group → Group) : (modGroup s c n g).cores = s.cores := by unfold modGroup; split <;> rfl
@[simp] theorem modGroup_fibres (s : State) (c n : Nat) (g : Group → Group) : (modGroup s c n g).fibres = s.fibres := by unfold modGroup; split <;> rfl
@[simp] theorem modGroup_teams (s : State) (c n : Nat) (g : Group → Group) : (modGroup s c n g).teams = s.teams := by unfold modGroup; split <;> rfl
@[simp] theorem modGroup_blocks (s : State) (c n : Nat) (g : Group → Group) : (modGroup s c n g).blocks = s.blocks := by unfold modGroup; split <;> rfl
@[simp] theorem modGroup_raster (s : State) (c n : Nat) (g : Group → Group) : (modGroup s c n g).raster = s.raster := by unfold modGroup; split <;> rfl
@[simp] theorem modGroup_draws (s : State) (c n : Nat) (g : Group → Group) : (modGroup s c n g).draws = s.draws := by unfold modGroup; split <;> rfl
@[simp] theorem modGroup_stackUnits (s : State) (c n : Nat) (g : Group → Group) : (modGroup s c n g).stackUnits = s.stackUnits := by unfold modGroup; split <;> rfl
@[simp] theorem modGroup_tests (s : State) (c n : Nat) (g : Group → Group) : (modGroup s c n g).tests = s.tests := by unfold modGroup; split <;> rfl
@[simp] theorem modGroup_spares (s : State) (c n : Nat) (g : Group → Group) : (modGroup s c n g).spares = s.spares := by unfold modGroup; split <;> rfl
@[simp] theorem modGroup_earlyErrors (s : State) (c n : Nat) (g : Group → Group) : (modGroup s c n g).earlyErrors = s.earlyErrors := by unfold modGroup; split <;> rfl
@[simp] theorem modGroup_pkgWindow (s : State) (c n : Nat) (g : Group → Group) : (modGroup s c n g).pkgWindow = s.pkgWindow := by unfold modGroup; split <;> rfl
@[simp] theorem modGroup_slsel (s : State) (c n : Nat) (g : Group → Group) : (modGroup s c n g).slsel = s.slsel := by unfold modGroup; split <;> rfl
@[simp] theorem modGroup_ckpt (s : State) (c n : Nat) (g : Group → Group) : (modGroup s c n g).ckpt = s.ckpt := by unfold modGroup; split <;> rfl
@[simp] theorem modGroup_wbase (s : State) (c n : Nat) (g : Group → Group) : (modGroup s c n g).wbase = s.wbase := by unfold modGroup; split <;> rfl
@[simp] theorem modGroup_msix (s : State) (c n : Nat) (g : Group → Group) : (modGroup s c n g).msix = s.msix := by unfold modGroup; split <;> rfl
@[simp] theorem modGroup_hostReads (s : State) (c n : Nat) (g : Group → Group) : (modGroup s c n g).hostReads = s.hostReads := by unfold modGroup; split <;> rfl
@[simp] theorem modGroup_spdm (s : State) (c n : Nat) (g : Group → Group) : (modGroup s c n g).spdm = s.spdm := by unfold modGroup; split <;> rfl
@[simp] theorem modGroup_answers (s : State) (c n : Nat) (g : Group → Group) : (modGroup s c n g).answers = s.answers := by unfold modGroup; split <;> rfl
@[simp] theorem modGroup_imageGood (s : State) (c n : Nat) (g : Group → Group) : (modGroup s c n g).imageGood = s.imageGood := by unfold modGroup; split <;> rfl
@[simp] theorem modGroup_imageId (s : State) (c n : Nat) (g : Group → Group) : (modGroup s c n g).imageId = s.imageId := by unfold modGroup; split <;> rfl
@[simp] theorem modGroup_trainedPorts (s : State) (c n : Nat) (g : Group → Group) : (modGroup s c n g).trainedPorts = s.trainedPorts := by unfold modGroup; split <;> rfl
@[simp] theorem modGroup_postings (s : State) (c n : Nat) (g : Group → Group) : (modGroup s c n g).postings = s.postings := by unfold modGroup; split <;> rfl
@[simp] theorem modGroup_turn (s : State) (c n : Nat) (g : Group → Group) : (modGroup s c n g).turn = s.turn := by unfold modGroup; split <;> rfl
@[simp] theorem modGroup_parked (s : State) (c n : Nat) (g : Group → Group) : (modGroup s c n g).parked = s.parked := by unfold modGroup; split <;> rfl
@[simp] theorem modGroup_schedule (s : State) (c n : Nat) (g : Group → Group) : (modGroup s c n g).schedule = s.schedule := by unfold modGroup; split <;> rfl
@[simp] theorem modGroup_nextId (s : State) (c n : Nat) (g : Group → Group) : (modGroup s c n g).nextId = s.nextId := by unfold modGroup; split <;> rfl
@[simp] theorem modGroup_free (s : State) (c n : Nat) (g : Group → Group) : (modGroup s c n g).free = s.free := by unfold modGroup; split <;> rfl

@[simp] theorem settleFences_clk (s : State) (c : Nat) : (settleFences s c).clk = s.clk := rfl
@[simp] theorem settleFences_time (s : State) (c : Nat) : (settleFences s c).time = s.time := rfl
@[simp] theorem settleFences_timeSub (s : State) (c : Nat) : (settleFences s c).timeSub = s.timeSub := rfl
@[simp] theorem settleFences_timeFollows (s : State) (c : Nat) : (settleFences s c).timeFollows = s.timeFollows := rfl
@[simp] theorem settleFences_mem (s : State) (c : Nat) : (settleFences s c).mem = s.mem := rfl
@[simp] theorem settleFences_memPoison (s : State) (c : Nat) : (settleFences s c).memPoison = s.memPoison := rfl
@[simp] theorem settleFences_damaged (s : State) (c : Nat) : (settleFences s c).damaged = s.damaged := rfl
@[simp] theorem settleFences_blockState (s : State) (c : Nat) : (settleFences s c).blockState = s.blockState := rfl
@[simp] theorem settleFences_ctl (s : State) (c : Nat) : (settleFences s c).ctl = s.ctl := rfl
@[simp] theorem settleFences_tokensUsed (s : State) (c : Nat) : (settleFences s c).tokensUsed = s.tokensUsed := rfl
@[simp] theorem settleFences_tokenQ (s : State) (c : Nat) : (settleFences s c).tokenQ = s.tokenQ := rfl
@[simp] theorem settleFences_tokenHeld (s : State) (c : Nat) : (settleFences s c).tokenHeld = s.tokenHeld := rfl
@[simp] theorem settleFences_tokensNow (s : State) (c : Nat) : (settleFences s c).tokensNow = s.tokensNow := rfl
@[simp] theorem settleFences_tokGr (s : State) (c : Nat) : (settleFences s c).tokGr = s.tokGr := rfl
@[simp] theorem settleFences_tokWait (s : State) (c : Nat) : (settleFences s c).tokWait = s.tokWait := rfl
@[simp] theorem settleFences_mesh (s : State) (c : Nat) : (settleFences s c).mesh = s.mesh := rfl
@[simp] theorem settleFences_slices (s : State) (c : Nat) : (settleFences s c).slices = s.slices := rfl
@[simp] theorem settleFences_cores (s : State) (c : Nat) : (settleFences s c).cores = s.cores := rfl
@[simp] theorem settleFences_groups (s : State) (c : Nat) : (settleFences s c).groups = s.groups := rfl
@[simp] theorem settleFences_teams (s : State) (c : Nat) : (settleFences s c).teams = s.teams := rfl
@[simp] theorem settleFences_blocks (s : State) (c : Nat) : (settleFences s c).blocks = s.blocks := rfl
@[simp] theorem settleFences_raster (s : State) (c : Nat) : (settleFences s c).raster = s.raster := rfl
@[simp] theorem settleFences_draws (s : State) (c : Nat) : (settleFences s c).draws = s.draws := rfl
@[simp] theorem settleFences_stackUnits (s : State) (c : Nat) : (settleFences s c).stackUnits = s.stackUnits := rfl
@[simp] theorem settleFences_tests (s : State) (c : Nat) : (settleFences s c).tests = s.tests := rfl
@[simp] theorem settleFences_spares (s : State) (c : Nat) : (settleFences s c).spares = s.spares := rfl
@[simp] theorem settleFences_earlyErrors (s : State) (c : Nat) : (settleFences s c).earlyErrors = s.earlyErrors := rfl
@[simp] theorem settleFences_pkgWindow (s : State) (c : Nat) : (settleFences s c).pkgWindow = s.pkgWindow := rfl
@[simp] theorem settleFences_slsel (s : State) (c : Nat) : (settleFences s c).slsel = s.slsel := rfl
@[simp] theorem settleFences_ckpt (s : State) (c : Nat) : (settleFences s c).ckpt = s.ckpt := rfl
@[simp] theorem settleFences_wbase (s : State) (c : Nat) : (settleFences s c).wbase = s.wbase := rfl
@[simp] theorem settleFences_msix (s : State) (c : Nat) : (settleFences s c).msix = s.msix := rfl
@[simp] theorem settleFences_hostReads (s : State) (c : Nat) : (settleFences s c).hostReads = s.hostReads := rfl
@[simp] theorem settleFences_spdm (s : State) (c : Nat) : (settleFences s c).spdm = s.spdm := rfl
@[simp] theorem settleFences_answers (s : State) (c : Nat) : (settleFences s c).answers = s.answers := rfl
@[simp] theorem settleFences_imageGood (s : State) (c : Nat) : (settleFences s c).imageGood = s.imageGood := rfl
@[simp] theorem settleFences_imageId (s : State) (c : Nat) : (settleFences s c).imageId = s.imageId := rfl
@[simp] theorem settleFences_trainedPorts (s : State) (c : Nat) : (settleFences s c).trainedPorts = s.trainedPorts := rfl
@[simp] theorem settleFences_postings (s : State) (c : Nat) : (settleFences s c).postings = s.postings := rfl
@[simp] theorem settleFences_turn (s : State) (c : Nat) : (settleFences s c).turn = s.turn := rfl
@[simp] theorem settleFences_parked (s : State) (c : Nat) : (settleFences s c).parked = s.parked := rfl
@[simp] theorem settleFences_schedule (s : State) (c : Nat) : (settleFences s c).schedule = s.schedule := rfl
@[simp] theorem settleFences_nextId (s : State) (c : Nat) : (settleFences s c).nextId = s.nextId := rfl
@[simp] theorem settleFences_free (s : State) (c : Nat) : (settleFences s c).free = s.free := rfl

@[simp] theorem accDone_clk (s : State) (f : FRef) (acc : Nat) : (accDone s f acc).clk = s.clk := by simp [accDone]
@[simp] theorem accDone_time (s : State) (f : FRef) (acc : Nat) : (accDone s f acc).time = s.time := by simp [accDone]
@[simp] theorem accDone_timeSub (s : State) (f : FRef) (acc : Nat) : (accDone s f acc).timeSub = s.timeSub := by simp [accDone]
@[simp] theorem accDone_timeFollows (s : State) (f : FRef) (acc : Nat) : (accDone s f acc).timeFollows = s.timeFollows := by simp [accDone]
@[simp] theorem accDone_mem (s : State) (f : FRef) (acc : Nat) : (accDone s f acc).mem = s.mem := by simp [accDone]
@[simp] theorem accDone_memPoison (s : State) (f : FRef) (acc : Nat) : (accDone s f acc).memPoison = s.memPoison := by simp [accDone]
@[simp] theorem accDone_damaged (s : State) (f : FRef) (acc : Nat) : (accDone s f acc).damaged = s.damaged := by simp [accDone]
@[simp] theorem accDone_blockState (s : State) (f : FRef) (acc : Nat) : (accDone s f acc).blockState = s.blockState := by simp [accDone]
@[simp] theorem accDone_ctl (s : State) (f : FRef) (acc : Nat) : (accDone s f acc).ctl = s.ctl := by simp [accDone]
@[simp] theorem accDone_tokensUsed (s : State) (f : FRef) (acc : Nat) : (accDone s f acc).tokensUsed = s.tokensUsed := by simp [accDone]
@[simp] theorem accDone_tokenQ (s : State) (f : FRef) (acc : Nat) : (accDone s f acc).tokenQ = s.tokenQ := by simp [accDone]
@[simp] theorem accDone_tokenHeld (s : State) (f : FRef) (acc : Nat) : (accDone s f acc).tokenHeld = s.tokenHeld := by simp [accDone]
@[simp] theorem accDone_tokensNow (s : State) (f : FRef) (acc : Nat) : (accDone s f acc).tokensNow = s.tokensNow := by simp [accDone]
@[simp] theorem accDone_tokGr (s : State) (f : FRef) (acc : Nat) : (accDone s f acc).tokGr = s.tokGr := by simp [accDone]
@[simp] theorem accDone_tokWait (s : State) (f : FRef) (acc : Nat) : (accDone s f acc).tokWait = s.tokWait := by simp [accDone]
@[simp] theorem accDone_mesh (s : State) (f : FRef) (acc : Nat) : (accDone s f acc).mesh = s.mesh := by simp [accDone]
@[simp] theorem accDone_slices (s : State) (f : FRef) (acc : Nat) : (accDone s f acc).slices = s.slices := by simp [accDone]
@[simp] theorem accDone_cores (s : State) (f : FRef) (acc : Nat) : (accDone s f acc).cores = s.cores := by simp [accDone]
@[simp] theorem accDone_groups (s : State) (f : FRef) (acc : Nat) : (accDone s f acc).groups = s.groups := by simp [accDone]
@[simp] theorem accDone_teams (s : State) (f : FRef) (acc : Nat) : (accDone s f acc).teams = s.teams := by simp [accDone]
@[simp] theorem accDone_blocks (s : State) (f : FRef) (acc : Nat) : (accDone s f acc).blocks = s.blocks := by simp [accDone]
@[simp] theorem accDone_raster (s : State) (f : FRef) (acc : Nat) : (accDone s f acc).raster = s.raster := by simp [accDone]
@[simp] theorem accDone_draws (s : State) (f : FRef) (acc : Nat) : (accDone s f acc).draws = s.draws := by simp [accDone]
@[simp] theorem accDone_stackUnits (s : State) (f : FRef) (acc : Nat) : (accDone s f acc).stackUnits = s.stackUnits := by simp [accDone]
@[simp] theorem accDone_tests (s : State) (f : FRef) (acc : Nat) : (accDone s f acc).tests = s.tests := by simp [accDone]
@[simp] theorem accDone_spares (s : State) (f : FRef) (acc : Nat) : (accDone s f acc).spares = s.spares := by simp [accDone]
@[simp] theorem accDone_earlyErrors (s : State) (f : FRef) (acc : Nat) : (accDone s f acc).earlyErrors = s.earlyErrors := by simp [accDone]
@[simp] theorem accDone_pkgWindow (s : State) (f : FRef) (acc : Nat) : (accDone s f acc).pkgWindow = s.pkgWindow := by simp [accDone]
@[simp] theorem accDone_slsel (s : State) (f : FRef) (acc : Nat) : (accDone s f acc).slsel = s.slsel := by simp [accDone]
@[simp] theorem accDone_ckpt (s : State) (f : FRef) (acc : Nat) : (accDone s f acc).ckpt = s.ckpt := by simp [accDone]
@[simp] theorem accDone_wbase (s : State) (f : FRef) (acc : Nat) : (accDone s f acc).wbase = s.wbase := by simp [accDone]
@[simp] theorem accDone_msix (s : State) (f : FRef) (acc : Nat) : (accDone s f acc).msix = s.msix := by simp [accDone]
@[simp] theorem accDone_hostReads (s : State) (f : FRef) (acc : Nat) : (accDone s f acc).hostReads = s.hostReads := by simp [accDone]
@[simp] theorem accDone_spdm (s : State) (f : FRef) (acc : Nat) : (accDone s f acc).spdm = s.spdm := by simp [accDone]
@[simp] theorem accDone_answers (s : State) (f : FRef) (acc : Nat) : (accDone s f acc).answers = s.answers := by simp [accDone]
@[simp] theorem accDone_imageGood (s : State) (f : FRef) (acc : Nat) : (accDone s f acc).imageGood = s.imageGood := by simp [accDone]
@[simp] theorem accDone_imageId (s : State) (f : FRef) (acc : Nat) : (accDone s f acc).imageId = s.imageId := by simp [accDone]
@[simp] theorem accDone_trainedPorts (s : State) (f : FRef) (acc : Nat) : (accDone s f acc).trainedPorts = s.trainedPorts := by simp [accDone]
@[simp] theorem accDone_postings (s : State) (f : FRef) (acc : Nat) : (accDone s f acc).postings = s.postings := by simp [accDone]
@[simp] theorem accDone_turn (s : State) (f : FRef) (acc : Nat) : (accDone s f acc).turn = s.turn := by simp [accDone]
@[simp] theorem accDone_parked (s : State) (f : FRef) (acc : Nat) : (accDone s f acc).parked = s.parked := by simp [accDone]
@[simp] theorem accDone_schedule (s : State) (f : FRef) (acc : Nat) : (accDone s f acc).schedule = s.schedule := by simp [accDone]
@[simp] theorem accDone_nextId (s : State) (f : FRef) (acc : Nat) : (accDone s f acc).nextId = s.nextId := by simp [accDone]
@[simp] theorem accDone_free (s : State) (f : FRef) (acc : Nat) : (accDone s f acc).free = s.free := by simp [accDone]

@[simp] theorem hear_clk (s : State) (f : FRef) : (hear s f).clk = s.clk := by unfold hear; split <;> simp
@[simp] theorem hear_time (s : State) (f : FRef) : (hear s f).time = s.time := by unfold hear; split <;> simp
@[simp] theorem hear_timeSub (s : State) (f : FRef) : (hear s f).timeSub = s.timeSub := by unfold hear; split <;> simp
@[simp] theorem hear_timeFollows (s : State) (f : FRef) : (hear s f).timeFollows = s.timeFollows := by unfold hear; split <;> simp
@[simp] theorem hear_mem (s : State) (f : FRef) : (hear s f).mem = s.mem := by unfold hear; split <;> simp
@[simp] theorem hear_memPoison (s : State) (f : FRef) : (hear s f).memPoison = s.memPoison := by unfold hear; split <;> simp
@[simp] theorem hear_damaged (s : State) (f : FRef) : (hear s f).damaged = s.damaged := by unfold hear; split <;> simp
@[simp] theorem hear_blockState (s : State) (f : FRef) : (hear s f).blockState = s.blockState := by unfold hear; split <;> simp
@[simp] theorem hear_ctl (s : State) (f : FRef) : (hear s f).ctl = s.ctl := by unfold hear; split <;> simp
@[simp] theorem hear_tokensUsed (s : State) (f : FRef) : (hear s f).tokensUsed = s.tokensUsed := by unfold hear; split <;> simp
@[simp] theorem hear_tokenQ (s : State) (f : FRef) : (hear s f).tokenQ = s.tokenQ := by unfold hear; split <;> simp
@[simp] theorem hear_tokenHeld (s : State) (f : FRef) : (hear s f).tokenHeld = s.tokenHeld := by unfold hear; split <;> simp
@[simp] theorem hear_tokensNow (s : State) (f : FRef) : (hear s f).tokensNow = s.tokensNow := by unfold hear; split <;> simp
@[simp] theorem hear_tokGr (s : State) (f : FRef) : (hear s f).tokGr = s.tokGr := by unfold hear; split <;> simp
@[simp] theorem hear_tokWait (s : State) (f : FRef) : (hear s f).tokWait = s.tokWait := by unfold hear; split <;> simp
@[simp] theorem hear_mesh (s : State) (f : FRef) : (hear s f).mesh = s.mesh := by unfold hear; split <;> simp
@[simp] theorem hear_slices (s : State) (f : FRef) : (hear s f).slices = s.slices := by unfold hear; split <;> simp
@[simp] theorem hear_cores (s : State) (f : FRef) : (hear s f).cores = s.cores := by unfold hear; split <;> simp
@[simp] theorem hear_groups (s : State) (f : FRef) : (hear s f).groups = s.groups := by unfold hear; split <;> simp
@[simp] theorem hear_fibres (s : State) (f : FRef) : (hear s f).fibres = s.fibres := by unfold hear; split <;> simp
@[simp] theorem hear_blocks (s : State) (f : FRef) : (hear s f).blocks = s.blocks := by unfold hear; split <;> simp
@[simp] theorem hear_raster (s : State) (f : FRef) : (hear s f).raster = s.raster := by unfold hear; split <;> simp
@[simp] theorem hear_draws (s : State) (f : FRef) : (hear s f).draws = s.draws := by unfold hear; split <;> simp
@[simp] theorem hear_stackUnits (s : State) (f : FRef) : (hear s f).stackUnits = s.stackUnits := by unfold hear; split <;> simp
@[simp] theorem hear_tests (s : State) (f : FRef) : (hear s f).tests = s.tests := by unfold hear; split <;> simp
@[simp] theorem hear_spares (s : State) (f : FRef) : (hear s f).spares = s.spares := by unfold hear; split <;> simp
@[simp] theorem hear_earlyErrors (s : State) (f : FRef) : (hear s f).earlyErrors = s.earlyErrors := by unfold hear; split <;> simp
@[simp] theorem hear_pkgWindow (s : State) (f : FRef) : (hear s f).pkgWindow = s.pkgWindow := by unfold hear; split <;> simp
@[simp] theorem hear_slsel (s : State) (f : FRef) : (hear s f).slsel = s.slsel := by unfold hear; split <;> simp
@[simp] theorem hear_ckpt (s : State) (f : FRef) : (hear s f).ckpt = s.ckpt := by unfold hear; split <;> simp
@[simp] theorem hear_wbase (s : State) (f : FRef) : (hear s f).wbase = s.wbase := by unfold hear; split <;> simp
@[simp] theorem hear_msix (s : State) (f : FRef) : (hear s f).msix = s.msix := by unfold hear; split <;> simp
@[simp] theorem hear_hostReads (s : State) (f : FRef) : (hear s f).hostReads = s.hostReads := by unfold hear; split <;> simp
@[simp] theorem hear_spdm (s : State) (f : FRef) : (hear s f).spdm = s.spdm := by unfold hear; split <;> simp
@[simp] theorem hear_answers (s : State) (f : FRef) : (hear s f).answers = s.answers := by unfold hear; split <;> simp
@[simp] theorem hear_imageGood (s : State) (f : FRef) : (hear s f).imageGood = s.imageGood := by unfold hear; split <;> simp
@[simp] theorem hear_imageId (s : State) (f : FRef) : (hear s f).imageId = s.imageId := by unfold hear; split <;> simp
@[simp] theorem hear_trainedPorts (s : State) (f : FRef) : (hear s f).trainedPorts = s.trainedPorts := by unfold hear; split <;> simp
@[simp] theorem hear_postings (s : State) (f : FRef) : (hear s f).postings = s.postings := by unfold hear; split <;> simp
@[simp] theorem hear_turn (s : State) (f : FRef) : (hear s f).turn = s.turn := by unfold hear; split <;> simp
@[simp] theorem hear_parked (s : State) (f : FRef) : (hear s f).parked = s.parked := by unfold hear; split <;> simp
@[simp] theorem hear_schedule (s : State) (f : FRef) : (hear s f).schedule = s.schedule := by unfold hear; split <;> simp
@[simp] theorem hear_nextId (s : State) (f : FRef) : (hear s f).nextId = s.nextId := by unfold hear; split <;> simp
@[simp] theorem hear_free (s : State) (f : FRef) : (hear s f).free = s.free := by unfold hear; split <;> simp
@[simp] theorem llDone_clk (s : State) (f : FRef) (ll : Nat) (psn : Nat) (effs : List Eff) : (llDone s f ll psn effs).clk = s.clk := by simp [llDone]
@[simp] theorem llDone_time (s : State) (f : FRef) (ll : Nat) (psn : Nat) (effs : List Eff) : (llDone s f ll psn effs).time = s.time := by simp [llDone]
@[simp] theorem llDone_timeSub (s : State) (f : FRef) (ll : Nat) (psn : Nat) (effs : List Eff) : (llDone s f ll psn effs).timeSub = s.timeSub := by simp [llDone]
@[simp] theorem llDone_timeFollows (s : State) (f : FRef) (ll : Nat) (psn : Nat) (effs : List Eff) : (llDone s f ll psn effs).timeFollows = s.timeFollows := by simp [llDone]
@[simp] theorem llDone_mem (s : State) (f : FRef) (ll : Nat) (psn : Nat) (effs : List Eff) : (llDone s f ll psn effs).mem = s.mem := by simp [llDone]
@[simp] theorem llDone_memPoison (s : State) (f : FRef) (ll : Nat) (psn : Nat) (effs : List Eff) : (llDone s f ll psn effs).memPoison = s.memPoison := by simp [llDone]
@[simp] theorem llDone_damaged (s : State) (f : FRef) (ll : Nat) (psn : Nat) (effs : List Eff) : (llDone s f ll psn effs).damaged = s.damaged := by simp [llDone]
@[simp] theorem llDone_blockState (s : State) (f : FRef) (ll : Nat) (psn : Nat) (effs : List Eff) : (llDone s f ll psn effs).blockState = s.blockState := by simp [llDone]
@[simp] theorem llDone_ctl (s : State) (f : FRef) (ll : Nat) (psn : Nat) (effs : List Eff) : (llDone s f ll psn effs).ctl = s.ctl := by simp [llDone]
@[simp] theorem llDone_tokensUsed (s : State) (f : FRef) (ll : Nat) (psn : Nat) (effs : List Eff) : (llDone s f ll psn effs).tokensUsed = s.tokensUsed := by simp [llDone]
@[simp] theorem llDone_tokenQ (s : State) (f : FRef) (ll : Nat) (psn : Nat) (effs : List Eff) : (llDone s f ll psn effs).tokenQ = s.tokenQ := by simp [llDone]
@[simp] theorem llDone_tokenHeld (s : State) (f : FRef) (ll : Nat) (psn : Nat) (effs : List Eff) : (llDone s f ll psn effs).tokenHeld = s.tokenHeld := by simp [llDone]
@[simp] theorem llDone_tokensNow (s : State) (f : FRef) (ll : Nat) (psn : Nat) (effs : List Eff) : (llDone s f ll psn effs).tokensNow = s.tokensNow := by simp [llDone]
@[simp] theorem llDone_tokGr (s : State) (f : FRef) (ll : Nat) (psn : Nat) (effs : List Eff) : (llDone s f ll psn effs).tokGr = s.tokGr := by simp [llDone]
@[simp] theorem llDone_tokWait (s : State) (f : FRef) (ll : Nat) (psn : Nat) (effs : List Eff) : (llDone s f ll psn effs).tokWait = s.tokWait := by simp [llDone]
@[simp] theorem llDone_mesh (s : State) (f : FRef) (ll : Nat) (psn : Nat) (effs : List Eff) : (llDone s f ll psn effs).mesh = s.mesh := by simp [llDone]
@[simp] theorem llDone_slices (s : State) (f : FRef) (ll : Nat) (psn : Nat) (effs : List Eff) : (llDone s f ll psn effs).slices = s.slices := by simp [llDone]
@[simp] theorem llDone_cores (s : State) (f : FRef) (ll : Nat) (psn : Nat) (effs : List Eff) : (llDone s f ll psn effs).cores = s.cores := by simp [llDone]
@[simp] theorem llDone_groups (s : State) (f : FRef) (ll : Nat) (psn : Nat) (effs : List Eff) : (llDone s f ll psn effs).groups = s.groups := by simp [llDone]
@[simp] theorem llDone_teams (s : State) (f : FRef) (ll : Nat) (psn : Nat) (effs : List Eff) : (llDone s f ll psn effs).teams = (hear s f).teams := by simp [llDone]
@[simp] theorem llDone_blocks (s : State) (f : FRef) (ll : Nat) (psn : Nat) (effs : List Eff) : (llDone s f ll psn effs).blocks = s.blocks := by simp [llDone]
@[simp] theorem llDone_raster (s : State) (f : FRef) (ll : Nat) (psn : Nat) (effs : List Eff) : (llDone s f ll psn effs).raster = s.raster := by simp [llDone]
@[simp] theorem llDone_draws (s : State) (f : FRef) (ll : Nat) (psn : Nat) (effs : List Eff) : (llDone s f ll psn effs).draws = s.draws := by simp [llDone]
@[simp] theorem llDone_stackUnits (s : State) (f : FRef) (ll : Nat) (psn : Nat) (effs : List Eff) : (llDone s f ll psn effs).stackUnits = s.stackUnits := by simp [llDone]
@[simp] theorem llDone_tests (s : State) (f : FRef) (ll : Nat) (psn : Nat) (effs : List Eff) : (llDone s f ll psn effs).tests = s.tests := by simp [llDone]
@[simp] theorem llDone_spares (s : State) (f : FRef) (ll : Nat) (psn : Nat) (effs : List Eff) : (llDone s f ll psn effs).spares = s.spares := by simp [llDone]
@[simp] theorem llDone_earlyErrors (s : State) (f : FRef) (ll : Nat) (psn : Nat) (effs : List Eff) : (llDone s f ll psn effs).earlyErrors = s.earlyErrors := by simp [llDone]
@[simp] theorem llDone_pkgWindow (s : State) (f : FRef) (ll : Nat) (psn : Nat) (effs : List Eff) : (llDone s f ll psn effs).pkgWindow = s.pkgWindow := by simp [llDone]
@[simp] theorem llDone_slsel (s : State) (f : FRef) (ll : Nat) (psn : Nat) (effs : List Eff) : (llDone s f ll psn effs).slsel = s.slsel := by simp [llDone]
@[simp] theorem llDone_ckpt (s : State) (f : FRef) (ll : Nat) (psn : Nat) (effs : List Eff) : (llDone s f ll psn effs).ckpt = s.ckpt := by simp [llDone]
@[simp] theorem llDone_wbase (s : State) (f : FRef) (ll : Nat) (psn : Nat) (effs : List Eff) : (llDone s f ll psn effs).wbase = s.wbase := by simp [llDone]
@[simp] theorem llDone_msix (s : State) (f : FRef) (ll : Nat) (psn : Nat) (effs : List Eff) : (llDone s f ll psn effs).msix = s.msix := by simp [llDone]
@[simp] theorem llDone_hostReads (s : State) (f : FRef) (ll : Nat) (psn : Nat) (effs : List Eff) : (llDone s f ll psn effs).hostReads = s.hostReads := by simp [llDone]
@[simp] theorem llDone_spdm (s : State) (f : FRef) (ll : Nat) (psn : Nat) (effs : List Eff) : (llDone s f ll psn effs).spdm = s.spdm := by simp [llDone]
@[simp] theorem llDone_answers (s : State) (f : FRef) (ll : Nat) (psn : Nat) (effs : List Eff) : (llDone s f ll psn effs).answers = s.answers := by simp [llDone]
@[simp] theorem llDone_imageGood (s : State) (f : FRef) (ll : Nat) (psn : Nat) (effs : List Eff) : (llDone s f ll psn effs).imageGood = s.imageGood := by simp [llDone]
@[simp] theorem llDone_imageId (s : State) (f : FRef) (ll : Nat) (psn : Nat) (effs : List Eff) : (llDone s f ll psn effs).imageId = s.imageId := by simp [llDone]
@[simp] theorem llDone_trainedPorts (s : State) (f : FRef) (ll : Nat) (psn : Nat) (effs : List Eff) : (llDone s f ll psn effs).trainedPorts = s.trainedPorts := by simp [llDone]
@[simp] theorem llDone_postings (s : State) (f : FRef) (ll : Nat) (psn : Nat) (effs : List Eff) : (llDone s f ll psn effs).postings = s.postings := by simp [llDone]
@[simp] theorem llDone_turn (s : State) (f : FRef) (ll : Nat) (psn : Nat) (effs : List Eff) : (llDone s f ll psn effs).turn = s.turn := by simp [llDone]
@[simp] theorem llDone_parked (s : State) (f : FRef) (ll : Nat) (psn : Nat) (effs : List Eff) : (llDone s f ll psn effs).parked = s.parked := by simp [llDone]
@[simp] theorem llDone_schedule (s : State) (f : FRef) (ll : Nat) (psn : Nat) (effs : List Eff) : (llDone s f ll psn effs).schedule = s.schedule := by simp [llDone]
@[simp] theorem llDone_nextId (s : State) (f : FRef) (ll : Nat) (psn : Nat) (effs : List Eff) : (llDone s f ll psn effs).nextId = s.nextId := by simp [llDone]
@[simp] theorem llDone_free (s : State) (f : FRef) (ll : Nat) (psn : Nat) (effs : List Eff) : (llDone s f ll psn effs).free = s.free := by simp [llDone]

end Sys2Proof.Machine
end

