-- ==== Sys2Proof/Laws/Lanes.lean ====
section
/-!
SUPPORT. Lanes that act each on its own fibre: what a fold over the lanes leaves, and that operands read the same before and after
another lane has acted.
-/
namespace Sys2Proof.Laws

open Machine

/-- The two states differ at most in what their fibres hold and in the identities used; the same places hold fibres. -/
structure SameBut (s t : State) : Prop where
  rest : { t with fibres := s.fibres, nextId := s.nextId } = s
  keys : t.fibres.map Prod.fst = s.fibres.map Prod.fst

theorem SameBut.refl (s : State) : SameBut s s := ⟨rfl, rfl⟩

theorem SameBut.trans {s t u : State} (a : SameBut s t) (b : SameBut t u) : SameBut s u := by
  refine ⟨?_, b.keys.trans a.keys⟩
  have := a.rest
  rw [← b.rest] at this
  simpa using this

/-- A table's keys do not change when a listed key takes a new value. -/
theorem keys_tput {α β : Type} [DecidableEq α] (t : Tbl α β) (k : α) (v w : β) (h : tget t k = some w) :
    (tput t k v).map Prod.fst = t.map Prod.fst := by
  induction t with
  | nil => simp [tget] at h
  | cons e t ih =>
    obtain ⟨a, b⟩ := e
    by_cases e : a = k
    · simp [tput, e]
    · simp only [tget, if_neg e] at h
      simp [tput, e, ih h]

theorem SameBut.modFib (s : State) (f : FRef) (g : Fibre → Fibre) : SameBut s (modFib s f g) := by
  unfold Machine.modFib
  cases h : getFib s f with
  | none => exact .refl s
  | some x => exact ⟨rfl, keys_tput _ _ _ x h⟩

theorem SameBut.fresh (s : State) : SameBut s (freshId s).2 := ⟨rfl, rfl⟩

theorem SameBut.eq {s t : State} (h : SameBut s t) : t = { s with fibres := t.fibres, nextId := t.nextId } := by
  have := h.rest
  rw [← this]

/-- The lanes of a group are the same places. -/
theorem lanesOf_sameBut {s t : State} (h : SameBut s t) (core slot : Nat) : lanesOf t core slot = lanesOf s core slot := by
  have key : ∀ l : Tbl FRef Fibre, (l.filter fun e => decide (e.1.core = core ∧ e.1.slot = slot)).map (fun e => e.1.lane) =
      ((l.map Prod.fst).filter fun f => decide (f.core = core ∧ f.slot = slot)).map FRef.lane := by
    intro l
    induction l with
    | nil => rfl
    | cons e l ih => by_cases c : e.1.core = core ∧ e.1.slot = slot <;> simp [c] at ih ⊢ <;> exact ih
  unfold lanesOf
  rw [key, key, h.keys]

/-- A special register reads the same. -/
theorem specialOf_sameBut {s t : State} (h : SameBut s t) (f : FRef) (x : Fibre) (b : List Nat) (c : Nat) :
    specialOf t f x b c = specialOf s f x b c := by
  have e := h.eq
  have l := lanesOf_sameBut h f.core f.slot
  unfold specialOf
  simp only [l]
  rw [e]
  rfl

/-- A source operand reads the same. -/
theorem srcOf_sameBut {s t : State} (h : SameBut s t) (is : Issue) (l : Nat) (x : Fibre) (imm : Word) (c : Code) :
    srcOf t is l x imm c = srcOf s is l x imm c := by
  unfold srcOf
  simp only [specialOf_sameBut h]

/-- Lanes that each change their own fibre: each active fibre is changed once, no other is. -/
theorem eachLane_modFib {s : State} (is : Issue) (k : State → Nat → Fibre → Fibre)
    (same : ∀ t l x, SameBut s t → k t l x = k s l x) : ∀ (act : List Nat) (u : State), act.Nodup → SameBut s u →
    SameBut s (eachLane act (fun s l => modFib s (is.fref l) (k s l)) u) ∧
    (eachLane act (fun s l => modFib s (is.fref l) (k s l)) u).nextId = u.nextId ∧
    (∀ l ∈ act, ∀ x, getFib u (is.fref l) = some x → getFib (eachLane act (fun s l => modFib s (is.fref l) (k s l)) u) (is.fref l) = some (k s l x)) ∧
    (∀ f, (∀ l ∈ act, f ≠ is.fref l) → getFib (eachLane act (fun s l => modFib s (is.fref l) (k s l)) u) f = getFib u f) := by
  intro act
  induction act with
  | nil => intro u _ h; exact ⟨h, rfl, by simp, fun _ _ => rfl⟩
  | cons a act ih =>
    intro u nd h
    obtain ⟨na, nd⟩ := List.nodup_cons.mp nd
    have ne : ∀ l ∈ act, is.fref l ≠ is.fref a := by
      intro l hl e; simp only [Issue.fref, FRef.mk.injEq, true_and] at e; exact na (e ▸ hl)
    have step : eachLane (a :: act) (fun s l => modFib s (is.fref l) (k s l)) u =
        eachLane act (fun s l => modFib s (is.fref l) (k s l)) (modFib u (is.fref a) (k u a)) := rfl
    rw [step]
    obtain ⟨h1, h2, h3, h4⟩ := ih _ nd (h.trans (.modFib u (is.fref a) (k u a)))
    refine ⟨h1, h2.trans (by simp), ?_, ?_⟩
    · intro l hl x hx
      rcases List.mem_cons.mp hl with rfl | hl
      · rw [h4 _ (fun m hm => (ne m hm).symm), getFib_modFib_self, hx, ← same u _ _ h]; rfl
      · exact h3 l hl x (by rw [getFib_modFib_ne _ _ (ne l hl)]; exact hx)
    · intro f hf
      rw [h4 f (fun l hl => hf l (List.mem_cons_of_mem _ hl)), getFib_modFib_ne _ _ (hf a List.mem_cons_self)]

/-- The same where each lane first takes a fresh identity. -/
theorem eachLane_freshFib {s : State} (is : Issue) (k : State → Nat → Nat → Fibre → Fibre)
    (same : ∀ t l n x, SameBut s t → k t l n x = k s l n x) : ∀ (act : List Nat) (u : State), act.Nodup → SameBut s u →
    SameBut s (eachLane act (fun s l => modFib (freshId s).2 (is.fref l) (k (freshId s).2 l (freshId s).1)) u) ∧
    (∀ l ∈ act, ∀ x, getFib u (is.fref l) = some x →
      ∃ n, getFib (eachLane act (fun s l => modFib (freshId s).2 (is.fref l) (k (freshId s).2 l (freshId s).1)) u) (is.fref l) = some (k s l n x)) ∧
    (∀ f, (∀ l ∈ act, f ≠ is.fref l) →
      getFib (eachLane act (fun s l => modFib (freshId s).2 (is.fref l) (k (freshId s).2 l (freshId s).1)) u) f = getFib u f) := by
  intro act
  induction act with
  | nil => intro u _ h; exact ⟨h, by simp, fun _ _ => rfl⟩
  | cons a act ih =>
    intro u nd h
    obtain ⟨na, nd⟩ := List.nodup_cons.mp nd
    have ne : ∀ l ∈ act, is.fref l ≠ is.fref a := by
      intro l hl e; simp only [Issue.fref, FRef.mk.injEq, true_and] at e; exact na (e ▸ hl)
    have step : eachLane (a :: act) (fun s l => modFib (freshId s).2 (is.fref l) (k (freshId s).2 l (freshId s).1)) u =
        eachLane act (fun s l => modFib (freshId s).2 (is.fref l) (k (freshId s).2 l (freshId s).1))
          (modFib (freshId u).2 (is.fref a) (k (freshId u).2 a (freshId u).1)) := rfl
    rw [step]
    have hf' : SameBut s (freshId u).2 := h.trans (.fresh u)
    obtain ⟨h1, h3, h4⟩ := ih _ nd (hf'.trans (.modFib (freshId u).2 (is.fref a) (k (freshId u).2 a (freshId u).1)))
    refine ⟨h1, ?_, ?_⟩
    · intro l hl x hx
      rcases List.mem_cons.mp hl with rfl | hl
      · refine ⟨(freshId u).1, ?_⟩
        rw [h4 _ (fun m hm => (ne m hm).symm), getFib_modFib_self, show getFib (freshId u).2 (is.fref l) = some x from hx,
          ← same (freshId u).2 _ _ _ hf']; rfl
      · exact h3 l hl x (by rw [getFib_modFib_ne _ _ (ne l hl)]; exact hx)
    · intro f hf
      rw [h4 f (fun l hl => hf l (List.mem_cons_of_mem _ hl)), getFib_modFib_ne _ _ (hf a List.mem_cons_self)]; rfl

/-- The active lanes of an instruction are distinct. -/
theorem Issues.nodup {s : State} {h : Head} {ops : Named} {is : Issue} {act : List Nat} (H : Issues s h ops is act) : act.Nodup := by
  rw [← H.active]; exact H.distinct.filter _

/-- What `perLane` answers where the instruction issues: each active fibre gains its pending effects, nothing else changes. -/
theorem perLane_issues {s : State} {i : Instr} {h : Head} {is : Issue} {act : List Nat} (H : Issues s h (namedOf i) is act) (dist : Nat)
    (k : State → Issue → Nat → Fibre → List Eff) (same : ∀ t l x, SameBut s t → k t is l x = k s is l x) :
    ∃ t, perLane s i h dist k = .next t ∧
      (∀ l ∈ act, ∀ x, getFib s (is.fref l) = some x → getFib t (is.fref l) = some (addPends x dist (k s is l x))) ∧
      (∀ f, (∀ l ∈ act, f ≠ is.fref l) → getFib t f = getFib s f) ∧ { t with fibres := s.fibres } = s := by
  obtain ⟨h1, h2, h3, h4⟩ := eachLane_modFib is (fun s l x => addPends x dist (k s is l x)) (fun t l x e => by simp only [same t l x e])
    act s (Issues.nodup H) (.refl s)
  refine ⟨_, onActive_issues H _, h3, h4, ?_⟩
  have := h1.rest
  rw [← h2] at this
  simpa using this

/-- What `perLaneLong` answers where the instruction issues. -/
theorem perLaneLong_issues {s : State} {i : Instr} {h : Head} {is : Issue} {act : List Nat} (H : Issues s h (namedOf i) is act)
    (k : State → Issue → Nat → Fibre → List Eff) (same : ∀ t l x, SameBut s t → k t is l x = k s is l x) :
    ∃ t, perLaneLong s i h k = .next t ∧
      (∀ l ∈ act, ∀ x, getFib s (is.fref l) = some x → ∃ id, getFib t (is.fref l) = some (addKnown x id (k s is l x))) ∧
      (∀ f, (∀ l ∈ act, f ≠ is.fref l) → getFib t f = getFib s f) ∧ { t with fibres := s.fibres, nextId := s.nextId } = s := by
  obtain ⟨h1, h3, h4⟩ := eachLane_freshFib is (fun s l id x => addKnown x id (k s is l x)) (fun t l n x e => by simp only [same t l x e])
    act s (Issues.nodup H) (.refl s)
  exact ⟨_, onActive_issues H _, h3, h4, h1.rest⟩

end Sys2Proof.Laws
end

