-- ==== Sys2Proof/Laws/Memory.lean ====
section
/-!
SUPPORT. Byte memory as a canonical list: read after write, and that every memory operation keeps the canonical form.
-/
namespace Sys2Proof.Machine

/-- A canonical list above `lo` is canonical above any lower bound. -/
theorem Memory.wfFrom_mono {lo lo' : Nat} (h : lo' ≤ lo) : ∀ {m : List Host.Cell}, Memory.wfFrom lo m = true → Memory.wfFrom lo' m = true
  | [], _ => rfl
  | (a, v) :: t, hm => by
    simp only [Memory.wfFrom, Bool.and_eq_true, decide_eq_true_eq] at hm ⊢
    exact ⟨⟨by omega, hm.1.2⟩, hm.2⟩

/-- A write at or above the bound keeps the canonical form above it. -/
theorem Memory.write_wfFrom {lo a : Nat} {v : Byte} (ha : lo ≤ a) :
    ∀ {m : List Host.Cell}, Memory.wfFrom lo m = true → Memory.wfFrom lo (Memory.write m a v) = true
  | [], _ => by
    unfold Memory.write; split <;> simp_all [Memory.wfFrom]
  | (b, w) :: t, hm => by
    simp only [Memory.wfFrom, Bool.and_eq_true, decide_eq_true_eq] at hm
    unfold Memory.write
    split
    · split
      · simp only [Memory.wfFrom, Bool.and_eq_true, decide_eq_true_eq]; exact hm
      · simp only [Memory.wfFrom, Bool.and_eq_true, decide_eq_true_eq]
        exact ⟨⟨ha, by assumption⟩, ⟨by omega, hm.1.2⟩, hm.2⟩
    · split
      · split
        · exact Memory.wfFrom_mono (by omega) hm.2
        · simp only [Memory.wfFrom, Bool.and_eq_true, decide_eq_true_eq]
          exact ⟨⟨ha, by assumption⟩, by subst_vars; exact hm.2⟩
      · simp only [Memory.wfFrom, Bool.and_eq_true, decide_eq_true_eq]
        exact ⟨hm.1, Memory.write_wfFrom (by omega) hm.2⟩

/-- A write keeps the canonical form. -/
theorem Memory.write_wf {m : List Host.Cell} {a : Nat} {v : Byte} (hm : Memory.wf m = true) : Memory.wf (Memory.write m a v) = true :=
  Memory.write_wfFrom (Nat.zero_le a) hm

/-- Consecutive writes keep the canonical form. -/
theorem Memory.writes_wf : ∀ {bytes : List Byte} {m : List Host.Cell} {a : Nat}, Memory.wf m = true → Memory.wf (Memory.writes m a bytes) = true
  | [], _, _, h => h
  | b :: t, m, a, h => Memory.writes_wf (bytes := t) (m := Memory.write m a b) (Memory.write_wf h)

/-- An address below every listed one reads as an unlisted byte. -/
theorem Memory.read_below {lo a : Nat} (h : a < lo) : ∀ {m : List Host.Cell}, Memory.wfFrom lo m = true → Memory.read m a = Memory.unlisted
  | [], _ => rfl
  | (b, w) :: t, hm => by
    simp only [Memory.wfFrom, Bool.and_eq_true, decide_eq_true_eq] at hm
    rw [Memory.read, if_neg (by omega)]
    exact Memory.read_below (by omega) hm.2

/-- A byte just written reads back. -/
theorem Memory.read_write_same {lo a : Nat} {v : Byte} :
    ∀ {m : List Host.Cell}, Memory.wfFrom lo m = true → Memory.read (Memory.write m a v) a = v
  | [], _ => by
    unfold Memory.write; split
    · subst_vars; rfl
    · simp [Memory.read]
  | (b, w) :: t, hm => by
    simp only [Memory.wfFrom, Bool.and_eq_true, decide_eq_true_eq] at hm
    unfold Memory.write
    split
    · split
      · subst_vars
        rw [Memory.read, if_neg (by omega)]; exact Memory.read_below (by omega) hm.2
      · simp [Memory.read]
    · split
      · split
        · subst_vars; exact Memory.read_below (Nat.lt_succ_self _) hm.2
        · simp [Memory.read]
      · rw [Memory.read, if_neg (by assumption)]; exact Memory.read_write_same hm.2

/-- A write leaves every other address as it was. -/
theorem Memory.read_write_other {a b : Nat} {v : Byte} (h : b ≠ a) : ∀ {m : List Host.Cell}, Memory.read (Memory.write m a v) b = Memory.read m b
  | [] => by
    unfold Memory.write; split
    · rfl
    · simp [Memory.read, h]
  | (c, w) :: t => by
    unfold Memory.write
    split
    · split
      · rfl
      · simp [Memory.read, h]
    · split
      · split
        · subst_vars; simp [Memory.read, h]
        · subst_vars; simp [Memory.read, h]
      · simp only [Memory.read]; split
        · rfl
        · exact Memory.read_write_other h

/-- Consecutive writes leave every address outside them as it was. -/
theorem Memory.read_writes_other : ∀ {bytes : List Byte} {m : List Host.Cell} {a b : Nat}, (b < a ∨ a + bytes.length ≤ b) →
    Memory.read (Memory.writes m a bytes) b = Memory.read m b
  | [], _, _, _, _ => rfl
  | _ :: t, m, a, b, h => by
    simp only [List.length_cons] at h
    rw [Memory.writes, Memory.read_writes_other (by omega), Memory.read_write_other (by omega)]

/-- The canonical form is canonical. -/
theorem Memory.canon_wf : ∀ m : List Host.Cell, Memory.wf (Memory.canon m) = true
  | [] => rfl
  | (_, _) :: t => Memory.write_wf (m := Memory.canon t) (Memory.canon_wf t)

/-- The canonical form reads as the list it is made from. -/
theorem Memory.canon_read : ∀ (m : List Host.Cell) (a : Nat), Memory.read (Memory.canon m) a = Memory.read m a
  | [], _ => rfl
  | (b, v) :: t, a => by
    show Memory.read (Memory.write (Memory.canon t) b v) a = _
    by_cases h : a = b
    · subst h; rw [Memory.read_write_same (lo := 0) (Memory.canon_wf t)]; simp [Memory.read]
    · rw [Memory.read_write_other h, Memory.canon_read t a]; simp [Memory.read, h]

end Sys2Proof.Machine
end

