-- ==== Sys2Proof/Laws/PerInstr.lean ====
section
/-!
SUPPORT. The family EncodesOnce, one lemma per constructor: the opcode and the MOD or SUB form of a well-formed instruction's word name that
instruction again, with every field; a device step has no word.
-/
namespace Sys2Proof.Laws.EncodesOnce

set_option Elab.async false

/-- An instruction that fails no encoding check has legal values in its other fields (R338). -/
theorem values_of_firstBad {i : Instr} (hf : i.firstBad = none) : i.form.values = true := by
  unfold Instr.firstBad at hf
  cases hr : i.form.reserved <;> cases hv : i.form.values <;> simp_all

/-- A well-formed instruction's word names it (R333, R335, R340). -/
def Statement (i : Instr) : Prop :=
  WellFormed i → ∀ w, encode i = some w → ofOpcode (w.extractLsb' 86 10) (headOf w) w = some i

/-- The family at elect. -/
theorem elect (h : Head) (o : BodyA) : Statement (.elect h o) := by
  rintro - w hw; obtain rfl := Option.some.inj hw
  rw [opc_packA, head_packA]; exact congrArg (fun o => some (Instr.elect h o)) (body_packA _ h o)
/-- The family at vote. -/
theorem vote (h : Head) (o : BodyA) : Statement (.vote h o) := by
  rintro - w hw; obtain rfl := Option.some.inj hw
  rw [opc_packA, head_packA]; exact congrArg (fun o => some (Instr.vote h o)) (body_packA _ h o)
/-- The family at shfl. -/
theorem shfl (h : Head) (o : BodyA) : Statement (.shfl h o) := by
  rintro - w hw; obtain rfl := Option.some.inj hw
  rw [opc_packA, head_packA]; exact congrArg (fun o => some (Instr.shfl h o)) (body_packA _ h o)
/-- The family at iadd. -/
theorem iadd (h : Head) (o : BodyA) : Statement (.iadd h o) := by
  rintro - w hw; obtain rfl := Option.some.inj hw
  rw [opc_packA, head_packA]; exact congrArg (fun o => some (Instr.iadd h o)) (body_packA _ h o)
/-- The family at isub. -/
theorem isub (h : Head) (o : BodyA) : Statement (.isub h o) := by
  rintro - w hw; obtain rfl := Option.some.inj hw
  rw [opc_packA, head_packA]; exact congrArg (fun o => some (Instr.isub h o)) (body_packA _ h o)
/-- The family at imul. -/
theorem imul (h : Head) (o : BodyA) : Statement (.imul h o) := by
  rintro - w hw; obtain rfl := Option.some.inj hw
  rw [opc_packA, head_packA]; exact congrArg (fun o => some (Instr.imul h o)) (body_packA _ h o)
/-- The family at imad. -/
theorem imad (h : Head) (o : BodyA) : Statement (.imad h o) := by
  rintro - w hw; obtain rfl := Option.some.inj hw
  rw [opc_packA, head_packA]; exact congrArg (fun o => some (Instr.imad h o)) (body_packA _ h o)
/-- The family at idiv. -/
theorem idiv (h : Head) (o : BodyA) : Statement (.idiv h o) := by
  rintro - w hw; obtain rfl := Option.some.inj hw
  rw [opc_packA, head_packA]; exact congrArg (fun o => some (Instr.idiv h o)) (body_packA _ h o)
/-- The family at irem. -/
theorem irem (h : Head) (o : BodyA) : Statement (.irem h o) := by
  rintro - w hw; obtain rfl := Option.some.inj hw
  rw [opc_packA, head_packA]; exact congrArg (fun o => some (Instr.irem h o)) (body_packA _ h o)
/-- The family at imin. -/
theorem imin (h : Head) (o : BodyA) : Statement (.imin h o) := by
  rintro - w hw; obtain rfl := Option.some.inj hw
  rw [opc_packA, head_packA]; exact congrArg (fun o => some (Instr.imin h o)) (body_packA _ h o)
/-- The family at imax. -/
theorem imax (h : Head) (o : BodyA) : Statement (.imax h o) := by
  rintro - w hw; obtain rfl := Option.some.inj hw
  rw [opc_packA, head_packA]; exact congrArg (fun o => some (Instr.imax h o)) (body_packA _ h o)
/-- The family at iabs. -/
theorem iabs (h : Head) (o : BodyA) : Statement (.iabs h o) := by
  rintro - w hw; obtain rfl := Option.some.inj hw
  rw [opc_packA, head_packA]; exact congrArg (fun o => some (Instr.iabs h o)) (body_packA _ h o)
/-- The family at and. -/
theorem and (h : Head) (o : BodyA) : Statement (.and h o) := by
  rintro - w hw; obtain rfl := Option.some.inj hw
  rw [opc_packA, head_packA]; exact congrArg (fun o => some (Instr.and h o)) (body_packA _ h o)
/-- The family at or. -/
theorem or (h : Head) (o : BodyA) : Statement (.or h o) := by
  rintro - w hw; obtain rfl := Option.some.inj hw
  rw [opc_packA, head_packA]; exact congrArg (fun o => some (Instr.or h o)) (body_packA _ h o)
/-- The family at xor. -/
theorem xor (h : Head) (o : BodyA) : Statement (.xor h o) := by
  rintro - w hw; obtain rfl := Option.some.inj hw
  rw [opc_packA, head_packA]; exact congrArg (fun o => some (Instr.xor h o)) (body_packA _ h o)
/-- The family at andn. -/
theorem andn (h : Head) (o : BodyA) : Statement (.andn h o) := by
  rintro - w hw; obtain rfl := Option.some.inj hw
  rw [opc_packA, head_packA]; exact congrArg (fun o => some (Instr.andn h o)) (body_packA _ h o)
/-- The family at shl. -/
theorem shl (h : Head) (o : BodyA) : Statement (.shl h o) := by
  rintro - w hw; obtain rfl := Option.some.inj hw
  rw [opc_packA, head_packA]; exact congrArg (fun o => some (Instr.shl h o)) (body_packA _ h o)
/-- The family at shr. -/
theorem shr (h : Head) (o : BodyA) : Statement (.shr h o) := by
  rintro - w hw; obtain rfl := Option.some.inj hw
  rw [opc_packA, head_packA]; exact congrArg (fun o => some (Instr.shr h o)) (body_packA _ h o)
/-- The family at sar. -/
theorem sar (h : Head) (o : BodyA) : Statement (.sar h o) := by
  rintro - w hw; obtain rfl := Option.some.inj hw
  rw [opc_packA, head_packA]; exact congrArg (fun o => some (Instr.sar h o)) (body_packA _ h o)
/-- The family at rol. -/
theorem rol (h : Head) (o : BodyA) : Statement (.rol h o) := by
  rintro - w hw; obtain rfl := Option.some.inj hw
  rw [opc_packA, head_packA]; exact congrArg (fun o => some (Instr.rol h o)) (body_packA _ h o)
/-- The family at bfx. -/
theorem bfx (h : Head) (o : BodyA) : Statement (.bfx h o) := by
  rintro - w hw; obtain rfl := Option.some.inj hw
  rw [opc_packA, head_packA]; exact congrArg (fun o => some (Instr.bfx h o)) (body_packA _ h o)
/-- The family at bfi. -/
theorem bfi (h : Head) (o : BodyA) : Statement (.bfi h o) := by
  rintro - w hw; obtain rfl := Option.some.inj hw
  rw [opc_packA, head_packA]; exact congrArg (fun o => some (Instr.bfi h o)) (body_packA _ h o)
/-- The family at popc. -/
theorem popc (h : Head) (o : BodyA) : Statement (.popc h o) := by
  rintro - w hw; obtain rfl := Option.some.inj hw
  rw [opc_packA, head_packA]; exact congrArg (fun o => some (Instr.popc h o)) (body_packA _ h o)
/-- The family at clz. -/
theorem clz (h : Head) (o : BodyA) : Statement (.clz h o) := by
  rintro - w hw; obtain rfl := Option.some.inj hw
  rw [opc_packA, head_packA]; exact congrArg (fun o => some (Instr.clz h o)) (body_packA _ h o)
/-- The family at brev. -/
theorem brev (h : Head) (o : BodyA) : Statement (.brev h o) := by
  rintro - w hw; obtain rfl := Option.some.inj hw
  rw [opc_packA, head_packA]; exact congrArg (fun o => some (Instr.brev h o)) (body_packA _ h o)
/-- The family at iset. -/
theorem iset (h : Head) (o : BodyA) : Statement (.iset h o) := by
  rintro - w hw; obtain rfl := Option.some.inj hw
  rw [opc_packA, head_packA]; exact congrArg (fun o => some (Instr.iset h o)) (body_packA _ h o)
/-- The family at pset. -/
theorem pset (h : Head) (o : BodyA) : Statement (.pset h o) := by
  rintro - w hw; obtain rfl := Option.some.inj hw
  rw [opc_packA, head_packA]; exact congrArg (fun o => some (Instr.pset h o)) (body_packA _ h o)
/-- The family at sel. -/
theorem sel (h : Head) (o : BodyA) : Statement (.sel h o) := by
  rintro - w hw; obtain rfl := Option.some.inj hw
  rw [opc_packA, head_packA]; exact congrArg (fun o => some (Instr.sel h o)) (body_packA _ h o)
/-- The family at mov. -/
theorem mov (h : Head) (o : BodyA) : Statement (.mov h o) := by
  rintro - w hw; obtain rfl := Option.some.inj hw
  rw [opc_packA, head_packA]; exact congrArg (fun o => some (Instr.mov h o)) (body_packA _ h o)
/-- The family at movi. -/
theorem movi (h : Head) (o : BodyA) : Statement (.movi h o) := by
  rintro - w hw; obtain rfl := Option.some.inj hw
  rw [opc_packA, head_packA]; exact congrArg (fun o => some (Instr.movi h o)) (body_packA _ h o)
/-- The family at iadd64. -/
theorem iadd64 (h : Head) (o : BodyA) : Statement (.iadd64 h o) := by
  rintro - w hw; obtain rfl := Option.some.inj hw
  rw [opc_packA, head_packA]; exact congrArg (fun o => some (Instr.iadd64 h o)) (body_packA _ h o)
/-- The family at isub64. -/
theorem isub64 (h : Head) (o : BodyA) : Statement (.isub64 h o) := by
  rintro - w hw; obtain rfl := Option.some.inj hw
  rw [opc_packA, head_packA]; exact congrArg (fun o => some (Instr.isub64 h o)) (body_packA _ h o)
/-- The family at imad64. -/
theorem imad64 (h : Head) (o : BodyA) : Statement (.imad64 h o) := by
  rintro - w hw; obtain rfl := Option.some.inj hw
  rw [opc_packA, head_packA]; exact congrArg (fun o => some (Instr.imad64 h o)) (body_packA _ h o)
/-- The family at iset64. -/
theorem iset64 (h : Head) (o : BodyA) : Statement (.iset64 h o) := by
  rintro - w hw; obtain rfl := Option.some.inj hw
  rw [opc_packA, head_packA]; exact congrArg (fun o => some (Instr.iset64 h o)) (body_packA _ h o)
/-- The family at lea. -/
theorem lea (h : Head) (o : BodyA) : Statement (.lea h o) := by
  rintro - w hw; obtain rfl := Option.some.inj hw
  rw [opc_packA, head_packA]; exact congrArg (fun o => some (Instr.lea h o)) (body_packA _ h o)
/-- The family at pmov. -/
theorem pmov (h : Head) (o : BodyA) : Statement (.pmov h o) := by
  rintro - w hw; obtain rfl := Option.some.inj hw
  rw [opc_packA, head_packA]; exact congrArg (fun o => some (Instr.pmov h o)) (body_packA _ h o)
/-- The family at hmix. -/
theorem hmix (h : Head) (o : BodyA) : Statement (.hmix h o) := by
  rintro - w hw; obtain rfl := Option.some.inj hw
  rw [opc_packA, head_packA]; exact congrArg (fun o => some (Instr.hmix h o)) (body_packA _ h o)
/-- The family at fadd. -/
theorem fadd (h : Head) (o : BodyA) : Statement (.fadd h o) := by
  rintro - w hw; obtain rfl := Option.some.inj hw
  rw [opc_packA, head_packA]; exact congrArg (fun o => some (Instr.fadd h o)) (body_packA _ h o)
/-- The family at fsub. -/
theorem fsub (h : Head) (o : BodyA) : Statement (.fsub h o) := by
  rintro - w hw; obtain rfl := Option.some.inj hw
  rw [opc_packA, head_packA]; exact congrArg (fun o => some (Instr.fsub h o)) (body_packA _ h o)
/-- The family at fmul. -/
theorem fmul (h : Head) (o : BodyA) : Statement (.fmul h o) := by
  rintro - w hw; obtain rfl := Option.some.inj hw
  rw [opc_packA, head_packA]; exact congrArg (fun o => some (Instr.fmul h o)) (body_packA _ h o)
/-- The family at ffma. -/
theorem ffma (h : Head) (o : BodyA) : Statement (.ffma h o) := by
  rintro - w hw; obtain rfl := Option.some.inj hw
  rw [opc_packA, head_packA]; exact congrArg (fun o => some (Instr.ffma h o)) (body_packA _ h o)
/-- The family at fmin. -/
theorem fmin (h : Head) (o : BodyA) : Statement (.fmin h o) := by
  rintro - w hw; obtain rfl := Option.some.inj hw
  rw [opc_packA, head_packA]; exact congrArg (fun o => some (Instr.fmin h o)) (body_packA _ h o)
/-- The family at fmax. -/
theorem fmax (h : Head) (o : BodyA) : Statement (.fmax h o) := by
  rintro - w hw; obtain rfl := Option.some.inj hw
  rw [opc_packA, head_packA]; exact congrArg (fun o => some (Instr.fmax h o)) (body_packA _ h o)
/-- The family at fset. -/
theorem fset (h : Head) (o : BodyA) : Statement (.fset h o) := by
  rintro - w hw; obtain rfl := Option.some.inj hw
  rw [opc_packA, head_packA]; exact congrArg (fun o => some (Instr.fset h o)) (body_packA _ h o)
/-- The family at fclass. -/
theorem fclass (h : Head) (o : BodyA) : Statement (.fclass h o) := by
  rintro - w hw; obtain rfl := Option.some.inj hw
  rw [opc_packA, head_packA]; exact congrArg (fun o => some (Instr.fclass h o)) (body_packA _ h o)
/-- The family at frcp. -/
theorem frcp (h : Head) (o : BodyA) : Statement (.frcp h o) := by
  rintro - w hw; obtain rfl := Option.some.inj hw
  rw [opc_packA, head_packA]; exact congrArg (fun o => some (Instr.frcp h o)) (body_packA _ h o)
/-- The family at frsq. -/
theorem frsq (h : Head) (o : BodyA) : Statement (.frsq h o) := by
  rintro - w hw; obtain rfl := Option.some.inj hw
  rw [opc_packA, head_packA]; exact congrArg (fun o => some (Instr.frsq h o)) (body_packA _ h o)
/-- The family at fsqrt. -/
theorem fsqrt (h : Head) (o : BodyA) : Statement (.fsqrt h o) := by
  rintro - w hw; obtain rfl := Option.some.inj hw
  rw [opc_packA, head_packA]; exact congrArg (fun o => some (Instr.fsqrt h o)) (body_packA _ h o)
/-- The family at fdiv. -/
theorem fdiv (h : Head) (o : BodyA) : Statement (.fdiv h o) := by
  rintro - w hw; obtain rfl := Option.some.inj hw
  rw [opc_packA, head_packA]; exact congrArg (fun o => some (Instr.fdiv h o)) (body_packA _ h o)
/-- The family at fex2. -/
theorem fex2 (h : Head) (o : BodyA) : Statement (.fex2 h o) := by
  rintro - w hw; obtain rfl := Option.some.inj hw
  rw [opc_packA, head_packA]; exact congrArg (fun o => some (Instr.fex2 h o)) (body_packA _ h o)
/-- The family at flg2. -/
theorem flg2 (h : Head) (o : BodyA) : Statement (.flg2 h o) := by
  rintro - w hw; obtain rfl := Option.some.inj hw
  rw [opc_packA, head_packA]; exact congrArg (fun o => some (Instr.flg2 h o)) (body_packA _ h o)
/-- The family at fsin. -/
theorem fsin (h : Head) (o : BodyA) : Statement (.fsin h o) := by
  rintro - w hw; obtain rfl := Option.some.inj hw
  rw [opc_packA, head_packA]; exact congrArg (fun o => some (Instr.fsin h o)) (body_packA _ h o)
/-- The family at fcos. -/
theorem fcos (h : Head) (o : BodyA) : Statement (.fcos h o) := by
  rintro - w hw; obtain rfl := Option.some.inj hw
  rw [opc_packA, head_packA]; exact congrArg (fun o => some (Instr.fcos h o)) (body_packA _ h o)
/-- The family at ftanh. -/
theorem ftanh (h : Head) (o : BodyA) : Statement (.ftanh h o) := by
  rintro - w hw; obtain rfl := Option.some.inj hw
  rw [opc_packA, head_packA]; exact congrArg (fun o => some (Instr.ftanh h o)) (body_packA _ h o)
/-- The family at fsigm. -/
theorem fsigm (h : Head) (o : BodyA) : Statement (.fsigm h o) := by
  rintro - w hw; obtain rfl := Option.some.inj hw
  rw [opc_packA, head_packA]; exact congrArg (fun o => some (Instr.fsigm h o)) (body_packA _ h o)
/-- The family at dadd. -/
theorem dadd (h : Head) (o : BodyA) : Statement (.dadd h o) := by
  rintro - w hw; obtain rfl := Option.some.inj hw
  rw [opc_packA, head_packA]; exact congrArg (fun o => some (Instr.dadd h o)) (body_packA _ h o)
/-- The family at dmul. -/
theorem dmul (h : Head) (o : BodyA) : Statement (.dmul h o) := by
  rintro - w hw; obtain rfl := Option.some.inj hw
  rw [opc_packA, head_packA]; exact congrArg (fun o => some (Instr.dmul h o)) (body_packA _ h o)
/-- The family at dfma. -/
theorem dfma (h : Head) (o : BodyA) : Statement (.dfma h o) := by
  rintro - w hw; obtain rfl := Option.some.inj hw
  rw [opc_packA, head_packA]; exact congrArg (fun o => some (Instr.dfma h o)) (body_packA _ h o)
/-- The family at pkfma. -/
theorem pkfma (h : Head) (o : BodyA) : Statement (.pkfma h o) := by
  rintro - w hw; obtain rfl := Option.some.inj hw
  rw [opc_packA, head_packA]; exact congrArg (fun o => some (Instr.pkfma h o)) (body_packA _ h o)
/-- The family at pkadd. -/
theorem pkadd (h : Head) (o : BodyA) : Statement (.pkadd h o) := by
  rintro - w hw; obtain rfl := Option.some.inj hw
  rw [opc_packA, head_packA]; exact congrArg (fun o => some (Instr.pkadd h o)) (body_packA _ h o)
/-- The family at pkmul. -/
theorem pkmul (h : Head) (o : BodyA) : Statement (.pkmul h o) := by
  rintro - w hw; obtain rfl := Option.some.inj hw
  rw [opc_packA, head_packA]; exact congrArg (fun o => some (Instr.pkmul h o)) (body_packA _ h o)
/-- The family at dot4. -/
theorem dot4 (h : Head) (o : BodyA) : Statement (.dot4 h o) := by
  rintro - w hw; obtain rfl := Option.some.inj hw
  rw [opc_packA, head_packA]; exact congrArg (fun o => some (Instr.dot4 h o)) (body_packA _ h o)
/-- The family at dot8. -/
theorem dot8 (h : Head) (o : BodyA) : Statement (.dot8 h o) := by
  rintro - w hw; obtain rfl := Option.some.inj hw
  rw [opc_packA, head_packA]; exact congrArg (fun o => some (Instr.dot8 h o)) (body_packA _ h o)
/-- The family at bred. -/
theorem bred (h : Head) (o : BodyA) : Statement (.bred h o) := by
  rintro - w hw; obtain rfl := Option.some.inj hw
  rw [opc_packA, head_packA]; exact congrArg (fun o => some (Instr.bred h o)) (body_packA _ h o)
/-- The family at cvt. -/
theorem cvt (h : Head) (o : BodyA) : Statement (.cvt h o) := by
  rintro - w hw; obtain rfl := Option.some.inj hw
  rw [opc_packA, head_packA]; exact congrArg (fun o => some (Instr.cvt h o)) (body_packA _ h o)
/-- The family at cvtn. -/
theorem cvtn (h : Head) (o : BodyA) : Statement (.cvtn h o) := by
  rintro - w hw; obtain rfl := Option.some.inj hw
  rw [opc_packA, head_packA]; exact congrArg (fun o => some (Instr.cvtn h o)) (body_packA _ h o)
/-- The family at cvtw. -/
theorem cvtw (h : Head) (o : BodyA) : Statement (.cvtw h o) := by
  rintro - w hw; obtain rfl := Option.some.inj hw
  rw [opc_packA, head_packA]; exact congrArg (fun o => some (Instr.cvtw h o)) (body_packA _ h o)
/-- The family at tblld. -/
theorem tblld (h : Head) (o : BodyA) : Statement (.tblld h o) := by
  rintro - w hw; obtain rfl := Option.some.inj hw
  rw [opc_packA, head_packA]; exact congrArg (fun o => some (Instr.tblld h o)) (body_packA _ h o)
/-- The family at i4tx. -/
theorem i4tx (h : Head) (o : BodyA) : Statement (.i4tx h o) := by
  rintro - w hw; obtain rfl := Option.some.inj hw
  rw [opc_packA, head_packA]; exact congrArg (fun o => some (Instr.i4tx h o)) (body_packA _ h o)
/-- The family at q4x. -/
theorem q4x (h : Head) (o : BodyA) : Statement (.q4x h o) := by
  rintro - w hw; obtain rfl := Option.some.inj hw
  rw [opc_packA, head_packA]; exact congrArg (fun o => some (Instr.q4x h o)) (body_packA _ h o)
/-- The family at qscl. -/
theorem qscl (h : Head) (o : BodyA) : Statement (.qscl h o) := by
  rintro - w hw; obtain rfl := Option.some.inj hw
  rw [opc_packA, head_packA]; exact congrArg (fun o => some (Instr.qscl h o)) (body_packA _ h o)
/-- The family at pack. -/
theorem pack (h : Head) (o : BodyA) : Statement (.pack h o) := by
  rintro - w hw; obtain rfl := Option.some.inj hw
  rw [opc_packA, head_packA]; exact congrArg (fun o => some (Instr.pack h o)) (body_packA _ h o)
/-- The family at unpk. -/
theorem unpk (h : Head) (o : BodyA) : Statement (.unpk h o) := by
  rintro - w hw; obtain rfl := Option.some.inj hw
  rw [opc_packA, head_packA]; exact congrArg (fun o => some (Instr.unpk h o)) (body_packA _ h o)
/-- The family at frnd. -/
theorem frnd (h : Head) (o : BodyA) : Statement (.frnd h o) := by
  rintro - w hw; obtain rfl := Option.some.inj hw
  rw [opc_packA, head_packA]; exact congrArg (fun o => some (Instr.frnd h o)) (body_packA _ h o)
/-- The family at movw. -/
theorem movw (h : Head) (o : BodyW) : Statement (.movw h o) := by
  rintro - w hw; obtain rfl := Option.some.inj hw
  rw [opc_packW, head_packW]; exact congrArg (fun o => some (Instr.movw h o)) (body_packW _ h o)
/-- The family at bra. -/
theorem bra (h : Head) (o : BodyB) : Statement (.bra h o) := by
  rintro - w hw; obtain rfl := Option.some.inj hw
  rw [opc_packB, head_packB]; exact congrArg (fun o => some (Instr.bra h o)) (body_packB _ h o)
/-- The family at brx. -/
theorem brx (h : Head) (o : BodyB) : Statement (.brx h o) := by
  rintro - w hw; obtain rfl := Option.some.inj hw
  rw [opc_packB, head_packB]; exact congrArg (fun o => some (Instr.brx h o)) (body_packB _ h o)
/-- The family at call. -/
theorem call (h : Head) (o : BodyB) : Statement (.call h o) := by
  rintro - w hw; obtain rfl := Option.some.inj hw
  rw [opc_packB, head_packB]; exact congrArg (fun o => some (Instr.call h o)) (body_packB _ h o)
/-- The family at callx. -/
theorem callx (h : Head) (o : BodyB) : Statement (.callx h o) := by
  rintro - w hw; obtain rfl := Option.some.inj hw
  rw [opc_packB, head_packB]; exact congrArg (fun o => some (Instr.callx h o)) (body_packB _ h o)
/-- The family at ret. -/
theorem ret (h : Head) (o : BodyB) : Statement (.ret h o) := by
  rintro - w hw; obtain rfl := Option.some.inj hw
  rw [opc_packB, head_packB]; exact congrArg (fun o => some (Instr.ret h o)) (body_packB _ h o)
/-- The family at spawn. -/
theorem spawn (h : Head) (o : BodyB) : Statement (.spawn h o) := by
  rintro - w hw; obtain rfl := Option.some.inj hw
  rw [opc_packB, head_packB]; exact congrArg (fun o => some (Instr.spawn h o)) (body_packB _ h o)
/-- The family at nop. -/
theorem nop (h : Head) (o : BodyS) : Statement (.nop h o) := by
  rintro - w hw; obtain rfl := Option.some.inj hw
  rw [opc_packS, head_packS]; exact congrArg (fun o => some (Instr.nop h o)) (body_packS _ h o)
/-- The family at fend. -/
theorem fend (h : Head) (o : BodyS) : Statement (.fend h o) := by
  rintro - w hw; obtain rfl := Option.some.inj hw
  rw [opc_packS, head_packS]; exact congrArg (fun o => some (Instr.fend h o)) (body_packS _ h o)
/-- The family at fwait. -/
theorem fwait (h : Head) (o : BodyS) : Statement (.fwait h o) := by
  rintro - w hw; obtain rfl := Option.some.inj hw
  rw [opc_packS, head_packS]; exact congrArg (fun o => some (Instr.fwait h o)) (body_packS _ h o)
/-- The family at park. -/
theorem park (h : Head) (o : BodyS) : Statement (.park h o) := by
  rintro - w hw; obtain rfl := Option.some.inj hw
  rw [opc_packS, head_packS]; exact congrArg (fun o => some (Instr.park h o)) (body_packS _ h o)
/-- The family at wake. -/
theorem wake (h : Head) (o : BodyS) : Statement (.wake h o) := by
  rintro ⟨hf, -⟩ w hw; obtain rfl := Option.some.inj hw
  have hv := values_of_firstBad hf
  have hm : h.mod = 0#8 := by
    change (decide (h.mod = 0#8) && _) = true at hv; simpa using (Bool.and_eq_true_iff.1 hv).1
  have hn : h.mod ≠ 1#8 := by rw [hm]; decide
  rw [opc_packS, head_packS]
  show some (if h.mod = 1#8 then Instr.wakeGrp h (bodyS _) else Instr.wake h (bodyS _)) = _
  rw [if_neg hn, body_packS]
/-- The family at wakeGrp. -/
theorem wakeGrp (h : Head) (o : BodyS) : Statement (.wakeGrp h o) := by
  rintro ⟨hf, -⟩ w hw; obtain rfl := Option.some.inj hw
  have hv := values_of_firstBad hf
  have hm : h.mod = 1#8 := by
    change (decide (h.mod = 1#8) && _) = true at hv; simpa using (Bool.and_eq_true_iff.1 hv).1
  rw [opc_packS, head_packS]
  show some (if h.mod = 1#8 then Instr.wakeGrp h (bodyS _) else Instr.wake h (bodyS _)) = _
  rw [if_pos hm, body_packS]
/-- The family at regclm. -/
theorem regclm (h : Head) (o : BodyS) : Statement (.regclm h o) := by
  rintro - w hw; obtain rfl := Option.some.inj hw
  rw [opc_packS, head_packS]; exact congrArg (fun o => some (Instr.regclm h o)) (body_packS _ h o)
/-- The family at regrel. -/
theorem regrel (h : Head) (o : BodyS) : Statement (.regrel h o) := by
  rintro - w hw; obtain rfl := Option.some.inj hw
  rw [opc_packS, head_packS]; exact congrArg (fun o => some (Instr.regrel h o)) (body_packS _ h o)
/-- The family at fmtp. -/
theorem fmtp (h : Head) (o : BodyS) : Statement (.fmtp h o) := by
  rintro - w hw; obtain rfl := Option.some.inj hw
  rw [opc_packS, head_packS]; exact congrArg (fun o => some (Instr.fmtp h o)) (body_packS _ h o)
/-- The family at trap. -/
theorem trap (h : Head) (o : BodyS) : Statement (.trap h o) := by
  rintro - w hw; obtain rfl := Option.some.inj hw
  rw [opc_packS, head_packS]; exact congrArg (fun o => some (Instr.trap h o)) (body_packS _ h o)
/-- The family at tret. -/
theorem tret (h : Head) (o : BodyS) : Statement (.tret h o) := by
  rintro - w hw; obtain rfl := Option.some.inj hw
  rw [opc_packS, head_packS]; exact congrArg (fun o => some (Instr.tret h o)) (body_packS _ h o)
/-- The family at bkpt. -/
theorem bkpt (h : Head) (o : BodyS) : Statement (.bkpt h o) := by
  rintro - w hw; obtain rfl := Option.some.inj hw
  rw [opc_packS, head_packS]; exact congrArg (fun o => some (Instr.bkpt h o)) (body_packS _ h o)
/-- The family at movs. -/
theorem movs (h : Head) (o : BodyS) : Statement (.movs h o) := by
  rintro ⟨hf, -⟩ w hw; obtain rfl := Option.some.inj hw
  have hv := values_of_firstBad hf
  have hm : h.mod = 0#8 := by
    change (decide (h.mod = 0#8) && _) = true at hv; simpa using (Bool.and_eq_true_iff.1 hv).1
  have hn : h.mod ≠ 1#8 := by rw [hm]; decide
  rw [opc_packS, head_packS]
  show some (if h.mod = 1#8 then Instr.movsW h (bodyS _) else Instr.movs h (bodyS _)) = _
  rw [if_neg hn, body_packS]
/-- The family at movsW. -/
theorem movsW (h : Head) (o : BodyS) : Statement (.movsW h o) := by
  rintro ⟨hf, -⟩ w hw; obtain rfl := Option.some.inj hw
  have hv := values_of_firstBad hf
  have hm : h.mod = 1#8 := by
    change (decide (h.mod = 1#8) && _) = true at hv; simpa using (Bool.and_eq_true_iff.1 hv).1
  rw [opc_packS, head_packS]
  show some (if h.mod = 1#8 then Instr.movsW h (bodyS _) else Instr.movs h (bodyS _)) = _
  rw [if_pos hm, body_packS]
/-- The family at ctlrd. -/
theorem ctlrd (h : Head) (o : BodyS) : Statement (.ctlrd h o) := by
  rintro - w hw; obtain rfl := Option.some.inj hw
  rw [opc_packS, head_packS]; exact congrArg (fun o => some (Instr.ctlrd h o)) (body_packS _ h o)
/-- The family at ctlwr. -/
theorem ctlwr (h : Head) (o : BodyS) : Statement (.ctlwr h o) := by
  rintro - w hw; obtain rfl := Option.some.inj hw
  rw [opc_packS, head_packS]; exact congrArg (fun o => some (Instr.ctlwr h o)) (body_packS _ h o)
/-- The family at launch. -/
theorem launch (h : Head) (o : BodyS) : Statement (.launch h o) := by
  rintro - w hw; obtain rfl := Option.some.inj hw
  rw [opc_packS, head_packS]; exact congrArg (fun o => some (Instr.launch h o)) (body_packS _ h o)
/-- The family at quiesce. -/
theorem quiesce (h : Head) (o : BodyS) : Statement (.quiesce h o) := by
  rintro ⟨hf, -⟩ w hw; obtain rfl := Option.some.inj hw
  have hv := values_of_firstBad hf
  have hm : h.mod = 0#8 := by
    change (decide (h.mod = 0#8) && _) = true at hv; simpa using (Bool.and_eq_true_iff.1 hv).1
  have hn : h.mod ≠ 1#8 := by rw [hm]; decide
  rw [opc_packS, head_packS]
  show some (if h.mod = 1#8 then Instr.quiesceOpen h (bodyS _) else Instr.quiesce h (bodyS _)) = _
  rw [if_neg hn, body_packS]
/-- The family at quiesceOpen. -/
theorem quiesceOpen (h : Head) (o : BodyS) : Statement (.quiesceOpen h o) := by
  rintro ⟨hf, -⟩ w hw; obtain rfl := Option.some.inj hw
  have hv := values_of_firstBad hf
  have hm : h.mod = 1#8 := by
    change (decide (h.mod = 1#8) && _) = true at hv; simpa using (Bool.and_eq_true_iff.1 hv).1
  rw [opc_packS, head_packS]
  show some (if h.mod = 1#8 then Instr.quiesceOpen h (bodyS _) else Instr.quiesce h (bodyS _)) = _
  rw [if_pos hm, body_packS]
/-- The family at sigmark. -/
theorem sigmark (h : Head) (o : BodyS) : Statement (.sigmark h o) := by
  rintro - w hw; obtain rfl := Option.some.inj hw
  rw [opc_packS, head_packS]; exact congrArg (fun o => some (Instr.sigmark h o)) (body_packS _ h o)
/-- The family at basin. -/
theorem basin (h : Head) (o : BodyS) : Statement (.basin h o) := by
  rintro ⟨hf, -⟩ w hw; obtain rfl := Option.some.inj hw
  have hv := values_of_firstBad hf
  have hm : h.mod = 0#8 := by
    change (decide (h.mod = 0#8) && _) = true at hv; simpa using (Bool.and_eq_true_iff.1 hv).1
  rw [opc_packS, head_packS]
  show some (if h.mod = 1#8 then Instr.basinAll h (bodyS _) else if h.mod = 2#8 then Instr.basinOwn h (bodyS _) else Instr.basin h (bodyS _)) = _
  rw [if_neg (by rw [hm]; decide), if_neg (by rw [hm]; decide), body_packS]
/-- The family at basinAll. -/
theorem basinAll (h : Head) (o : BodyS) : Statement (.basinAll h o) := by
  rintro ⟨hf, -⟩ w hw; obtain rfl := Option.some.inj hw
  have hv := values_of_firstBad hf
  have hm : h.mod = 1#8 := by
    change (decide (h.mod = 1#8) && _) = true at hv; simpa using (Bool.and_eq_true_iff.1 hv).1
  rw [opc_packS, head_packS]
  show some (if h.mod = 1#8 then Instr.basinAll h (bodyS _) else if h.mod = 2#8 then Instr.basinOwn h (bodyS _) else Instr.basin h (bodyS _)) = _
  rw [if_pos hm, body_packS]
/-- The family at basinOwn. -/
theorem basinOwn (h : Head) (o : BodyS) : Statement (.basinOwn h o) := by
  rintro ⟨hf, -⟩ w hw; obtain rfl := Option.some.inj hw
  have hv := values_of_firstBad hf
  have hm : h.mod = 2#8 := by
    change (decide (h.mod = 2#8) && _) = true at hv; simpa using (Bool.and_eq_true_iff.1 hv).1
  rw [opc_packS, head_packS]
  show some (if h.mod = 1#8 then Instr.basinAll h (bodyS _) else if h.mod = 2#8 then Instr.basinOwn h (bodyS _) else Instr.basin h (bodyS _)) = _
  rw [if_neg (by rw [hm]; decide), if_pos hm, body_packS]
/-- The family at rate. -/
theorem rate (h : Head) (o : BodyS) : Statement (.rate h o) := by
  rintro - w hw; obtain rfl := Option.some.inj hw
  rw [opc_packS, head_packS]; exact congrArg (fun o => some (Instr.rate h o)) (body_packS _ h o)
/-- The family at discard. -/
theorem discard (h : Head) (o : BodyS) : Statement (.discard h o) := by
  rintro - w hw; obtain rfl := Option.some.inj hw
  rw [opc_packS, head_packS]; exact congrArg (fun o => some (Instr.discard h o)) (body_packS _ h o)
/-- The family at ld. -/
theorem ld (h : Head) (o : BodyM) : Statement (.ld h o) := by
  rintro - w hw; obtain rfl := Option.some.inj hw
  rw [opc_packM, head_packM]; exact congrArg (fun o => some (Instr.ld h o)) (body_packM _ h o)
/-- The family at st. -/
theorem st (h : Head) (o : BodyM) : Statement (.st h o) := by
  rintro - w hw; obtain rfl := Option.some.inj hw
  rw [opc_packM, head_packM]; exact congrArg (fun o => some (Instr.st h o)) (body_packM _ h o)
/-- The family at ldc. -/
theorem ldc (h : Head) (o : BodyM) : Statement (.ldc h o) := by
  rintro - w hw; obtain rfl := Option.some.inj hw
  rw [opc_packM, head_packM]; exact congrArg (fun o => some (Instr.ldc h o)) (body_packM _ h o)
/-- The family at stc. -/
theorem stc (h : Head) (o : BodyM) : Statement (.stc h o) := by
  rintro - w hw; obtain rfl := Option.some.inj hw
  rw [opc_packM, head_packM]; exact congrArg (fun o => some (Instr.stc h o)) (body_packM _ h o)
/-- The family at lda. -/
theorem lda (h : Head) (o : BodyM) : Statement (.lda h o) := by
  rintro - w hw; obtain rfl := Option.some.inj hw
  rw [opc_packM, head_packM]; exact congrArg (fun o => some (Instr.lda h o)) (body_packM _ h o)
/-- The family at sta. -/
theorem sta (h : Head) (o : BodyM) : Statement (.sta h o) := by
  rintro - w hw; obtain rfl := Option.some.inj hw
  rw [opc_packM, head_packM]; exact congrArg (fun o => some (Instr.sta h o)) (body_packM _ h o)
/-- The family at pref. -/
theorem pref (h : Head) (o : BodyM) : Statement (.pref h o) := by
  rintro - w hw; obtain rfl := Option.some.inj hw
  rw [opc_packM, head_packM]; exact congrArg (fun o => some (Instr.pref h o)) (body_packM _ h o)
/-- The family at flush. -/
theorem flush (h : Head) (o : BodyM) : Statement (.flush h o) := by
  rintro - w hw; obtain rfl := Option.some.inj hw
  rw [opc_packM, head_packM]; exact congrArg (fun o => some (Instr.flush h o)) (body_packM _ h o)
/-- The family at invl. -/
theorem invl (h : Head) (o : BodyM) : Statement (.invl h o) := by
  rintro - w hw; obtain rfl := Option.some.inj hw
  rw [opc_packM, head_packM]; exact congrArg (fun o => some (Instr.invl h o)) (body_packM _ h o)
/-- The family at pin. -/
theorem pin (h : Head) (o : BodyM) : Statement (.pin h o) := by
  rintro - w hw; obtain rfl := Option.some.inj hw
  rw [opc_packM, head_packM]; exact congrArg (fun o => some (Instr.pin h o)) (body_packM _ h o)
/-- The family at unpin. -/
theorem unpin (h : Head) (o : BodyM) : Statement (.unpin h o) := by
  rintro - w hw; obtain rfl := Option.some.inj hw
  rw [opc_packM, head_packM]; exact congrArg (fun o => some (Instr.unpin h o)) (body_packM _ h o)
/-- The family at extq. -/
theorem extq (h : Head) (o : BodyM) : Statement (.extq h o) := by
  rintro - w hw; obtain rfl := Option.some.inj hw
  rw [opc_packM, head_packM]; exact congrArg (fun o => some (Instr.extq h o)) (body_packM _ h o)
/-- The family at migr. -/
theorem migr (h : Head) (o : BodyM) : Statement (.migr h o) := by
  rintro - w hw; obtain rfl := Option.some.inj hw
  rw [opc_packM, head_packM]; exact congrArg (fun o => some (Instr.migr h o)) (body_packM _ h o)
/-- The family at atom. -/
theorem atom (h : Head) (o : BodyM) : Statement (.atom h o) := by
  rintro - w hw; obtain rfl := Option.some.inj hw
  rw [opc_packM, head_packM]; exact congrArg (fun o => some (Instr.atom h o)) (body_packM _ h o)
/-- The family at red. -/
theorem red (h : Head) (o : BodyM) : Statement (.red h o) := by
  rintro - w hw; obtain rfl := Option.some.inj hw
  rw [opc_packM, head_packM]; exact congrArg (fun o => some (Instr.red h o)) (body_packM _ h o)
/-- The family at blend. -/
theorem blend (h : Head) (o : BodyM) : Statement (.blend h o) := by
  rintro - w hw; obtain rfl := Option.some.inj hw
  rw [opc_packM, head_packM]; exact congrArg (fun o => some (Instr.blend h o)) (body_packM _ h o)
/-- The family at fence. -/
theorem fence (h : Head) (o : BodyK) : Statement (.fence h o) := by
  rintro - w hw; obtain rfl := Option.some.inj hw
  rw [opc_packK, head_packK]; exact congrArg (fun o => some (Instr.fence h o)) (body_packK _ h o)
/-- The family at fencep. -/
theorem fencep (h : Head) (o : BodyK) : Statement (.fencep h o) := by
  rintro - w hw; obtain rfl := Option.some.inj hw
  rw [opc_packK, head_packK]; exact congrArg (fun o => some (Instr.fencep h o)) (body_packK _ h o)
/-- The family at combine. -/
theorem combine (h : Head) (o : BodyK) : Statement (.combine h o) := by
  rintro - w hw; obtain rfl := Option.some.inj hw
  rw [opc_packK, head_packK]; exact congrArg (fun o => some (Instr.combine h o)) (body_packK _ h o)
/-- The family at cmbreg. -/
theorem cmbreg (h : Head) (o : BodyK) : Statement (.cmbreg h o) := by
  rintro - w hw; obtain rfl := Option.some.inj hw
  rw [opc_packK, head_packK]; exact congrArg (fun o => some (Instr.cmbreg h o)) (body_packK _ h o)
/-- The family at osent. -/
theorem osent (h : Head) (o : BodyK) : Statement (.osent h o) := by
  rintro - w hw; obtain rfl := Option.some.inj hw
  rw [opc_packK, head_packK]; exact congrArg (fun o => some (Instr.osent h o)) (body_packK _ h o)
/-- The family at osleave. -/
theorem osleave (h : Head) (o : BodyK) : Statement (.osleave h o) := by
  rintro - w hw; obtain rfl := Option.some.inj hw
  rw [opc_packK, head_packK]; exact congrArg (fun o => some (Instr.osleave h o)) (body_packK _ h o)
/-- The family at osskip. -/
theorem osskip (h : Head) (o : BodyK) : Statement (.osskip h o) := by
  rintro - w hw; obtain rfl := Option.some.inj hw
  rw [opc_packK, head_packK]; exact congrArg (fun o => some (Instr.osskip h o)) (body_packK _ h o)
/-- The family at barinit. -/
theorem barinit (h : Head) (o : BodyK) : Statement (.barinit h o) := by
  rintro - w hw; obtain rfl := Option.some.inj hw
  rw [opc_packK, head_packK]; exact congrArg (fun o => some (Instr.barinit h o)) (body_packK _ h o)
/-- The family at bararv. -/
theorem bararv (h : Head) (o : BodyK) : Statement (.bararv h o) := by
  rintro - w hw; obtain rfl := Option.some.inj hw
  rw [opc_packK, head_packK]; exact congrArg (fun o => some (Instr.bararv h o)) (body_packK _ h o)
/-- The family at barwt. -/
theorem barwt (h : Head) (o : BodyK) : Statement (.barwt h o) := by
  rintro - w hw; obtain rfl := Option.some.inj hw
  rw [opc_packK, head_packK]; exact congrArg (fun o => some (Instr.barwt h o)) (body_packK _ h o)
/-- The family at baraw. -/
theorem baraw (h : Head) (o : BodyK) : Statement (.baraw h o) := by
  rintro - w hw; obtain rfl := Option.some.inj hw
  rw [opc_packK, head_packK]; exact congrArg (fun o => some (Instr.baraw h o)) (body_packK _ h o)
/-- The family at send. -/
theorem send (h : Head) (o : BodyK) : Statement (.send h o) := by
  rintro - w hw; obtain rfl := Option.some.inj hw
  rw [opc_packK, head_packK]; exact congrArg (fun o => some (Instr.send h o)) (body_packK _ h o)
/-- The family at sendr. -/
theorem sendr (h : Head) (o : BodyK) : Statement (.sendr h o) := by
  rintro - w hw; obtain rfl := Option.some.inj hw
  rw [opc_packK, head_packK]; exact congrArg (fun o => some (Instr.sendr h o)) (body_packK _ h o)
/-- The family at hbind. -/
theorem hbind (h : Head) (o : BodyK) : Statement (.hbind h o) := by
  rintro - w hw; obtain rfl := Option.some.inj hw
  rw [opc_packK, head_packK]; exact congrArg (fun o => some (Instr.hbind h o)) (body_packK _ h o)
/-- The family at hunbind. -/
theorem hunbind (h : Head) (o : BodyK) : Statement (.hunbind h o) := by
  rintro - w hw; obtain rfl := Option.some.inj hw
  rw [opc_packK, head_packK]; exact congrArg (fun o => some (Instr.hunbind h o)) (body_packK _ h o)
/-- The family at cmask. -/
theorem cmask (h : Head) (o : BodyK) : Statement (.cmask h o) := by
  rintro - w hw; obtain rfl := Option.some.inj hw
  rw [opc_packK, head_packK]; exact congrArg (fun o => some (Instr.cmask h o)) (body_packK _ h o)
/-- The family at hend. -/
theorem hend (h : Head) (o : BodyK) : Statement (.hend h o) := by
  rintro - w hw; obtain rfl := Option.some.inj hw
  rw [opc_packK, head_packK]; exact congrArg (fun o => some (Instr.hend h o)) (body_packK _ h o)
/-- The family at mbox. -/
theorem mbox (h : Head) (o : BodyK) : Statement (.mbox h o) := by
  rintro ⟨hf, -⟩ w hw; obtain rfl := Option.some.inj hw
  have hv := values_of_firstBad hf
  have hm : h.mod = 0#8 := by
    change ((decide (h.mod = 0#8) && _) && _) = true at hv; simpa using (Bool.and_eq_true_iff.1 (Bool.and_eq_true_iff.1 hv).1).1
  have hn : h.mod ≠ 1#8 := by rw [hm]; decide
  rw [opc_packK, head_packK]
  show some (if h.mod = 1#8 then Instr.mboxRp h (bodyK _) else Instr.mbox h (bodyK _)) = _
  rw [if_neg hn, body_packK]
/-- The family at mboxRp. -/
theorem mboxRp (h : Head) (o : BodyK) : Statement (.mboxRp h o) := by
  rintro ⟨hf, -⟩ w hw; obtain rfl := Option.some.inj hw
  have hv := values_of_firstBad hf
  have hm : h.mod = 1#8 := by
    change ((decide (h.mod = 1#8) && _) && _) = true at hv; simpa using (Bool.and_eq_true_iff.1 (Bool.and_eq_true_iff.1 hv).1).1
  rw [opc_packK, head_packK]
  show some (if h.mod = 1#8 then Instr.mboxRp h (bodyK _) else Instr.mbox h (bodyK _)) = _
  rw [if_pos hm, body_packK]
/-- The family at emit. -/
theorem emit (h : Head) (o : BodyK) : Statement (.emit h o) := by
  rintro - w hw; obtain rfl := Option.some.inj hw
  rw [opc_packK, head_packK]; exact congrArg (fun o => some (Instr.emit h o)) (body_packK _ h o)
/-- The family at ndone. -/
theorem ndone (h : Head) (o : BodyK) : Statement (.ndone h o) := by
  rintro - w hw; obtain rfl := Option.some.inj hw
  rw [opc_packK, head_packK]; exact congrArg (fun o => some (Instr.ndone h o)) (body_packK _ h o)
/-- The family at reply. -/
theorem reply (h : Head) (o : BodyK) : Statement (.reply h o) := by
  rintro - w hw; obtain rfl := Option.some.inj hw
  rw [opc_packK, head_packK]; exact congrArg (fun o => some (Instr.reply h o)) (body_packK _ h o)
/-- The family at raysend. -/
theorem raysend (h : Head) (o : BodyK) : Statement (.raysend h o) := by
  rintro ⟨hf, -⟩ w hw; obtain rfl := Option.some.inj hw
  have hv := values_of_firstBad hf
  have hm : h.mod = 0#8 := by
    change ((decide (h.mod = 0#8) && _) && _) = true at hv; simpa using (Bool.and_eq_true_iff.1 (Bool.and_eq_true_iff.1 hv).1).1
  have hn : h.mod ≠ 1#8 := by rw [hm]; decide
  rw [opc_packK, head_packK]
  show some (if h.mod = 1#8 then Instr.raysendLocal h (bodyK _) else Instr.raysend h (bodyK _)) = _
  rw [if_neg hn, body_packK]
/-- The family at raysendLocal. -/
theorem raysendLocal (h : Head) (o : BodyK) : Statement (.raysendLocal h o) := by
  rintro ⟨hf, -⟩ w hw; obtain rfl := Option.some.inj hw
  have hv := values_of_firstBad hf
  have hm : h.mod = 1#8 := by
    change ((decide (h.mod = 1#8) && _) && _) = true at hv; simpa using (Bool.and_eq_true_iff.1 (Bool.and_eq_true_iff.1 hv).1).1
  rw [opc_packK, head_packK]
  show some (if h.mod = 1#8 then Instr.raysendLocal h (bodyK _) else Instr.raysend h (bodyK _)) = _
  rw [if_pos hm, body_packK]
/-- The family at hitput. -/
theorem hitput (h : Head) (o : BodyK) : Statement (.hitput h o) := by
  rintro - w hw; obtain rfl := Option.some.inj hw
  rw [opc_packK, head_packK]; exact congrArg (fun o => some (Instr.hitput h o)) (body_packK _ h o)
/-- The family at cpy. -/
theorem cpy (h : Head) (o : BodyX) : Statement (.cpy h o) := by
  rintro - w hw; obtain rfl := Option.some.inj hw
  rw [opc_packX, head_packX]; exact congrArg (fun o => some (Instr.cpy h o)) (body_packX _ h o)
/-- The family at cpyw. -/
theorem cpyw (h : Head) (o : BodyX) : Statement (.cpyw h o) := by
  rintro - w hw; obtain rfl := Option.some.inj hw
  rw [opc_packX, head_packX]; exact congrArg (fun o => some (Instr.cpyw h o)) (body_packX _ h o)
/-- The family at gath. -/
theorem gath (h : Head) (o : BodyX) : Statement (.gath h o) := by
  rintro - w hw; obtain rfl := Option.some.inj hw
  rw [opc_packX, head_packX]; exact congrArg (fun o => some (Instr.gath h o)) (body_packX _ h o)
/-- The family at mlease. -/
theorem mlease (h : Head) (o : BodyX) : Statement (.mlease h o) := by
  rintro - w hw; obtain rfl := Option.some.inj hw
  rw [opc_packX, head_packX]; exact congrArg (fun o => some (Instr.mlease h o)) (body_packX _ h o)
/-- The family at mrel. -/
theorem mrel (h : Head) (o : BodyX) : Statement (.mrel h o) := by
  rintro - w hw; obtain rfl := Option.some.inj hw
  rw [opc_packX, head_packX]; exact congrArg (fun o => some (Instr.mrel h o)) (body_packX _ h o)
/-- The family at mma. -/
theorem mma (h : Head) (o : BodyX) : Statement (.mma h o) := by
  rintro - w hw; obtain rfl := Option.some.inj hw
  rw [opc_packX, head_packX]; exact congrArg (fun o => some (Instr.mma h o)) (body_packX _ h o)
/-- The family at mmas. -/
theorem mmas (h : Head) (o : BodyX) : Statement (.mmas h o) := by
  rintro - w hw; obtain rfl := Option.some.inj hw
  rw [opc_packX, head_packX]; exact congrArg (fun o => some (Instr.mmas h o)) (body_packX _ h o)
/-- The family at mzero. -/
theorem mzero (h : Head) (o : BodyX) : Statement (.mzero h o) := by
  rintro - w hw; obtain rfl := Option.some.inj hw
  rw [opc_packX, head_packX]; exact congrArg (fun o => some (Instr.mzero h o)) (body_packX _ h o)
/-- The family at mepi. -/
theorem mepi (h : Head) (o : BodyX) : Statement (.mepi h o) := by
  rintro - w hw; obtain rfl := Option.some.inj hw
  rw [opc_packX, head_packX]; exact congrArg (fun o => some (Instr.mepi h o)) (body_packX _ h o)
/-- The family at mldacc. -/
theorem mldacc (h : Head) (o : BodyX) : Statement (.mldacc h o) := by
  rintro - w hw; obtain rfl := Option.some.inj hw
  rw [opc_packX, head_packX]; exact congrArg (fun o => some (Instr.mldacc h o)) (body_packX _ h o)
/-- The family at ringset. -/
theorem ringset (h : Head) (o : BodyX) : Statement (.ringset h o) := by
  rintro - w hw; obtain rfl := Option.some.inj hw
  rw [opc_packX, head_packX]; exact congrArg (fun o => some (Instr.ringset h o)) (body_packX _ h o)
/-- The family at ringadv. -/
theorem ringadv (h : Head) (o : BodyX) : Statement (.ringadv h o) := by
  rintro - w hw; obtain rfl := Option.some.inj hw
  rw [opc_packX, head_packX]; exact congrArg (fun o => some (Instr.ringadv h o)) (body_packX _ h o)
/-- The family at ringq. -/
theorem ringq (h : Head) (o : BodyX) : Statement (.ringq h o) := by
  rintro - w hw; obtain rfl := Option.some.inj hw
  rw [opc_packX, head_packX]; exact congrArg (fun o => some (Instr.ringq h o)) (body_packX _ h o)
/-- The family at mwait. -/
theorem mwait (h : Head) (o : BodyX) : Statement (.mwait h o) := by
  rintro - w hw; obtain rfl := Option.some.inj hw
  rw [opc_packX, head_packX]; exact congrArg (fun o => some (Instr.mwait h o)) (body_packX _ h o)
/-- The family at infer. -/
theorem infer (h : Head) (o : BodyX) : Statement (.infer h o) := by
  rintro - w hw; obtain rfl := Option.some.inj hw
  rw [opc_packX, head_packX]; exact congrArg (fun o => some (Instr.infer h o)) (body_packX _ h o)
/-- The family at trv. -/
theorem trv (h : Head) (o : BodyX) : Statement (.trv h o) := by
  rintro - w hw; obtain rfl := Option.some.inj hw
  rw [opc_packX, head_packX]; exact congrArg (fun o => some (Instr.trv h o)) (body_packX _ h o)
/-- The family at tload. -/
theorem tload (h : Head) (o : BodyX) : Statement (.tload h o) := by
  rintro ⟨hf, -⟩ w hw; obtain rfl := Option.some.inj hw
  have hv := values_of_firstBad hf
  have hm : o.sub = 0#4 := by
    change ((decide (h.mod = 0#8) && decide (o.sub = 0#4)) && _ && _) = true at hv
    simpa using (Bool.and_eq_true_iff.1 (Bool.and_eq_true_iff.1 (Bool.and_eq_true_iff.1 hv).1).1).2
  rw [opc_packX, head_packX]
  show some (if (packX _ h o).extractLsb' 5 4 = 1#4 then Instr.tloadTds h (bodyX _) else if (packX _ h o).extractLsb' 5 4 = 2#4 then Instr.tloadRds h (bodyX _)
    else Instr.tload h (bodyX _)) = _
  rw [sub_packX, if_neg (by rw [hm]; decide), if_neg (by rw [hm]; decide), body_packX]
/-- The family at tloadTds. -/
theorem tloadTds (h : Head) (o : BodyX) : Statement (.tloadTds h o) := by
  rintro ⟨hf, -⟩ w hw; obtain rfl := Option.some.inj hw
  have hv := values_of_firstBad hf
  have hm : o.sub = 1#4 := by
    change ((decide (h.mod = 0#8) && decide (o.sub = 1#4)) && _ && _) = true at hv
    simpa using (Bool.and_eq_true_iff.1 (Bool.and_eq_true_iff.1 (Bool.and_eq_true_iff.1 hv).1).1).2
  rw [opc_packX, head_packX]
  show some (if (packX _ h o).extractLsb' 5 4 = 1#4 then Instr.tloadTds h (bodyX _) else if (packX _ h o).extractLsb' 5 4 = 2#4 then Instr.tloadRds h (bodyX _)
    else Instr.tload h (bodyX _)) = _
  rw [sub_packX, if_pos hm, body_packX]
/-- The family at tloadRds. -/
theorem tloadRds (h : Head) (o : BodyX) : Statement (.tloadRds h o) := by
  rintro ⟨hf, -⟩ w hw; obtain rfl := Option.some.inj hw
  have hv := values_of_firstBad hf
  have hm : o.sub = 2#4 := by
    change ((decide (h.mod = 0#8) && decide (o.sub = 2#4)) && _ && _) = true at hv
    simpa using (Bool.and_eq_true_iff.1 (Bool.and_eq_true_iff.1 (Bool.and_eq_true_iff.1 hv).1).1).2
  rw [opc_packX, head_packX]
  show some (if (packX _ h o).extractLsb' 5 4 = 1#4 then Instr.tloadTds h (bodyX _) else if (packX _ h o).extractLsb' 5 4 = 2#4 then Instr.tloadRds h (bodyX _)
    else Instr.tload h (bodyX _)) = _
  rw [sub_packX, if_neg (by rw [hm]; decide), if_pos hm, body_packX]
/-- The family at town. -/
theorem town (h : Head) (o : BodyX) : Statement (.town h o) := by
  rintro - w hw; obtain rfl := Option.some.inj hw
  rw [opc_packX, head_packX]; exact congrArg (fun o => some (Instr.town h o)) (body_packX _ h o)
/-- The family at pump. -/
theorem pump (h : Head) (o : BodyX) : Statement (.pump h o) := by
  rintro - w hw; obtain rfl := Option.some.inj hw
  rw [opc_packX, head_packX]; exact congrArg (fun o => some (Instr.pump h o)) (body_packX _ h o)
/-- The family at pumpw. -/
theorem pumpw (h : Head) (o : BodyX) : Statement (.pumpw h o) := by
  rintro - w hw; obtain rfl := Option.some.inj hw
  rw [opc_packX, head_packX]; exact congrArg (fun o => some (Instr.pumpw h o)) (body_packX _ h o)
/-- The family at encq. -/
theorem encq (h : Head) (o : BodyX) : Statement (.encq h o) := by
  rintro - w hw; obtain rfl := Option.some.inj hw
  rw [opc_packX, head_packX]; exact congrArg (fun o => some (Instr.encq h o)) (body_packX _ h o)
/-- The family at batchForm. -/
theorem batchForm (core part : Nat) : Statement (.batchForm core part) := by
  rintro - w hw; cases hw
/-- The family at issueBufferAccept. -/
theorem issueBufferAccept (core part n : Nat) : Statement (.issueBufferAccept core part n) := by
  rintro - w hw; cases hw
/-- The family at longLatencyResult. -/
theorem longLatencyResult (id : Nat) : Statement (.longLatencyResult id) := by
  rintro - w hw; cases hw
/-- The family at tokenGrant. -/
theorem tokenGrant : Statement .tokenGrant := by
  rintro - w hw; cases hw
/-- The family at claimGrant. -/
theorem claimGrant (core : Nat) : Statement (.claimGrant core) := by
  rintro - w hw; cases hw
/-- The family at launchMessage. -/
theorem launchMessage (id : Nat) : Statement (.launchMessage id) := by
  rintro - w hw; cases hw
/-- The family at launchPlacement. -/
theorem launchPlacement (slice : Nat) : Statement (.launchPlacement slice) := by
  rintro - w hw; cases hw
/-- The family at codeLine. -/
theorem codeLine (id : Nat) : Statement (.codeLine id) := by
  rintro - w hw; cases hw
/-- The family at shapeStore. -/
theorem shapeStore (id : Nat) : Statement (.shapeStore id) := by
  rintro - w hw; cases hw
/-- The family at startMessage. -/
theorem startMessage (id : Nat) : Statement (.startMessage id) := by
  rintro - w hw; cases hw
/-- The family at gridEnd. -/
theorem gridEnd (slice task : Nat) : Statement (.gridEnd slice task) := by
  rintro - w hw; cases hw
/-- The family at workGraphRecord. -/
theorem workGraphRecord (id : Nat) : Statement (.workGraphRecord id) := by
  rintro - w hw; cases hw
/-- The family at userMessage. -/
theorem userMessage (id : Nat) : Statement (.userMessage id) := by
  rintro - w hw; cases hw
/-- The family at handlerGroupForm. -/
theorem handlerGroupForm (core binding : Nat) : Statement (.handlerGroupForm core binding) := by
  rintro - w hw; cases hw
/-- The family at loopbackTransfer. -/
theorem loopbackTransfer (core : Nat) : Statement (.loopbackTransfer core) := by
  rintro - w hw; cases hw
/-- The family at sendQueueInject. -/
theorem sendQueueInject (core n : Nat) : Statement (.sendQueueInject core n) := by
  rintro - w hw; cases hw
/-- The family at packetHop. -/
theorem packetHop (id : Nat) : Statement (.packetHop id) := by
  rintro - w hw; cases hw
/-- The family at readRequest. -/
theorem readRequest (id : Nat) : Statement (.readRequest id) := by
  rintro - w hw; cases hw
/-- The family at writeRequest. -/
theorem writeRequest (id : Nat) : Statement (.writeRequest id) := by
  rintro - w hw; cases hw
/-- The family at l2FillComplete. -/
theorem l2FillComplete (core piece : Nat) : Statement (.l2FillComplete core piece) := by
  rintro - w hw; cases hw
/-- The family at atomicRequest. -/
theorem atomicRequest (id : Nat) : Statement (.atomicRequest id) := by
  rintro - w hw; cases hw
/-- The family at reductionRequest. -/
theorem reductionRequest (id : Nat) : Statement (.reductionRequest id) := by
  rintro - w hw; cases hw
/-- The family at rangeRequest. -/
theorem rangeRequest (id : Nat) : Statement (.rangeRequest id) := by
  rintro - w hw; cases hw
/-- The family at writeAcknowledgement. -/
theorem writeAcknowledgement (id : Nat) : Statement (.writeAcknowledgement id) := by
  rintro - w hw; cases hw
/-- The family at tlbWalkComplete. -/
theorem tlbWalkComplete (core n : Nat) : Statement (.tlbWalkComplete core n) := by
  rintro - w hw; cases hw
/-- The family at codeRefetchComplete. -/
theorem codeRefetchComplete (core line : Nat) (good : Bool) : Statement (.codeRefetchComplete core line good) := by
  rintro - w hw; cases hw
/-- The family at combineRequest. -/
theorem combineRequest (id : Nat) : Statement (.combineRequest id) := by
  rintro - w hw; cases hw
/-- The family at combinerWaveClose. -/
theorem combinerWaveClose (core n : Nat) : Statement (.combinerWaveClose core n) := by
  rintro - w hw; cases hw
/-- The family at combinerWaveStart. -/
theorem combinerWaveStart (core n : Nat) : Statement (.combinerWaveStart core n) := by
  rintro - w hw; cases hw
/-- The family at sectionRequest. -/
theorem sectionRequest (id : Nat) : Statement (.sectionRequest id) := by
  rintro - w hw; cases hw
/-- The family at sectionGrant. -/
theorem sectionGrant (id : Nat) : Statement (.sectionGrant id) := by
  rintro - w hw; cases hw
/-- The family at sectionDeadlockProbe. -/
theorem sectionDeadlockProbe (id : Nat) : Statement (.sectionDeadlockProbe id) := by
  rintro - w hw; cases hw
/-- The family at sectionWaitWithdrawal. -/
theorem sectionWaitWithdrawal (id : Nat) : Statement (.sectionWaitWithdrawal id) := by
  rintro - w hw; cases hw
/-- The family at barrierArrivalPacket. -/
theorem barrierArrivalPacket (id : Nat) : Statement (.barrierArrivalPacket id) := by
  rintro - w hw; cases hw
/-- The family at barrierCompletion. -/
theorem barrierCompletion (id : Nat) : Statement (.barrierCompletion id) := by
  rintro - w hw; cases hw
/-- The family at leaseRequest. -/
theorem leaseRequest (id : Nat) : Statement (.leaseRequest id) := by
  rintro - w hw; cases hw
/-- The family at leaseGrant. -/
theorem leaseGrant (block : Nat) : Statement (.leaseGrant block) := by
  rintro - w hw; cases hw
/-- The family at matrixCommand. -/
theorem matrixCommand (id : Nat) : Statement (.matrixCommand id) := by
  rintro - w hw; cases hw
/-- The family at matrixTileStep. -/
theorem matrixTileStep (block : Nat) : Statement (.matrixTileStep block) := by
  rintro - w hw; cases hw
/-- The family at engineCompletion. -/
theorem engineCompletion (id : Nat) : Statement (.engineCompletion id) := by
  rintro - w hw; cases hw
/-- The family at copyCommandRun. -/
theorem copyCommandRun (core : Nat) : Statement (.copyCommandRun core) := by
  rintro - w hw; cases hw
/-- The family at rayMessage. -/
theorem rayMessage (id : Nat) : Statement (.rayMessage id) := by
  rintro - w hw; cases hw
/-- The family at traversalNodeVisit. -/
theorem traversalNodeVisit (core n : Nat) : Statement (.traversalNodeVisit core n) := by
  rintro - w hw; cases hw
/-- The family at hitRecord. -/
theorem hitRecord (id : Nat) : Statement (.hitRecord id) := by
  rintro - w hw; cases hw
/-- The family at ringToBasinMove. -/
theorem ringToBasinMove (core n : Nat) : Statement (.ringToBasinMove core n) := by
  rintro - w hw; cases hw
/-- The family at shadingWaveForm. -/
theorem shadingWaveForm (core bin : Nat) : Statement (.shadingWaveForm core bin) := by
  rintro - w hw; cases hw
/-- The family at creditBatchTake. -/
theorem creditBatchTake (core slice task queue : Nat) : Statement (.creditBatchTake core slice task queue) := by
  rintro - w hw; cases hw
/-- The family at treeletTransfer. -/
theorem treeletTransfer (id : Nat) : Statement (.treeletTransfer id) := by
  rintro - w hw; cases hw
/-- The family at pumpCommand. -/
theorem pumpCommand (id : Nat) : Statement (.pumpCommand id) := by
  rintro - w hw; cases hw
/-- The family at pumpCommandStart. -/
theorem pumpCommandStart (stack n : Nat) : Statement (.pumpCommandStart stack n) := by
  rintro - w hw; cases hw
/-- The family at pumpCommandComplete. -/
theorem pumpCommandComplete (stack n : Nat) : Statement (.pumpCommandComplete stack n) := by
  rintro - w hw; cases hw
/-- The family at pumpInvalidation. -/
theorem pumpInvalidation (id : Nat) : Statement (.pumpInvalidation id) := by
  rintro - w hw; cases hw
/-- The family at invalidationAcknowledgement. -/
theorem invalidationAcknowledgement (id : Nat) : Statement (.invalidationAcknowledgement id) := by
  rintro - w hw; cases hw
/-- The family at migrationControl. -/
theorem migrationControl (id : Nat) : Statement (.migrationControl id) := by
  rintro - w hw; cases hw
/-- The family at migrationBlock. -/
theorem migrationBlock (id : Nat) : Statement (.migrationBlock id) := by
  rintro - w hw; cases hw
/-- The family at migrationPassEnd. -/
theorem migrationPassEnd (slice : Nat) : Statement (.migrationPassEnd slice) := by
  rintro - w hw; cases hw
/-- The family at faultBatch. -/
theorem faultBatch (id : Nat) : Statement (.faultBatch id) := by
  rintro - w hw; cases hw
/-- The family at faultServiceActivation. -/
theorem faultServiceActivation (core : Nat) : Statement (.faultServiceActivation core) := by
  rintro - w hw; cases hw
/-- The family at faultReply. -/
theorem faultReply (id : Nat) : Statement (.faultReply id) := by
  rintro - w hw; cases hw
/-- The family at shootDown. -/
theorem shootDown (id : Nat) : Statement (.shootDown id) := by
  rintro - w hw; cases hw
/-- The family at shootDownProcess. -/
theorem shootDownProcess (core : Nat) : Statement (.shootDownProcess core) := by
  rintro - w hw; cases hw
/-- The family at shootDownAcknowledgement. -/
theorem shootDownAcknowledgement (id : Nat) : Statement (.shootDownAcknowledgement id) := by
  rintro - w hw; cases hw
/-- The family at controlRegisterBroadcast. -/
theorem controlRegisterBroadcast (id core : Nat) : Statement (.controlRegisterBroadcast id core) := by
  rintro - w hw; cases hw
/-- The family at promotionRequest. -/
theorem promotionRequest (id : Nat) : Statement (.promotionRequest id) := by
  rintro - w hw; cases hw
/-- The family at promotionAcknowledgement. -/
theorem promotionAcknowledgement (id : Nat) : Statement (.promotionAcknowledgement id) := by
  rintro - w hw; cases hw
/-- The family at errorLogEntry. -/
theorem errorLogEntry (id : Nat) : Statement (.errorLogEntry id) := by
  rintro - w hw; cases hw
/-- The family at ccmdPreempt. -/
theorem ccmdPreempt (slice : Nat) : Statement (.ccmdPreempt slice) := by
  rintro - w hw; cases hw
/-- The family at preemptionSaveComplete. -/
theorem preemptionSaveComplete (slice : Nat) : Statement (.preemptionSaveComplete slice) := by
  rintro - w hw; cases hw
/-- The family at ccmdResume. -/
theorem ccmdResume (slice : Nat) : Statement (.ccmdResume slice) := by
  rintro - w hw; cases hw
/-- The family at ccmdDebugStop. -/
theorem ccmdDebugStop (slice : Nat) : Statement (.ccmdDebugStop slice) := by
  rintro - w hw; cases hw
/-- The family at ccmdDebugResume. -/
theorem ccmdDebugResume (slice : Nat) : Statement (.ccmdDebugResume slice) := by
  rintro - w hw; cases hw
/-- The family at ccmdSingleStep. -/
theorem ccmdSingleStep (slice : Nat) : Statement (.ccmdSingleStep slice) := by
  rintro - w hw; cases hw
/-- The family at encoderFrameComplete. -/
theorem encoderFrameComplete (encoder : Nat) : Statement (.encoderFrameComplete encoder) := by
  rintro - w hw; cases hw
/-- The family at creditReturn. -/
theorem creditReturn (id : Nat) : Statement (.creditReturn id) := by
  rintro - w hw; cases hw
/-- The family at errorDetected. -/
theorem errorDetected (e : ErrorSpec) : Statement (.errorDetected e) := by
  rintro - w hw; cases hw
/-- The family at fetchParityError. -/
theorem fetchParityError (core line : Nat) : Statement (.fetchParityError core line) := by
  rintro - w hw; cases hw
/-- The family at hbmParityAlert. -/
theorem hbmParityAlert (stack channel : Nat) (replayed : Bool) : Statement (.hbmParityAlert stack channel replayed) := by
  rintro - w hw; cases hw
/-- The family at pumpReadError. -/
theorem pumpReadError (stack pa : Nat) : Statement (.pumpReadError stack pa) := by
  rintro - w hw; cases hw
/-- The family at selfTestStart. -/
theorem selfTestStart (n : Nat) : Statement (.selfTestStart n) := by
  rintro - w hw; cases hw
/-- The family at selfTestComplete. -/
theorem selfTestComplete (n : Nat) (r : TestResult) : Statement (.selfTestComplete n r) := by
  rintro - w hw; cases hw
/-- The family at laneRepair. -/
theorem laneRepair (stack channel pin : Nat) : Statement (.laneRepair stack channel pin) := by
  rintro - w hw; cases hw
/-- The family at laneRepairComplete. -/
theorem laneRepairComplete (stack channel : Nat) : Statement (.laneRepairComplete stack channel) := by
  rintro - w hw; cases hw
/-- The family at launchDoorbell. -/
theorem launchDoorbell (fn window : Nat) : Statement (.launchDoorbell fn window) := by
  rintro - w hw; cases hw
/-- The family at debuggerStateWrite. -/
theorem debuggerStateWrite (w : DebugWrite) : Statement (.debuggerStateWrite w) := by
  rintro - w hw; cases hw
/-- The family at debuggerAttach. -/
theorem debuggerAttach (slice : Nat) : Statement (.debuggerAttach slice) := by
  rintro - w hw; cases hw
/-- The family at debuggerDetach. -/
theorem debuggerDetach (slice : Nat) : Statement (.debuggerDetach slice) := by
  rintro - w hw; cases hw
/-- The family at hostRegisterWrite. -/
theorem hostRegisterWrite (fn offset size : Nat) (value : BitVec 64) : Statement (.hostRegisterWrite fn offset size value) := by
  rintro - w hw; cases hw
/-- The family at ctlTimebaseWrite. -/
theorem ctlTimebaseWrite (value : BitVec 64) : Statement (.ctlTimebaseWrite value) := by
  rintro - w hw; cases hw
/-- The family at completionCounterWrite. -/
theorem completionCounterWrite (slice index : Nat) (value : BitVec 32) : Statement (.completionCounterWrite slice index value) := by
  rintro - w hw; cases hw
/-- The family at descriptorImageWrite. -/
theorem descriptorImageWrite (slice offset : Nat) (image : BitVec 256) : Statement (.descriptorImageWrite slice offset image) := by
  rintro - w hw; cases hw
/-- The family at apertureAccess. -/
theorem apertureAccess (slice offset size : Nat) (data : Option (BitVec 64)) : Statement (.apertureAccess slice offset size data) := by
  rintro - w hw; cases hw
/-- The family at physicalWindowAccess. -/
theorem physicalWindowAccess (offset size : Nat) (data : Option (BitVec 64)) : Statement (.physicalWindowAccess offset size data) := by
  rintro - w hw; cases hw
/-- The family at sliceApply. -/
theorem sliceApply (slice : Nat) : Statement (.sliceApply slice) := by
  rintro - w hw; cases hw
/-- The family at teamEnd. -/
theorem teamEnd (core team : Nat) : Statement (.teamEnd core team) := by
  rintro - w hw; cases hw
/-- The family at draw. -/
theorem draw (d : DrawSpec) : Statement (.draw d) := by
  rintro - w hw; cases hw
/-- The family at ckptStart. -/
theorem ckptStart : Statement .ckptStart := by
  rintro - w hw; cases hw
/-- The family at ckptEnd. -/
theorem ckptEnd : Statement .ckptEnd := by
  rintro - w hw; cases hw
/-- The family at coldReset. -/
theorem coldReset (imageGood : Bool) : Statement (.coldReset imageGood) := by
  rintro - w hw; cases hw
/-- The family at warmReset. -/
theorem warmReset (imageGood : Bool) : Statement (.warmReset imageGood) := by
  rintro - w hw; cases hw
/-- The family at sliceReset. -/
theorem sliceReset (slice : Nat) : Statement (.sliceReset slice) := by
  rintro - w hw; cases hw
/-- The family at junctionTemperature105. -/
theorem junctionTemperature105 : Statement .junctionTemperature105 := by
  rintro - w hw; cases hw
/-- The family at thermalTrip. -/
theorem thermalTrip (imageGood : Bool) : Statement (.thermalTrip imageGood) := by
  rintro - w hw; cases hw
/-- The family at spanPortTrained. -/
theorem spanPortTrained (port package : Nat) (time : BitVec 64) : Statement (.spanPortTrained port package time) := by
  rintro - w hw; cases hw
/-- The family at spanLinkLoss. -/
theorem spanLinkLoss (port : Nat) : Statement (.spanLinkLoss port) := by
  rintro - w hw; cases hw
/-- The family at getVersion. -/
theorem getVersion : Statement .getVersion := by
  rintro - w hw; cases hw
/-- The family at getCapabilities. -/
theorem getCapabilities : Statement .getCapabilities := by
  rintro - w hw; cases hw
/-- The family at negotiateAlgorithms. -/
theorem negotiateAlgorithms (offer : List SpdmAlg) : Statement (.negotiateAlgorithms offer) := by
  rintro - w hw; cases hw
/-- The family at getDigests. -/
theorem getDigests : Statement .getDigests := by
  rintro - w hw; cases hw
/-- The family at getCertificate. -/
theorem getCertificate (offset length : Nat) : Statement (.getCertificate offset length) := by
  rintro - w hw; cases hw
/-- The family at challenge. -/
theorem challenge (nonce : BitVec 256) : Statement (.challenge nonce) := by
  rintro - w hw; cases hw
/-- The family at getMeasurements. -/
theorem getMeasurements (index : Nat) : Statement (.getMeasurements index) := by
  rintro - w hw; cases hw
/-- The family at basinBinTimeout. -/
theorem basinBinTimeout (core bin : Nat) : Statement (.basinBinTimeout core bin) := by
  rintro - w hw; cases hw
/-- The family at teamWatchdogExpiry. -/
theorem teamWatchdogExpiry (core team : Nat) : Statement (.teamWatchdogExpiry core team) := by
  rintro - w hw; cases hw
/-- The family at matrixWatchdogExpiry. -/
theorem matrixWatchdogExpiry (block slot : Nat) : Statement (.matrixWatchdogExpiry block slot) := by
  rintro - w hw; cases hw
/-- The family at replayFilterExpiry. -/
theorem replayFilterExpiry (core n : Nat) : Statement (.replayFilterExpiry core n) := by
  rintro - w hw; cases hw
/-- The family at creditIdleReturn. -/
theorem creditIdleReturn (core slice task queue : Nat) : Statement (.creditIdleReturn core slice task queue) := by
  rintro - w hw; cases hw
/-- The family at sectionTimeoutProbe. -/
theorem sectionTimeoutProbe (core n : Nat) : Statement (.sectionTimeoutProbe core n) := by
  rintro - w hw; cases hw
/-- The family at parkTimeout. -/
theorem parkTimeout (core slot lane : Nat) : Statement (.parkTimeout core slot lane) := by
  rintro - w hw; cases hw
/-- The family at barrierWaitTimeout. -/
theorem barrierWaitTimeout (core slot lane : Nat) : Statement (.barrierWaitTimeout core slot lane) := by
  rintro - w hw; cases hw
/-- The family at quiesceTimeout. -/
theorem quiesceTimeout (core slot lane : Nat) : Statement (.quiesceTimeout core slot lane) := by
  rintro - w hw; cases hw

end Sys2Proof.Laws.EncodesOnce
end

