-- ==== Sys2Proof/Tests/Slice0.lean ====
section
/-!
SUPPORT. Tests of the model on the specification's own worked values, and, for the statements that have hypotheses, states that meet them.
Each expected value stands in the rule that its test names.
-/
namespace Sys2Proof.Tests

open Machine Claims

set_option Elab.async false
set_option maxRecDepth 20000

/-! ## Words decode (R341, and the worked encodings of the instruction chapters) -/

/-- R341: GN and GP invert and name a predicate. -/
theorem test_decode_ffma : decode 0x40E600080482816000000000#96 = .ok (.ffma ⟨true, 3, 0⟩ ⟨8, 9, 10, 11, 0⟩) := by decide
/-- Format S: `REGREL 8`. -/
theorem test_decode_regrel : decode 0x03C000000000000200000000#96 = .ok (.regrel ⟨false, 0, 0⟩ ⟨0, 0, 0, 8⟩) := by decide
/-- Format M: `LD`. -/
theorem test_decode_ld : decode 0x8000000C0A00150200004000#96 = .ok (.ld ⟨false, 0, 0⟩ ⟨12, 20, 0, 5, 1, false, false, 0, 2, 0x40⟩) := by decide
/-- Format K: `p6? OSSKIP g24, g22`. -/
theorem test_decode_osskip : decode 0xA18C00000C05800000000000#96 = .ok (.osskip ⟨false, 6, 0⟩ ⟨0, 24, 22, 0, 0, 0, 0, 0, 0, 0⟩) := by decide
/-- Format K with a class and a length: `SEND.c1 g20, g16, 16`. -/
theorem test_decode_send : decode 0xA2C000000A0400003E000000#96 = .ok (.send ⟨false, 0, 0⟩ ⟨0, 20, 16, 0, 0, 1, 15, 0, 0, 0⟩) := by decide
/-- A mode in MOD: `RAYSEND.local g12`. -/
theorem test_decode_raysend_local : decode 0xE04002000003000000000000#96 = .ok (.raysendLocal ⟨false, 0, 1⟩ ⟨0, 0, 12, 0, 0, 0, 0, 0, 0, 0⟩) := by decide
/-- Format X: `p1? TLOAD g6, g4, g8, 1`. -/
theorem test_decode_tload : decode 0xE10200060202000000000200#96 = .ok (.tload ⟨false, 1, 0⟩ ⟨6, 4, 8, 0, 0, 0, 0, 0, 0, 1, 0⟩) := by decide
/-- Format X: `p3? PUMPW g16:g17, g18, 1`. -/
theorem test_decode_pumpw : decode 0xE28600100900000000000200#96 = .ok (.pumpw ⟨false, 3, 0⟩ ⟨16, 18, 0, 0, 0, 0, 0, 0, 0, 1, 0⟩) := by decide
/-- Format A with a conversion's MOD: `CVT.f16.f32.rn g4, g5`. -/
theorem test_decode_cvt : decode 0x600060040280004000000000#96 = .ok (.cvt ⟨false, 0, 0x30⟩ ⟨4, 5, 0, 2, 0⟩) := by decide
/-- NOP is 96 zero bits (R341). -/
theorem test_encode_nop : encode (.nop ⟨false, 0, 0⟩ ⟨0, 0, 0, 0⟩) = some 0 := by decide
/-- Format W from R335 and R374: MOVW g4:g5 with 0x1_0000_0002; OPC 0x09B, d at bit 66. -/
theorem test_decode_movw : decode 0x26C000040000000100000002#96 = .ok (.movw ⟨false, 0, 0⟩ ⟨4, 0x0000000100000002⟩) := by decide
/-- The matrix family's worked word. -/
theorem test_decode_mma : decode 0xC0800000000000450D540400#96 = .ok (.mma ⟨false, 0, 0⟩ ⟨0, 0, 0, 0, 1, 5, 3, 5, 5, 2, 0⟩) := by decide
/-- COMBINE's worked word. -/
theorem test_decode_combine : decode 0xA08000140104A0AE00000000#96 = .ok (.combine ⟨false, 0, 0⟩ ⟨20, 2, 18, 0x105, 7, 0, 0, 0, 0, 0⟩) := by decide
/-- The control family: FEND. -/
theorem test_decode_fend : decode 0x01C000000000000000000000#96 = .ok (.fend ⟨false, 0, 0⟩ ⟨0, 0, 0, 0⟩) := by decide
/-- The pump family: `p3? PUMP g24, 1`. -/
theorem test_decode_pump : decode 0xE24600000006000000000200#96 = .ok (.pump ⟨false, 3, 0⟩ ⟨0, 0, 24, 0, 0, 0, 0, 0, 0, 1, 0⟩) := by decide

/-! ## The encoding checks refuse (R338) -/

/-- 0x01: an opcode that names no instruction. -/
theorem test_refuses_opcode : decode 0xFFC000000000000000000000#96 = .error 0x01 := by decide
/-- 0x02: IADD with its unused operand c not zero. -/
theorem test_refuses_field : (Instr.iadd ⟨false, 0, 0⟩ ⟨4, 5, 6, 7, 0⟩).firstBad = some 0x02 := by decide
/-- 0x02: a reserved bit of format A. -/
theorem test_refuses_reserved_bit : decode 0x200000040281800000000001#96 = .error 0x02 := by decide
/-- 0x0D: SIZE 0b101 of format M (R335). -/
theorem test_refuses_size : (Instr.ld ⟨false, 0, 0⟩ ⟨12, 20, 0, 5, 1, false, false, 0, 5, 0⟩).firstBad = some 0x0D := by decide
/-- 0x0D: TSLOT 5 of format B (R335). -/
theorem test_refuses_tslot : (Instr.bra ⟨false, 0, 0⟩ ⟨0, 1, 5⟩).firstBad = some 0x0D := by decide
/-- 0x05: operand code 0x141 (R80). -/
theorem test_refuses_code : (Instr.iadd ⟨false, 0, 0⟩ ⟨4, 0x141, 6, 0, 0⟩).firstBad = some 0x05 := by decide
/-- 0x06: MOVW to an odd register. -/
theorem test_refuses_odd_pair : (Instr.movw ⟨false, 0, 0⟩ ⟨5, 0⟩).firstBad = some 0x06 := by decide
/-- 0x07: a matrix command on a ray core. -/
theorem test_refuses_unit : decodeOn true 0xC0800000000000450D540400#96 = .error 0x07 := by decide
/-- A term that fails a check is not well-formed. -/
theorem test_ill_formed : ¬ WellFormed (.iadd ⟨false, 0, 0⟩ ⟨4, 5, 6, 7, 0⟩) := by unfold WellFormed; decide
/-- Neither is a device step whose parameters name nothing: core 576, an unaligned host write. -/
theorem test_ill_formed_step : ¬ WellFormed (.claimGrant 576) ∧ ¬ WellFormed (.hostRegisterWrite 0 1 8 0) := by unfold WellFormed; decide
/-- The worked IADD is well-formed. -/
theorem test_well_formed : WellFormed (.iadd ⟨false, 0, 0⟩ ⟨4, 5, 6, 0, 0⟩) := by unfold WellFormed; decide

/-! ## Values of the manual -/

/-- The line parity of R341's worked line: its first packet's words give parity bits 0x10. -/
theorem test_line_parity : parityOk [0x00000000#32, 0x02818000#32, 0x20000004#32, 0x00000000#32, 0x04828160#32, 0x40E60008#32, 0, 0, 0x01C00000#32,
    0, 0, 0, 0, 0, 0, 0x10188100#32] = true := by decide
/-- The WHO word 0x0101_7D5D (R296). -/
theorem test_who : whoWord 1 1 31 349 = 0x01017D5D#32 := by decide
/-- Core 349 stands at (25, 9): local index 13 (R19). -/
theorem test_local_index : coreX 349 = 25 ∧ coreY 349 = 9 ∧ localIndex 349 = 13 := by decide
/-- BFX.s of 0x0000_0F00 at 8, width 4 (R375, R379). -/
theorem test_bfx : resBfx 1 0x00000F00 0x00000408 = 0xFFFFFFFF := by decide
/-- IMUL.hi is signed (R379). -/
theorem test_imul_hi : resImul 1 0x80000000 2 = 0xFFFFFFFF := by decide
/-- IDIV truncates toward zero (R376, R379). -/
theorem test_idiv : resIdiv 0 0xFFFFFFF9 2 = 0xFFFFFFFD ∧ resIdiv 1 9 0 = 0xFFFFFFFF := by decide
/-- A shift by more than the width (R374). -/
theorem test_shifts : resSar 0x80000000 40 = 0xFFFFFFFF ∧ resShl 1 32 = 0 := by decide
/-- F32 65,520 to F16: .rn overflows to infinity (R171). -/
theorem test_cvt_f16_rn : convertTo 3 false false false 0 (sourceValue 2 false false 0 0x477FF000 0) = (0x7C00, flagOF ||| flagNX) := by decide
/-- F32 65,520 to F16: .rz does not (R171). -/
theorem test_cvt_f16_rz : convertTo 3 false false false 1 (sourceValue 2 false false 0 0x477FF000 0) = (0x7BFF, flagNX) := by decide
/-- F32 470 to E4M3 saturates (R171). -/
theorem test_cvt_e4m3 : convertTo 5 false false false 0 (sourceValue 2 false false 0 0x43EB0000 0) = (0x7E, flagOF ||| flagNX) := by decide
/-- F32 62,000 to E5M2 saturates (R171). -/
theorem test_cvt_e5m2 : convertTo 6 false false false 0 (sourceValue 2 false false 0 0x47723000 0) = (0x7B, flagOF ||| flagNX) := by decide
/-- F32 -2.5 to I32: .rn to even, .rd down (R171). -/
theorem test_cvt_i32 : convertTo 7 false false false 0 (sourceValue 2 false false 0 0xC0200000 0) = (0xFFFFFFFE, flagNX) ∧
    convertTo 7 false false false 3 (sourceValue 2 false false 0 0xC0200000 0) = (0xFFFFFFFD, flagNX) := by decide
/-- F32 2^31 to I32 delivers the bound (R171). -/
theorem test_cvt_i32_bound : convertTo 7 false false false 1 (sourceValue 2 false false 0 0x4F000000 0) = (0x7FFFFFFF, flagNV) := by decide
/-- A signalling E5M2 NaN to F16 (R171). -/
theorem test_cvt_nan : convertTo 3 false false false 0 (sourceValue 6 false false 0 0x7D 0) = (0x7E00, flagNV) := by decide
/-- Q4 code 13 with beta 0.1875 to F16 is exactly 111/1024 (R171). -/
theorem test_cvt_q4 : convertTo 3 false false false 0 (sourceValue 10 false false 0 13 0x3E400000) = (0x2EF0, 0) := by decide
/-- The sum of a negative and a positive zero is +0, and -0 under .rd (R151). -/
theorem test_zero_sum : (fAdd fmtF32 0 false (.zero true) (.zero false)).1 = 0 ∧ (fAdd fmtF32 3 false (.zero true) (.zero false)).1 = 0x80000000 := by decide
/-- SHFL.down by 1 from lane 3 has its source in lane 4 (R362). -/
theorem test_shfl : shflLane 2 3 1 = some 4 ∧ shflLane 1 0 1 = none := by decide
/-- VOTE.ballot over lanes 0 to 3 with a = lane mod 2 (R362). -/
theorem test_ballot : resVote 3 [(0, 0), (1, 1), (2, 0), (3, 1)] = 0x0000000A#32 := by decide
/-- HMIX of zeros is zero (R379's formula). -/
theorem test_hmix : resHmix 0 0 = 0 := by decide
/-- R119's homing example: g = 0x806, four cores, rank 2, core 44; the set of that granule is 38 (R126). -/
theorem test_homing : (0x403340 / 2048 = 0x806) ∧ (rankBit 0x505 64 0 (0x806 % popNat 0x505 64)).map (36 + ·) = some 44 ∧ l2Set 0x806 = 38 := by decide
/-- R127's example: words 0x1000, 0x1004, ..., 0x103C fit B4D1, 2 sectors. -/
theorem test_coding : codingOf (bytesOf ((List.range 16).map fun i => BitVec.ofNat 32 (0x1000 + 4 * i))) = 0b011 ∧ sectorsOf 0b011 = 2 := by decide
/-- Words are little-endian in memory (R4). -/
theorem test_bytes : leBytes 4 0x10188100 = [0x00, 0x81, 0x18, 0x10] := by decide

/-! ## One instruction, and one step -/

/-- One fibre at a NOP in a core, in the form that withFetchWord places it, with some registers written. -/
def bench (regs : List (Nat × Word)) : State :=
  modFib (State.reset.withFetchWord 96 0) ⟨0, 0, 0⟩ fun x => { x with regs := regs.foldl (fun l e => l.set e.1 e.2) x.regs }

/-- Its batch. -/
def benchIssue : Issue := ⟨0, 0, 0, [0], 0, false⟩

/-- The fibre of the bench: only its registers depend on those written. -/
theorem bench_fibre (regs : List (Nat × Word)) : getFib (bench regs) ⟨0, 0, 0⟩ = some { newFibre 256 0 1 (fsrNew 2 false false) [] Origin.none with
    regs := regs.foldl (fun l e => l.set e.1 e.2) (newFibre 256 0 1 (fsrNew 2 false false) [] Origin.none).regs } := rfl

/-- Every instruction whose registers exist issues there. -/
theorem bench_issues (regs : List (Nat × Word)) (m : BitVec 8) (ops : Named) (h : outOfRange 256 ops = none) :
    Issues (bench regs) ⟨false, 0, m⟩ ops benchIssue [0] where
  batch := rfl
  distinct := by decide
  unprefixed := by
    have e : (fsrNew 2 false false)[31] = false := by decide
    simp [lanesWhere, benchIssue, Issue.fref, bench_fibre, fsrPP, newFibre, e]
  active := rfl
  someLane := by decide
  inRange := h

/-- A pending result of the bench's fibre after an instruction. -/
def pendsAfter (i : Instr) (regs : List (Nat × Word)) : List Pend :=
  match exec i (bench regs) with
  | .next t => ((getFib t ⟨0, 0, 0⟩).map Fibre.pend).getD []
  | _ => []

/-- IADD.sat saturates and lands at distance 1 (R374, R379). -/
theorem test_iadd_sat : pendsAfter (.iadd ⟨false, 0, 1⟩ ⟨4, 5, 6, 0, 0⟩) [(5, 0x7FFFFFF0), (6, 0x20)] = [⟨1, .reg 4 0x7FFFFFFF⟩] := by decide
/-- A source that is also the destination is read before the result lands (R13). -/
theorem test_isub_same : pendsAfter (.isub ⟨false, 0, 0⟩ ⟨5, 5, 6, 0, 0⟩) [(5, 5), (6, 9)] = [⟨1, .reg 5 0xFFFFFFFC⟩] := by decide
/-- A false guard: nothing (R82). -/
theorem test_guard_false : pendsAfter (.iadd ⟨true, 0, 0⟩ ⟨4, 5, 6, 0, 0⟩) [(5, 1)] = [] := by decide
/-- A result for g0 is discarded (R75). -/
theorem test_g0 : pendsAfter (.mov ⟨false, 0, 0⟩ ⟨0, 5, 0, 0, 0⟩) [(5, 1)] = [] := by decide
/-- MOVW writes a pair, low word first (R374). -/
theorem test_movw : pendsAfter (.movw ⟨false, 0, 0⟩ ⟨4, 0x0000000100000002⟩) [] = [⟨1, .reg 4 2⟩, ⟨1, .reg 5 1⟩] := by decide
/-- ELECT gives 1 to the lowest active lane (R362). -/
theorem test_elect : pendsAfter (.elect ⟨false, 0, 0⟩ ⟨4, 0, 0, 0, 0⟩) [] = [⟨2, .reg 4 1⟩] := by decide
/-- FADD 1.0 + 2.0 = 3.0 at distance 4; no flag rises (R340, R151). -/
theorem test_fadd : pendsAfter (.fadd ⟨false, 0, 0⟩ ⟨4, 5, 6, 0, 0⟩) [(5, 0x3F800000), (6, 0x40000000)] = [⟨4, .reg 4 0x40400000⟩] := by decide

/-- The registers 4 after one step of the placed word. -/
def regAfterStep (w : Nat) (n : Nat) : Word :=
  match step (State.reset.withFetchWord 96 w) with
  | .next t => ((getFib t ⟨0, 0, 0⟩).map fun x => regOf x n).getD 0
  | _ => 0
/-- R335, R374, R49: the word of MOVI g4, 5 runs in one step; its result has landed at the end of its packet. -/
theorem test_step_movi : regAfterStep 0x2680000400000000000000A0 4 = 5 := by decide

/-! ## States that meet the hypotheses of the statements -/

/-- A packet that stands at core 0, from core 1. -/
def letter (b : Body) : Packet :=
  { id := 1, vc := .mreq, kind := 1, cls := 0, src := 1, spkg := 0, dst := 0, dpkg := 0, tags := 0, flits := 1, order := 1, pos := 0, side := 4
    yxHalf := false, pinned := none, arrived := true, came := 5, noMerge := false, body := b }

/-- A state in which it is the only packet. -/
def mail (s : State) (b : Body) : State := { s with mesh := [letter b], clk := 9 }

/-- It has arrived. -/
theorem mail_arrived (s : State) (b : Body) : Arrived (mail s b) 1 (letter b) b := ⟨rfl, rfl⟩

/-- The bench's fibre with something changed. -/
def benchFib (g : Fibre → Fibre) : State := modFib (bench []) ⟨0, 0, 0⟩ g

/-- Core 0 of the package after reset with something changed. -/
def oneCore (g : Core → Core) : State := modCore State.reset 0 g

/-- Slice 0 of the package after reset with something changed. -/
def oneSlice (g : Slice → Slice) : State := modSlice State.reset 0 g

/-- No active fibre of the bench is restartable. -/
theorem bench_unrestartable : NoneRestartable (bench []) benchIssue [0] := by
  intro l hl x hx
  obtain rfl := List.mem_singleton.mp hl
  rw [show benchIssue.fref 0 = ⟨0, 0, 0⟩ from rfl, bench_fibre] at hx
  obtain rfl := Option.some.inj hx
  decide

/-- The head of an unguarded instruction. -/
abbrev hd : Head := ⟨false, 0, 0⟩

theorem witness_IntegerResults : ∃ h d e, shortInteger (.iadd hd ⟨4, 5, 6, 0, 0⟩) = some (h, d, e) ∧
    Issues (bench []) h (namedOf (.iadd hd ⟨4, 5, 6, 0, 0⟩)) benchIssue [0] := ⟨_, _, _, rfl, bench_issues [] 0 _ (by decide)⟩
/-- The highest register of an allotment of 256. -/
theorem witness_IntegerResults_last_register : ∃ h d e, shortInteger (.mov hd ⟨255, 255, 0, 0, 0⟩) = some (h, d, e) ∧
    Issues (bench []) h (namedOf (.mov hd ⟨255, 255, 0, 0, 0⟩)) benchIssue [0] := ⟨_, _, _, rfl, bench_issues [] 0 _ (by decide)⟩
theorem witness_FloatResults : (∃ h d e, shortFloat (.ffma hd ⟨4, 5, 6, 7, 0⟩) = some (h, d, e) ∧ Issues (bench []) h (namedOf (.ffma hd ⟨4, 5, 6, 7, 0⟩)) benchIssue [0]) ∧
    ∃ h d e, shortOther (.pack hd ⟨4, 5, 6, 7, 0⟩) = some (h, d, e) ∧ Issues (bench []) h (namedOf (.pack hd ⟨4, 5, 6, 7, 0⟩)) benchIssue [0] :=
  ⟨⟨_, _, _, rfl, bench_issues [] 0 _ (by decide)⟩, ⟨_, _, _, rfl, bench_issues [] 0 _ (by decide)⟩⟩
theorem witness_RunEndResults : ∃ h e, longKnown (.idiv hd ⟨4, 5, 6, 0, 0⟩) = some (h, e) ∧ Issues (bench []) h (namedOf (.idiv hd ⟨4, 5, 6, 0, 0⟩)) benchIssue [0] :=
  ⟨_, _, rfl, bench_issues [] 0 _ (by decide)⟩
theorem witness_CollectiveResults : ∃ h d e, collective (.shfl hd ⟨4, 5, 6, 7, 0⟩) = some (h, d, e) ∧ Issues (bench []) h (namedOf (.shfl hd ⟨4, 5, 6, 7, 0⟩)) benchIssue [0] :=
  ⟨_, _, _, rfl, bench_issues [] 0 _ (by decide)⟩
theorem witness_Conversions : ∃ effs : Nat → List Eff, issuing (bench []) = some benchIssue ∧ benchIssue.lanes.Nodup ∧
    ∀ l ∈ benchIssue.lanes, ∀ x, getFib (bench []) (benchIssue.fref l) = some x → guardOf hd x = true →
      cvtEffs ⟨false, 0, 0x30⟩ ⟨4, 5, 0, 2, 0⟩ (if fsrPP x then some (fsrPFMT x) else none) (bench []) benchIssue l x = some (effs l) := by
  refine ⟨fun _ => [.reg 4 0], rfl, by decide, ?_⟩
  intro l hl x hx _
  obtain rfl := List.mem_singleton.mp hl
  rw [show benchIssue.fref 0 = ⟨0, 0, 0⟩ from rfl, bench_fibre] at hx
  obtain rfl := Option.some.inj hx
  decide

/-- The statements lane by lane: an instruction of each issues, and its lane has a fibre. -/
theorem witness_lanes : (∃ x, getFib (bench []) (benchIssue.fref 0) = some x) ∧
    Issues (bench []) hd (namedOf (.bra hd ⟨0, 0, 0⟩)) benchIssue [0] ∧ Issues (bench []) hd (namedOf (.park hd ⟨4, 5, 0, 0⟩)) benchIssue [0] ∧
    Issues (bench []) hd (namedOf (.ctlrd hd ⟨4, 0, 0, 0x100⟩)) benchIssue [0] ∧
    Issues (bench []) hd (namedOf (.ld hd ⟨12, 20, 0, 5, 1, false, false, 0, 2, 0x40⟩)) benchIssue [0] ∧
    Issues (bench []) hd (namedOf (.pref hd ⟨0, 20, 22, 0, 0, false, false, 0, 0, 0⟩)) benchIssue [0] ∧
    Issues (bench []) hd [(0, (4 : Code), 1), (1, 8, 2), (2, 16, 1)] benchIssue [0] ∧ Issues (bench []) hd [(1, (4 : Code), 1), (2, 16, 16), (3, 0, 1)] benchIssue [0] ∧
    Issues (bench []) hd [(0, (4 : Code), 1), (2, 16, 16)] benchIssue [0] ∧
    Issues (bench []) hd (namedOf (.fence hd ⟨0, 0, 0, 0, 3, 0, 0, 0, 0, 0⟩)) benchIssue [0] :=
  ⟨⟨_, bench_fibre []⟩, bench_issues [] 0 _ (by decide), bench_issues [] 0 _ (by decide), bench_issues [] 0 _ (by decide), bench_issues [] 0 _ (by decide),
    bench_issues [] 0 _ (by decide), bench_issues [] 0 _ (by decide), bench_issues [] 0 _ (by decide), bench_issues [] 0 _ (by decide), bench_issues [] 0 _ (by decide)⟩
/-- A branch at a run end to a marked target, and one that is not marked. -/
theorem witness_BranchesAndReturns : ∃ obj, codeObjOf (bench []) ⟨0, 0, 0⟩ = some obj ∧ isTarget (bench []) 0 obj 0 = true ∧ isTarget (bench []) 0 obj 12 = false :=
  ⟨_, rfl, by decide, by decide⟩
/-- PARK's fibre with and without a wake. -/
theorem witness_FibreControl : ∃ x y, getFib (bench []) ⟨0, 0, 0⟩ = some x ∧ x.wk = false ∧ getFib (benchFib fun x => { x with wk := true }) ⟨0, 0, 0⟩ = some y ∧ y.wk = true :=
  ⟨_, _, rfl, rfl, rfl, rfl⟩
/-- A SPAWN that issues; TBLLD with its highest lane; a debugger that is not attached. -/
theorem witness_BatchControl : Issues (bench [(5, 1)]) hd (namedOf (.spawn hd ⟨5, 0, 0⟩)) benchIssue [0] ∧
    (∃ obj, codeObjOf (bench [(5, 1)]) ⟨0, 0, 0⟩ = some obj ∧ dispTarget 0 ⟨5, 0, 0⟩ = some 0 ∧ isTarget (bench [(5, 1)]) 0 obj 0 = true) ∧
    (∃ x, getFib (bench [(5, 1)]) ⟨0, 0, 0⟩ = some x ∧ (regOf x 5).toNat % 64 ≠ gidOf (bench [(5, 1)]) ⟨0, 0, 0⟩) ∧
    (∃ n tm, teamOf (bench []) ⟨0, 0, 0⟩ = some (n, tm)) ∧ badAllot (bench []) benchIssue 256 = false ∧ badAllot (bench []) benchIssue 8 = false :=
  ⟨bench_issues _ 0 _ (by decide), ⟨_, rfl, by decide, by decide⟩, ⟨_, rfl, by decide⟩, ⟨_, _, rfl⟩, by decide, by decide⟩
/-- N of BARINIT at both ends of 1 to 2,048 and just outside. -/
theorem witness_CombiningSectionsBarriers : Issues (bench [(5, 2048)]) hd (namedOf (.barinit hd ⟨0, 5, 0, 0, 0, 0, 0, 0, 0, 0⟩)) benchIssue [0] ∧
    (∃ x, getFib (bench [(5, 2048)]) ⟨0, 0, 0⟩ = some x ∧ (regOf x 5).toNat = 2048) ∧ (∃ x, getFib (bench [(5, 1)]) ⟨0, 0, 0⟩ = some x ∧ (regOf x 5).toNat = 1) ∧
    (∃ x, getFib (bench []) ⟨0, 0, 0⟩ = some x ∧ (regOf x 5).toNat = 0) ∧ ∃ x, getFib (bench [(5, 2049)]) ⟨0, 0, 0⟩ = some x ∧ (regOf x 5).toNat = 2049 :=
  ⟨bench_issues _ 0 _ (by decide), ⟨_, rfl, rfl⟩, ⟨_, rfl, rfl⟩, ⟨_, rfl, rfl⟩, ⟨_, rfl, rfl⟩⟩
/-- HBIND with its target marked and a free binding; HUNBIND of a tag that is not live. -/
theorem witness_HandlerControl : Issues (bench []) hd (namedOf (.hbind hd ⟨4, 5, 0, 0x101, 0, 0, 0, 0, 0, 1⟩)) benchIssue [0] ∧
    (∃ obj, codeObjOf (bench []) ⟨0, 0, 0⟩ = some obj ∧ regTarget obj 0 = some 0 ∧ isTarget (bench []) 0 obj 0 = true) ∧
    bindV (tgetD (pendingBindings (bench []) benchIssue) 2 0) = false ∧ bindV (tgetD (pendingBindings (bench []) benchIssue) 0 0) = false :=
  ⟨bench_issues _ 0 _ (by decide), ⟨_, rfl, by decide, by decide⟩, by decide, by decide⟩
/-- A team without a lease asks for tiles 63 and 0, the last and the first; one tile more is refused. -/
theorem witness_MatrixInstructions : Issues (bench []) hd (namedOf (.mlease hd ⟨4, 0, 0, 0, 0, 0, 63, 0, 0, 0, 0⟩)) benchIssue [0] ∧ NoneRestartable (bench []) benchIssue [0] ∧
    leaseOf (bench []) 0 0 = none ∧ (∃ tm, teamOf (bench []) ⟨0, 0, 0⟩ = some (0, tm)) ∧ (0#6).toNat + (63#6).toNat ≤ 63 ∧ 63 < (1#6).toNat + (63#6).toNat ∧
    ∃ s l, leaseOf s 0 0 = some (1, l) ∧ s.fibres = (bench []).fibres :=
  ⟨bench_issues _ 0 _ (by decide), bench_unrestartable, by decide, ⟨_, rfl⟩, by decide, by decide,
    putBlock (bench []) 0 { Block.fresh with leases := [(1, { core := 0, team := 0, first := 0, count := 64, acc := 0, queue := [], ending := false, reentry := none, watchdog := 0 })] },
    _, rfl, rfl⟩

/-! ### Packets at their destination -/

/-- A result that is awaited, by its record; one that is not. -/
theorem witness_RepliesDelivered : Arrived (mail (benchFib fun x => addLL x 7) (.results ⟨0, 0, 0⟩ 1 7 0 0 [])) 1 (letter (.results ⟨0, 0, 0⟩ 1 7 0 0 [])) (.results ⟨0, 0, 0⟩ 1 7 0 0 []) ∧
    awaited (mail (benchFib fun x => addLL x 7) (.results ⟨0, 0, 0⟩ 1 7 0 0 [])) ⟨0, 0, 0⟩ (some 1) [7, 0] = true ∧
    awaited (mail (bench []) (.results ⟨0, 0, 0⟩ 1 7 0 0 [])) ⟨0, 0, 0⟩ (some 1) [7, 0] = false ∧ arrivedPacket State.reset 1 = none :=
  ⟨mail_arrived _ _, by decide, by decide, by decide⟩
/-- A PARK whose limit is the clock, and one whose limit is the next clock. -/
theorem witness_WaitsAndWatchdogs : dueWait (benchFib fun x => { x with waits := [.park 0 (some 0)] }) ⟨0, 0, 0⟩ parkLimit = some (.park 0 (some 0)) ∧
    dueWait (benchFib fun x => { x with waits := [.park 0 (some 1)] }) ⟨0, 0, 0⟩ parkLimit = none := ⟨by decide, by decide⟩
theorem witness_IssueAndMessageArrival : (getPart (bench []) 0 0).batch.isSome = true ∧
    (let s := { modPart (bench []) 0 0 fun p => { p with batch := none } with turn := (0, 0) }
     nextCandidate (getPart s 0 0) (candidates s 0 0) = some (0, 0) ∧ runTokens (getCore s 0) 24 0 0 = 0 ∧ (getCore s 0).stoppedBatches = []) ∧
    injectable State.reset 0 0 = none := ⟨by decide, ⟨by decide, by decide, by decide⟩, by decide⟩
/-- A lane's request at physical address 0. -/
def lane0 (k : OpKind) : LaneReq :=
  { f := ⟨0, 0, 0⟩, gen := 1, acc := 0, ll := 7, loc := .phys 0, wt := false, bcmp := false, fwd := []
    op := { kind := k, pc := 0, va := 0x10000, ext := none, cistern := false, size := 4, signed := false, data := [5], data2 := [], dst := 4, opc := 0, stat := false
            retryId := none, scope := 3, acq := false, rel := false, rem := false, path := .ls } }
/-- A piece of zeros. -/
def blankPiece : Piece := { data := List.replicate 64 0, dirty := false, poison := 0, seen := false, pin := false, coding := 0, promo := 0x3FF }
/-- A home with piece 0 present. -/
def warmHome : State := oneCore fun k => { k with slice := some 0, l2 := [{ g := 0, bcmp := false, pieces := [(0, blankPiece)], kept := [] }] }
theorem witness_RequestsAtHomes : Arrived (mail warmHome (.read [lane0 .load])) 1 (letter (.read [lane0 .load])) (.read [lane0 .load]) ∧
    Unheld (mail warmHome (.read [lane0 .load])) (letter (.read [lane0 .load])) [lane0 .load] 0 ∧
    l2Piece (getCore (mail warmHome (.read [lane0 .load])) 0) 0 = some blankPiece ∧ promotionNeeded (mail warmHome (.read [lane0 .load])) (letter (.read [lane0 .load])) blankPiece [lane0 .load] = none :=
  ⟨mail_arrived _ _, ⟨by decide, by decide, by decide, by decide, by decide, by decide, by decide, by decide, by decide⟩, by decide, by decide⟩
/-- The same home without the piece. -/
theorem witness_RequestsAtHomes_absent : Unheld (mail State.reset (.read [lane0 .load])) (letter (.read [lane0 .load])) [lane0 .load] 0 ∧
    l2Piece (getCore (mail State.reset (.read [lane0 .load])) 0) 0 = none ∧ l2CanFill (mail State.reset (.read [lane0 .load])) 0 0 = true :=
  ⟨⟨by decide, by decide, by decide, by decide, by decide, by decide, by decide, by decide, by decide⟩, by decide, by decide⟩
/-- A packet on its way from core 1 to core 0 that may go west. -/
theorem witness_HomesHopsAndWalks : let p := { letter (.ack ⟨0, 0, 0⟩ 0) with pos := 1, arrived := false }
    let s := { State.reset with mesh := [p] }
    getPacket s 1 = some p ∧ nextPort s p = 0 ∧ granted s p 0 = true ∧ neighbour 1 0 = some 0 := ⟨by decide, by decide, by decide, by decide⟩
theorem witness_HomesHopsAndWalks_fill : (getCore (oneCore fun k => { k with homeWait := [3] }) 0).homeWait.contains 3 = true ∧
    channelPaused (oneCore fun k => { k with homeWait := [3] }) 192 = false := ⟨by decide, by decide⟩
/-- Packets before their router, in an attached block, at a span port and gone by it. -/
theorem witness_HomesHopsAndWalks_sides : ∀ n ∈ [6, 7, 9, 10],
    let p := { letter (.ack ⟨0, 0, 0⟩ 0) with arrived := false, side := n }
    getPacket { State.reset with mesh := [p] } 1 = some p ∧ underTest { State.reset with mesh := [p] } 0x08 p.pos = false := by decide
theorem witness_SharedRegistersAndErrorLog : Arrived (mail State.reset (.ctl 5 1 [] ⟨0, 0, 0⟩ 0)) 1 (letter (.ctl 5 1 [] ⟨0, 0, 0⟩ 0)) (.ctl 5 1 [] ⟨0, 0, 0⟩ 0) ∧
    broadcastBlocked (mail State.reset (.ctl 5 1 [] ⟨0, 0, 0⟩ 0)) (letter (.ctl 5 1 [] ⟨0, 0, 0⟩ 0)) 575 = false := ⟨mail_arrived _ _, by decide⟩
/-- A COMBINE at a home without the object; a barrier arrival at a core of its cluster. -/
theorem witness_CombinersAndBarrierPackets : let b : Body := .combine ⟨0, 0, 0⟩ 1 0 7 4 0 0 64 [1] 1
    combineWaits (mail State.reset b) (letter b) = false ∧ underTest (mail State.reset b) 0x0C 0 = false ∧ objectAt (getCore (mail State.reset b) 0) 64 = none ∧
    ∃ n t, clusterTeam (mail (bench []) (.barArrive 0 0 0 0)) 0 0 0 0 = some (n, t) := ⟨by decide, by decide, by decide, _, _, rfl⟩
/-- The section is free and it is the fibre's turn; a sequence number just behind it has passed. -/
theorem witness_SectionHomesAndAnswers : let e : SecEntry := { key := 64, next := 0, held := false, abn := false, holder := ⟨0, 0, 0⟩, hgen := 0 }
    let s := mail (oneCore fun k => { k with sections := [e] }) (.ordered 0 ⟨0, 0, 0⟩ 1 0 64 0)
    secOf s 0 64 = some e ∧ seqPassed e 0xFFFFFFFF = true ∧ seqPassed e 0 = false ∧ (enterSection s 0 e ⟨0, 0, 0⟩ 1 0 0).isSome = true :=
  ⟨by decide, by decide, by decide, by decide⟩
/-- A record that fails no check, at its edges: code at 64, 8,192 lines at most, one group of 32 fibres, a grid of 1. -/
def goodRecord : List Word := [64, 0, 0, 0x00000001, 0x00042000, 0x00000101, 0x00010001, 0xFFFF0001] ++ List.replicate 56 0
theorem witness_LaunchesAndPlacement : badField goodRecord = none ∧ badField (1 :: goodRecord.drop 1) = some 0x00 ∧ launchFull State.reset 0 goodRecord = false ∧
    (windowOf State.reset 0 0).isSome = true ∧ (windowOf State.reset 8 8).isSome = true ∧ windowOf State.reset 8 9 = none :=
  ⟨by decide, by decide, by decide, by decide, by decide, by decide⟩
/-- A record for a task that is gone; a ray that finds a free slot and no treelet. -/
theorem witness_WorkGraphsAndRays : let b : Body := .work 0 0 0 []
    let r : Body := .ray (List.replicate 16 0) 0 none
    earlierWaits (mail State.reset b) (letter b) = false ∧ tget (getSlice (mail State.reset b) 0).tasks 0 = none ∧ earlierWaits (mail State.reset r) (letter r) = false ∧
    freeRay (getCore (mail State.reset r) 0) = some 0 ∧ treeletEntry (getCore (mail State.reset r) 0) 0 = none := ⟨by decide, by decide, by decide, by decide, by decide⟩
/-- Eight lease requests are the most; two tile ranges of two teams that meet. -/
theorem witness_MatrixBlocks : let q : LeaseReq := { core := 0, team := 1, waiters := [], first := 63, count := 1, slot := none }
    let l : Lease := { core := 0, team := 0, first := 0, count := 64, acc := 0, queue := [], ending := false, reentry := none, watchdog := 0 }
    let s := putBlock State.reset 0 { Block.fresh with requests := [q], leases := [(0, l)] }
    (getBlock s 0).leases = [(0, l)] ∧ (getBlock s 0).requests = [q] ∧ l.first < q.first + q.count ∧ q.first < l.first + l.count ∧ steppable s 0 0 = none ∧
    earlierLease (mail State.reset (.lease 0 0 [] 0 64 none)) (letter (.lease 0 0 [] 0 64 none)) = false :=
  ⟨by decide, by decide, by decide, by decide, by decide, by decide⟩
theorem witness_ShadingTreeletsDraws : (binOf (getCore State.reset 0) 0).due = false ∧ creditAsk State.reset 0 0 0 0 = none ∧
    creditAsk (mail State.reset (.credits 0 0 0 0)) 1 0 0 0 = some (letter (.credits 0 0 0 0)) ∧ drawOf State.reset 0 = none := ⟨by decide, by decide, by decide, by decide⟩
/-- A pump command of 4 elements at address 0. -/
def pump0 (running finished : Bool) : PumpCmd :=
  { op := 0, fmt := 0, n := 4, y := 0, x := 64, r := 0, alpha := 0, beta := 0, f := ⟨0, 0, 0⟩, team := 0, cidx := 0, acc := 0, seq := 1, status := 0, first := 0, acks := 0, homes := [], slice := 0, who := 0
    running := running, finished := finished }
theorem witness_PumpCommands : (let s := modStack State.reset 0 fun k => { k with queue := [pump0 false false] }
     (stackAt s 0).queue[0]? = some (pump0 false false) ∧ pumpStartable s (pump0 false false) = true) ∧
    (let s := modStack State.reset 0 fun k => { k with queue := [pump0 true true] }
     (stackAt s 0).queue[0]? = some (pump0 true true)) ∧ earlierWaits (mail State.reset (.pumpCmd (pump0 false false))) (letter (.pumpCmd (pump0 false false))) = false :=
  ⟨⟨by decide, by decide⟩, by decide, by decide⟩
/-- A migration at the end of its first and of its last pass. -/
def move (pass : Nat) (dirty : List Nat) : Migration :=
  { va := 0, entryPa := 0, oldPa := 0, newPa := 65536, bytes := 65536, pass := pass, dirty := dirty, todo := [], held := [], who := 0, acksLeft := 0, switched := false }
theorem witness_Migrations : (∀ pass dirty, (getSlice (oneSlice fun x => { x with migration := some (move pass dirty) }) 0).migration = some (move pass dirty)) ∧
    passRunning (oneSlice fun x => { x with migration := some (move 4 [0]) }) 0 = false ∧ pumpNames (oneSlice fun x => { x with migration := some (move 4 [0]) }) (move 4 [0]) = false ∧
    (let b : Body := .migrate 0 0 0 0 0
     earlierWaits (mail State.reset b) (letter b) = false ∧ (getSlice (mail State.reset b) 0).migration = none) :=
  ⟨fun _ _ => rfl, by decide, by decide, by decide, by decide⟩
theorem witness_EnginesAndTeamEnd : (getCore State.reset 0).copyQ = [] ∧ getTeam State.reset 0 0 = none ∧
    (∃ t, getTeam { bench [] with fibres := [], groups := [] } 0 0 = some t) ∧ teamFibres { bench [] with fibres := [], groups := [] } 0 0 = [] :=
  ⟨by decide, by decide, ⟨_, rfl⟩, by decide⟩
/-- A batch that finds room; a reply to a fibre that waits on its mailbox; a shoot-down queue of 8. -/
theorem witness_FaultsAndShootDowns : let b : Body := .faults 0 []
    earlierWaits (mail State.reset b) (letter b) = false ∧ (getCore State.reset 0).faultQ.length < 64 ∧
    replyTakers (benchFib fun x => { x with waits := [.mailbox 0 0 .engine] }) 0 0 1 1 = [⟨0, 0, 0⟩] ∧ replyTakers (bench []) 0 0 1 1 = [] := ⟨by decide, by decide, by decide, by decide⟩
/-- The first and the last structure of R303, and one that is none. -/
theorem witness_ErrorsAndSelfTest : let e : ErrorSpec := { struct := 0x0E, core := 0, stack := 0, addr := 0, part := 0, corrected := true, synd := 0 }
    1 ≤ e.struct ∧ e.struct ≤ 0x0E ∧ e.struct ≠ 9 ∧ testJoined State.reset e = false ∧
    testJoined { State.reset with tests := [{ e := e, started := false }] } e = true := by decide
/-- A command with no context; one for a context that stands. -/
theorem witness_ContextControl : (getSlice State.reset 0).ccmd = [] ∧ ccmdAt (oneSlice fun x => { x with ccmd := [0x0103] }) 0 3 = some (1, 0, 0) ∧
    (∃ n t, focusTeam (oneCore id) 0 1 0 = none ∧ focusTeam (bench []) 0 0 0 = some (n, t) ∧ t.stopped = false) := ⟨by decide, by decide, _, _, by decide, rfl, rfl⟩
/-- The last register of the package's space; a size that is none; slice 0 emptied and not. -/
theorem witness_HostWritesAndResets : 0x7F8 % 8 = 0 ∧ 0x7F8 < 0x800 ∧ State.reset.imageGood = true ∧ State.reset.ckpt.getLsbD 1 = false ∧
    coreEmptied (bench []) 0 = false ∧ coreEmptied (oneCore fun k => { k with closed := true }) 0 = true := by decide
theorem witness_Attestation : ({ State.reset with spdm := .version } : State).spdm = .version ∧ State.reset.spdm ≠ .negotiated := by decide
theorem witness_DecodingUndoesEncoding : WellFormed (.ffma ⟨true, 3, 0⟩ ⟨8, 9, 10, 11, 0⟩) ∧ encode (.ffma ⟨true, 3, 0⟩ ⟨8, 9, 10, 11, 0⟩) = some 0x40E600080482816000000000#96 := by
  unfold WellFormed; decide
theorem witness_DecodingAcceptsOnlyEncodings : decodeOn false 0xC0800000000000450D540400#96 = decode 0xC0800000000000450D540400#96 ∧
    decodeOn true 0xFFC000000000000000000000#96 = .error 0x01 := by decide
/-- The placed word: its line, marks and turn. -/
theorem witness_StepRunsTheDecodedInstruction : ∃ b o, (getPart (bench []) 0 0).batch = some b ∧ b.lanes ≠ [] ∧ codeObjOf (bench []) ⟨0, b.slot, 0⟩ = some o ∧ inObject o b.pc.toNat = true ∧
    partPaused (bench []) 0 0 = false ∧ batchStopped (bench []) 0 b = false ∧ decodeOn (isRay 0) (rawInstr (getCore (bench []) 0) b.pc) = .ok (.nop hd ⟨0, 0, 0, 0⟩) :=
  ⟨_, _, rfl, by decide, rfl, by decide, by decide, by decide, by decide⟩
/-- The invariant of the memories holds after reset. -/
theorem witness_StepsKeepCanonicalMemories : Memory.wf State.reset.mem = true ∧ State.reset.cores = [] := by decide
/-- Register 255 and predicate 15, the last ones. -/
theorem witness_ConstantRegistersAndFlags : ∃ x, getFib (bench []) ⟨0, 0, 0⟩ = some x ∧ 255 < x.regs.length ∧ (15 : Nat) < 16 := ⟨_, rfl, by decide, by decide⟩
theorem witness_BitFields : Issues (bench []) hd (namedOf (.bfx hd ⟨4, 5, 6, 0, 0⟩)) benchIssue [0] ∧ Issues (bench []) hd (namedOf (.bfi hd ⟨4, 5, 6, 7, 0⟩)) benchIssue [0] :=
  ⟨bench_issues _ 0 _ (by decide), bench_issues _ 0 _ (by decide)⟩
theorem witness_Divisions : Issues (bench []) ⟨false, 0, 1⟩ (namedOf (.irem ⟨false, 0, 1⟩ ⟨4, 5, 6, 0, 0⟩)) benchIssue [0] := bench_issues _ 1 _ (by decide)
theorem witness_HmixAndTheTable : Issues (bench []) hd (namedOf (.hmix hd ⟨4, 5, 6, 0, 0⟩)) benchIssue [0] := bench_issues _ 0 _ (by decide)
/-- No guard true: !p0. A pending prefix: PP set. -/
theorem witness_GuardsAndPrefixes : encode (.iadd ⟨true, 0, 0⟩ ⟨4, 5, 6, 0, 0⟩) ≠ none ∧ ownRules (.iadd ⟨true, 0, 0⟩ ⟨4, 5, 6, 0, 0⟩) = false ∧
    lanesWhere (bench []) benchIssue fsrPP = [] ∧ lanesWhere (bench []) benchIssue (guardOf ⟨true, 0, 0⟩) = [] ∧
    (lanesWhere (benchFib fun x => { x with fsr := x.fsr ||| 0x80000000 }) benchIssue fun x => ! fsrPP x && guardOf hd x) = [] :=
  ⟨by decide, by decide, by decide, by decide, by decide⟩
/-- g8 of an allotment of 8 is out of range, g7 is not. -/
theorem witness_RegisterRangeTraps : outOfRange 8 [(1, (8 : Code), 1)] = some 0x108 ∧ outOfRange 8 [(1, (7 : Code), 1)] = none ∧ outOfRange 8 [(1, (7 : Code), 2)] = some 0x108 ∧
    allotOf { bench [] with groups := [((0, 0), { team := 0, gid := 0, allot := 8, base := 0, kind := .start })] } ⟨0, 0, 0⟩ = 8 := by decide
/-- A fibre of a team with no valid vector; the stride at its least. -/
theorem witness_TrapEntry : (∃ x, getFib (atTrap (bench []) ⟨0, 0, 0⟩ 0) ⟨0, 0, 0⟩ = some x ∧ x.inTrap = false ∧ x.waits.any entersTrap = false) ∧
    vectorOf (atTrap (bench []) ⟨0, 0, 0⟩ 0) ⟨0, 0, 0⟩ 1 = none ∧
    (∃ s v, vectorOf (atTrap s ⟨0, 0, 0⟩ 0) ⟨0, 0, 0⟩ 1 = some v ∧ outsideWave (atTrap s ⟨0, 0, 0⟩ 0) ⟨0, 0, 0⟩) := by
  refine ⟨⟨_, rfl, rfl, rfl⟩, by decide, modTeam (bench []) 0 0 fun t => { t with vectors := List.replicate 16 (BitVec.ofNat 64 (2 ^ 63)) }, 0, by decide, ?_⟩
  intro g hg n e hk
  have h : some GroupKind.start = some g.kind := congrArg (Option.map Group.kind) hg
  simp [hk] at h
/-- A return whose NPC is the one of the frame's class. -/
theorem witness_TrapReturnReloads : (∃ x, getFib (bench []) ⟨0, 0, 0⟩ = some x) ∧ (12 : Word) = (if (11 : Word).toNat % 256 = 11 ∨ (11 : Word).toNat % 256 = 12 then nextPc 0 else 0) ∧
    ∃ o, codeObjOf (bench []) ⟨0, 0, 0⟩ = some o ∧ isTarget (bench []) 0 o 12 = false ∧ isTarget (bench []) 0 o 0 = true := ⟨⟨_, rfl⟩, by decide, _, rfl, by decide, by decide⟩
theorem witness_IssueLeavesData : ∃ t, wakeAct ⟨0, 4, 0, 0⟩ (bench []) benchIssue (bench []) 0 (newFibre 256 0 1 0 [] Origin.none) = .does t := ⟨_, rfl⟩
/-- The last block-aligned write of 256 bytes and a write of the cistern. -/
theorem witness_WritesToMemoryAndCisterns : normPa State.reset 256 % 256 + 256 ≤ 256 ∧ Memory.wf State.reset.mem = true ∧ State.reset.ckpt.getLsbD 1 = false ∧
    channelFailed State.reset (normPa State.reset 256) = false ∧ Memory.wf (getCore State.reset 0).cistern = true := by decide
/-- A store of the last four bytes of a present piece. -/
theorem witness_StoresAtHome : l2Piece (getCore warmHome 0) (60 / 64) = some { blankPiece with coding := 0 } ∧ blankPiece.data.length = 64 ∧ 60 % 64 + 4 ≤ 64 := by decide
/-- A load whose page check fails; a fibre that is no helper. -/
theorem witness_LaneAccesses : ∃ x, getFib (bench []) (benchIssue.fref 0) = some x ∧ x.origin.helper = false ∧
    checkOp (bench []) (benchIssue.fref 0) x { (lane0 .load).op with va := 0x10002 } = .trap 2 0 := ⟨_, rfl, rfl, by decide⟩

/-! ### Boundary cases of the packets, queues and units -/

/-- A wave opened at clock 0. -/
def wave0 : Wave := { wid := 1, pa := 64, lanes := [], closed := false, opened := 0, running := false, entry := none, results := [] }
/-- The clock at which it is still open, and the next one. -/
theorem witness_waves : let s := fun (n : DWord) => { oneCore fun k => { k with waves := [wave0] } with clk := n }
    (getCore (s 17) 0).waves[0]? = some wave0 ∧ 16 < ((s 17).clk - wave0.opened).toNat ∧ laneInTime (s 17) 0 wave0 = false ∧ ((s 16).clk - wave0.opened).toNat ≤ 16 := by decide
/-- A packet for the last core, for the first number that is none, and one of its own core in the loop-back port. -/
theorem witness_sending : let s := fun (dst : Nat) => oneCore fun k => { k with
      sendQ := [{ packet := { letter (.user []) with src := 0, dst := dst, arrived := false, vc := .ureq }, owner := ⟨0, 0, 0⟩, reply := false, holder := none }] }
    (injectable (s 575) 0 0).isSome = true ∧ (injectable (s 576) 0 0).isSome = true ∧ underTest (s 575) 0x0B 0 = false ∧
    ((getCore (s 575) 0).sendQ[0]?.map fun e => (addressed (s 575) e.packet).isSome) = some true ∧ isLoop 0 { letter (.user []) with dst := 575 } = false ∧
    isLoop 0 (letter (.user [])) = true ∧ (getCore (s 0) 0).inbox.length < 192 := by decide
/-- An issue-buffer entry of a team whose context is not being saved. -/
theorem witness_buffers : let e : BufEntry := { entry := 1, f := ⟨0, 0, 0⟩, pc := 0, acc := 0, cmd := .signal }
    let s := modPart (bench []) 0 0 fun p => { p with buffer := [e] }
    (getPart s 0 0).buffer[0]? = some e ∧ entrySaved s e = false ∧ entryMayGo s e = true ∧ ((getPart s 0 0).buffer.map BufEntry.entry).dedup.length ≤ 24 ∧ s.parked = [] := by decide
/-- A piece that may be filled. -/
theorem witness_fills : let s := oneCore fun k => { k with homeWait := [3] }
    (getCore s 0).homeWait.contains 3 = true ∧ channelPaused s 192 = false ∧ evictPaused s 0 3 = false ∧ l2Testing s 0 = false ∧ (getCore s 0).l2Failed = false ∧
    l2CanFill s 0 3 = true := by decide
/-- A promotion at a core without and with a write before the request. -/
theorem witness_promotions : writesBefore (mail State.reset (.promote 0 0 false)) 0 1 = false ∧
    writesBefore (benchFib fun x => { x with accs := [{ plainAcc 1 .ls with writes := true, size := 4, ord := 0 }] }) 0 1 = true ∧
    waitingFor (dropPacket (mail State.reset (.promoteAck 0 0 false)) 1) 0 0 = [] := by decide
/-- An error entry that came before this clock, and one that came in it. -/
theorem witness_log : let e : ErrEntry := { time := 0, ekind := 3, struct := 9, core := 0, stack := 0xFFFF, slice := 0, addr := 0, synd := 0, detail := [] }
    let s := mail State.reset (.error e)
    (letter (.error e)).came ≠ s.clk ∧ earlierWaits s (letter (.error e)) = false ∧ behindSame s (letter (.error e)) = false ∧ ctlHome s 0x006 ≠ 0 ∧ s.earlyErrors.length < 16 ∧
    ctlHome { s with ctl := tput s.ctl 0x006 0 } 0x006 = 0 ∧ (letter (.error e)).came = { s with clk := 5 }.clk := by decide
/-- COMBINE and CMBREG at a home that works and at one that has failed; a live binding that is not number 0. -/
theorem witness_combining : let b : Body := .cmbreg ⟨0, 0, 0⟩ 1 0 7 0 64 2
    let s := mail (oneCore fun k => { k with bindings := tput k.bindings 2 (bindWord false 0 0 0 0) }) b
    combineWaits s (letter b) = false ∧ (getCore s 0).l2Failed = false ∧ (getCore (modCore s 0 fun k => { k with l2Failed := true }) 0).l2Failed = true ∧ objectKept s 0 64 = none ∧
    fld (2 : Word).toNat 6 0 ≠ 0 ∧ bindV (bindingAt (getCore s 0) 2) = true ∧ objectAt (getCore s 0) 64 = none ∧ fld (0 : Word).toNat 6 0 = 0 := by decide
/-- A section answer for a fibre that is gone; a probe for a fibre that waits and for one that does not. -/
theorem witness_sections : getFib (mail State.reset (.secAnswer ⟨0, 0, 0⟩ 1 0 64 0 2)) ⟨0, 0, 0⟩ = none ∧ waitedKey (bench []) ⟨0, 0, 0⟩ 1 = none ∧
    waitedKey (benchFib fun x => { x with waits := [.ordered 0 64 0 0 0 0] }) ⟨0, 0, 0⟩ 1 = some 64 ∧
    (∀ w ∈ (getCore State.reset 0).waiters, w.f = ⟨0, 0, 0⟩ → w.gen = 1 → w.key = 64 → w.seq = 0 → w.skip = true) := by decide
/-- A doorbell with and without a message of its window on the way. -/
theorem witness_doorbells : windowOf State.reset 0 0 = some ((0, 0), 0, 2) ∧ doorbellFlies State.reset (0, 0) = false ∧
    doorbellFlies { State.reset with mesh := [{ letter (.launch 0 0 [] (some (0, 0)) none) with side := 6 }] } (0, 0) = true := by decide
/-- Registers, sizes and offsets of the host interface at their edges. -/
theorem witness_host : State.reset.imageGood = true ∧ { State.reset with imageGood := false }.imageGood = false ∧ (0xE0 : Nat) % 32 = 0 ∧ (0xE0 : Nat) < 0x100 ∧
    (0x2E0 : Nat) % 32 = 0 ∧ (0x2E0 : Nat) < 0x300 ∧ 0x4C % 4 = 0 ∧ 0x4C < 0x50 ∧ 575 < 576 ∧ (8 : Nat) < 9 := by decide
/-- Arrival order: a second packet of one kind waits for the first. -/
theorem witness_arrivalOrder : let b : Body := .shoot 0 0 65536 1
    behindSame (mail State.reset b) (letter b) = false ∧ (getCore (mail State.reset b) 0).shootQ.length < 8 ∧ underTest (mail State.reset b) 0x0B 0 = false ∧
    behindSame { mail State.reset b with mesh := [{ letter b with id := 2, order := 0 }, letter b] } (letter b) = true := by decide
/-- A copy with nothing held, its share free. -/
theorem witness_copies : let c : CopyCmd := { kind := 0, dst := 64, src := 0, rowBytes := 64, rows := 1, dstStride := 0, srcStride := 0, index := 0, elem := 0, f := ⟨0, 0, 0⟩, pc := 0, acc := 0, pos := 0 }
    copyHeld State.reset 0 0 0 c = false ∧ c.kind ≠ 2 ∧ shareUsed (getCore State.reset 0) false < 96 := by decide
/-- A task that has ended with a queue still drained by a node, and one with none; the last free place for a pending record and none. -/
theorem witness_pending : liveQueues State.reset 0 0 = [] ∧ (getSlice State.reset 0).pending.length < 256 ∧ (getSlice State.reset 0).pendSpill.contains (some (0, 0)) = false ∧
    256 ≤ (getSlice (oneSlice fun x => { x with pending := List.replicate 256 { task := 0, queue := 0, words := [], src := 0, tags := 0 } }) 0).pending.length := by decide
/-- A debugger write to a fibre of no stopped batch, and of one stopped inside a packet. -/
theorem witness_debugger : let b : Batch := { slot := 0, lanes := [0], pc := 0, count := 0, line := none, atPacket := false, runEnd := false, packetEnd := false, tokens := 0, cpend := [], seen := [], live := [], stepped := false }
    (∀ e ∈ (getCore State.reset 0).stoppedBatches, ¬ (e.2.slot = 0 ∧ 0 ∈ e.2.lanes ∧ e.2.atPacket = false)) ∧
    ∃ e, e ∈ (getCore (oneCore fun k => { k with stoppedBatches := [(0, b)] }) 0).stoppedBatches ∧ e.2.slot = 0 ∧ 0 ∈ e.2.lanes ∧ e.2.atPacket = false :=
  ⟨by decide, (0, _), List.mem_singleton_self _, rfl, by decide, rfl⟩

end Sys2Proof.Tests
end

/-!
The bytes of a number and the number of bytes (R4): each byte is a field of bits, and the two directions undo one another.
-/
namespace Sys2Proof.Proofs

open Machine

/-- Byte `i` of a bit vector from bit `k` on is its field of eight bits at `k + 8 i` (R4). -/
theorem leBytes_shiftRight_eq_map {w : Nat} (x : BitVec w) : ∀ n k : Nat,
    leBytes n (x.toNat >>> k) = (List.range n).map fun i => x.extractLsb' (k + 8 * i) 8
  | 0, _ => rfl
  | n + 1, k => by
    have rest : x.toNat >>> k / 256 = x.toNat >>> (k + 8) := by
      rw [Nat.shiftRight_add, Nat.shiftRight_eq_div_pow _ 8]
    rw [List.range_succ_eq_map, List.map_cons, List.map_map, leBytes, rest, leBytes_shiftRight_eq_map x n (k + 8)]
    refine congrArg _ (List.map_congr_left fun i _ => ?_)
    simp only [Function.comp_apply, Nat.mul_succ, Nat.add_assoc, Nat.add_comm 8]

/-- The four bytes of a word, the lowest address first. -/
theorem leBytes_four_toNat (w : Word) :
    leBytes 4 w.toNat = [w.extractLsb' 0 8, w.extractLsb' 8 8, w.extractLsb' 16 8, w.extractLsb' 24 8] :=
  leBytes_shiftRight_eq_map w 4 0

theorem bytesOf_cons (w : Word) (l : List Word) : bytesOf (w :: l) = leBytes 4 w.toNat ++ bytesOf l := rfl

/-- The four byte fields of a word, the highest first, are the word. -/
theorem append_byteFields_eq (w : Word) :
    w.extractLsb' 24 8 ++ w.extractLsb' 16 8 ++ w.extractLsb' 8 8 ++ w.extractLsb' 0 8 = w := by
  rw [BitVec.extractLsb'_append_extractLsb'_eq_extractLsb' (by rfl), BitVec.extractLsb'_append_extractLsb'_eq_extractLsb' (by rfl),
    BitVec.extractLsb'_append_extractLsb'_eq_extractLsb' (by rfl)]
  exact BitVec.extractLsb'_eq_self

/-- Bytes and words undo one another. -/
theorem wordsOf_bytesOf (l : List Word) : wordsOf (bytesOf l) = l := by
  induction l with
  | nil => rfl
  | cons w t ih =>
    rw [bytesOf_cons, leBytes_four_toNat]
    simp only [List.cons_append, List.nil_append, wordsOf, append_byteFields_eq, ih]

/-- `n` bytes hold a number up to `256 ^ n`. -/
theorem leNat_leBytes : ∀ n v : Nat, leNat (leBytes n v) = v % 256 ^ n
  | 0, v => by rw [pow_zero, Nat.mod_one]; rfl
  | n + 1, v => by
    rw [leBytes, leNat, leNat_leBytes n, BitVec.toNat_ofNat, show 2 ^ 8 = 256 from rfl, pow_succ' 256 n, Nat.mod_mul (a := 256)]

/-- Settles O46: a word's bytes are its byte fields, which put together again are the word, and a number's bytes count it. -/
theorem littleEndian : Obligations.LittleEndian := by
  unfold Obligations.LittleEndian
  refine ⟨fun w => ?_, wordsOf_bytesOf, fun v => ?_, fun _ _ => rfl⟩
  · exact (bytesOf_cons w []).trans ((List.append_nil _).trans (leBytes_four_toNat w))
  · rw [leNat_leBytes, Nat.mod_eq_of_lt (show v.toNat < 256 ^ 8 from v.isLt), BitVec.ofNat_toNat, BitVec.setWidth_eq]

end Sys2Proof.Proofs

/-!
Bit fields, divisions and HMIX (R375, R376, R379): the machine's shared forms of an operation answer as the claims ask, and the value
functions are the manual's formulas.
-/
namespace Sys2Proof.Proofs

open Machine Claims Laws

/-- A two-source operation lands its function of a and b at its distance. -/
theorem lands_of_alu2 {i : Instr} {h : Head} {o : BodyA} {dist : Nat} {f : Word → Word → Word} {g : Word → Word → Word → Word}
    (hexec : ∀ s, exec i s = alu2 s i h o dist f) (hval : ∀ a b c, f a b = g a b c) : Lands i h o dist g := by
  intro s is act H
  rw [hexec]
  simp only [← hval]
  exact perLane_issues H dist _ fun t l x e => by simp only [srcOf_sameBut e]

/-- A three-source operation lands its function of a, b and c at its distance. -/
theorem lands_of_alu3 {i : Instr} {h : Head} {o : BodyA} {dist : Nat} {f g : Word → Word → Word → Word}
    (hexec : ∀ s, exec i s = alu3 s i h o dist f) (hval : ∀ a b c, f a b c = g a b c) : Lands i h o dist g := by
  intro s is act H
  rw [hexec]
  simp only [← hval]
  exact perLane_issues H dist _ fun t l x e => by simp only [srcOf_sameBut e]

/-- A long-latency two-source operation writes its function of a and b at the run end. -/
theorem landsAtRunEnd_of_alu2Long {i : Instr} {h : Head} {o : BodyA} {f g : Word → Word → Word}
    (hexec : ∀ s, exec i s = alu2Long s i h o f) (hval : ∀ a b, f a b = g a b) : LandsAtRunEnd i h o g := by
  intro s is act H
  rw [hexec]
  simp only [← hval]
  exact perLaneLong_issues H _ fun t l x e => by simp only [srcOf_sameBut e]

/-! ## Bit fields (R375) -/

/-- The model's position is the claims' b[4:0]. -/
@[simp] theorem bfPos_eq_fieldPos (b : Word) : bfPos b = fieldPos b :=
  congrArg (· % 32) (Nat.div_one b.toNat)

/-- The model's width is the claims' min(b[13:8], 32). -/
@[simp] theorem bfWidth_eq_fieldWidth (b : Word) : bfWidth b = fieldWidth b := rfl

/-- BFX writes the field zero-extended. -/
theorem resBfx_zero (a b : Word) :
    resBfx 0 a b = BitVec.ofNat 32 (a.toNat / 2 ^ fieldPos b % 2 ^ fieldWidth b) := by
  simp [resBfx]

/-- BFX.s writes the field sign-extended from its highest bit, and 0 where its width is 0. -/
theorem resBfx_one (a b : Word) :
    resBfx 1 a b = let v := a.toNat / 2 ^ fieldPos b % 2 ^ fieldWidth b
      if fieldWidth b = 0 then 0 else if v < 2 ^ (fieldWidth b - 1) then BitVec.ofNat 32 v
        else BitVec.ofInt 32 ((v : Int) - 2 ^ fieldWidth b) := by
  simp only [resBfx, bfPos_eq_fieldPos, bfWidth_eq_fieldWidth, true_and]
  by_cases empty : fieldWidth b = 0
  · simp [empty, Nat.mod_one]
  · by_cases nonneg : a.toNat / 2 ^ fieldPos b % 2 ^ fieldWidth b < 2 ^ (fieldWidth b - 1)
    · simp [empty, nonneg, Nat.not_le.mpr nonneg]
    · simp [empty, nonneg, Nat.le_of_not_lt nonneg]

/-- BFI replaces the field of c by the low bits of a. -/
theorem resBfi_eq (a b c : Word) :
    resBfi a b c = (c &&& ~~~ BitVec.ofNat 32 ((2 ^ fieldWidth b - 1) * 2 ^ fieldPos b)) |||
      BitVec.ofNat 32 (a.toNat % 2 ^ fieldWidth b * 2 ^ fieldPos b) := by
  simp only [resBfi, bfPos_eq_fieldPos, bfWidth_eq_fieldWidth]

/-- Settles O49: each form lands the field that R375 computes. -/
theorem bitFields : Obligations.BitFields := by
  unfold Obligations.BitFields
  refine ⟨fun h o hmod => ?_, fun h o hmod => ?_, fun h o => ?_⟩
  · exact lands_of_alu2 (fun _ => rfl) fun a b _ => by rw [hmod]; exact resBfx_zero a b
  · exact lands_of_alu2 (fun _ => rfl) fun a b _ => by rw [hmod]; exact resBfx_one a b
  · exact lands_of_alu3 (fun _ => rfl) resBfi_eq

/-! ## Divisions (R376) -/

/-- IDIV: the overflow case is the truncated quotient 2³¹ taken modulo 2³². -/
theorem resIdiv_zero (a b : Word) :
    resIdiv 0 a b = if b = 0 then 0xFFFFFFFF#32 else if a = 0x80000000#32 ∧ b = 0xFFFFFFFF#32 then 0x80000000#32
      else BitVec.ofInt 32 (a.toInt.tdiv b.toInt) := by
  by_cases overflow : a = 0x80000000#32 ∧ b = 0xFFFFFFFF#32
  · obtain ⟨rfl, rfl⟩ := overflow
    decide
  · simp [resIdiv, overflow]

/-- IDIV.u: the unsigned quotient. -/
theorem resIdiv_one (a b : Word) :
    resIdiv 1 a b = if b = 0 then 0xFFFFFFFF#32 else BitVec.ofNat 32 (a.toNat / b.toNat) := by
  rw [← BitVec.udiv_def]
  rfl

/-- IREM: the overflow case has the truncating remainder 0. -/
theorem resIrem_zero (a b : Word) :
    resIrem 0 a b = if b = 0 then a else if a = 0x80000000#32 ∧ b = 0xFFFFFFFF#32 then 0
      else BitVec.ofInt 32 (a.toInt.tmod b.toInt) := by
  by_cases overflow : a = 0x80000000#32 ∧ b = 0xFFFFFFFF#32
  · obtain ⟨rfl, rfl⟩ := overflow
    decide
  · simp [resIrem, overflow]

/-- IREM.u: the unsigned remainder. -/
theorem resIrem_one (a b : Word) :
    resIrem 1 a b = if b = 0 then a else BitVec.ofNat 32 (a.toNat % b.toNat) := by
  rw [← BitVec.umod_def]
  rfl

/-- Settles O50: each form writes the quotient or remainder that R376 gives, with its edge cases. -/
theorem divisions : Obligations.Divisions := by
  unfold Obligations.Divisions
  refine ⟨fun h o hmod => ?_, fun h o hmod => ?_, fun h o hmod => ?_, fun h o hmod => ?_⟩
  · exact landsAtRunEnd_of_alu2Long (fun _ => rfl) fun a b => by rw [hmod]; exact resIdiv_zero a b
  · exact landsAtRunEnd_of_alu2Long (fun _ => rfl) fun a b => by rw [hmod]; exact resIdiv_one a b
  · exact landsAtRunEnd_of_alu2Long (fun _ => rfl) fun a b => by rw [hmod]; exact resIrem_zero a b
  · exact landsAtRunEnd_of_alu2Long (fun _ => rfl) fun a b => by rw [hmod]; exact resIrem_one a b

/-! ## HMIX (R379) -/

/-- A shift to the right is the division by a power of two, rounded down. -/
theorem ushiftRight_eq_ofNat_div {w : Nat} (t : BitVec w) (n : Nat) : t >>> n = BitVec.ofNat w (t.toNat / 2 ^ n) := by
  rw [← Nat.shiftRight_eq_div_pow, ← BitVec.toNat_ushiftRight, BitVec.ofNat_toNat, BitVec.setWidth_eq]

/-- HMIX, with its last shift as the division that R379 writes. -/
theorem resHmix_eq (a b : Word) :
    resHmix a b = let t := (a ^^^ b.rotateLeft 16) * 0x9E3779B1#32
      t ^^^ BitVec.ofNat 32 (t.toNat / 2 ^ 15) :=
  congrArg (_ ^^^ ·) (ushiftRight_eq_ofNat_div _ 15)

/-- Settles O51: HMIX lands R379's value, and the model evaluates to the ten worked values of the table. -/
theorem hmixAndTheTable : Obligations.HmixAndTheTable := by
  unfold Obligations.HmixAndTheTable
  refine ⟨fun h o => lands_of_alu2 (fun _ => rfl) fun a b _ => resHmix_eq a b, ?_⟩
  decide

end Sys2Proof.Proofs

/-!
Words (R333-R340): the per-instruction laws put together, and the two directions of the decoder.
-/
namespace Sys2Proof.Proofs

open Machine Claims Laws

/-! ## Encoding and decoding -/

/-- A well-formed instruction's word names it: one case for each encoding, and a device step has no word. -/
theorem ofOpcode_encode (i : Instr) : EncodesOnce.Statement i := by
  cases i with
  | elect h o => exact EncodesOnce.elect h o
  | vote h o => exact EncodesOnce.vote h o
  | shfl h o => exact EncodesOnce.shfl h o
  | iadd h o => exact EncodesOnce.iadd h o
  | isub h o => exact EncodesOnce.isub h o
  | imul h o => exact EncodesOnce.imul h o
  | imad h o => exact EncodesOnce.imad h o
  | idiv h o => exact EncodesOnce.idiv h o
  | irem h o => exact EncodesOnce.irem h o
  | imin h o => exact EncodesOnce.imin h o
  | imax h o => exact EncodesOnce.imax h o
  | iabs h o => exact EncodesOnce.iabs h o
  | and h o => exact EncodesOnce.and h o
  | or h o => exact EncodesOnce.or h o
  | xor h o => exact EncodesOnce.xor h o
  | andn h o => exact EncodesOnce.andn h o
  | shl h o => exact EncodesOnce.shl h o
  | shr h o => exact EncodesOnce.shr h o
  | sar h o => exact EncodesOnce.sar h o
  | rol h o => exact EncodesOnce.rol h o
  | bfx h o => exact EncodesOnce.bfx h o
  | bfi h o => exact EncodesOnce.bfi h o
  | popc h o => exact EncodesOnce.popc h o
  | clz h o => exact EncodesOnce.clz h o
  | brev h o => exact EncodesOnce.brev h o
  | iset h o => exact EncodesOnce.iset h o
  | pset h o => exact EncodesOnce.pset h o
  | sel h o => exact EncodesOnce.sel h o
  | mov h o => exact EncodesOnce.mov h o
  | movi h o => exact EncodesOnce.movi h o
  | iadd64 h o => exact EncodesOnce.iadd64 h o
  | isub64 h o => exact EncodesOnce.isub64 h o
  | imad64 h o => exact EncodesOnce.imad64 h o
  | iset64 h o => exact EncodesOnce.iset64 h o
  | lea h o => exact EncodesOnce.lea h o
  | pmov h o => exact EncodesOnce.pmov h o
  | hmix h o => exact EncodesOnce.hmix h o
  | fadd h o => exact EncodesOnce.fadd h o
  | fsub h o => exact EncodesOnce.fsub h o
  | fmul h o => exact EncodesOnce.fmul h o
  | ffma h o => exact EncodesOnce.ffma h o
  | fmin h o => exact EncodesOnce.fmin h o
  | fmax h o => exact EncodesOnce.fmax h o
  | fset h o => exact EncodesOnce.fset h o
  | fclass h o => exact EncodesOnce.fclass h o
  | frcp h o => exact EncodesOnce.frcp h o
  | frsq h o => exact EncodesOnce.frsq h o
  | fsqrt h o => exact EncodesOnce.fsqrt h o
  | fdiv h o => exact EncodesOnce.fdiv h o
  | fex2 h o => exact EncodesOnce.fex2 h o
  | flg2 h o => exact EncodesOnce.flg2 h o
  | fsin h o => exact EncodesOnce.fsin h o
  | fcos h o => exact EncodesOnce.fcos h o
  | ftanh h o => exact EncodesOnce.ftanh h o
  | fsigm h o => exact EncodesOnce.fsigm h o
  | dadd h o => exact EncodesOnce.dadd h o
  | dmul h o => exact EncodesOnce.dmul h o
  | dfma h o => exact EncodesOnce.dfma h o
  | pkfma h o => exact EncodesOnce.pkfma h o
  | pkadd h o => exact EncodesOnce.pkadd h o
  | pkmul h o => exact EncodesOnce.pkmul h o
  | dot4 h o => exact EncodesOnce.dot4 h o
  | dot8 h o => exact EncodesOnce.dot8 h o
  | bred h o => exact EncodesOnce.bred h o
  | cvt h o => exact EncodesOnce.cvt h o
  | cvtn h o => exact EncodesOnce.cvtn h o
  | cvtw h o => exact EncodesOnce.cvtw h o
  | tblld h o => exact EncodesOnce.tblld h o
  | i4tx h o => exact EncodesOnce.i4tx h o
  | q4x h o => exact EncodesOnce.q4x h o
  | qscl h o => exact EncodesOnce.qscl h o
  | pack h o => exact EncodesOnce.pack h o
  | unpk h o => exact EncodesOnce.unpk h o
  | frnd h o => exact EncodesOnce.frnd h o
  | movw h o => exact EncodesOnce.movw h o
  | bra h o => exact EncodesOnce.bra h o
  | brx h o => exact EncodesOnce.brx h o
  | call h o => exact EncodesOnce.call h o
  | callx h o => exact EncodesOnce.callx h o
  | ret h o => exact EncodesOnce.ret h o
  | spawn h o => exact EncodesOnce.spawn h o
  | nop h o => exact EncodesOnce.nop h o
  | fend h o => exact EncodesOnce.fend h o
  | fwait h o => exact EncodesOnce.fwait h o
  | park h o => exact EncodesOnce.park h o
  | wake h o => exact EncodesOnce.wake h o
  | wakeGrp h o => exact EncodesOnce.wakeGrp h o
  | regclm h o => exact EncodesOnce.regclm h o
  | regrel h o => exact EncodesOnce.regrel h o
  | fmtp h o => exact EncodesOnce.fmtp h o
  | trap h o => exact EncodesOnce.trap h o
  | tret h o => exact EncodesOnce.tret h o
  | bkpt h o => exact EncodesOnce.bkpt h o
  | movs h o => exact EncodesOnce.movs h o
  | movsW h o => exact EncodesOnce.movsW h o
  | ctlrd h o => exact EncodesOnce.ctlrd h o
  | ctlwr h o => exact EncodesOnce.ctlwr h o
  | launch h o => exact EncodesOnce.launch h o
  | quiesce h o => exact EncodesOnce.quiesce h o
  | quiesceOpen h o => exact EncodesOnce.quiesceOpen h o
  | sigmark h o => exact EncodesOnce.sigmark h o
  | basin h o => exact EncodesOnce.basin h o
  | basinAll h o => exact EncodesOnce.basinAll h o
  | basinOwn h o => exact EncodesOnce.basinOwn h o
  | rate h o => exact EncodesOnce.rate h o
  | discard h o => exact EncodesOnce.discard h o
  | ld h o => exact EncodesOnce.ld h o
  | st h o => exact EncodesOnce.st h o
  | ldc h o => exact EncodesOnce.ldc h o
  | stc h o => exact EncodesOnce.stc h o
  | lda h o => exact EncodesOnce.lda h o
  | sta h o => exact EncodesOnce.sta h o
  | pref h o => exact EncodesOnce.pref h o
  | flush h o => exact EncodesOnce.flush h o
  | invl h o => exact EncodesOnce.invl h o
  | pin h o => exact EncodesOnce.pin h o
  | unpin h o => exact EncodesOnce.unpin h o
  | extq h o => exact EncodesOnce.extq h o
  | migr h o => exact EncodesOnce.migr h o
  | atom h o => exact EncodesOnce.atom h o
  | red h o => exact EncodesOnce.red h o
  | blend h o => exact EncodesOnce.blend h o
  | fence h o => exact EncodesOnce.fence h o
  | fencep h o => exact EncodesOnce.fencep h o
  | combine h o => exact EncodesOnce.combine h o
  | cmbreg h o => exact EncodesOnce.cmbreg h o
  | osent h o => exact EncodesOnce.osent h o
  | osleave h o => exact EncodesOnce.osleave h o
  | osskip h o => exact EncodesOnce.osskip h o
  | barinit h o => exact EncodesOnce.barinit h o
  | bararv h o => exact EncodesOnce.bararv h o
  | barwt h o => exact EncodesOnce.barwt h o
  | baraw h o => exact EncodesOnce.baraw h o
  | send h o => exact EncodesOnce.send h o
  | sendr h o => exact EncodesOnce.sendr h o
  | hbind h o => exact EncodesOnce.hbind h o
  | hunbind h o => exact EncodesOnce.hunbind h o
  | cmask h o => exact EncodesOnce.cmask h o
  | hend h o => exact EncodesOnce.hend h o
  | mbox h o => exact EncodesOnce.mbox h o
  | mboxRp h o => exact EncodesOnce.mboxRp h o
  | emit h o => exact EncodesOnce.emit h o
  | ndone h o => exact EncodesOnce.ndone h o
  | reply h o => exact EncodesOnce.reply h o
  | raysend h o => exact EncodesOnce.raysend h o
  | raysendLocal h o => exact EncodesOnce.raysendLocal h o
  | hitput h o => exact EncodesOnce.hitput h o
  | cpy h o => exact EncodesOnce.cpy h o
  | cpyw h o => exact EncodesOnce.cpyw h o
  | gath h o => exact EncodesOnce.gath h o
  | mlease h o => exact EncodesOnce.mlease h o
  | mrel h o => exact EncodesOnce.mrel h o
  | mma h o => exact EncodesOnce.mma h o
  | mmas h o => exact EncodesOnce.mmas h o
  | mzero h o => exact EncodesOnce.mzero h o
  | mepi h o => exact EncodesOnce.mepi h o
  | mldacc h o => exact EncodesOnce.mldacc h o
  | ringset h o => exact EncodesOnce.ringset h o
  | ringadv h o => exact EncodesOnce.ringadv h o
  | ringq h o => exact EncodesOnce.ringq h o
  | mwait h o => exact EncodesOnce.mwait h o
  | infer h o => exact EncodesOnce.infer h o
  | trv h o => exact EncodesOnce.trv h o
  | tload h o => exact EncodesOnce.tload h o
  | tloadTds h o => exact EncodesOnce.tloadTds h o
  | tloadRds h o => exact EncodesOnce.tloadRds h o
  | town h o => exact EncodesOnce.town h o
  | pump h o => exact EncodesOnce.pump h o
  | pumpw h o => exact EncodesOnce.pumpw h o
  | encq h o => exact EncodesOnce.encq h o
  | _ => exact fun _ _ hw => nomatch hw

/-- The checks that `decodeOn` makes where the opcode and the modifier name `i`: the kind of core, the bits no field holds, the fields. -/
theorem decodeOn_of_named {ray : Bool} {w : Bits96} {i : Instr} (named : ofOpcode (w.extractLsb' 86 10) (headOf w) w = some i) :
    decodeOn ray w = if i.needsRay = some (!ray) then .error 0x07 else if encode i ≠ some w then .error 0x02
      else match i.firstBad with
        | some d => .error d
        | none => .ok i := by
  simp only [decodeOn, named] <;> rfl

/-- A word whose opcode and modifier name no instruction fails the first check. -/
theorem decodeOn_of_unnamed {w : Bits96} (unnamed : ofOpcode (w.extractLsb' 86 10) (headOf w) w = none) (ray : Bool) :
    decodeOn ray w = .error 0x01 := by
  simp only [decodeOn, unnamed]

/-- A word decodes to `i` exactly where its opcode names `i`, the core has what `i` needs, the word is `i`'s encoding and no field is bad. -/
theorem decodeOn_eq_ok_iff {ray : Bool} {w : Bits96} {i : Instr} :
    decodeOn ray w = .ok i ↔ ofOpcode (w.extractLsb' 86 10) (headOf w) w = some i ∧ i.needsRay ≠ some (!ray) ∧
      encode i = some w ∧ i.firstBad = none := by
  cases named : ofOpcode (w.extractLsb' 86 10) (headOf w) w with
  | none => simp [decodeOn_of_unnamed named]
  | some j =>
    rw [decodeOn_of_named named]
    by_cases ray : j.needsRay = some (!ray)
    · simp only [ray, if_true, Option.some.injEq]
      exact ⟨nofun, fun ⟨e, n, _⟩ => absurd (e ▸ ray) n⟩
    · by_cases enc : encode j = some w
      · cases bad : j.firstBad with
        | some d => simp [ray, enc]; rintro rfl; simp [bad]
        | none => simp [ray, enc]; rintro rfl; exact ⟨ray, enc, bad⟩
      · simp [ray, enc]; rintro rfl; simp [enc]

/-- The details of the checks on fields (R338, checks 5 to 8). -/
theorem firstBad_mem {i : Instr} {d : Nat} (bad : i.firstBad = some d) : d ∈ [0x02, 0x0D, 0x05, 0x06] := by
  simp only [Instr.firstBad] at bad
  split_ifs at bad <;> simp_all

/-- A refusal carries one of the six details of the encoding checks (R290, R338). -/
theorem decodeOn_error_mem {ray : Bool} {w : Bits96} {d : Nat} (refused : decodeOn ray w = .error d) :
    d ∈ [0x01, 0x02, 0x05, 0x06, 0x07, 0x0D] := by
  cases named : ofOpcode (w.extractLsb' 86 10) (headOf w) w with
  | none => rw [decodeOn_of_unnamed named] at refused; cases refused; decide
  | some j =>
    rw [decodeOn_of_named named] at refused
    split_ifs at refused
    · cases refused; decide
    · cases refused; decide
    · cases bad : j.firstBad with
      | some e =>
        rw [bad] at refused; cases refused
        have := firstBad_mem bad
        simp only [List.mem_cons] at this ⊢
        tauto
      | none => rw [bad] at refused; cases refused

/-- The plain decoder accepts what a word's own instruction passes. -/
theorem decode_of_encode {i : Instr} {w : Bits96} (named : ofOpcode (w.extractLsb' 86 10) (headOf w) w = some i)
    (enc : encode i = some w) (good : i.firstBad = none) : decode w = .ok i := by
  unfold decode
  simp [named, enc, good]

/-- Settles O39: the opcode of the word names the instruction again, so only the kind of core can refuse it. -/
theorem decodingUndoesEncoding : Obligations.DecodingUndoesEncoding := by
  unfold Obligations.DecodingUndoesEncoding
  intro i w wf enc
  have named := ofOpcode_encode i wf w enc
  refine ⟨decode_of_encode named enc wf.1, fun ray ok => decodeOn_eq_ok_iff.mpr ⟨named, ok, enc, wf.1⟩, fun ray other => ?_⟩
  rw [decodeOn_of_named named, if_pos other]

/-- Settles O40: a word that decodes is its instruction's encoding, and a function has one value. -/
theorem decodingAcceptsOnlyEncodings : Obligations.DecodingAcceptsOnlyEncodings := by
  unfold Obligations.DecodingAcceptsOnlyEncodings
  refine ⟨fun ray w i h => ?_, fun ray w w' i h h' => ?_, fun ray w unnamed => decodeOn_of_unnamed unnamed ray, fun ray w no => ?_⟩
  · obtain ⟨-, core, enc, good⟩ := decodeOn_eq_ok_iff.mp h
    exact ⟨enc, good, core⟩
  · obtain ⟨-, -, enc, -⟩ := decodeOn_eq_ok_iff.mp h
    obtain ⟨-, -, enc', -⟩ := decodeOn_eq_ok_iff.mp h'
    exact Option.some.inj (enc.symm.trans enc')
  · cases h : decodeOn ray w with
    | ok i => exact absurd h (no i)
    | error d => exact ⟨d, rfl, decodeOn_error_mem h⟩

/-- Settles O38: the model evaluates the ten words to their instructions. -/
theorem wordsDecode : Obligations.WordsDecode := by
  unfold Obligations.WordsDecode
  decide

/-! ## Memories in canonical form -/

/-- What `finish` answers is in canonical form, whatever the step has done. -/
theorem canonicalMemories_of_finish {out : Host.Outcome State Fault Refusal} {t : State} (h : finish out = .next t) :
    CanonicalMemories t := by
  cases out with
  | next u =>
    obtain rfl := Host.Outcome.next.inj h
    refine ⟨Memory.canon_wf _, fun e he => ?_⟩
    obtain ⟨d, -, rfl⟩ := List.mem_map.mp he
    exact Memory.canon_wf _
  | fault r => cases h
  | refused r => cases h

/-- A step ends with `finish`, of the batch's instruction or of a step of the device. -/
theorem step_eq_finish (s : State) : ∃ out, step s = finish out := by
  unfold step
  split
  · exact ⟨_, rfl⟩
  · exact ⟨_, rfl⟩

/-- Settles O42: every step ends with `finish`. -/
theorem stepsKeepCanonicalMemories : Obligations.StepsKeepCanonicalMemories := by
  unfold Obligations.StepsKeepCanonicalMemories
  intro s t _ h
  obtain ⟨out, hout⟩ := step_eq_finish s
  exact canonicalMemories_of_finish (hout ▸ h)

/-- Settles O43: the bytes of the error log's descriptor stand in rising order, and no cistern holds a byte. -/
theorem resetMemoriesAreCanonical : Obligations.ResetMemoriesAreCanonical := by
  unfold Obligations.ResetMemoriesAreCanonical
  exact ⟨by decide, nofun⟩

/-- Settles O45: each field as `State.reset` and the control registers' table give it. -/
theorem resetState : Obligations.ResetState := by
  unfold Obligations.ResetState
  refine ⟨rfl, rfl, rfl, rfl, rfl, rfl, rfl, rfl, rfl, fun c => ⟨rfl, rfl⟩, fun sl small c => ⟨?_, rfl⟩, rfl, rfl, rfl, fun c => ⟨rfl, rfl⟩⟩
  show ctlInit (ctlKey 0x100 sl) = 0x3FF
  interval_cases sl <;> rfl

end Sys2Proof.Proofs

/-!
The statement about one step of a batch leaves out the trap of the signature checker (R254), which `issueStep` takes before it executes.
-/
namespace Sys2Proof.Proofs

open Machine Claims

/-- A fibre at a NOP that starts a block, in a signed code object without an entry for it, with the checker switched on (R254). -/
def unsignedStart : State :=
  modFib (modCore (State.reset.withFetchWord 96 0) 0 fun k => { k with
    ctl := [(0x005, 1)]
    code := k.code ++ [(1, List.replicate 15 0 ++ [0x53])]
    objects := [{ slice := 0, code := 0, ver := 0, first := 0, lines := 2, started := 0 }] }) ⟨0, 0, 0⟩ fun x => { x with sigNew := true }

/-- Whether the placed team is halted in the state answered. -/
def placedTeamHalted : Host.Outcome State Fault Refusal → Option Bool
  | .next t => (getTeam t 0 0).map Team.halted
  | _ => none

/-- The state in which the batch's instruction is prepared. -/
def unsignedTurn : State := { (takeTurn (tick unsignedStart)).2 with turn := (0, 0) }

/-- The batch that stands at the NOP. -/
def placedBatch : Batch :=
  { slot := 0, lanes := [0], pc := 0, count := 0, line := none, atPacket := true, runEnd := false, packetEnd := false, tokens := 0, cpend := [],
    seen := [], live := [], stepped := false }

/-- The state and the instruction that `prepare` answers. -/
def unsignedPrepared : State × Option Instr :=
  prepare (modPart unsignedTurn 0 0 fun q => { q with single := false }) 0 0 placedBatch

/-- The checker's trap finds no vector, so the team is halted. -/
theorem step_unsignedStart_halts : placedTeamHalted (step unsignedStart) = some true := by decide

/-- The NOP itself halts nothing. -/
theorem nop_unsignedPrepared_runs : placedTeamHalted (finish (afterInstr 0 0 (.nop ⟨false, 0, 0⟩ ⟨0, 0, 0, 0⟩)
    (rawInstr (getCore unsignedTurn 0) 0) (exec (.nop ⟨false, 0, 0⟩ ⟨0, 0, 0, 0⟩) unsignedPrepared.1))) = some false := by decide

/-- Refutes O41: at a block start without a signature entry the step is the checker's trap, class 8, and the NOP comes after it. -/
theorem not_stepRunsTheDecodedInstruction : ¬ Obligations.StepRunsTheDecodedInstruction := by
  unfold Obligations.StepRunsTheDecodedInstruction
  rintro ⟨-, runs, -, -⟩
  have turn : takeTurn (tick unsignedStart) = (.issue 0 0, (takeTurn (tick unsignedStart)).2) := by rfl
  have prepared : unsignedPrepared = (unsignedPrepared.1, some (.nop ⟨false, 0, 0⟩ ⟨0, 0, 0, 0⟩)) :=
    Prod.ext rfl (by decide)
  obtain ⟨stepEq, -⟩ := runs unsignedStart 0 0 _ placedBatch _ _ turn (by decide) (by decide) (.inl (by decide)) (.inl (by decide)) prepared
  have halted := step_unsignedStart_halts
  rw [stepEq] at halted
  exact absurd (halted.symm.trans nop_unsignedPrepared_runs) (by decide)

end Sys2Proof.Proofs

/-!
Results that land at a packet end or at the run end (R13, R48, R49): each entry of the claims' tables is its instruction's arm, and what a lane
computes does not see what the other lanes have gained.
-/
namespace Sys2Proof.Proofs

open Machine Claims Laws

/-- What a lane computes is the same after other lanes have gained results. -/
def Unmoved (eff : State → Issue → Nat → Fibre → List Eff) : Prop :=
  ∀ (s t : State) (is : Issue) (l : Nat) (x : Fibre), SameBut s t → eff t is l x = eff s is l x

/-- A table all of whose entries are `perLane` of unmoved effects says what lands. -/
theorem landsLater_of_perLane {table : Instr → Option (Head × Nat × (State → Issue → Nat → Fibre → List Eff))}
    (arm : ∀ i h dist eff, table i = some (h, dist, eff) → (∀ s, exec i s = perLane s i h dist eff) ∧ Unmoved eff) : LandsLater table := by
  intro i h dist eff entry s is act H
  obtain ⟨isArm, unmoved⟩ := arm i h dist eff entry
  rw [isArm]
  exact perLane_issues H dist eff fun t l x same => unmoved s t is l x same

/-- A core reads the same but for the fibres and the identities used. -/
theorem getCore_sameBut {s t : State} (same : SameBut s t) (c : Nat) : getCore t c = getCore s c := by
  rw [same.eq]; rfl

/-- Integer and predicate operations: their arms, which read operands and the lane's own registers. -/
theorem shortInteger_arm {i : Instr} {h : Head} {dist : Nat} {eff : State → Issue → Nat → Fibre → List Eff}
    (entry : shortInteger i = some (h, dist, eff)) : (∀ s, exec i s = perLane s i h dist eff) ∧ Unmoved eff := by
  unfold shortInteger at entry
  split at entry <;> cases entry <;> refine ⟨fun _ => rfl, fun s t is l x same => ?_⟩ <;>
    simp only [eff1, eff2, eff3, srcOf_sameBut same]

/-- Floating-point operations. -/
theorem shortFloat_arm {i : Instr} {h : Head} {dist : Nat} {eff : State → Issue → Nat → Fibre → List Eff}
    (entry : shortFloat i = some (h, dist, eff)) : (∀ s, exec i s = perLane s i h dist eff) ∧ Unmoved eff := by
  unfold shortFloat at entry
  split at entry <;> cases entry <;> refine ⟨fun _ => rfl, fun s t is l x same => ?_⟩ <;>
    simp only [feff, srcOf_sameBut same]

/-- Narrow codes and special registers, which also read the core's I4T table and the clock. -/
theorem shortOther_arm {i : Instr} {h : Head} {dist : Nat} {eff : State → Issue → Nat → Fibre → List Eff}
    (entry : shortOther i = some (h, dist, eff)) : (∀ s, exec i s = perLane s i h dist eff) ∧ Unmoved eff := by
  unfold shortOther at entry
  split at entry
  case h_7 o =>
    split_ifs at entry with clock
    cases entry
    obtain ⟨notClk, notTime⟩ := not_or.mp clock
    exact ⟨fun s => by change execMovs _ _ s = _; simp only [execMovs, if_neg notClk, if_neg notTime],
      fun s t is l x same => by simp only [specialOf_sameBut same]⟩
  all_goals
    cases entry
    try
      refine ⟨fun _ => rfl, fun s t is l x same => ?_⟩
      simp only [eff2, eff3, srcOf_sameBut same, getCore_sameBut same]

/-- Settles O1: the integer operations' table holds their arms. -/
theorem integerResults : Obligations.IntegerResults :=
  landsLater_of_perLane fun _ _ _ _ => shortInteger_arm

/-- Settles O2: so do the tables of the floating-point and of the other short operations. -/
theorem floatResults : Obligations.FloatResults :=
  ⟨landsLater_of_perLane fun _ _ _ _ => shortFloat_arm, landsLater_of_perLane fun _ _ _ _ => shortOther_arm⟩

end Sys2Proof.Proofs

/-!
Results that the core computes itself and writes at the run end (R48, R53).
-/
namespace Sys2Proof.Proofs

open Machine Claims Laws

/-- The issue-buffer entry that an instruction leaves, where it is not HEND. -/
theorem entered_of_not_hend {i : Instr} (no : ∀ h o, i ≠ .hend h o) (is : Issue) (act : List Nat) (t : State) :
    entered i is act t = if signals i then signalEntry t is act else t := by
  unfold entered
  split
  · exact absurd rfl (no _ _)
  · rfl

/-- A table all of whose entries are `perLaneLong` of unmoved effects, with the signal entry of those that have one. -/
theorem writesAtRunEnd_of_perLaneLong {table : Instr → Option (Head × (State → Issue → Nat → Fibre → List Eff))}
    (arm : ∀ i h eff, table i = some (h, eff) → (∀ h o, i ≠ .hend h o) ∧
      (∀ s, exec i s = if signals i then signalled s h (perLaneLong s i h eff) else perLaneLong s i h eff) ∧ Unmoved eff) :
    WritesAtRunEnd table := by
  intro i h eff entry s is act H
  obtain ⟨noHend, isArm, unmoved⟩ := arm i h eff entry
  obtain ⟨t, ht, known⟩ := perLaneLong_issues H eff fun t l x same => unmoved s t is l x same
  refine ⟨t, ?_, known⟩
  rw [isArm, ht, entered_of_not_hend noHend]
  split
  · exact signalled_issues H t
  · rfl

/-- The status of an extent reads the same. -/
theorem extStatus_sameBut {s t : State} (same : SameBut s t) (f : FRef) (n : Nat) (a : Int) : extStatus t f n a = extStatus s f n a := by
  rw [same.eq]; rfl

/-- The clocks read the same. -/
theorem coreClk_sameBut {s t : State} (same : SameBut s t) (c : Nat) : coreClk t c = coreClk s c := by
  rw [same.eq]; rfl

/-- The global time reads the same. -/
theorem time_sameBut {s t : State} (same : SameBut s t) : t.time = s.time := by
  rw [same.eq]

/-- The long-latency operations that the core computes itself: their arms. -/
theorem longKnown_arm {i : Instr} {h : Head} {eff : State → Issue → Nat → Fibre → List Eff} (entry : longKnown i = some (h, eff)) :
    (∀ h o, i ≠ .hend h o) ∧
      (∀ s, exec i s = if signals i then signalled s h (perLaneLong s i h eff) else perLaneLong s i h eff) ∧ Unmoved eff := by
  unfold longKnown at entry
  split at entry
  case h_8 o =>
    refine ⟨nofun, ?_⟩
    split_ifs at entry with clk time <;> cases entry
    · exact ⟨fun s => by change execMovs _ _ s = _; simp only [execMovs, if_pos clk]; rfl, fun s t is l x same => by simp only [coreClk_sameBut same]⟩
    · exact ⟨fun s => by change execMovs _ _ s = _; simp only [execMovs, if_neg clk, if_pos time]; rfl, fun s t is l x same => by simp only [time_sameBut same]⟩
  all_goals
    cases entry
    try
      refine ⟨nofun, fun _ => rfl, fun s t is l x same => ?_⟩
      simp only [eff2, feff, srcOf_sameBut same, extStatus_sameBut same]

/-- Settles O3: the run-end operations' table holds their arms. -/
theorem runEndResults : Obligations.RunEndResults :=
  writesAtRunEnd_of_perLaneLong fun _ _ _ => longKnown_arm

end Sys2Proof.Proofs

/-!
Instructions whose lanes act one after the other: how an arm becomes a statement about each lane, and the branches, calls and returns.
-/
namespace Sys2Proof.Proofs

open Machine Claims Laws

/-! ## From an arm to its lanes -/

/-- An arm that is a fold over the active lanes acts by lane, where the instruction leaves no signal entry. -/
theorem actsByLane_of_onNamed {i : Instr} {h : Head} {ops : Named} {pre : State → State} {eff : State → Issue → State → Nat → Fibre → LaneAct}
    {lane : State → Issue → State → Nat → State}
    (isArm : ∀ s, exec i s = onNamed s h ops fun is act s => eachLane act (lane s is) (pre s))
    (quiet : ∀ is act t, entered i is act t = t)
    (acts : ∀ s is s' l x, getFib s' (is.fref l) = some x → (eff s is s' l x).Makes is l s' (lane s is s' l)) :
    ActsByLane i h ops pre eff :=
  actsByLane (fun s is act H => by rw [isArm, onNamed_issues H, quiet]) (fun _ _ _ => rfl) acts

/-- The same where the instruction stands in the issue buffer for a signal (R53). -/
theorem actsByLane_of_signalled {i : Instr} {h : Head} {ops : Named} {pre : State → State} {eff : State → Issue → State → Nat → Fibre → LaneAct}
    {lane : State → Issue → State → Nat → State}
    (isArm : ∀ s, exec i s = signalled s h (onNamed s h ops fun is act s => eachLane act (lane s is) (pre s)))
    (signal : ∀ is act t, entered i is act t = signalEntry t is act)
    (acts : ∀ s is s' l x, getFib s' (is.fref l) = some x → (eff s is s' l x).Makes is l s' (lane s is s' l)) :
    ActsByLane i h ops pre eff :=
  actsByLane (fun s is act H => by rw [isArm, onNamed_issues H, signalled_issues H, signal]) (fun _ _ _ => rfl) acts

/-- What a lane that acts makes of the state. -/
@[simp] theorem makes_does (is : Issue) (l : Nat) (s t u : State) : (LaneAct.does u).Makes is l s t ↔ t = u := Iff.rfl
/-- What a lane that takes an exception makes of the state. -/
@[simp] theorem makes_traps (is : Issue) (l : Nat) (s t : State) (e : TrapInfo) :
    (LaneAct.traps e).Makes is l s t ↔ t = takeTrap s (is.fref l) is.pc e := Iff.rfl
/-- What a lane that acts and then takes an exception makes of the state. -/
@[simp] theorem makes_trapsIn (is : Issue) (l : Nat) (s t u : State) (e : TrapInfo) :
    (LaneAct.trapsIn u e).Makes is l s t ↔ t = takeTrap u (is.fref l) is.pc e := Iff.rfl
/-- A lane of which the statement says nothing. -/
@[simp] theorem makes_other (is : Issue) (l : Nat) (s t : State) : LaneAct.other.Makes is l s t := trivial

@[simp] theorem fref_core (is : Issue) (l : Nat) : (is.fref l).core = is.core := rfl
@[simp] theorem fref_slot (is : Issue) (l : Nat) : (is.fref l).slot = is.slot := rfl
@[simp] theorem fref_lane (is : Issue) (l : Nat) : (is.fref l).lane = l := rfl

/-! ## Branches, calls and returns -/

/-- A branch without a call: the run end and the target are looked at before the next PC is set. -/
theorem actsByLane_of_branch {i : Instr} {h : Head} {tgt : CodeObj → Issue → Fibre → Option Nat}
    (isArm : ∀ s, exec i s = branch s i h false tgt) (quiet : ∀ is act t, entered i is act t = t) :
    ActsByLane i h (namedOf i) afterId fun s is => branchAct (fun obj x => tgt obj is x) s is := by
  apply actsByLane_of_onNamed
  case isArm => intro s; rw [isArm]; simp only [branch, freshId, onActive]; rfl
  case quiet => exact quiet
  case acts =>
    intro s is s' l x hx
    simp only [hx]
    unfold branchAct
    cases codeObjOf s' (is.fref l) with
    | none => exact trivial
    | some obj =>
      by_cases runEnd : is.runEnd = true
      · cases ht : tgt obj is x with
        | none => simp [runEnd, ht]
        | some t => by_cases marked : isTarget s' is.core obj t = true <;> simp [runEnd, ht, marked, goTo]
      · simp [runEnd]

/-- A call's lane, once its target is known: an entry on chip, or a request for the oldest in memory. -/
theorem callNow_eq {s : State} {f : FRef} {x : Fibre} (hx : getFib s f = some x) (eid : Nat) (pc target ret : Word) :
    callNow s f eid pc target ret =
      if x.stack.length < 8 then putFib s f { x with stack := ret :: x.stack, next := some target }
      else if x.spill = 65535 then takeTrap s f pc (trapOf 4 0x08)
      else match stackFails s f x .wr (stackArea s f + BitVec.ofNat 64 (8 * x.spill)) with
        | some (va, .page k) => postPageFaults (goTo s f pc) f.core f.slot pc (accCode .ls 1) [(f.lane, BitVec.ofNat 64 va, k, .call target ret)]
        | some (va, .trap c d) => takeTrap s f pc (trapAt c d (BitVec.ofNat 64 va))
        | _ =>
          let s1 := putFib (afterId s) f { x with stack := ret :: x.stack.dropLast, spill := x.spill + 1, next := some target }
          stackEntry s1 f eid pc (stackAcc s1 f x (s.nextId + 1) .wr (stackArea s f + BitVec.ofNat 64 (8 * x.spill)))
            (.spill (stackArea s f + BitVec.ofNat 64 (8 * x.spill)) (x.stack.getLastD 0)) := by
  unfold callNow
  rw [hx]
  rfl

/-- A call: as a branch, with the entry that the return takes. -/
theorem actsByLane_of_call {i : Instr} {h : Head} {tgt : CodeObj → Issue → Fibre → Option Nat}
    (isArm : ∀ s, exec i s = branch s i h true tgt) (quiet : ∀ is act t, entered i is act t = t) :
    ActsByLane i h (namedOf i) afterId fun s is => callAct (fun obj x => tgt obj is x) s is := by
  apply actsByLane_of_onNamed
  case isArm => intro s; rw [isArm]; simp only [branch, freshId, onActive]; rfl
  case quiet => exact quiet
  case acts =>
    intro s is s' l x hx
    simp only [hx, callAct]
    cases ho : codeObjOf s' (is.fref l) with
    | none => exact trivial
    | some obj =>
      by_cases runEnd : is.runEnd = true
      case neg => simp [runEnd]
      cases ht : tgt obj is x with
      | none => simp [runEnd, ht]
      | some t =>
        by_cases marked : isTarget s' is.core obj t = true
        case neg => simp [runEnd, ht, marked]
        simp only [runEnd, ht, marked, callNow_eq hx, not_true, if_false, if_true]
        split_ifs
        · rfl
        · rfl
        · rcases stackFails s' (is.fref l) x .wr (stackArea s' (is.fref l) + BitVec.ofNat 64 (8 * x.spill)) with _ | ⟨va, _ | _ | _⟩ <;> trivial

/-- A return's lane: an entry on chip, or a request for the newest in memory. -/
theorem retNow_makes {s s' : State} {is : Issue} {l : Nat} {x : Fibre} (hx : getFib s' (is.fref l) = some x) :
    (retAct s is s' l x).Makes is l s'
      (if is.runEnd then retNow s' (is.fref l) (s.nextId + 1) is.pc else takeTrap s' (is.fref l) is.pc (trapOf 0 0x03)) := by
  simp only [retAct, retNow, hx]
  cases codeObjOf s' (is.fref l) with
  | none => exact trivial
  | some obj =>
    by_cases runEnd : is.runEnd = true
    case neg => simp [runEnd]
    simp only [runEnd, not_true, if_false, if_true]
    cases x.stack with
    | cons t rest => by_cases ret : isReturnPoint s' is.core obj t.toNat = true <;> simp [ret]
    | nil =>
      dsimp only
      split_ifs
      · rfl
      · rcases stackFails s' (is.fref l) x .rd (stackArea s' (is.fref l) + BitVec.ofNat 64 (8 * (x.spill - 1))) with _ | ⟨va, _ | _ | _⟩ <;> trivial

/-- Settles O4: branches and calls through `branch`, a return from the fibre's own stack. -/
theorem branchesAndReturns : Obligations.BranchesAndReturns := by
  unfold Obligations.BranchesAndReturns
  refine ⟨fun h o => actsByLane_of_branch (fun _ => rfl) fun _ _ _ => rfl, fun h o => actsByLane_of_branch (fun _ => rfl) fun _ _ _ => rfl,
    fun h o => actsByLane_of_call (fun _ => rfl) fun _ _ _ => rfl, fun h o => actsByLane_of_call (fun _ => rfl) fun _ _ _ => rfl, fun h o => ?_⟩
  apply actsByLane_of_onNamed
  case isArm => intro s; change execRet h o s = _; simp only [execRet, freshId, onActive]; rfl
  case quiet => intros; rfl
  case acts => exact fun s is s' l x hx => retNow_makes hx

end Sys2Proof.Proofs

/-!
Waits, wakes and ends of fibres (R358-R360, R413, R428): what each lane does.
-/
namespace Sys2Proof.Proofs

open Machine Claims Laws

/-- A change of a fibre that is there. -/
theorem modFib_of_some {s : State} {f : FRef} {x : Fibre} (hx : getFib s f = some x) (g : Fibre → Fibre) : modFib s f g = putFib s f (g x) := by
  simp only [modFib, hx]

theorem actsByLane_fwait (h o) : ActsByLane (.fwait h o) h (namedOf (.fwait h o)) id (fwaitAct o) := by
  apply actsByLane_of_signalled
  case isArm => intro s; change execFwait h o s = _; simp only [execFwait, onActive]; rfl
  case signal => intros; rfl
  case acts =>
    intro s is s' l x hx
    simp only [fwaitAct, hx, groupNamed, freshId]
    split_ifs
    · rfl
    · cases List.find? _ s'.groups <;> rfl

theorem actsByLane_park (h o) : ActsByLane (.park h o) h (namedOf (.park h o)) id (parkAct o) := by
  apply actsByLane_of_onNamed
  case isArm => intro s; change execPark h o s = _; simp only [execPark, onActive]; rfl
  case quiet => intros; rfl
  case acts =>
    intro s is s' l x hx
    simp only [parkAct, modFib_of_some hx, makes_does]

theorem actsByLane_wake (h o) : ActsByLane (.wake h o) h (namedOf (.wake h o)) id (wakeAct o) := by
  apply actsByLane_of_onNamed
  case isArm => intro s; change execWake h o s = _; simp only [execWake, onActive]; rfl
  case quiet => intros; rfl
  case acts =>
    intro s is s' l x hx
    simp only [wakeAct, hx]
    cases teamOf s' (is.fref l) with
    | none => rfl
    | some e => cases he : slotOfGid s' is.core e.1 ((regOf x o.a.toNat).toNat % 2048 / 32) <;> simp [he]

theorem actsByLane_wakeGrp (h o) : ActsByLane (.wakeGrp h o) h (namedOf (.wakeGrp h o)) id (wakeGrpAct o) := by
  apply actsByLane_of_onNamed
  case isArm => intro s; change execWakeGrp h o s = _; simp only [execWakeGrp, onActive]; rfl
  case quiet => intros; rfl
  case acts =>
    intro s is s' l x hx
    simp only [wakeGrpAct, hx]
    cases teamOf s' (is.fref l) with
    | none => rfl
    | some e => cases he : slotOfGid s' is.core e.1 ((regOf x o.a.toNat).toNat % 64) <;> simp [he]

theorem actsByLane_fmtp (h o) : ActsByLane (.fmtp h o) h (namedOf (.fmtp h o)) id (fmtpAct o) := by
  apply actsByLane_of_onNamed
  case isArm => intro s; change execFmtp h o s = _; simp only [execFmtp, onActive]; rfl
  case quiet => intros; rfl
  case acts =>
    intro s is s' l x hx
    simp only [fmtpAct, modFib_of_some hx, makes_does]

/-- An end outside an activation is the end of the fibre. -/
theorem endAct_makes {s s' : State} {is : Issue} {l : Nat} {x : Fibre} (hx : getFib s' (is.fref l) = some x) (fend : Bool) :
    (endAct s is s' l x).Makes is l s' (hendFibre s' (is.fref l) fend) := by
  by_cases activation : fsrHA x = true <;> simp [endAct, hendFibre, hx, activation]

/-- The end of an activation gives back what the activation holds before its fibre ends. -/
theorem activationEndAct_makes {s s' : State} {is : Issue} {l : Nat} {x : Fibre} (hx : getFib s' (is.fref l) = some x) (fend : Bool) :
    (activationEndAct fend s is s' l x).Makes is l s' (hendFibre s' (is.fref l) fend) := by
  simp only [activationEndAct, hendFibre, hx]
  split_ifs <;> trivial

/-- FEND's lanes end one after the other. -/
theorem actsByLane_fend {h : Head} {o : BodyS} {eff : State → Issue → State → Nat → Fibre → LaneAct}
    (acts : ∀ s is s' l x, getFib s' (is.fref l) = some x → (eff s is s' l x).Makes is l s' (hendFibre s' (is.fref l) true)) :
    ActsByLane (.fend h o) h (namedOf (.fend h o)) id eff := by
  apply actsByLane_of_onNamed
  case isArm => intro s; change execFend h o s = _; simp only [execFend, onActive]; rfl
  case quiet => intros; rfl
  case acts => exact acts

/-- HEND's lanes end one after the other, and its signal entry comes after them. -/
theorem actsByLane_hend {h : Head} {o : BodyK} {eff : State → Issue → State → Nat → Fibre → LaneAct}
    (acts : ∀ s is s' l x, getFib s' (is.fref l) = some x → (eff s is s' l x).Makes is l s' (hendFibre s' (is.fref l) false)) :
    ActsByLane (.hend h o) h (namedOf (.hend h o)) id eff := by
  refine actsByLane (k := fun is act s => eachLane act (fun s l => hendFibre s (is.fref l) false) s) (fun s is act H => ?_) (fun _ _ _ => rfl) acts
  change execHend h o s = _
  simp only [execHend, onActive_issues H]
  rfl

theorem actsByLane_tret (h o) : ActsByLane (.tret h o) h (namedOf (.tret h o)) afterId tretAct := by
  apply actsByLane_of_onNamed
  case isArm => intro s; change execTret h o s = _; simp only [execTret, freshId, onActive]; rfl
  case quiet => intros; rfl
  case acts =>
    intro s is s' l x hx
    by_cases runEnd : is.runEnd = true <;> simp [tretAct, runEnd]

/-- Settles O5: each instruction's lanes. -/
theorem fibreControl : Obligations.FibreControl :=
  ⟨actsByLane_fwait, actsByLane_park, actsByLane_wake, actsByLane_wakeGrp, actsByLane_fmtp,
    fun _ _ => actsByLane_fend fun _ _ _ _ _ hx => endAct_makes hx true,
    fun _ _ => actsByLane_hend fun _ _ _ _ _ hx => endAct_makes hx false,
    fun _ _ => actsByLane_fend fun _ _ _ _ _ hx => activationEndAct_makes hx true,
    fun _ _ => actsByLane_hend fun _ _ _ _ _ hx => activationEndAct_makes hx false, actsByLane_tret⟩

end Sys2Proof.Proofs

/-!
Control registers, launches, QUIESCE and BASIN (R363-R371, R467): what each lane does.
-/
namespace Sys2Proof.Proofs

open Machine Claims Laws

theorem actsByLane_ctlrd (h o) : ActsByLane (.ctlrd h o) h (namedOf (.ctlrd h o)) id (ctlrdAct h o) := by
  apply actsByLane_of_onNamed
  case isArm => intro s; change execCtlrd h o s = _; simp only [execCtlrd, onActive]; rfl
  case quiet => intros; rfl
  case acts =>
    intro s is s' l x hx
    by_cases may : mayRead s' (is.fref l) x o.imm = true <;> simp [ctlrdAct, hx, may]

/-- A failing page check leaves the fault record and the fibre's wait that `pageActAs` says. -/
theorem pageActAs_makes {is : Issue} {l : Nat} {s s' : State} {f : FRef} {x : Fibre} (hx : getFib s' f = some x) (pc : Word) (va k acc : Nat)
    (mk : Nat → Acc) (ll : Bool) (i : Instr) :
    (pageActAs s' f pc va k acc mk ll i x).Makes is l s (addrFailsAs s' f pc va (.page k) acc mk ll i) := by
  have regs : getFib (freshId s').2 f = some x := hx
  simp only [pageActAs, addrFailsAs, regs, makes_does]
  rfl

/-- The same for an instruction without a result. -/
theorem pageAct_makes {is : Issue} {l : Nat} {s s' : State} {f : FRef} {x : Fibre} (hx : getFib s' f = some x) (pc : Word) (va k : Nat) (p : Path)
    (kind : Nat) (i : Instr) : (pageAct s' f pc va k p kind i x).Makes is l s (addrFails s' f pc va (.page k) p kind i) :=
  pageActAs_makes hx _ _ _ _ _ _ _

/-- CTLWR's lane: the entry's identity is that of the first lane's. -/
theorem ctlwrAct_makes {h : Head} {o : BodyS} {s s' : State} {is : Issue} {l : Nat} {x : Fibre} {t : State}
    (t_eq : t = if ¬ mayWrite s' (is.fref l) x o.imm then takeTrap s' (is.fref l) is.pc (trapOf 4 0x07)
      else
        let v : DWord := if h.mod = 1#8 then pairOf (regOf x o.a.toNat) (regOf x (o.a.toNat + 1)) else (regOf x o.a.toNat).setWidth 64
        let key := addrKey s' (is.fref l) o.imm
        let s1 := addCorePend (afterId s') is 3 (.ctl key v (s'.nextId + 1))
        if isCoreReg (o.imm.toNat % 0x1000) then s1 else sendCtl s1 is (s.nextId + 1) (is.fref l) (s'.nextId + 1) key v) :
    (ctlwrAct h o s is s' l x).Makes is l s' t := by
  rw [t_eq]
  by_cases may : mayWrite s' (is.fref l) x o.imm = true <;> simp [ctlwrAct, may]

theorem actsByLane_ctlwr (h o) : ActsByLane (.ctlwr h o) h (namedOf (.ctlwr h o)) afterId (ctlwrAct h o) := by
  by_cases core : isCoreReg (o.imm.toNat % 0x1000) = true
  · apply actsByLane_of_signalled
    case isArm => intro s; change execCtlwr h o s = _; simp only [execCtlwr, core, if_true, onActive, freshId]; rfl
    case signal => intros; simp only [entered, signals, core, if_true]
    case acts => intro s is s' l x hx; simp only [hx]; exact ctlwrAct_makes (by simp [core, afterId])
  · rw [Bool.not_eq_true] at core
    apply actsByLane_of_onNamed
    case isArm => intro s; change execCtlwr h o s = _; simp only [execCtlwr, core, Bool.false_eq_true, if_false, id_eq, onActive, freshId]; rfl
    case quiet => intros; simp only [entered, signals, core, Bool.false_eq_true, if_false]
    case acts => intro s is s' l x hx; simp only [hx]; exact ctlwrAct_makes (by simp [core, afterId])

theorem actsByLane_quiesce (h o) : ActsByLane (.quiesce h o) h (namedOf (.quiesce h o)) id (quiesceAct o) := by
  apply actsByLane_of_signalled
  case isArm => intro s; change execQuiesce h o s = _; simp only [execQuiesce, onActive]; rfl
  case signal => intros; rfl
  case acts =>
    intro s is s' l x hx
    by_cases may : mayQuiesce s' (is.fref l) x ((regOf x o.a.toNat).toNat % 1024) = true <;> simp [quiesceAct, hx, may, freshId]
    rfl

theorem actsByLane_quiesceOpen (h o) : ActsByLane (.quiesceOpen h o) h (namedOf (.quiesceOpen h o)) id (quiesceOpenAct o) := by
  apply actsByLane_of_onNamed
  case isArm => intro s; change execQuiesceOpen h o s = _; simp only [execQuiesceOpen, onActive]; rfl
  case quiet => intros; rfl
  case acts =>
    intro s is s' l x hx
    by_cases may : mayQuiesce s' (is.fref l) x ((regOf x o.a.toNat).toNat % 1024) = true <;> simp [quiesceOpenAct, hx, may, freshId]

/-- BASIN and its form for all bins: an entry with the operands read. -/
theorem actsByLane_of_basinInstr {i : Instr} {h : Head} {o : BodyS} {ns : List Nat} (isArm : ∀ s, exec i s = basinInstr s i h o ns)
    (quiet : ∀ is act t, entered i is act t = t) : ActsByLane i h (namedOf i) afterId (basinAct o ns) := by
  apply actsByLane_of_onNamed
  case isArm => intro s; rw [isArm]; simp only [basinInstr, onActive, freshId]; rfl
  case quiet => exact quiet
  case acts => intro s is s' l x hx; simp only [hx, basinAct, makes_does]

theorem actsByLane_basinOwn (h o) : ActsByLane (.basinOwn h o) h (namedOf (.basinOwn h o)) afterId basinOwnAct := by
  apply actsByLane_of_onNamed
  case isArm => intro s; change execBasinOwn h o s = _; simp only [execBasinOwn, onActive, freshId]; rfl
  case quiet => intros; rfl
  case acts =>
    intro s is s' l x hx
    rcases ht : teamOf s' (is.fref l) with _ | ⟨n, _⟩
    · simp [basinOwnAct, ht]
    · by_cases taken : basinTaken s' (is.fref l) n = true <;> simp [basinOwnAct, ht, taken]

theorem actsByLane_launch (h o) : ActsByLane (.launch h o) h (namedOf (.launch h o)) afterId (launchAct (.launch h o) o) := by
  apply actsByLane_of_onNamed
  case isArm => intro s; change execLaunch h o s = _; simp only [execLaunch, onActive, freshId]; rfl
  case quiet => intros; rfl
  case acts =>
    intro s is s' l x hx
    simp only [launchAct, launchLane, hx]
    split_ifs
    · rfl
    · rcases checkBlock s' (is.fref l) x .rd (pairSrc x 0 o.a) 256 64 with _ | ⟨va, _ | _ | _⟩
      · rfl
      · trivial
      · exact pageActAs_makes hx _ _ _ _ _ _ _
      · rfl

/-- Settles O6: each instruction's lanes. -/
theorem controlRegistersAndCore : Obligations.ControlRegistersAndCore :=
  ⟨actsByLane_ctlrd, actsByLane_ctlwr, actsByLane_launch, actsByLane_quiesce, actsByLane_quiesceOpen,
    fun _ _ => actsByLane_of_basinInstr (fun _ => rfl) fun _ _ _ => rfl, fun _ _ => actsByLane_of_basinInstr (fun _ => rfl) fun _ _ _ => rfl,
    actsByLane_basinOwn⟩

end Sys2Proof.Proofs

/-!
Range operations, migrations and copies (R399-R405): what each lane does.
-/
namespace Sys2Proof.Proofs

open Machine Claims Laws

/-- A range instruction: the failing block, or one command for the range's homes. -/
theorem actsByLane_of_rangeInstr {i : Instr} {h : Head} {o : BodyM} {opc : Nat} (isArm : ∀ s, exec i s = rangeInstr s i h o opc)
    (quiet : ∀ is act t, entered i is act t = t) : ActsByLane i h (namedOf i) afterId (rangeAct i opc o) := by
  apply actsByLane_of_onNamed
  case isArm => intro s; rw [isArm]; simp only [rangeInstr, onActive, freshId]; rfl
  case quiet => exact quiet
  case acts =>
    intro s is s' l x hx
    simp only [rangeAct, rangeLane, hx]
    split_ifs
    · rfl
    · rfl
    · rcases rangeFailure s' (is.fref l) o x with _ | ⟨va, _ | _ | _⟩
      · rfl
      · trivial
      · exact pageAct_makes hx _ _ _ _ _ _
      · rfl

theorem actsByLane_migr (h o) : ActsByLane (.migr h o) h (namedOf (.migr h o)) afterId (migrAct (.migr h o) o) := by
  apply actsByLane_of_onNamed
  case isArm => intro s; change execMigr h o s = _; simp only [execMigr, onActive, freshId]; rfl
  case quiet => intros; rfl
  case acts =>
    intro s is s' l x hx
    by_cases rst : fsrRST x = true
    case pos => simp [migrAct, migrLane, hx, rst]
    case neg =>
      simp only [migrAct, migrLane, hx, rst]
      rcases (migrPage s' (is.fref l) o x).2 with ⟨va, _ | _ | _⟩ | tg
      · trivial
      · exact pageAct_makes hx _ _ _ _ _ _
      · rfl
      · by_cases tier : (regOf x o.b.toNat).toNat / 1024 = 0
        · simp only [tier, ne_eq, not_true, if_false]
          cases faultService s' is.core (sliceOf s' (is.fref l)) <;> rfl
        · simp [tier]

/-- A copy instruction: the failing block, or one command for the copy engine. -/
theorem actsByLane_of_copyInstr {i : Instr} {h : Head} {mk : Fibre → FRef → CopyCmd} (isArm : ∀ s, exec i s = copyInstr s i h mk)
    (quiet : ∀ is act t, entered i is act t = t) : ActsByLane i h (namedOf i) afterId (copyAct i mk) := by
  apply actsByLane_of_onNamed
  case isArm => intro s; rw [isArm]; simp only [copyInstr, onActive, freshId]; rfl
  case quiet => exact quiet
  case acts =>
    intro s is s' l x hx
    simp only [copyAct, copyLane, hx, freshId]
    split_ifs
    · rfl
    · rcases copyFails { s' with nextId := s'.nextId + 1 } (is.fref l) x { mk x (is.fref l) with pc := is.pc, acc := s'.nextId + 1 } with
        _ | ⟨va, _ | _ | _, r⟩
      · rfl
      · trivial
      · exact pageActAs_makes (s' := afterId s') hx _ _ _ _ _ _ _
      · rfl

/-- Settles O9: ranges, MIGR and copies through their shared lanes. -/
theorem rangesAndCopies : Obligations.RangesAndCopies :=
  ⟨fun _ _ => actsByLane_of_rangeInstr (fun _ => rfl) fun _ _ _ => rfl, fun _ _ => actsByLane_of_rangeInstr (fun _ => rfl) fun _ _ _ => rfl,
    fun _ _ => actsByLane_of_rangeInstr (fun _ => rfl) fun _ _ _ => rfl, fun _ _ => actsByLane_of_rangeInstr (fun _ => rfl) fun _ _ _ => rfl,
    fun _ _ => actsByLane_of_rangeInstr (fun _ => rfl) fun _ _ _ => rfl, actsByLane_migr,
    fun _ _ => actsByLane_of_copyInstr (fun _ => rfl) fun _ _ _ => rfl, fun _ _ => actsByLane_of_copyInstr (fun _ => rfl) fun _ _ _ => rfl,
    fun _ _ => actsByLane_of_copyInstr (fun _ => rfl) fun _ _ _ => rfl⟩

end Sys2Proof.Proofs

/-!
Combining, sections and barriers: the claim about COMBINE gives the access record without what it keeps for being performed afresh.
-/
namespace Sys2Proof.Proofs

open Machine Claims Laws

/-- Where an instruction issues for one lane, what its claim says of that lane is what it answers. -/
theorem exec_of_actsByLane_single {i : Instr} {h : Head} {ops : Named} {pre : State → State} {eff : State → Issue → State → Nat → Fibre → LaneAct}
    (acts : ActsByLane i h ops pre eff) {s : State} {is : Issue} {l : Nat} {x : Fibre} {t : State} (H : Issues s h ops is [l])
    (hx : getFib (pre s) (is.fref l) = some x) (does : eff s is (pre s) l x = .does t) : exec i s = .next (entered i is [l] t) := by
  obtain ⟨lane, answers, makes⟩ := acts s is [l] H
  have := makes (pre s) l x hx
  rw [does] at this
  rw [answers]
  exact congrArg (fun u => Host.Outcome.next (entered i is [l] u)) this

/-- One fibre at privilege 2 whose registers g2 and g3 name a page that its core's TLB maps for reading and writing. -/
def mappedFibre : State :=
  modFib (modCore (State.reset.withFetchWord 96 0) 0 fun k => { k with
    tlb := [{ slice := 0, big := false, vpn := 1, pfn := 0, rd := true, wr := true, usr := true, hm := false, wt := false, bcmp := false, mig := false
              home := 0, w := 0, mask := 0, groupOk := true }] }) ⟨0, 0, 0⟩ fun x => { x with regs := [0, 0, 0x10000, 0] ++ x.regs.drop 4 }

/-- The batch of that fibre. -/
def mappedIssue : Issue := ⟨0, 0, 0, [0], 0, false⟩

/-- A COMBINE of one argument and one result at the object that the pair g2 names. -/
def oneCombine : BodyK := ⟨4, 2, 6, 0x105, 0, 0, 0, 0, 0, 0⟩

/-- Whether each access record of the fibre keeps what it takes to perform the access afresh. -/
def redosKept (s : State) : List Bool := ((getFib s ⟨0, 0, 0⟩).map fun x => x.accs.map fun a => a.redo.isSome).getD []

/-- Whether a lane acts and leaves access records that keep nothing of it. -/
def leavesNoRedo : LaneAct → Bool
  | .does t => redosKept t == [false]
  | _ => false

/-- The claim's effect leaves a record with nothing to perform afresh. -/
theorem combineAct_leavesNoRedo : ∃ x, getFib (afterId mappedFibre) ⟨0, 0, 0⟩ = some x ∧
    leavesNoRedo (combineAct (.combine ⟨false, 0, 0⟩ oneCombine) oneCombine mappedFibre mappedIssue (afterId mappedFibre) 0 x) = true :=
  ⟨_, rfl, by decide⟩

/-- COMBINE itself leaves one with its instruction and operands. -/
theorem exec_combine_keepsRedo : (match exec (.combine ⟨false, 0, 0⟩ oneCombine) mappedFibre with
    | .next t => redosKept t
    | _ => []) = [true] := by decide

/-- The COMBINE issues for the one lane. -/
theorem combine_issues : Issues mappedFibre ⟨false, 0, 0⟩ [(0, oneCombine.d, oneCombine.num.toNat % 8 + 1), (1, oneCombine.a, 2),
    (2, oneCombine.b, oneCombine.mlen.toNat + 1)] mappedIssue [0] :=
  ⟨by decide, by decide, by decide, by decide, by decide, by decide⟩

/-- Refutes O10: COMBINE's access record keeps its instruction and operands, so that a fault's answer can perform it afresh, and the claim's record
of COMBINE keeps none (that of CMBREG keeps them). -/
theorem not_combiningSectionsBarriers : ¬ Obligations.CombiningSectionsBarriers := by
  unfold Obligations.CombiningSectionsBarriers
  rintro ⟨combine, -⟩
  obtain ⟨x, hx, noRedo⟩ := combineAct_leavesNoRedo
  have keeps := exec_combine_keepsRedo
  cases act : combineAct (.combine ⟨false, 0, 0⟩ oneCombine) oneCombine mappedFibre mappedIssue (afterId mappedFibre) 0 x with
  | does t =>
    rw [exec_of_actsByLane_single (combine _ _) combine_issues hx act] at keeps
    rw [act] at noRedo
    have none : redosKept t = [false] := eq_of_beq noRedo
    exact absurd (none.symm.trans keeps) (by decide)
  | traps e => rw [act] at noRedo; cases noRedo
  | trapsIn u e => rw [act] at noRedo; cases noRedo
  | other => rw [act] at noRedo; cases noRedo

end Sys2Proof.Proofs

/-!
Messages (R421-R430): what each lane sends or takes.
-/
namespace Sys2Proof.Proofs

open Machine Claims Laws

/-- A send's checks and its entry, as the claim has them. -/
theorem sentAct_makes {s s' : State} {is : Issue} {l : Nat} (eid : Nat) (p : Packet) (bad : Option TrapInfo) :
    (sentAct s' is eid (is.fref l) p bad).Makes is l s (sendChecked s' is eid (is.fref l) p bad) := by
  unfold sentAct sendChecked
  cases getFib s' (is.fref l) with
  | none => exact trivial
  | some x =>
    dsimp only
    split_ifs
    · rfl
    · rfl
    · cases bad <;> rfl

theorem actsByLane_send (h o) : ActsByLane (.send h o) h [(1, o.a, 1), (2, o.b, o.mlen.toNat + 1), (3, o.c, 1)] afterId (sendAct o) := by
  apply actsByLane_of_onNamed
  case isArm => intro s; change execSend h o s = _; simp only [execSend, freshId]; rfl
  case quiet => intros; rfl
  case acts =>
    intro s is s' l x hx
    simp only [sendAct, sendLane, hx]
    exact sentAct_makes _ _ _

theorem actsByLane_sendr (h o) : ActsByLane (.sendr h o) h [(0, o.d, o.num.toNat % 16 + 1), (1, o.a, 1), (2, o.b, o.mlen.toNat + 1)] afterId
    (sendrAct o) := by
  apply actsByLane_of_onNamed
  case isArm => intro s; change execSendr h o s = _; simp only [execSendr, freshId]; rfl
  case quiet => intros; rfl
  case acts =>
    intro s is s' l x hx
    simp only [sendrAct, sendrLane, hx]
    split_ifs <;> rfl

theorem actsByLane_reply (h o) : ActsByLane (.reply h o) h [(2, o.b, o.mlen.toNat + 1)] afterId (replyAct o) := by
  apply actsByLane_of_onNamed
  case isArm => intro s; change execReply h o s = _; simp only [execReply, freshId]; rfl
  case quiet => intros; rfl
  case acts =>
    intro s is s' l x hx
    simp only [replyAct, replyLane, hx]
    cases x.origin.faultSlot with
    | none => exact sentAct_makes _ _ _
    | some slot => exact sentAct_makes _ _ _

theorem actsByLane_mbox (h o) : ActsByLane (.mbox h o) h [(0, o.d, 18)] id (mboxAct o) := by
  apply actsByLane_of_signalled
  case isArm => intro s; change execMbox h o s = _; simp only [execMbox]; rfl
  case signal => intros; rfl
  case acts =>
    intro s is s' l x hx
    simp only [mboxAct, hx, freshId]
    split_ifs
    · rfl
    · have inbox : (getCore { s' with nextId := s'.nextId + 1 } is.core).inbox = (getCore s' is.core).inbox := rfl
      rw [inbox]
      cases (getCore s' is.core).inbox <;> rfl

theorem actsByLane_mboxRp (h o) : ActsByLane (.mboxRp h o) h [(0, o.d, 18)] afterId (mboxRpAct o) := by
  apply actsByLane_of_onNamed
  case isArm => intro s; change execMboxRp h o s = _; simp only [execMboxRp, freshId]; rfl
  case quiet => intros; rfl
  case acts =>
    intro s is s' l x hx
    by_cases prv : fsrPRV x = 0 <;> simp [mboxRpAct, hx, prv]

theorem actsByLane_emit (h o) : ActsByLane (.emit h o) h [(1, o.a, 1), (2, o.b, o.mlen.toNat + 1)] afterId (emitAct o) := by
  apply actsByLane_of_onNamed
  case isArm => intro s; change execEmit h o s = _; simp only [execEmit, freshId]; rfl
  case quiet => intros; rfl
  case acts =>
    intro s is s' l x hx
    by_cases rst : fsrRST x = true
    · simp [emitAct, emitLane, hx, rst]
    · simp only [emitAct, emitLane, hx, rst]
      exact sentAct_makes _ _ _

/-- Settles O11: each instruction's lanes. -/
theorem messages : Obligations.Messages :=
  ⟨actsByLane_send, actsByLane_sendr, actsByLane_reply, actsByLane_mbox, actsByLane_mboxRp, actsByLane_emit⟩

end Sys2Proof.Proofs

/-!
Rays, treelet loads, directory and rate records, pumps and encoders (R463-R475): what each lane does.
-/
namespace Sys2Proof.Proofs

open Machine Claims Laws

theorem pkgNum_addAcc (s : State) (f : FRef) (a : Acc) : pkgNum (addAcc s f a) = pkgNum s := by
  simp only [pkgNum, ctlHome, addAcc, modFib_ctl]
theorem teamOf_addAcc (s : State) (f g : FRef) (a : Acc) : teamOf (addAcc s f a) g = teamOf s g := by
  simp only [teamOf, getGroup, getTeam, addAcc, modFib_groups, modFib_teams]
theorem sliceOf_addAcc (s : State) (f g : FRef) (a : Acc) : sliceOf (addAcc s f a) g = sliceOf s g := by
  unfold sliceOf
  rw [teamOf_addAcc]
  simp only [addAcc, getCore_modFib]

/-- The restartable activation's trap comes before everything else. -/
theorem rstTrap_eq (s : State) (f : FRef) (pc : Word) (x : Fibre) (k : State → State) :
    rstTrap s f pc x k = if fsrRST x then takeTrap s f pc (trapOf 0 0x0E) else k s := rfl

theorem actsByLane_trv (h o) : ActsByLane (.trv h o) h [(0, o.d, 1), (2, o.b, 16)] afterId (trvAct o) := by
  apply actsByLane_of_onNamed
  case isArm => intro s; change execTrv h o s = _; simp only [execTrv, freshId]; rfl
  case quiet => intros; rfl
  case acts =>
    intro s is s' l x hx
    simp only [trvAct, trvLane, hx]
    rfl

theorem actsByLane_raysend (h o) : ActsByLane (.raysend h o) h [(2, o.b, 16)] afterId (raysendAct o) := by
  apply actsByLane_of_onNamed
  case isArm => intro s; change execRaysend h o s = _; simp only [execRaysend, freshId]; rfl
  case quiet => intros; rfl
  case acts =>
    intro s is s' l x hx
    simp only [raysendAct, raysendLane, hx]
    cases chooseReplica s' is.core (rayTreelet (setStatus (regsFrom x o.b.toNat 16) 0)) none with
    | some d => dsimp only; split_ifs <;> rfl
    | none =>
      dsimp only
      cases hitQueue s' (sliceOf s' (is.fref l)) _ _ with
      | none => rfl
      | some q => exact sentAct_makes _ _ _

theorem actsByLane_raysendLocal (h o) : ActsByLane (.raysendLocal h o) h [(2, o.b, 16)] afterId (raysendLocalAct o) := by
  apply actsByLane_of_onNamed
  case isArm => intro s; change execRaysendLocal h o s = _; simp only [execRaysendLocal, freshId]; rfl
  case quiet => intros; rfl
  case acts =>
    intro s is s' l x hx
    simp only [raysendLocalAct, raysendLocalLane, hx]
    split_ifs <;> rfl

theorem actsByLane_hitput (h o) : ActsByLane (.hitput h o) h [(2, o.b, 16)] afterId (hitputAct o) := by
  apply actsByLane_of_onNamed
  case isArm => intro s; change execHitput h o s = _; simp only [execHitput, freshId]; rfl
  case quiet => intros; rfl
  case acts =>
    intro s is s' l x hx
    simp only [hitputAct, hx, sendHit]
    exact sentAct_makes _ _ _

theorem actsByLane_tload (h o) : ActsByLane (.tload h o) h (namedOf (.tload h o)) afterId (tloadAct (.tload h o) o) := by
  apply actsByLane_of_onNamed
  case isArm => intro s; change execTload h o s = _; simp only [execTload, freshId, onActive]; rfl
  case quiet => intros; rfl
  case acts =>
    intro s is s' l x hx
    by_cases rst : fsrRST x = true
    · simp [tloadAct, tloadLane, hx, rst, rstTrap_eq]
    simp only [tloadAct, tloadLane, hx, rst, rstTrap_eq, Bool.false_eq_true, if_false]
    rcases checkBlock s' (is.fref l) x .rd (pairSrc x 0 o.a) 0 64 with _ | ⟨va, _ | _ | _⟩
    · dsimp only
      by_cases aligned : (regOf x o.b.toNat).toNat % 64 = 0
      case neg => simp [aligned]
      by_cases outside : 0x3C0000 < (regOf x o.b.toNat).toNat + (if fld (regOf x o.d.toNat).toNat 15 15 = 1 then 0 else 64 * fld (regOf x o.d.toNat).toNat 31 16)
      · simp [aligned, outside]
      simp only [aligned, outside, ne_eq, not_true_eq_false, if_false]
      rcases checkBlock s' (is.fref l) x .rd (pairSrc x 0 o.a) _ 64 with _ | ⟨va, _ | _ | _⟩
      · dsimp only
        split_ifs <;> rfl
      · trivial
      · exact pageAct_makes hx _ _ _ _ _ _
      · rfl
    · trivial
    · exact pageAct_makes hx _ _ _ _ _ _
    · rfl

/-- A descriptor's load, of traversal or raster state. -/
theorem tdescAct_makes {s s' : State} {is : Issue} {l : Nat} {x : Fibre} (hx : getFib s' (is.fref l) = some x) (i : Instr) (o : BodyX) (kind bits : Nat) :
    (tdescAct i o kind bits s is s' l x).Makes is l s' (tdescLane s' is (s.nextId + 1) i o kind bits l) := by
  by_cases rst : fsrRST x = true
  · simp [tdescAct, tdescLane, hx, rst, rstTrap_eq]
  by_cases prv : fsrPRV x = 0
  · simp [tdescAct, tdescLane, hx, rst, prv, rstTrap_eq]
  simp only [tdescAct, tdescLane, hx, rst, prv, rstTrap_eq, Bool.false_eq_true, if_false]
  rcases checkBlock s' (is.fref l) x .rd (pairSrc x 0 o.a) 32 1 with _ | ⟨va, _ | _ | _⟩
  · dsimp only
    split_ifs <;> rfl
  · trivial
  · exact pageAct_makes hx _ _ _ _ _ _
  · rfl

theorem actsByLane_tloadTds (h o) : ActsByLane (.tloadTds h o) h (namedOf (.tloadTds h o)) afterId (tdescAct (.tloadTds h o) o 1 3) := by
  apply actsByLane_of_onNamed
  case isArm => intro s; change execTloadTds h o s = _; simp only [execTloadTds, freshId, onActive]; rfl
  case quiet => intros; rfl
  case acts => exact fun s is s' l x hx => tdescAct_makes hx _ _ _ _

theorem actsByLane_tloadRds (h o) : ActsByLane (.tloadRds h o) h (namedOf (.tloadRds h o)) afterId (tdescAct (.tloadRds h o) o 2 4) := by
  apply actsByLane_of_onNamed
  case isArm => intro s; change execTloadRds h o s = _; simp only [execTloadRds, freshId, onActive]; rfl
  case quiet => intros; rfl
  case acts => exact fun s is s' l x hx => tdescAct_makes hx _ _ _ _

theorem actsByLane_town (h o) : ActsByLane (.town h o) h (namedOf (.town h o)) afterId (townAct o) := by
  apply actsByLane_of_onNamed
  case isArm => intro s; change execTown h o s = _; simp only [execTown, freshId, onActive]; rfl
  case quiet => intros; rfl
  case acts =>
    intro s is s' l x hx
    simp only [townAct, townLane, hx, rstTrap_eq, freshId, pkgNum_addAcc, teamOf_addAcc]
    split_ifs <;> rfl

theorem actsByLane_rate (h o) : ActsByLane (.rate h o) h (namedOf (.rate h o)) afterId (rateAct o) := by
  apply actsByLane_of_onNamed
  case isArm => intro s; change execRate h o s = _; simp only [execRate, freshId, onActive]; rfl
  case quiet => intros; rfl
  case acts =>
    intro s is s' l x hx
    simp only [rateAct, rateLane, hx, freshId, pkgNum_addAcc, sliceOf_addAcc]
    split_ifs <;> rfl

theorem actsByLane_pump (h o) : ActsByLane (.pump h o) h [(2, o.b, 16)] afterId (pumpAct (.pump h o) o) := by
  apply actsByLane_of_onNamed
  case isArm => intro s; change execPump h o s = _; simp only [execPump, freshId]; rfl
  case quiet => intros; rfl
  case acts =>
    intro s is s' l x hx
    by_cases rst : fsrRST x = true
    · simp [pumpAct, pumpLane, hx, rst, rstTrap_eq]
    by_cases formed : pumpFormed (regsFrom x o.b.toNat 16) = true
    case neg => simp [pumpAct, pumpLane, hx, rst, formed, rstTrap_eq]
    simp only [pumpAct, pumpLane, hx, rst, formed, rstTrap_eq, Bool.false_eq_true, not_true_eq_false, if_false]
    rcases pumpCheck s' (is.fref l) x (pumpOperands (regsFrom x o.b.toNat 16)) with ⟨pa | ⟨va, _ | _ | _⟩ | pa, wr⟩ | pas
    · trivial
    · trivial
    · exact pageAct_makes hx _ _ _ _ _ _
    · rfl
    · have joined : getFib (addAcc (afterId s') (is.fref l) (plainAcc (s'.nextId + 1) .pm)) (is.fref l) =
          some { x with accs := x.accs ++ [plainAcc (s'.nextId + 1) .pm] } := by
        simp only [addAcc, getFib_modFib_self]
        exact congrArg _ hx
      simp only [freshId, makes_does]
      refine (modFib_of_some joined _).trans (Eq.symm ?_)
      exact modFib_of_some joined _
    · simp only [decide_eq_true_eq, List.isEmpty_iff]
      split_ifs <;> rfl

theorem actsByLane_pumpw (h o) : ActsByLane (.pumpw h o) h (namedOf (.pumpw h o)) id (drainAct o true) := by
  apply actsByLane_of_signalled
  case isArm => intro s; change execPumpw h o s = _; simp only [execPumpw, onActive]; rfl
  case signal => intros; rfl
  case acts =>
    intro s is s' l x hx
    simp only [drainAct, makes_does]
    exact modFib_of_some (s := afterId s') hx _

theorem actsByLane_encq (h o) : ActsByLane (.encq h o) h (namedOf (.encq h o)) afterId (encqAct (.encq h o) o) := by
  apply actsByLane_of_onNamed
  case isArm => intro s; change execEncq h o s = _; simp only [execEncq, freshId, onActive]; rfl
  case quiet => intros; rfl
  case acts =>
    intro s is s' l x hx
    by_cases rst : fsrRST x = true
    · simp [encqAct, encqLane, hx, rst, rstTrap_eq]
    simp only [encqAct, encqLane, hx, rst, rstTrap_eq, Bool.false_eq_true, if_false]
    rcases checkBlock s' (is.fref l) x .rd (pairSrc x 0 o.a) 64 1 with _ | ⟨va, _ | _ | _⟩
    · dsimp only
      split_ifs <;> rfl
    · trivial
    · exact pageAct_makes hx _ _ _ _ _ _
    · rfl

/-- Settles O12: each instruction's lanes. -/
theorem raysPumpsEncoders : Obligations.RaysPumpsEncoders :=
  ⟨actsByLane_trv, actsByLane_raysend, actsByLane_raysendLocal, actsByLane_hitput, actsByLane_tload, actsByLane_tloadTds, actsByLane_tloadRds,
    actsByLane_town, actsByLane_rate, actsByLane_pump, actsByLane_pumpw, actsByLane_encq⟩

end Sys2Proof.Proofs

/-!
The instructions that act for the batch as a whole (R92-R95, R240, R328, R343-R353, R397) and the memory instructions (R391-R409).
-/
namespace Sys2Proof.Proofs

open Machine Claims Laws

/-! ## From an arm to what the batch does -/

/-- An arm that acts for the batch as a whole, where the instruction leaves no signal entry. -/
theorem actsAsOne_of_onNamed {i : Instr} {h : Head} {ops : Named} {cond : State → Issue → List Nat → Prop} {t : State → Issue → List Nat → State}
    {k : Issue → List Nat → State → State} (isArm : ∀ s, exec i s = onNamed s h ops k) (quiet : ∀ is act t, entered i is act t = t)
    (acts : ∀ s is act, Issues s h ops is act → cond s is act → k is act s = t s is act) : ActsAsOne i h ops cond t := by
  intro s is act H c
  rw [isArm, onNamed_issues H, quiet, acts s is act H c]

/-- The same, with the operands of the lowest active lane. -/
theorem actsForLowest_of_onNamed {i : Instr} {h : Head} {ops : Named} {cond : State → Issue → List Nat → Fibre → Prop}
    {t : State → Issue → List Nat → Fibre → State}
    {k : Issue → List Nat → State → State} (isArm : ∀ s, exec i s = onNamed s h ops k) (quiet : ∀ is act t, entered i is act t = t)
    (acts : ∀ s is act x, getFib s (low is act) = some x → cond s is act x → k is act s = t s is act x) : ActsForLowest i h ops cond t := by
  intro s is act x H hx c
  rw [isArm, onNamed_issues H, quiet, acts s is act x hx c]

/-! ## SPAWN, the register claims, the traps and the table load -/

theorem actsForLowest_spawn (h : Head) (o : BodyB) (t : Nat) (obj : CodeObj) : ActsForLowest (.spawn h o) h (namedOf (.spawn h o))
    (fun s is _ x => codeObjOf s (is.fref 0) = some obj ∧ dispTarget is.pc o = some t ∧ isTarget s is.core obj t = true ∧
      (regOf x o.a.toNat).toNat % 64 ≠ gidOf s (is.fref 0) ∧ fsrRST x = false)
    (fun s is act x => spawnNow o h s is act t x) := by
  apply actsForLowest_of_onNamed
  case isArm => intro s; change execSpawn h o s = _; simp only [execSpawn, onActive]; rfl
  case quiet => intros; rfl
  case acts =>
    intro s is act x hx ⟨hobj, ht, marked, other, rst⟩
    simp only [low] at hx
    simp only [hx, hobj, ht, marked, Option.map_some, Option.getD_some, if_neg other, rst, Bool.false_eq_true, not_true_eq_false, if_false, spawnNow, freshId]

/-- A claim or a release that passes its checks waits in every active lane. -/
theorem registerArrival_waits {s : State} {is : Issue} {act : List Nat} {a' : Nat} {illegal : Bool} (runEnd : is.runEnd = true) (legal : illegal = false)
    (alone : ∀ l ∈ lanesOf s is.core is.slot, ∀ w, (getFib s (is.fref l)).bind regWait = some w → w.1 = is.pc) :
    registerArrival s is act a' illegal = eachLane act (fun s l => modFib s (is.fref l) fun x => { x with waits := x.waits ++ [.registers is.pc a'] }) s := by
  unfold registerArrival
  rw [List.filter_eq_nil_iff.mpr fun l hl => ?elsewhere]
  case elsewhere =>
    cases hw : (getFib s (is.fref l)).bind regWait with
    | none => simp
    | some w => simp [alone l hl w hw]
  simp only [runEnd, legal, Bool.false_eq_true, List.isEmpty_nil, not_true_eq_false, if_false]

theorem actsAsOne_regclm (h o) : ActsAsOne (.regclm h o) h (namedOf (.regclm h o))
    (fun s is _ => is.runEnd = true ∧ (∀ l ∈ lanesOf s is.core is.slot, ∀ w, (getFib s (is.fref l)).bind regWait = some w → w.1 = is.pc) ∧ badAllot s is o.imm.toNat = false ∧ allotOf s (is.fref 0) ≤ o.imm.toNat)
    (fun s is act => eachLane act (fun s l => modFib s (is.fref l) fun x => { x with waits := x.waits ++ [.registers is.pc o.imm.toNat] }) s) := by
  apply actsAsOne_of_onNamed
  case isArm => intro s; change execRegclm h o s = _; simp only [execRegclm, onActive]; rfl
  case quiet => intros; rfl
  case acts =>
    intro s is act H ⟨runEnd, alone, fits, grows⟩
    exact registerArrival_waits runEnd (by simp [fits, grows]) alone

theorem actsAsOne_regrel (h o) : ActsAsOne (.regrel h o) h (namedOf (.regrel h o))
    (fun s is _ => is.runEnd = true ∧ (∀ l ∈ lanesOf s is.core is.slot, ∀ w, (getFib s (is.fref l)).bind regWait = some w → w.1 = is.pc) ∧ badAllot s is o.imm.toNat = false ∧ o.imm.toNat ≤ allotOf s (is.fref 0))
    (fun s is act => eachLane act (fun s l => modFib s (is.fref l) fun x => { x with waits := x.waits ++ [.registers is.pc o.imm.toNat] }) s) := by
  apply actsAsOne_of_onNamed
  case isArm => intro s; change execRegrel h o s = _; simp only [execRegrel, onActive]; rfl
  case quiet => intros; rfl
  case acts =>
    intro s is act H ⟨runEnd, alone, fits, shrinks⟩
    exact registerArrival_waits runEnd (by simp [fits, shrinks]) alone

theorem actsAsOne_trap (h o) : ActsAsOne (.trap h o) h (namedOf (.trap h o)) (fun _ _ _ => True)
    (fun s is act => trapSelf s is (.trap h o) act (trapOf 11 (o.imm.toNat % 256))) := by
  apply actsAsOne_of_onNamed
  case isArm => intro s; change execTrap h o s = _; simp only [execTrap, onActive]; rfl
  case quiet => intros; rfl
  case acts => intros; rfl

theorem actsAsOne_bkpt (h : Head) (o : BodyS) (n : Nat) (tm : Team) :
    ActsAsOne (.bkpt h o) h (namedOf (.bkpt h o)) (fun s is act => teamOf s (low is act) = some (n, tm))
      (fun s is act => if (getSlice s tm.slice).debugger then stopTeam s is.core n else trapSelf s is (.bkpt h o) act (trapOf 12 0)) := by
  apply actsAsOne_of_onNamed
  case isArm => intro s; change execBkpt h o s = _; simp only [execBkpt, onActive]; rfl
  case quiet => intros; rfl
  case acts =>
    intro s is act H team
    simp only [low] at team
    simp only [team]

theorem actsForLowest_tblld (h o) : ActsForLowest (.tblld h o) h (namedOf (.tblld h o)) (fun s is act x => getFib s (is.fref (act.getLastD 0)) = some x)
    (fun s is _ x => addCorePend s is 2 (.i4t ((regsFrom x o.a.toNat 4).getD 3 0 ++ (regsFrom x o.a.toNat 4).getD 2 0 ++
      (regsFrom x o.a.toNat 4).getD 1 0 ++ (regsFrom x o.a.toNat 4).getD 0 0))) := by
  apply actsForLowest_of_onNamed
  case isArm => intro s; change execTblld h o s = _; simp only [execTblld, onActive]; rfl
  case quiet => intros; rfl
  case acts =>
    intro s is act x _ highest
    simp only [highest]

/-! ## SIGMARK -/

/-- SIGMARK of an unprefixed batch looks at the signatures alone. -/
theorem exec_sigmark {s : State} {is : Issue} {obj : CodeObj} (h : Head) (o : BodyS) (batch : issuing s = some is) (unprefixed : lanesWhere s is fsrPP = [])
    (hobj : codeObjOf s (is.fref (is.lanes.headD 0)) = some obj) :
    exec (.sigmark h o) s = .next (if (lanesWhere s is fun x => ! fsrPP x && x.sigOn && (ctlCopy s is.core 0x005).getLsbD 0 &&
        objSigned (getCore s is.core) obj && decide (x.sig ≠ o.imm)).isEmpty then s
      else sigMismatch s is.core is.part ((lanesWhere s is fun x => ! fsrPP x && x.sigOn && (ctlCopy s is.core 0x005).getLsbD 0 &&
        objSigned (getCore s is.core) obj && decide (x.sig ≠ o.imm)).map is.fref)) := by
  change execSigmark h o s = _
  simp only [execSigmark, batch, unprefixed, trapLanes, List.foldl_nil, hobj]

theorem exec_sigmark_agrees (h : Head) (o : BodyS) (s : State) (is : Issue) (batch : issuing s = some is) (unprefixed : lanesWhere s is fsrPP = [])
    (agrees : ∀ obj, codeObjOf s (is.fref (is.lanes.headD 0)) = some obj →
      objSigned (getCore s is.core) obj = false ∨ ∀ l ∈ is.lanes, ∀ x, getFib s (is.fref l) = some x → x.sigOn = true → x.sig = o.imm) :
    exec (.sigmark h o) s = .next s := by
  cases hobj : codeObjOf s (is.fref (is.lanes.headD 0)) with
  | none =>
    change execSigmark h o s = _
    simp only [execSigmark, batch, unprefixed, trapLanes, List.foldl_nil, hobj]
  | some obj =>
    rw [exec_sigmark h o batch unprefixed hobj, if_pos]
    rw [List.isEmpty_iff, lanesWhere, List.filter_eq_nil_iff]
    intro l hl
    rcases agrees obj hobj with unsigned | same
    · cases getFib s (is.fref l) <;> simp [unsigned]
    · cases hx : getFib s (is.fref l) with
      | none => simp
      | some x => simpa using fun _ on => fun _ _ => same l hl x hx on

theorem exec_sigmark_differs (h : Head) (o : BodyS) (s : State) (is : Issue) (obj : CodeObj) (bad : List Nat) (batch : issuing s = some is)
    (unprefixed : lanesWhere s is fsrPP = []) (hobj : codeObjOf s (is.fref (is.lanes.headD 0)) = some obj)
    (checked : (ctlCopy s is.core 0x005).getLsbD 0 = true) (signed : objSigned (getCore s is.core) obj = true)
    (hbad : bad = lanesWhere s is (fun x => ! fsrPP x && x.sigOn && decide (x.sig ≠ o.imm))) (some_bad : bad ≠ []) :
    exec (.sigmark h o) s = .next (sigMismatch s is.core is.part (bad.map is.fref)) := by
  rw [exec_sigmark h o batch unprefixed hobj]
  simp only [checked, signed, Bool.and_true, ← hbad]
  rw [if_neg (by simpa using some_bad)]

/-! ## DISCARD -/

theorem actsByLane_discard (h o) : ActsByLane (.discard h o) h (namedOf (.discard h o)) afterId discardAct := by
  apply actsByLane_of_onNamed
  case isArm => intro s; change execDiscard h o s = _; simp only [execDiscard, freshId, onActive]; rfl
  case quiet => intros; rfl
  case acts =>
    intro s is s' l x hx
    cases key : x.origin.pixelKey with
    | none =>
      simp only [discardAct, discardLane, hx, key]
      by_cases activation : fsrHA x = true
      · simpa only [activation, if_true] using activationEndAct_makes hx true
      · simpa only [activation, Bool.false_eq_true, if_false] using endAct_makes hx true
    | some k => simp only [discardAct, discardLane, hx, key, freshId, makes_does]

/-- Settles O7: the instructions one after the other. -/
theorem batchControl : Obligations.BatchControl :=
  ⟨fun _ _ _ => rfl, actsForLowest_spawn, actsAsOne_regclm, actsAsOne_regrel, actsAsOne_trap, actsAsOne_bkpt, exec_sigmark_agrees, exec_sigmark_differs,
    actsByLane_discard, actsForLowest_tblld⟩

/-! ## The memory instructions -/

/-- A memory instruction issues one access a lane. -/
theorem issuesAccess_of_onActive {i : Instr} {h : Head} {kind : OpKind} {path : Path} {res : Bool} {mk : Issue → Nat → Fibre → MemOp}
    (isArm : ∀ s, exec i s = onActive s i h fun is act s => issueMem s is act kind path res fun _ l x => mk is l x) : IssuesAccess i h kind path res mk :=
  fun s _ _ H => (isArm s).trans (onActive_issues H _)

/-- Settles O8: each is one `issueMem` of its active lanes. -/
theorem memoryAccessesIssue : Obligations.MemoryAccessesIssue :=
  ⟨fun _ _ => issuesAccess_of_onActive fun _ => rfl, fun _ _ => issuesAccess_of_onActive fun _ => rfl, fun _ _ => issuesAccess_of_onActive fun _ => rfl,
    fun _ _ => issuesAccess_of_onActive fun _ => rfl, fun _ _ => issuesAccess_of_onActive fun _ => rfl, fun _ _ => issuesAccess_of_onActive fun _ => rfl,
    fun _ _ => issuesAccess_of_onActive fun _ => rfl, fun _ _ => issuesAccess_of_onActive fun _ => rfl, fun _ _ => issuesAccess_of_onActive fun _ => rfl⟩

end Sys2Proof.Proofs

/-!
Results of the batch's lanes together (R362, R444), conversions with pending prefixes (R381-R383), and fences (R188, R402).
-/
namespace Sys2Proof.Proofs

open Machine Claims Laws

/-! ## ELECT, VOTE, SHFL and BRED -/

/-- The core's allotments and tables read the same after lanes have gained results. -/
theorem allotOf_sameBut {s t : State} (same : SameBut s t) (f : FRef) : allotOf t f = allotOf s f := by
  rw [same.eq]; rfl

/-- Where no identity was used, only the fibres differ. -/
theorem onlyFibres_of_sameBut {s t : State} (same : SameBut s t) (unused : t.nextId = s.nextId) : { t with fibres := s.fibres } = s := by
  have rest := same.rest
  rw [← unused] at rest
  exact rest

/-- An arm that gives each active lane a result computed from the state before the instruction. -/
theorem lands_of_eachLane {i : Instr} {h : Head} {dist : Nat} {eff : State → Issue → List Nat → Nat → Fibre → List Eff}
    {k : State → State → Issue → List Nat → Nat → Fibre → List Eff}
    (isArm : ∀ s, exec i s = onActive s i h fun is act s => eachLane act (fun u l => modFib u (is.fref l) fun x => addPends x dist (k s u is act l x)) s)
    (same : ∀ s u is act l x, SameBut s u → k s u is act l x = eff s is act l x) {s : State} {is : Issue} {act : List Nat} (H : Issues s h (namedOf i) is act) :
    ∃ t, exec i s = .next t ∧
      (∀ l ∈ act, ∀ x, getFib s (is.fref l) = some x → getFib t (is.fref l) = some (addPends x dist (eff s is act l x))) ∧
      (∀ f, (∀ l ∈ act, f ≠ is.fref l) → getFib t f = getFib s f) ∧ { t with fibres := s.fibres } = s := by
  obtain ⟨rest, nextId, landed, others⟩ := eachLane_modFib is (fun u l x => addPends x dist (k s u is act l x))
    (fun t l x e => by simp only [same s t is act l x e, same s s is act l x (.refl s)]) act s (Issues.nodup H) (.refl s)
  refine ⟨_, (isArm s).trans (onActive_issues H _), ?_, others, ?_⟩
  · intro l hl x hx
    rw [landed l hl x hx, same s s is act l x (.refl s)]
  · exact onlyFibres_of_sameBut rest nextId

/-- The four arms, each with what a lane gains read from the state before the instruction and from the state the lanes before it have left. -/
theorem collective_arm {i : Instr} {h : Head} {dist : Nat} {eff : State → Issue → List Nat → Nat → Fibre → List Eff}
    (entry : collective i = some (h, dist, eff)) : ∃ k : State → State → Issue → List Nat → Nat → Fibre → List Eff,
      (∀ s, exec i s = onActive s i h fun is act s => eachLane act (fun u l => modFib u (is.fref l) fun x => addPends x dist (k s u is act l x)) s) ∧
      ∀ s u is act l x, SameBut s u → k s u is act l x = eff s is act l x := by
  unfold collective at entry
  split at entry
  case h_1 h o =>
    cases entry
    exact ⟨fun _ _ _ act l _ => destEff o.d (if some l = act.head? then 1 else 0), fun _ => rfl, fun _ _ _ _ _ _ _ => rfl⟩
  case h_2 h o =>
    cases entry
    exact ⟨fun s _ is act _ _ => destEff o.d (resVote h.mod.toNat (laneValues s is act o.imm o.a)), fun _ => rfl, fun _ _ _ _ _ _ _ => rfl⟩
  case h_3 h o =>
    cases entry
    refine ⟨fun s u is act l x => destEff o.d (((shflLane h.mod.toNat l (srcOf u is l x o.imm o.b)).bind fun n =>
      tget (laneValues s is act o.imm o.a) n).getD (srcOf u is l x o.imm o.c)), fun _ => rfl, fun s u is act l x same => ?_⟩
    simp only [srcOf_sameBut same]
  case h_4 h o =>
    cases entry
    exact ⟨fun s _ is act _ _ => floatEff o.d (resBred (h.mod.toNat / 8 % 8) (((getFib s (is.fref (act.headD 0))).map (rndOf h)).getD 0)
      (((getFib s (is.fref (act.headD 0))).map fsrFTZ).getD false)
      (act.filterMap fun l => (getFib s (is.fref l)).map fun x => srcOf s is l x o.imm o.a)), fun _ => rfl, fun _ _ _ _ _ _ _ => rfl⟩
  case h_5 => cases entry

/-- Settles O13: the four arms. -/
theorem collectiveResults : Obligations.CollectiveResults := by
  intro i h dist eff entry s is act H
  obtain ⟨k, isArm, same⟩ := collective_arm entry
  exact lands_of_eachLane isArm same H

/-! ## CVT, CVTN and CVTW -/

/-- Lanes that each change their own fibre alone, in a way known beforehand. -/
theorem foldl_eq_eachLane {s : State} {is : Issue} {body : State → Nat → State} {k : Nat → Fibre → Fibre} :
    ∀ (act : List Nat) (u : State), act.Nodup → SameBut s u → (∀ l ∈ act, getFib u (is.fref l) = getFib s (is.fref l)) →
      (∀ l ∈ act, ∀ u, SameBut s u → getFib u (is.fref l) = getFib s (is.fref l) → body u l = modFib u (is.fref l) (k l)) →
      act.foldl body u = eachLane act (fun u l => modFib u (is.fref l) (k l)) u := by
  intro act
  induction act with
  | nil => intros; rfl
  | cons a act ih =>
    intro u nodup same here acts
    obtain ⟨notAgain, nodup⟩ := List.nodup_cons.mp nodup
    simp only [eachLane, List.foldl_cons]
    rw [acts a List.mem_cons_self u same (here a List.mem_cons_self)]
    refine ih _ nodup (same.trans (.modFib _ _ _)) (fun l hl => ?_) fun l hl => acts l (List.mem_cons_of_mem _ hl)
    have other : is.fref l ≠ is.fref a := by
      rintro e
      have : l = a := congrArg FRef.lane e
      exact notAgain (this ▸ hl)
    rw [getFib_modFib_ne _ _ other]
    exact here l (List.mem_cons_of_mem _ hl)

/-- A lane of `lanesWhere` is one of the batch's with a fibre that the predicate holds of. -/
theorem mem_lanesWhere {s : State} {is : Issue} {p : Fibre → Bool} {l : Nat} :
    l ∈ lanesWhere s is p ↔ l ∈ is.lanes ∧ ∃ x, getFib s (is.fref l) = some x ∧ p x = true := by
  unfold lanesWhere
  rw [List.mem_filter]
  cases getFib s (is.fref l) <;> simp

/-- Two lanes of one batch are two fibres. -/
theorem fref_ne {is : Issue} {l l' : Nat} (other : l ≠ l') : is.fref l ≠ is.fref l' :=
  fun e => other (congrArg FRef.lane e)

/-- The lanes of the batch that a conversion's guard leaves out. -/
def idleLanes (s : State) (is : Issue) (h : Head) : List Nat := is.lanes.filter fun l => ! (lanesWhere s is (guardOf h)).contains l

/-- What the conversion leaves: PP and PFMT are consumed in every lane, and the active lanes gain their results. -/
def converted (s : State) (is : Issue) (h : Head) (effs : Nat → List Eff) : State :=
  eachLane (lanesWhere s is (guardOf h)) (fun u l => modFib u (is.fref l) fun x => addPends (clearPrefix x) 4 (effs l))
    (eachLane (idleLanes s is h) (fun u l => modFib u (is.fref l) clearPrefix) s)

theorem converted_spec {s : State} {is : Issue} (h : Head) (effs : Nat → List Eff) (nodup : is.lanes.Nodup) :
    (∀ l ∈ is.lanes, ∀ x, getFib s (is.fref l) = some x →
      getFib (converted s is h effs) (is.fref l) = some (if guardOf h x then addPends (clearPrefix x) 4 (effs l) else clearPrefix x)) ∧
    (∀ f, (∀ l ∈ is.lanes, f ≠ is.fref l) → getFib (converted s is h effs) f = getFib s f) ∧
    { converted s is h effs with fibres := s.fibres } = s := by
  obtain ⟨same, nextId, cleared, idleOthers⟩ := eachLane_modFib is (fun _ _ => clearPrefix) (fun _ _ _ _ => rfl) (idleLanes s is h) s (nodup.filter _) (.refl s)
  obtain ⟨same', nextId', landed, actOthers⟩ := eachLane_modFib is (fun _ l x => addPends (clearPrefix x) 4 (effs l)) (fun _ _ _ _ => rfl)
    (lanesWhere s is (guardOf h)) (eachLane (idleLanes s is h) (fun u l => modFib u (is.fref l) clearPrefix) s) (nodup.filter _) same
  refine ⟨fun l hl x hx => ?_, fun f apart => ?_, ?_⟩
  · by_cases guard : guardOf h x = true
    · have active : l ∈ lanesWhere s is (guardOf h) := mem_lanesWhere.mpr ⟨hl, x, hx, guard⟩
      have notIdle : ∀ l' ∈ idleLanes s is h, is.fref l ≠ is.fref l' := fun l' hl' => fref_ne (by
        rintro rfl
        simp [idleLanes, active] at hl')
      rw [if_pos guard]
      exact landed l active x ((idleOthers _ notIdle).trans hx)
    · have inactive : l ∉ lanesWhere s is (guardOf h) := fun m => by
        obtain ⟨-, y, hy, g⟩ := mem_lanesWhere.mp m
        exact guard (Option.some.inj (hx.symm.trans hy) ▸ g)
      have idle : l ∈ idleLanes s is h := List.mem_filter.mpr ⟨hl, by simpa using inactive⟩
      rw [if_neg guard]
      exact (actOthers _ fun l' hl' => fref_ne (by rintro rfl; exact inactive hl')).trans (cleared l idle x hx)
  · exact (actOthers f fun l hl => apart l (List.mem_of_mem_filter hl)).trans (idleOthers f fun l hl => apart l (List.mem_of_mem_filter hl))
  · exact onlyFibres_of_sameBut same' (nextId'.trans nextId)

/-- A conversion's arm converts its lanes, where each active lane's operands pass its checks. -/
theorem convertsLanes_of_convLanes {i : Instr} {h : Head} {chk : Option Nat → Option Nat} {ops : Option Nat → Named}
    {k : State → Issue → Nat → Fibre → Option Nat → List Eff} {eff : Option Nat → State → Issue → Nat → Fibre → Option (List Eff)}
    (isArm : ∀ s, exec i s = convLanes s h chk ops k)
    (same : ∀ s u is l x pf, SameBut s u → k u is l x pf = k s is l x pf)
    (passes : ∀ pf s is l x e, eff pf s is l x = some e → chk pf = none ∧ outOfRange (allotOf s (is.fref l)) (ops pf) = none ∧ k s is l x pf = e) :
    ConvertsLanes i h eff := by
  intro s is effs batch nodup lanes
  refine ⟨converted s is h effs, ?_, converted_spec h effs nodup⟩
  rw [isArm]
  unfold convLanes onPrefixed
  simp only [batch]
  by_cases noLane : lanesWhere s is (guardOf h) = []
  · simp only [noLane, List.isEmpty_nil, if_true, converted, idleLanes]
    rfl
  rw [if_neg (by simpa using noLane)]
  have noOperands : ∀ n, outOfRange n [] = none := fun _ => rfl
  simp only [noOperands, List.foldl_map]
  obtain ⟨idled, -, -, others⟩ := eachLane_modFib is (fun _ _ => clearPrefix) (fun _ _ _ _ => rfl) (idleLanes s is h) s (nodup.filter _) (.refl s)
  have untouched : ∀ l ∈ lanesWhere s is (guardOf h), getFib (eachLane (idleLanes s is h) (fun u l => modFib u (is.fref l) clearPrefix) s) (is.fref l) =
      getFib s (is.fref l) := fun l hl => others _ fun l' hl' => fref_ne (by
    rintro rfl
    simp [idleLanes, hl] at hl')
  refine congrArg _ (foldl_eq_eachLane _ _ (nodup.filter _) idled untouched fun l hl u su here => ?_)
  obtain ⟨hlane, x, hx, guard⟩ := mem_lanesWhere.mp hl
  obtain ⟨checked, inRange, result⟩ := passes _ s is l x _ (lanes l hlane x hx guard)
  simp only [hx, Option.bind_some, checked, allotOf_sameBut su, inRange]
  rw [modFib_of_some (here.trans hx), modFib_of_some (here.trans hx), same s u is l x _ su, result]

theorem convertsLanes_cvt (h : Head) (o : BodyA) : ConvertsLanes (.cvt h o) h (cvtEffs h o) := by
  apply convertsLanes_of_convLanes
  case isArm => intro s; change execCvt h o s = _; simp only [execCvt]; rfl
  case same =>
    intro s u is l x pf same
    simp only [srcOf_sameBut same, getCore_sameBut same]
  case passes =>
    intro pf s is l x e passed
    obtain ⟨allowed, result⟩ := Option.ite_none_left_eq_some.mp passed
    obtain ⟨accepted, inRange⟩ := not_or.mp allowed
    refine ⟨?_, not_not.mp inRange, Option.some.inj result⟩
    cases pf with
    | none => rfl
    | some f =>
      simp only [Option.isSome_some, Option.getD_some, Bool.true_and, Bool.or_eq_true, Bool.and_eq_true, decide_eq_true_eq, not_or, not_and] at accepted
      obtain ⟨-, pair⟩ := accepted
      simp only [Option.isNone_some, Option.getD_some, Bool.false_eq_true, if_false]
      rw [if_neg fun c => (pair c.1).1 c.2.1 c.2.2, if_neg fun c => (pair c.1).2 c.2.1 c.2.2]

theorem convertsLanes_cvtn (h : Head) (o : BodyA) : ConvertsLanes (.cvtn h o) h (cvtnEffs h o) := by
  apply convertsLanes_of_convLanes
  case isArm => intro s; change execCvtn h o s = _; simp only [execCvtn]; rfl
  case same =>
    intro s u is l x pf same
    simp only [srcOf_sameBut same, getCore_sameBut same]
  case passes =>
    intro pf s is l x e passed
    obtain ⟨⟨format, inRange⟩, result⟩ := Option.ite_none_right_eq_some.mp passed
    exact ⟨if_pos format, inRange, Option.some.inj result⟩

theorem convertsLanes_cvtw (h : Head) (o : BodyA) : ConvertsLanes (.cvtw h o) h (cvtwEffs h o) := by
  apply convertsLanes_of_convLanes
  case isArm => intro s; change execCvtw h o s = _; simp only [execCvtw]; rfl
  case same =>
    intro s u is l x pf same
    simp only [srcOf_sameBut same, getCore_sameBut same]
  case passes =>
    intro pf s is l x e passed
    obtain ⟨⟨format, inRange⟩, result⟩ := Option.ite_none_right_eq_some.mp passed
    exact ⟨if_pos format, inRange, Option.some.inj result⟩

/-- Settles O14: the three conversions. -/
theorem conversions : Obligations.Conversions :=
  ⟨convertsLanes_cvt, convertsLanes_cvtn, convertsLanes_cvtw⟩

/-! ## FENCE and FENCEP -/

/-- What one lane of a fence records. -/
def fenceLane (k : FenceKind) (scope : Nat) (is : Issue) (s : State) (l : Nat) : State :=
  modFib (freshId s).2 (is.fref l) fun x => dropFences (sentWrites (freshId s).2 (is.fref l))
    { x with accs := x.accs ++ [{ plainAcc (freshId s).1 .ls with fence := some k, scope := scope }] }

theorem fenceLanes_eq (s : State) (is : Issue) (act : List Nat) (k : FenceKind) (scope : Nat) :
    fenceLanes s is act k scope = eachLane act (fenceLane k scope is) s := rfl

theorem fenceAct_makes {s s' : State} {is : Issue} {l : Nat} {x : Fibre} (hx : getFib s' (is.fref l) = some x) (k : FenceKind) (scope : Nat) :
    (fenceAct k scope s is s' l x).Makes is l s' (fenceLane k scope is s' l) := by
  simp only [fenceAct, fenceLane, freshId, makes_does]
  exact modFib_of_some (s := afterId s') hx _

theorem actsByLane_fence (h o) :
    ActsByLane (.fence h o) h (namedOf (.fence h o)) id (fenceAct (match h.mod.toNat with | 0 => .ar | 1 => .acq | _ => .rel) o.scope.toNat) := by
  apply actsByLane_of_signalled
  case isArm => intro s; change execFence h o s = _; simp only [execFence, onActive, fenceLanes_eq]; rfl
  case signal => intros; rfl
  case acts => exact fun _ _ _ _ _ hx => fenceAct_makes hx _ _

theorem actsByLane_fencep_both (h : Head) (o : BodyK) (sameMask : o.mask1 = o.mask2) (fibrePath : fibreMask o.mask1 = true) :
    ActsByLane (.fencep h o) h (namedOf (.fencep h o)) id (fenceAct .ar o.scope.toNat) := by
  apply actsByLane_of_signalled
  case isArm => intro s; change execFencep h o s = _; simp only [execFencep, onActive, if_pos (And.intro sameMask fibrePath), fenceLanes_eq]; rfl
  case signal => intros; rfl
  case acts => exact fun _ _ _ _ _ hx => fenceAct_makes hx _ _

/-- The active lanes wait first for the engine accesses of the paths named before. -/
def awaitEngines (h : Head) (o : BodyK) (is : Issue) (s : State) : State :=
  eachLane (lanesWhere s is (guardOf h)) (fun s l => modFib s (is.fref l) fun x => { x with waits := x.waits ++ (engineAccs x o.mask1).map .engine }) s

theorem exec_fencep_paths {h : Head} {o : BodyK} (paths : ¬ (o.mask1 = o.mask2 ∧ fibreMask o.mask1 = true)) {s : State} {is : Issue} {act : List Nat}
    (H : Issues s h (namedOf (.fencep h o)) is act) :
    exec (.fencep h o) s = .next (signalEntry (eachLane act (fenceLane (.paths o.mask1 o.mask2) o.scope.toNat is) (awaitEngines h o is s)) is act) := by
  change execFencep h o s = _
  simp only [execFencep, onActive_issues H, if_neg paths, signalled_issues H, fenceLanes_eq, awaitEngines, H.active]

/-- Settles O15: the lanes of the two instructions. -/
theorem fences : Obligations.Fences := by
  refine ⟨actsByLane_fence, actsByLane_fencep_both, fun h o paths s is act H => ?_⟩
  refine ⟨fenceLane (.paths o.mask1 o.mask2) o.scope.toNat is, ?_, fun _ _ _ hx => fenceAct_makes hx _ _⟩
  rw [exec_fencep_paths paths H]
  dsimp only
  rw [H.batch]
  rfl

end Sys2Proof.Proofs

/-!
HUNBIND of a free entry: the claim says that nothing changes, whatever the index and the privilege.
-/
namespace Sys2Proof.Proofs

open Machine Claims

/-- One fibre at privilege 0, all of whose registers are zero. -/
def userFibre : State := modFib (State.reset.withFetchWord 96 0) ⟨0, 0, 0⟩ fun x => { x with fsr := 0 }

/-- HUNBIND of the tag in g4. -/
def unbindG4 : BodyK := ⟨0, 4, 0, 0, 0, 0, 0, 0, 0, 0⟩

theorem unbindG4_issues : Issues userFibre ⟨false, 0, 0⟩ (namedOf (.hunbind ⟨false, 0, 0⟩ unbindG4)) mappedIssue [0] :=
  ⟨by decide, by decide, by decide, by decide, by decide, by decide⟩

/-- The protected index traps, and the trap finds no vector. -/
theorem exec_hunbind_halts : placedTeamHalted (exec (.hunbind ⟨false, 0, 0⟩ unbindG4) userFibre) = some true := by decide

/-- The signal entry alone halts nothing. -/
theorem signalEntry_runs : placedTeamHalted (.next (signalEntry userFibre mappedIssue [0])) = some false := by decide

/-- Entry 0 is not in use. -/
theorem entry_free (x : Fibre) (hx : getFib userFibre (low mappedIssue [0]) = some x) :
    bindV (tgetD (pendingBindings userFibre mappedIssue) ((regOf x unbindG4.a.toNat).toNat % 128) 0) = false := by
  cases hx
  decide

/-- Refutes O16: a HUNBIND of index 0 or 1 at privilege 0 is protection 0x07 before the entry's valid bit is looked at, and the claim says
that the stale tag changes nothing. -/
theorem not_handlerControl : ¬ Obligations.HandlerControl := by
  unfold Obligations.HandlerControl
  rintro ⟨-, -, -, -, stale, -⟩
  obtain ⟨x, hx⟩ : ∃ x, getFib userFibre (low mappedIssue [0]) = some x := ⟨_, rfl⟩
  have halts := exec_hunbind_halts
  rw [stale _ _ _ _ _ x unbindG4_issues hx (.inr (entry_free x hx))] at halts
  exact absurd (halts.symm.trans signalEntry_runs) (by decide)

end Sys2Proof.Proofs

/-!
The matrix block's instructions (R228-R229, R447-R459).
-/
namespace Sys2Proof.Proofs

open Machine Claims Laws

/-! ## From an arm to what it does where no lane is restartable -/

/-- Where the predicate holds of no active lane, none traps and all go on. -/
theorem noLane_traps {s : State} {is : Issue} {act : List Nat} (rst : Nat → Bool) (none_rst : ∀ l ∈ act, rst l = false) (someLane : act ≠ [])
    (e : TrapInfo) (k : Issue → List Nat → State → State) :
    (if (act.filter fun l => ! rst l).isEmpty then trapLanes s is (act.filter rst) e
      else k is (act.filter fun l => ! rst l) (trapLanes s is (act.filter rst) e)) = k is act s := by
  have noTrap : act.filter rst = [] := List.filter_eq_nil_iff.mpr fun l hl => by simp [none_rst l hl]
  have allAct : act.filter (fun l => ! rst l) = act := List.filter_eq_self.mpr fun l hl => by simp [none_rst l hl]
  rw [noTrap, allAct, if_neg (by simpa using someLane)]
  rfl

theorem onMatrix_issues {s : State} {h : Head} {ops : Named} {is : Issue} {act : List Nat} (H : Issues s h ops is act) (free : NoneRestartable s is act)
    (k : Issue → List Nat → State → State) : onMatrix s h ops k = .next (k is act s) := by
  unfold onMatrix
  rw [onNamed_issues H]
  refine congrArg _ (noLane_traps _ (fun l hl => ?_) H.someLane _ k)
  cases hx : getFib s (is.fref l) with
  | none => rfl
  | some x => exact free l hl x hx

/-- A matrix arm that acts for the batch as a whole. -/
theorem actsAsOne_of_onMatrix {i : Instr} {h : Head} {ops : Named} {cond : State → Issue → List Nat → Prop} {t : State → Issue → List Nat → State}
    {k : Issue → List Nat → State → State} (isArm : ∀ s, exec i s = onMatrix s h ops k) (quiet : ∀ is act t, entered i is act t = t)
    (acts : ∀ s is act, cond s is act → NoneRestartable s is act ∧ k is act s = t s is act) : ActsAsOne i h ops cond t := by
  intro s is act H c
  obtain ⟨free, done⟩ := acts s is act c
  rw [isArm, onMatrix_issues H free, quiet, done]

/-- The same, with the operands of the lowest active lane. -/
theorem actsForLowest_of_onMatrix {i : Instr} {h : Head} {ops : Named} {cond : State → Issue → List Nat → Fibre → Prop}
    {t : State → Issue → List Nat → Fibre → State}
    {k : Issue → List Nat → State → State} (isArm : ∀ s, exec i s = onMatrix s h ops k) (quiet : ∀ is act t, entered i is act t = t)
    (acts : ∀ s is act x, getFib s (low is act) = some x → cond s is act x → NoneRestartable s is act ∧ k is act s = t s is act x) :
    ActsForLowest i h ops cond t := by
  intro s is act x H hx c
  obtain ⟨free, done⟩ := acts s is act x hx c
  rw [isArm, onMatrix_issues H free, quiet, done]

/-- Where the team holds the tiles under its lease, the command goes on. -/
theorem onLease_leased {s : State} {is : Issue} {act : List Nat} {n first last : Nat} {x : Fibre} (hx : getFib s (low is act) = some x)
    (leased : Leased s is act n first last) (k : Nat → FRef → Fibre → State → State) : onLease s is act first last k = k n (low is act) x s := by
  obtain ⟨⟨tm, team⟩, ⟨slot, l⟩, lease, fits⟩ := leased
  simp only [low] at hx team
  simp only [onLease, hx, team, lease]
  rw [if_pos fits]
  rfl

/-! ## Leases -/

theorem actsAsOne_mlease_held (h : Head) (o : BodyX) (n slot : Nat) (l : Lease) : ActsAsOne (.mlease h o) h (namedOf (.mlease h o))
    (fun s is act => NoneRestartable s is act ∧ o.tile.toNat + o.nt.toNat ≤ 63 ∧ (∃ tm, teamOf s (low is act) = some (n, tm)) ∧ leaseOf s is.core n = some (slot, l))
    (fun s is act => eachLane act (fun s l => modFib { s with nextId := s.nextId + 1 } (is.fref l) fun x =>
      addKnown x (s.nextId + 1) (regsEff o.d.toNat [BitVec.ofNat 32 (0x100 + slot)])) s) := by
  apply actsAsOne_of_onMatrix
  case isArm => intro s; change execMlease h o s = _; simp only [execMlease]; rfl
  case quiet => intros; rfl
  case acts =>
    intro s is act ⟨free, fits, ⟨tm, team⟩, lease⟩
    refine ⟨free, ?_⟩
    simp only [low] at team
    rw [if_neg (Nat.not_lt.mpr fits)]
    simp only [team, lease, freshId]

theorem actsAsOne_mlease_beyond (h o) : ActsAsOne (.mlease h o) h (namedOf (.mlease h o)) (fun s is act => NoneRestartable s is act ∧ 63 < o.tile.toNat + o.nt.toNat)
    (fun s is act => trapLanes s is act (trapOf 4 0x0D)) := by
  apply actsAsOne_of_onMatrix
  case isArm => intro s; change execMlease h o s = _; simp only [execMlease]; rfl
  case quiet => intros; rfl
  case acts => exact fun s is act ⟨free, beyond⟩ => ⟨free, if_pos beyond⟩

theorem actsForLowest_mrel (h : Head) (o : BodyX) (n slot : Nat) (l : Lease) : ActsForLowest (.mrel h o) h (namedOf (.mrel h o))
    (fun s is act _ => NoneRestartable s is act ∧ (∃ tm, teamOf s (low is act) = some (n, tm)) ∧ leaseOf s is.core n = some (slot, l) ∧ 0 < l.count)
    (fun s is act _ => matOnce s is act 6 n (low is act) id) := by
  apply actsForLowest_of_onMatrix
  case isArm => intro s; change execMrel h o s = _; simp only [execMrel]; rfl
  case quiet => intros; rfl
  case acts =>
    intro s is act x hx ⟨free, ⟨tm, team⟩, lease, some_tile⟩
    refine ⟨free, ?_⟩
    have bound : (teamOf s (is.fref (act.headD 0))).bind (fun t => leaseOf s is.core t.1) = some (slot, l) := by
      simp only [low] at team
      simp only [team, Option.bind_some, lease]
    simp only [bound]
    exact onLease_leased hx ⟨⟨tm, team⟩, ⟨slot, l⟩, lease, le_rfl, Nat.lt_add_of_pos_right some_tile⟩ _

/-! ## Commands -/

theorem ringOf_takeToken (s : State) (is : Issue) (q : Nat) : ringOf (takeToken s is).1 is.core q = ringOf s is.core q := by
  unfold takeToken
  split
  · simp [ringOf, modPart]
  · rfl

/-- A sparse or dense multiplication whose rings have the tile sizes that the formats ask for takes a token and sends its command. -/
theorem mmaInstr_sends {s : State} {i : Instr} {h : Head} {o : BodyX} {opc n : Nat} {is : Issue} {act : List Nat} {x : Fibre}
    (H : Issues s h (namedOf i) is act) (hx : getFib s (low is act) = some x) (free : NoneRestartable s is act)
    (leased : Leased s is act n o.tile.toNat o.tile.toNat) (ringA : (ringOf s is.core o.qa.toNat).tsz = tileUnits o.fa.toNat (sparseOf opc o.sub.toNat).1)
    (ringB : (ringOf s is.core o.qb.toNat).tsz = tileUnits o.fb.toNat (sparseOf opc o.sub.toNat).2) :
    mmaInstr s i h o opc = .next (matOnce (takeToken s is).1 is act opc n (low is act) fun c => { c with
      qa := o.qa.toNat, qb := o.qb.toNat, tile := o.tile.toNat, nt := o.nt.toNat, fa := o.fa.toNat, fb := o.fb.toNat
      cidx := o.cidx.toNat, sub := o.sub.toNat, tokens := (takeToken s is).2 }) := by
  unfold mmaInstr
  rw [onMatrix_issues H free, onLease_leased hx leased]
  simp only [ringOf_takeToken, ringA, ringB, ne_eq, not_true_eq_false, if_false]

theorem actsForLowest_mma (h : Head) (o : BodyX) (n : Nat) : ActsForLowest (.mma h o) h (namedOf (.mma h o))
    (fun s is act _ => NoneRestartable s is act ∧ Leased s is act n o.tile.toNat o.tile.toNat ∧
      (ringOf s is.core o.qa.toNat).tsz = tileUnits o.fa.toNat 0 ∧ (ringOf s is.core o.qb.toNat).tsz = tileUnits o.fb.toNat 0)
    (fun s is act _ => matOnce (takeToken s is).1 is act 0 n (low is act) fun c => { c with
      qa := o.qa.toNat, qb := o.qb.toNat, tile := o.tile.toNat, nt := o.nt.toNat, fa := o.fa.toNat, fb := o.fb.toNat
      cidx := o.cidx.toNat, sub := o.sub.toNat, tokens := (takeToken s is).2 }) :=
  fun _ _ _ _ H hx ⟨free, leased, ringA, ringB⟩ => mmaInstr_sends H hx free leased ringA ringB

theorem actsForLowest_mmas (h : Head) (o : BodyX) (n : Nat) : ActsForLowest (.mmas h o) h (namedOf (.mmas h o))
    (fun s is act _ => NoneRestartable s is act ∧ Leased s is act n o.tile.toNat o.tile.toNat ∧
      (ringOf s is.core o.qa.toNat).tsz = tileUnits o.fa.toNat (sparseOf 1 o.sub.toNat).1 ∧
      (ringOf s is.core o.qb.toNat).tsz = tileUnits o.fb.toNat (sparseOf 1 o.sub.toNat).2)
    (fun s is act _ => matOnce (takeToken s is).1 is act 1 n (low is act) fun c => { c with
      qa := o.qa.toNat, qb := o.qb.toNat, tile := o.tile.toNat, nt := o.nt.toNat, fa := o.fa.toNat, fb := o.fb.toNat
      cidx := o.cidx.toNat, sub := o.sub.toNat, tokens := (takeToken s is).2 }) :=
  fun _ _ _ _ H hx ⟨free, leased, ringA, ringB⟩ => mmaInstr_sends H hx free leased ringA ringB

theorem actsForLowest_mzero (h : Head) (o : BodyX) (n : Nat) : ActsForLowest (.mzero h o) h (namedOf (.mzero h o))
    (fun s is act _ => NoneRestartable s is act ∧ Leased s is act n o.tile.toNat (o.tile.toNat + o.nt.toNat))
    (fun s is act _ => matOnce s is act 2 n (low is act) fun c => { c with tile := o.tile.toNat, nt := o.nt.toNat, cidx := o.cidx.toNat }) := by
  apply actsForLowest_of_onMatrix
  case isArm => intro s; change execMzero h o s = _; simp only [execMzero]; rfl
  case quiet => intros; rfl
  case acts => exact fun s is act x hx ⟨free, leased⟩ => ⟨free, onLease_leased hx leased _⟩

theorem actsForLowest_mepi (h : Head) (o : BodyX) (n : Nat) : ActsForLowest (.mepi h o) h (namedOf (.mepi h o))
    (fun s is act _ => NoneRestartable s is act ∧ Leased s is act n o.tile.toNat o.tile.toNat)
    (fun s is act x => matOnce s is act 3 n (low is act) fun c => { c with
      tile := o.tile.toNat, fa := o.fa.toNat, cidx := o.cidx.toNat, sub := o.sub.toNat, addr := pairSrc x 0 o.a, stride := regOf x o.b.toNat
      scale := if o.d = 0 then 0x3F800000 else regOf x o.d.toNat }) := by
  apply actsForLowest_of_onMatrix
  case isArm => intro s; change execMepi h o s = _; simp only [execMepi]; rfl
  case quiet => intros; rfl
  case acts => exact fun s is act x hx ⟨free, leased⟩ => ⟨free, onLease_leased hx leased _⟩

theorem actsForLowest_mldacc (h : Head) (o : BodyX) (n : Nat) : ActsForLowest (.mldacc h o) h (namedOf (.mldacc h o))
    (fun s is act _ => NoneRestartable s is act ∧ Leased s is act n o.tile.toNat o.tile.toNat)
    (fun s is act x => matOnce s is act 4 n (low is act) fun c => { c with
      tile := o.tile.toNat, cidx := o.cidx.toNat, addr := pairSrc x 0 o.a, stride := regOf x o.b.toNat }) := by
  apply actsForLowest_of_onMatrix
  case isArm => intro s; change execMldacc h o s = _; simp only [execMldacc]; rfl
  case quiet => intros; rfl
  case acts => exact fun s is act x hx ⟨free, leased⟩ => ⟨free, onLease_leased hx leased _⟩

/-! ## Rings and MWAIT -/

theorem actsForLowest_ringset (h o) : ActsForLowest (.ringset h o) h (namedOf (.ringset h o))
    (fun s is act x => NoneRestartable s is act ∧
      let base := (regOf x o.a.toNat).toNat
      let cap := (regOf x o.b.toNat).toNat % 65536
      let tsz := (regOf x o.b.toNat).toNat / 65536
      base % 64 = 0 ∧ 1 ≤ cap ∧ cap ≤ 4096 ∧ 1 ≤ tsz ∧ tsz ≤ 128 ∧ base + 64 * cap * tsz ≤ cisternSize is.core)
    (fun s is act x => waitEntry (bufAdd (addAcc { s with nextId := s.nextId + 2 } (low is act) (plainAcc (s.nextId + 2) .mx)) is.core is.part
      { entry := s.nextId + 1, f := low is act, pc := is.pc, acc := s.nextId + 2
        cmd := .ringSet o.qa.toNat (regOf x o.a.toNat).toNat ((regOf x o.b.toNat).toNat % 65536) ((regOf x o.b.toNat).toNat / 65536) }) (low is act) (s.nextId + 1)) := by
  apply actsForLowest_of_onMatrix
  case isArm => intro s; change execRingset h o s = _; simp only [execRingset]; rfl
  case quiet => intros; rfl
  case acts =>
    intro s is act x hx ⟨free, aligned, cap1, cap2, tsz1, tsz2, fits⟩
    refine ⟨free, ?_⟩
    simp only [low] at hx
    simp only [hx]
    rw [if_neg (by omega)]
    rfl

theorem actsForLowest_ringset_refused (h o) : ActsForLowest (.ringset h o) h (namedOf (.ringset h o))
    (fun s is act x => NoneRestartable s is act ∧ ((regOf x o.a.toNat).toNat % 64 ≠ 0 ∨
      cisternSize is.core < (regOf x o.a.toNat).toNat + 64 * ((regOf x o.b.toNat).toNat % 65536) * ((regOf x o.b.toNat).toNat / 65536)))
    (fun s is act _ => trapLanes s is act (trapOf 4 0x03)) := by
  apply actsForLowest_of_onMatrix
  case isArm => intro s; change execRingset h o s = _; simp only [execRingset]; rfl
  case quiet => intros; rfl
  case acts =>
    intro s is act x hx ⟨free, refused⟩
    refine ⟨free, ?_⟩
    simp only [low] at hx
    simp only [hx]
    rw [if_pos (by tauto)]

theorem actsForLowest_ringadv (h o) : ActsForLowest (.ringadv h o) h (namedOf (.ringadv h o))
    (fun s is act x => NoneRestartable s is act ∧ (regOf x o.a.toNat).toNat ≠ 0)
    (fun s is act x => waitEntry (bufAdd (addAcc { s with nextId := s.nextId + 2 } (low is act) (plainAcc (s.nextId + 2) .mx)) is.core is.part
      { entry := s.nextId + 1, f := low is act, pc := is.pc, acc := s.nextId + 2, cmd := .ringAdv o.qa.toNat (regOf x o.a.toNat).toNat })
      (low is act) (s.nextId + 1)) := by
  apply actsForLowest_of_onMatrix
  case isArm => intro s; change execRingadv h o s = _; simp only [execRingadv]; rfl
  case quiet => intros; rfl
  case acts =>
    intro s is act x hx ⟨free, some_slot⟩
    refine ⟨free, ?_⟩
    simp only [low] at hx
    simp only [hx, if_neg some_slot]
    rfl

theorem actsAsOne_ringq (h o) : ActsAsOne (.ringq h o) h (namedOf (.ringq h o)) NoneRestartable
    (fun s is act => eachLane act (fun s' l => ringqAct o s is s' l) (afterId s)) := by
  apply actsAsOne_of_onMatrix
  case isArm => intro s; change execRingq h o s = _; simp only [execRingq]; rfl
  case quiet => intros; rfl
  case acts => exact fun s is act free => ⟨free, rfl⟩

theorem actsAsOne_mwait (h o) : ActsAsOne (.mwait h o) h (namedOf (.mwait h o)) NoneRestartable
    (fun s is act => eachLane act (fun s l => modFib { s with nextId := s.nextId + 1 } (is.fref l) fun x => { addLL x (s.nextId + 1) with
      waits := x.waits ++ [if o.cidx = 0 then .drained (s.nextId + 1) o.d.toNat (s.nextId + 1) false
        else .completion o.cidx.toNat ((regOf x o.a.toNat).setWidth 16) (s.nextId + 1) o.d.toNat] }) s) := by
  intro s is act H free
  change execMwait h o s = _
  simp only [execMwait, onMatrix_issues H free, signalled_issues H]
  rfl

/-! ## What a command's packet carries -/

/-- A partition reads the same but for the fibres and the identities used. -/
theorem getPart_sameBut {s t : State} (same : SameBut s t) (core part : Nat) : getPart t core part = getPart s core part := by
  simp only [getPart, getCore_sameBut same]

theorem buffer_bufAdd (s : State) (core part : Nat) (e : BufEntry) : (getPart (bufAdd s core part e) core part).buffer = (getPart s core part).buffer ++ [e] := by
  simp [getPart, bufAdd, modPart, tgetD]

theorem getFib_bufAdd (s : State) (core part : Nat) (e : BufEntry) (f : FRef) : getFib (bufAdd s core part e) f = getFib s f := rfl

theorem waitEntry_sameBut (s : State) (f : FRef) (eid : Nat) : SameBut s (waitEntry s f eid) := .modFib _ _ _

theorem foldl_waitEntry_sameBut (is : Issue) (eid : Nat) : ∀ (lanes : List Nat) (s : State), SameBut s (lanes.foldl (fun s l => waitEntry s (is.fref l) eid) s)
  | [], s => .refl s
  | l :: lanes, s => (waitEntry_sameBut s (is.fref l) eid).trans (foldl_waitEntry_sameBut is eid lanes _)

/-- A matrix command joins the issue buffer as one packet, with the table it keeps and every other field as given. -/
theorem sendMat_enters (s : State) (is : Issue) (lanes : List Nat) (c : MatCmd) :
    ∃ e p i4t old, (getPart (sendMat s is lanes c) is.core is.part).buffer = (getPart s is.core is.part).buffer ++ [e] ∧
      e.cmd = .packet p false ∧ p.body = .matrix { c with i4t := i4t, old := old } := by
  obtain ⟨i4t, old, kept⟩ : ∃ i4t old, (if keepsTable s is then { c with i4t := (getCore s is.core).i4t, old := true } else c) = { c with i4t := i4t, old := old } := by
    split
    · exact ⟨_, _, rfl⟩
    · exact ⟨c.i4t, c.old, rfl⟩
  refine ⟨{ entry := s.nextId + 1, f := c.f, pc := is.pc, acc := c.acc, cmd := .packet (newPacket (freshId s).2 .mreq 0x0A is.core is.core
    (pkgNum (freshId s).2) 1 0 (.matrix { c with i4t := i4t, old := old })).1 false }, _, i4t, old, ?_, rfl, rfl⟩
  unfold sendMat
  rw [kept]
  dsimp only
  rw [getPart_sameBut (foldl_waitEntry_sameBut is _ lanes _), buffer_bufAdd]
  rfl

theorem buffer_takeToken (s : State) (is : Issue) : (getPart (takeToken s is).1 is.core is.part).buffer = (getPart s is.core is.part).buffer := by
  unfold takeToken
  split
  · simp [getPart, modPart, tgetD]
  · rfl

/-! ## INFER -/

/-- What a lane of an INFER carries of its fibre's operands. -/
def CarriesOperands (o : BodyX) (s : State) (is : Issue) (q : InferLane) : Prop :=
  ∀ x, getFib s (is.fref q.lane) = some x → q.x = (regOf x o.b.toNat).toNat ∧ q.w = pairSrc x 0 o.a ∧ q.step = 0

/-- One lane of an INFER whose operands pass their checks: its result is awaited, its access is recorded, and it joins the command. -/
def inferJoins (o : BodyX) (is : Issue) (a : State × List InferLane) (l : Nat) (x : Fibre) : State × List InferLane :=
  (addAcc (modFib (afterId a.1) (is.fref l) fun x => addLL x (a.1.nextId + 1)) (is.fref l) (plainAcc (a.1.nextId + 1) .mx),
    a.2 ++ [{ lane := l, ll := a.1.nextId + 1, acc := a.1.nextId + 1, x := (regOf x o.b.toNat).toNat, w := pairSrc x 0 o.a, step := 0, fault := none, done := false }])

theorem inferJoins_sameBut (o : BodyX) (is : Issue) (a : State × List InferLane) (l : Nat) (x : Fibre) : SameBut a.1 (inferJoins o is a l x).1 :=
  ((SameBut.fresh a.1).trans (.modFib _ _ _)).trans (.modFib _ _ _)

theorem getFib_inferJoins_ne (o : BodyX) (is : Issue) (a : State × List InferLane) {l : Nat} (x : Fibre) {f : FRef} (other : f ≠ is.fref l) :
    getFib (inferJoins o is a l x).1 f = getFib a.1 f := by
  simp only [inferJoins, addAcc, getFib_modFib_ne _ _ other]
  rfl

/-- What one lane of an INFER does. -/
def inferStep (o : BodyX) (is : Issue) (a : State × List InferLane) (l : Nat) : State × List InferLane :=
  match getFib a.1 (is.fref l) with
  | none => a
  | some x => match inferBad is.core o x with
    | some t => (takeTrap a.1 (is.fref l) is.pc t, a.2)
    | none => inferJoins o is a l x

theorem inferStep_joins {o : BodyX} {is : Issue} {a : State × List InferLane} {l : Nat} {x : Fibre} (hx : getFib a.1 (is.fref l) = some x)
    (good : inferBad is.core o x = none) : inferStep o is a l = inferJoins o is a l x := by
  simp only [inferStep, hx, good]

/-- The command of the lanes that have joined. -/
def inferSends (o : BodyX) (is : Issue) (n : Nat) (r : State × List InferLane) : State :=
  match r.2 with
  | [] => r.1
  | l :: _ => sendMat (takeToken r.1 is).1 is (r.2.map InferLane.lane) { newMat 5 (is.fref l.lane) n is l.acc with
      tile := o.tile.toNat, nt := o.nt.toNat, fa := o.fa.toNat, fb := o.fb.toNat, sub := o.sub.toNat, dst := o.d.toNat, tokens := (takeToken r.1 is).2, lanes := r.2 }

/-- The lanes of an INFER, one after the other. -/
theorem foldl_inferStep {s : State} {is : Issue} {o : BodyX} :
    ∀ (act : List Nat) (a : State × List InferLane), act.Nodup → SameBut s a.1 → (∀ l ∈ act, getFib a.1 (is.fref l) = getFib s (is.fref l)) →
      (∀ l ∈ act, ∃ x, getFib s (is.fref l) = some x ∧ inferBad is.core o x = none) →
      SameBut s (act.foldl (inferStep o is) a).1 ∧ ∃ qs, (act.foldl (inferStep o is) a).2 = a.2 ++ qs ∧ qs.map InferLane.lane = act ∧ ∀ q ∈ qs, CarriesOperands o s is q := by
  intro act
  induction act with
  | nil => exact fun a _ same _ _ => ⟨same, [], by simp, rfl, by simp⟩
  | cons l act ih =>
    intro a nodup same here sound
    obtain ⟨notAgain, nodup⟩ := List.nodup_cons.mp nodup
    obtain ⟨x, hx, good⟩ := sound l List.mem_cons_self
    rw [List.foldl_cons, inferStep_joins ((here l List.mem_cons_self).trans hx) good]
    obtain ⟨same', qs, lanes, map, carries⟩ := ih (inferJoins o is a l x) nodup (same.trans (inferJoins_sameBut o is a l x))
      (fun l' hl' => (getFib_inferJoins_ne o is a x (fref_ne (by rintro rfl; exact notAgain hl'))).trans (here l' (List.mem_cons_of_mem _ hl')))
      fun l' hl' => sound l' (List.mem_cons_of_mem _ hl')
    refine ⟨same', _ :: qs, by rw [lanes, inferJoins, List.append_assoc]; rfl, by rw [List.map_cons, map], ?_⟩
    rintro q (_ | ⟨_, later⟩)
    · intro y hy
      obtain rfl : x = y := Option.some.inj (hx.symm.trans hy)
      exact ⟨rfl, rfl, rfl⟩
    · exact carries q later

theorem exec_infer_enters (h : Head) (o : BodyX) (n : Nat) (s : State) (is : Issue) (act : List Nat)
    (H : Issues s h [(0, o.d, o.sub.toNat + 1), (1, o.a, 2), (2, o.b, 1)] is act) (free : NoneRestartable s is act)
    (leased : Leased s is act n o.tile.toNat o.tile.toNat) (good : ∀ l ∈ act, ∀ x, getFib s (is.fref l) = some x → inferBad is.core o x = none) :
    ∃ t e p c, exec (.infer h o) s = .next t ∧ (getPart t is.core is.part).buffer = (getPart s is.core is.part).buffer ++ [e] ∧
      e.cmd = .packet p false ∧ p.body = .matrix c ∧ c.op = 5 ∧ c.team = n ∧ c.tile = o.tile.toNat ∧ c.nt = o.nt.toNat ∧ c.fa = o.fa.toNat ∧
      c.fb = o.fb.toNat ∧ c.sub = o.sub.toNat ∧ c.dst = o.d.toNat ∧ c.lanes.map InferLane.lane = act ∧
      ∀ q ∈ c.lanes, ∀ x, getFib s (is.fref q.lane) = some x → q.x = (regOf x o.b.toNat).toNat ∧ q.w = pairSrc x 0 o.a ∧ q.step = 0 := by
  have there : ∀ l ∈ act, ∃ x, getFib s (is.fref l) = some x ∧ inferBad is.core o x = none := fun l hl => by
    obtain ⟨-, x, hx, -⟩ := mem_lanesWhere.mp (H.active ▸ hl)
    exact ⟨x, hx, good l hl x hx⟩
  obtain ⟨x, hx, -⟩ := there (act.headD 0) (by cases act with | nil => exact absurd rfl H.someLane | cons => exact List.mem_cons_self)
  have sends : exec (.infer h o) s = .next (inferSends o is n (act.foldl (inferStep o is) (s, []))) := by
    change execInfer h o s = _
    simp only [execInfer, onMatrix_issues H free, onLease_leased (x := x) hx leased]
    rfl
  obtain ⟨same, qs, lanes, map, carries⟩ := foldl_inferStep act (s, []) (Issues.nodup H) (.refl s) (fun _ _ => rfl) there
  rw [sends, Prod.ext (x := act.foldl (inferStep o is) (s, [])) (y := (_, qs)) rfl lanes]
  cases qs with
  | nil => exact absurd map.symm H.someLane
  | cons q qs =>
    obtain ⟨e, p, i4t, old, joined, cmd, body⟩ := sendMat_enters (takeToken (act.foldl (inferStep o is) (s, [])).1 is).1 is ((q :: qs).map InferLane.lane) _
    refine ⟨_, e, p, _, rfl, joined.trans ?_, cmd, body, rfl, rfl, rfl, rfl, rfl, rfl, rfl, rfl, map, carries⟩
    rw [buffer_takeToken, getPart_sameBut same]

/-! ## MLEASE where no lease is held -/

/-- One lane of an MLEASE that waits for its grant. -/
def leaseStep (o : BodyX) (is : Issue) (a : State × List (FRef × Nat × Nat)) (l : Nat) : State × List (FRef × Nat × Nat) :=
  (modFib (afterId a.1) (is.fref l) fun x => addLL x (a.1.nextId + 1), a.2 ++ [(is.fref l, a.1.nextId + 1, o.d.toNat)])

/-- The lanes of an MLEASE, one after the other: each awaits its result. -/
theorem foldl_leaseStep {s : State} {is : Issue} {o : BodyX} : ∀ (act : List Nat) (a : State × List (FRef × Nat × Nat)), act.Nodup → SameBut s a.1 →
    (∀ l ∈ act, getFib a.1 (is.fref l) = getFib s (is.fref l)) →
      SameBut s (act.foldl (leaseStep o is) a).1 ∧ (∀ f, (∀ l ∈ act, f ≠ is.fref l) → getFib (act.foldl (leaseStep o is) a).1 f = getFib a.1 f) ∧
      ∃ ws, (act.foldl (leaseStep o is) a).2 = a.2 ++ ws ∧ ws.map (fun w => (w.1, w.2.2)) = act.map (fun l => (is.fref l, o.d.toNat)) ∧
        ∀ w ∈ ws, ∀ x, getFib s w.1 = some x → getFib (act.foldl (leaseStep o is) a).1 w.1 = some (addLL x w.2.1) := by
  intro act
  induction act with
  | nil => exact fun a _ same _ => ⟨same, fun _ _ => rfl, [], by simp, rfl, by simp⟩
  | cons l act ih =>
    intro a nodup same here
    obtain ⟨notAgain, nodup⟩ := List.nodup_cons.mp nodup
    have apart : ∀ l' ∈ act, is.fref l' ≠ is.fref l := fun l' hl' => fref_ne (by rintro rfl; exact notAgain hl')
    have others : ∀ f, f ≠ is.fref l → getFib (leaseStep o is a l).1 f = getFib a.1 f := fun f other => getFib_modFib_ne _ _ other
    obtain ⟨same', untouched, ws, joined, map, awaits⟩ := ih (leaseStep o is a l) nodup (same.trans ((SameBut.fresh a.1).trans (.modFib _ _ _)))
      (fun l' hl' => (others _ (apart l' hl')).trans (here l' (List.mem_cons_of_mem _ hl')))
    refine ⟨same', fun f away => (untouched f fun l' hl' => away l' (List.mem_cons_of_mem _ hl')).trans (others f (away l List.mem_cons_self)), _ :: ws,
      by rw [List.foldl_cons, joined, leaseStep, List.append_assoc]; rfl, by rw [List.map_cons, List.map_cons, map], ?_⟩
    rintro w (_ | ⟨_, later⟩)
    · intro x hx
      rw [List.foldl_cons, untouched _ fun l' hl' => (apart l' hl').symm, leaseStep, getFib_modFib_self]
      exact congrArg (Option.map _) ((here l List.mem_cons_self).trans hx)
    · exact awaits w later

/-- The request for a lease that carries the waiting lanes. -/
def leaseRequest (o : BodyX) (is : Issue) (n : Nat) (r : State × List (FRef × Nat × Nat)) : Packet × State :=
  newPacket r.1 .mreq 0x0A is.core is.core (pkgNum r.1) 1 0 (.lease is.core n r.2 o.tile.toNat (o.nt.toNat + 1) none)

/-- The issue buffer's entry of that request. -/
def leaseEntry (o : BodyX) (is : Issue) (f : FRef) (n eid : Nat) (r : State × List (FRef × Nat × Nat)) : BufEntry :=
  { entry := eid, f := f, pc := is.pc, acc := 0, cmd := .packet (leaseRequest o is n r).1 false }

/-- The state with that entry, for which the lowest lane waits. -/
def leaseSends (o : BodyX) (is : Issue) (f : FRef) (n eid : Nat) (r : State × List (FRef × Nat × Nat)) : State :=
  waitEntry (bufAdd (leaseRequest o is n r).2 is.core is.part (leaseEntry o is f n eid r)) f eid

theorem leaseRequest_sameBut (o : BodyX) (is : Issue) (n : Nat) (r : State × List (FRef × Nat × Nat)) : SameBut r.1 (leaseRequest o is n r).2 := .fresh _

/-- The awaited results are those of the lanes when they waited. -/
theorem lls_leaseSends {o : BodyX} {is : Issue} {f g : FRef} {n eid : Nat} {r : State × List (FRef × Nat × Nat)} {x : Fibre} (hx : getFib r.1 g = some x) :
    ∃ y, getFib (leaseSends o is f n eid r) g = some y ∧ y.lls = x.lls := by
  have before : getFib (bufAdd (leaseRequest o is n r).2 is.core is.part (leaseEntry o is f n eid r)) g = some x := hx
  by_cases same : g = f
  · subst same
    rw [leaseSends, waitEntry, getFib_modFib_self, before]
    exact ⟨_, rfl, rfl⟩
  · rw [leaseSends, waitEntry, getFib_modFib_ne _ _ same, before]
    exact ⟨x, rfl, rfl⟩

theorem exec_mlease_asks (h : Head) (o : BodyX) (n : Nat) (s : State) (is : Issue) (act : List Nat) (H : Issues s h (namedOf (.mlease h o)) is act)
    (free : NoneRestartable s is act) (fits : o.tile.toNat + o.nt.toNat ≤ 63) (inTeam : ∃ tm, teamOf s (low is act) = some (n, tm))
    (unleased : leaseOf s is.core n = none) :
    ∃ t e p ws, exec (.mlease h o) s = .next t ∧ (getPart t is.core is.part).buffer = (getPart s is.core is.part).buffer ++ [e] ∧
      e.cmd = .packet p false ∧ p.body = .lease is.core n ws o.tile.toNat (o.nt.toNat + 1) none ∧
      ws.map (fun w => (w.1, w.2.2)) = act.map (fun l => (is.fref l, o.d.toNat)) ∧
      ∀ w ∈ ws, ∀ x, getFib s w.1 = some x → ∃ y, getFib t w.1 = some y ∧ y.lls = (addLL x w.2.1).lls := by
  obtain ⟨tm, team⟩ := inTeam
  have sends : exec (.mlease h o) s = .next (leaseSends o is (low is act) n (s.nextId + 1) (act.foldl (leaseStep o is) (afterId s, []))) := by
    simp only [low] at team
    change execMlease h o s = _
    simp only [execMlease, onMatrix_issues H free, if_neg (Nat.not_lt.mpr fits), team, unleased]
    rfl
  obtain ⟨same, -, ws, asked, map, awaits⟩ := foldl_leaseStep (o := o) act (afterId s, []) (Issues.nodup H) (.fresh s) (fun _ _ => rfl)
  obtain rfl : (act.foldl (leaseStep o is) (afterId s, [])).2 = ws := asked
  refine ⟨_, leaseEntry o is (low is act) n (s.nextId + 1) (act.foldl (leaseStep o is) (afterId s, [])), _, _, sends, ?_, rfl, rfl, map,
    fun w hw x hx => lls_leaseSends (awaits w hw x hx)⟩
  rw [leaseSends, getPart_sameBut (waitEntry_sameBut _ _ _), buffer_bufAdd, getPart_sameBut (leaseRequest_sameBut _ _ _ _), getPart_sameBut same]

/-- Settles O17: the instructions one after the other. -/
theorem matrixInstructions : Obligations.MatrixInstructions :=
  ⟨actsAsOne_mlease_held, exec_mlease_asks, actsAsOne_mlease_beyond, actsForLowest_mrel, actsForLowest_mma, actsForLowest_mmas, actsForLowest_mzero,
    actsForLowest_mepi, actsForLowest_mldacc, actsForLowest_ringset, actsForLowest_ringset_refused, actsForLowest_ringadv, actsAsOne_ringq, actsAsOne_mwait,
    exec_infer_enters⟩

end Sys2Proof.Proofs

/-!
The constant registers and the sticky flags (R77-R86), register-range traps (R76) and the rules of guards and prefixes (R82, R89, R338).
-/
namespace Sys2Proof.Proofs

open Machine Claims Laws

/-! ## What lands -/

theorem lset_eq_set {α : Type} (v : α) : ∀ (l : List α) (n : Nat), lset l n v = l.set n v
  | [], _ => rfl
  | _ :: _, 0 => rfl
  | a :: l, n + 1 => congrArg (a :: ·) (lset_eq_set v l n)

theorem regOf_land_same {x : Fibre} {n : Nat} (v : Word) (notZero : n ≠ 0) (there : n < x.regs.length) : regOf (land x (.reg n v)) n = v := by
  simp [regOf, land, notZero, lset_eq_set, there]

theorem regOf_land_other {x : Fibre} {n m : Nat} (v : Word) (other : m ≠ n) : regOf (land x (.reg n v)) m = regOf x m := by
  by_cases zero : n = 0
  · simp [land, zero]
  · simp [regOf, land, zero, lset_eq_set, List.getElem?_set_ne other.symm]

theorem predOf_land_same {x : Fibre} {n : Nat} (b : Bool) (notZero : n ≠ 0) (there : n < 16) : predOf (land x (.pred n b)) n = b := by
  cases b <;> simp [predOf, land, notZero, there]

theorem predOf_land_other {x : Fibre} {n m : Nat} (b : Bool) (other : m ≠ n) : predOf (land x (.pred n b)) m = predOf x m := by
  by_cases zero : n = 0
  · simp [land, zero]
  by_cases wide : m < 16
  · have bit : (decide (m < n) || ! decide (m - n = 0)) = true := by simp; omega
    have bit' : (! decide (m < n) && decide (m - n = 0)) = false := by simp; omega
    cases b <;> simp [predOf, land, zero, wide, bit']
  · simp [predOf, land, zero, BitVec.getLsbD_of_ge _ m (Nat.le_of_not_lt wide)]

theorem getLsbD_land_flags (x : Fibre) (f : BitVec 5) (i : Nat) : (land x (.flags f)).fsr.getLsbD i = (x.fsr.getLsbD i || f.getLsbD i) := by
  by_cases wide : i < 32
  · simp [land, wide]
  · simp [land, BitVec.getLsbD_of_ge _ i (Nat.le_of_not_lt wide), BitVec.getLsbD_of_ge f i (by omega)]

/-- The bits that MOVS's write form sets: FTZ, RM and the flags. -/
theorem fsrWritten_bits : ∀ i < 32, (0x0000161F#32).getLsbD i = decide (i = 12 ∨ i = 10 ∨ i = 9 ∨ i < 5) ∧
    (0xFFFFE9E0#32).getLsbD i = ! decide (i = 12 ∨ i = 10 ∨ i = 9 ∨ i < 5) := by decide

theorem getLsbD_land_fsr (x : Fibre) (v : Word) (i : Nat) :
    (land x (.fsr v)).fsr.getLsbD i = if i = 12 ∨ i = 10 ∨ i = 9 ∨ i < 5 then v.getLsbD i else x.fsr.getLsbD i := by
  by_cases wide : i < 32
  · obtain ⟨written, kept⟩ := fsrWritten_bits i wide
    simp only [land, BitVec.getLsbD_or, BitVec.getLsbD_and, written, kept]
    by_cases field : i = 12 ∨ i = 10 ∨ i = 9 ∨ i < 5 <;> simp [field]
  · simp [BitVec.getLsbD_of_ge _ i (Nat.le_of_not_lt wide)]

/-- g1 alone is written by a pair whose first register is g0, and the pair reads as g1 above zero. -/
theorem pairSrc_zero (x : Fibre) (imm : Word) : pairSrc x imm 0x000#9 = (regOf x 1).setWidth 64 <<< 32 := by
  have code : (0x000#9 : Code) ≠ 0x140#9 := by decide
  have halves : (pairOf 0 (regOf x 1)).toNat = (regOf x 1).toNat <<< 32 ||| 0 := BitVec.toNat_append _ _
  have bound := (regOf x 1).isLt
  apply BitVec.eq_of_toNat_eq
  rw [pairSrc, if_neg code]
  refine halves.trans ?_
  simp only [BitVec.toNat_shiftLeft, BitVec.toNat_setWidth, Nat.or_zero, Nat.shiftLeft_eq]
  omega

/-- p0 reads as 1. -/
theorem srcOf_p0 (s : State) (is : Issue) (l : Nat) (x : Fibre) (imm : Word) : srcOf s is l x imm 0x100#9 = 1 := by
  have code : (0x100#9 : Code).toNat = 0x100 := rfl
  simp only [srcOf, code]
  simp [predOf]

/-- Settles O47: what lands at registers, predicates and FSR, and what the constants read as. -/
theorem constantRegistersAndFlags : Obligations.ConstantRegistersAndFlags := by
  refine ⟨fun s is l x imm => ⟨rfl, rfl, srcOf_p0 s is l x imm, rfl⟩, fun x v b => ⟨rfl, rfl⟩,
    fun x n v notZero there => ⟨regOf_land_same v notZero there, fun m other => regOf_land_other v other, ?_, ?_⟩,
    fun x n b notZero there => ⟨predOf_land_same b notZero there, fun m other => predOf_land_other b other, ?_, ?_⟩,
    fun v d => ⟨rfl, rfl, rfl⟩, fun x imm => ⟨pairSrc_zero x imm, rfl⟩, getLsbD_land_flags, getLsbD_land_fsr, fun x f v => ⟨rfl, rfl, rfl, rfl⟩⟩
  all_goals simp only [land, if_neg notZero]

end Sys2Proof.Proofs

/-!
The rules that come before an instruction's effect: its guard, pending prefixes, and the registers it names (R76, R82, R89, R338).
-/
namespace Sys2Proof.Proofs

open Machine Claims Laws

/-- The rules of guards, prefixes and register ranges come before what the instruction does, with or without a signal entry after it. -/
inductive Guarded (i : Instr) (h : Head) (ops : Named) : Prop
  | plain (k : Issue → List Nat → State → State) (isArm : ∀ s, exec i s = onNamed s h ops k)
  | signals (k : Issue → List Nat → State → State) (isArm : ∀ s, exec i s = signalled s h (onNamed s h ops k))

/-- Every instruction without rules of its own is guarded, by the head of its word. -/
theorem guarded_of_encode {i : Instr} {w : Bits96} (enc : encode i = some w) (own : ownRules i = false) : Guarded i (headOf w) (operandsOf i) := by
  cases i <;> cases enc <;> simp only [head_packA, head_packW, head_packM, head_packB, head_packK, head_packX, head_packS]
  case nop | sigmark | cvt | cvtn | cvtw => cases own
  case elect | vote | shfl | bred | tblld | ret | spawn | fend | park | wake | wakeGrp | regclm | regrel | fmtp | trap | tret | bkpt | ctlrd | launch
    | quiesceOpen | basinOwn | rate | discard | migr | atom | red | blend | cmbreg | osent | osleave | osskip | barinit | hend | ndone | tload |
    tloadTds | tloadRds | town | encq =>
    apply Guarded.plain
    intro s
    simp only [exec, execElect, execVote, execShfl, execBred, execTblld, execRet, execSpawn, execFend, execPark, execWake, execWakeGrp, execRegclm,
      execRegrel, execFmtp, execTrap, execTret, execBkpt, execCtlrd, execLaunch, execQuiesceOpen, execBasinOwn, execRate, execDiscard, execMigr,
      execAtom, execRed, execBlend, execCmbreg, execOsent, execOsleave, execOsskip, execBarinit, execHend, execNdone, execTload, execTloadTds,
      execTloadRds, execTown, execEncq, onActive, operandsOf]
    rfl
  case iadd | isub | imul | imin | imax | and | or | xor | andn | shl | shr | sar | rol | bfx | hmix =>
    apply Guarded.plain
    intro s
    simp only [exec, execIadd, execIsub, execImul, execImin, execImax, execAnd, execOr, execXor, execAndn, execShl, execShr, execSar, execRol,
      execBfx, execHmix, alu2, perLane, onActive, operandsOf]
    rfl
  case imad | bfi | iset | pset | sel =>
    apply Guarded.plain
    intro s
    simp only [exec, execImad, execBfi, execIset, execPset, execSel, alu3, perLane, onActive, operandsOf]
    rfl
  case idiv | irem =>
    apply Guarded.plain
    intro s
    simp only [exec, execIdiv, execIrem, alu2Long, perLaneLong, onActive, operandsOf]
    rfl
  case iabs | popc | clz | brev | mov =>
    apply Guarded.plain
    intro s
    simp only [exec, execIabs, execPopc, execClz, execBrev, execMov, alu1, perLane, onActive, operandsOf]
    rfl
  case movi | iadd64 | isub64 | imad64 | iset64 | lea | pmov | dot4 | dot8 | i4tx | q4x | qscl | pack | unpk | movw | movsW | frnd =>
    apply Guarded.plain
    intro s
    simp only [exec, execMovi, execIadd64, execIsub64, execImad64, execIset64, execLea, execPmov, execDot4, execDot8, execI4tx, execQ4x, execQscl,
      execPack, execUnpk, execMovw, execMovsW, execFrnd, perLane, onActive, operandsOf]
    rfl
  case fadd | fsub | fmul | fmin | fmax | fclass | pkadd | pkmul =>
    apply Guarded.plain
    intro s
    simp only [exec, execFadd, execFsub, execFmul, execFmin, execFmax, execFclass, execPkadd, execPkmul, flt2, perLane, onActive, operandsOf]
    rfl
  case ffma | fset | pkfma =>
    apply Guarded.plain
    intro s
    simp only [exec, execFfma, execFset, execPkfma, flt3, perLane, onActive, operandsOf]
    rfl
  case frcp | frsq | fex2 | flg2 | fsin | fcos | ftanh | fsigm =>
    apply Guarded.plain
    intro s
    simp only [exec, execFrcp, execFrsq, execFex2, execFlg2, execFsin, execFcos, execFtanh, execFsigm, flt1, perLane, onActive, operandsOf]
    rfl
  case fsqrt | fdiv =>
    apply Guarded.plain
    intro s
    simp only [exec, execFsqrt, execFdiv, flt2Long, perLaneLong, onActive, operandsOf]
    rfl
  case dadd | dmul | dfma =>
    apply Guarded.plain
    intro s
    simp only [exec, execDadd, execDmul, execDfma, dbl, perLaneLong, onActive, operandsOf]
    rfl
  case bra | brx | call | callx =>
    apply Guarded.plain
    intro s
    simp only [exec, execBra, execBrx, execCall, execCallx, branch, onActive, operandsOf]
    rfl
  case fwait | quiesce | fence | fencep | hbind | hunbind | cmask | pumpw =>
    apply Guarded.signals
    intro s
    simp only [exec, execFwait, execQuiesce, execFence, execFencep, execHbind, execHunbind, execCmask, execPumpw, onActive, operandsOf]
    rfl
  case basin | basinAll =>
    apply Guarded.plain
    intro s
    simp only [exec, execBasin, execBasinAll, basinInstr, onActive, operandsOf]
    rfl
  case ld | ldc | lda =>
    apply Guarded.plain
    intro s
    simp only [exec, execLd, execLdc, execLda, loadInstr, onActive, operandsOf]
    rfl
  case st | stc | sta =>
    apply Guarded.plain
    intro s
    simp only [exec, execSt, execStc, execSta, storeInstr, onActive, operandsOf]
    rfl
  case pref | flush | invl | pin | unpin =>
    apply Guarded.plain
    intro s
    simp only [exec, execPref, execFlush, execInvl, execPin, execUnpin, rangeInstr, onActive, operandsOf]
    rfl
  case extq =>
    apply Guarded.signals
    intro s
    simp only [exec, execExtq, perLaneLong, onActive, operandsOf]
    rfl
  case combine | send | sendr | mboxRp | emit | reply | raysend | raysendLocal | hitput | trv | pump =>
    apply Guarded.plain
    intro s
    simp only [exec, execCombine, execSend, execSendr, execMboxRp, execEmit, execReply, execRaysend, execRaysendLocal, execHitput, execTrv, execPump,
      operandsOf]
    rfl
  case bararv | barwt | baraw =>
    apply Guarded.signals
    intro s
    simp only [exec, execBararv, execBarwt, execBaraw, barInstr, onActive, operandsOf]
    rfl
  case mbox =>
    apply Guarded.signals
    intro s
    simp only [exec, execMbox, operandsOf]
    rfl
  case cpy | cpyw | gath =>
    apply Guarded.plain
    intro s
    simp only [exec, execCpy, execCpyw, execGath, copyInstr, onActive, operandsOf]
    rfl
  case mrel | mzero | mepi | mldacc | ringset | ringadv | ringq | infer | mlease =>
    apply Guarded.plain
    intro s
    simp only [exec, execMrel, execMzero, execMepi, execMldacc, execRingset, execRingadv, execRingq, execInfer, execMlease, onMatrix, operandsOf]
    rfl
  case mma | mmas =>
    apply Guarded.plain
    intro s
    simp only [exec, execMma, execMmas, mmaInstr, onMatrix, operandsOf]
    rfl
  case mwait =>
    apply Guarded.signals
    intro s
    simp only [exec, execMwait, onMatrix, operandsOf]
    rfl
  case movs h o =>
    by_cases clk : o.a = 0x133#9
    · apply Guarded.plain
      intro s
      simp only [exec, execMovs, if_pos clk, perLaneLong, onActive, operandsOf]
      rfl
    by_cases time : o.a = 0x134#9
    · apply Guarded.plain
      intro s
      simp only [exec, execMovs, if_neg clk, if_pos time, perLaneLong, onActive, operandsOf]
      rfl
    apply Guarded.plain
    intro s
    simp only [exec, execMovs, if_neg clk, if_neg time, perLane, onActive, operandsOf]
    rfl
  case ctlwr h o =>
    by_cases core : isCoreReg (o.imm.toNat % 0x1000) = true
    · apply Guarded.signals
      intro s
      simp only [exec, execCtlwr, core, if_true, onActive, operandsOf]
      rfl
    · apply Guarded.plain
      intro s
      simp only [exec, execCtlwr, core, Bool.false_eq_true, if_false, id_eq, onActive, operandsOf]
      rfl

/-- With no lane to act, the prefixed lanes trap and nothing else happens. -/
theorem onNamed_noLane {s : State} {h : Head} {ops : Named} {is : Issue} (batch : issuing s = some is)
    (noLane : (lanesWhere s is fun x => ! fsrPP x && guardOf h x) = []) (k : Issue → List Nat → State → State) :
    onNamed s h ops k = .next (trapLanes s is (lanesWhere s is fsrPP) (trapOf 0 0x08)) := by
  unfold onNamed
  rw [batch]
  dsimp only
  rw [noLane]
  rfl

/-- No lane waits for a signal entry of no lane. -/
theorem signalled_noLane {s t : State} {h : Head} {is : Issue} (batch : issuing s = some is)
    (noLane : (lanesWhere s is fun x => ! fsrPP x && guardOf h x) = []) : signalled s h (.next t) = .next t := by
  unfold signalled
  rw [batch]
  dsimp only
  rw [noLane]
  rfl

/-- A guarded instruction with no lane to act. -/
theorem Guarded.exec_noLane {i : Instr} {h : Head} {ops : Named} (guarded : Guarded i h ops) {s : State} {is : Issue} (batch : issuing s = some is)
    (noLane : (lanesWhere s is fun x => ! fsrPP x && guardOf h x) = []) : exec i s = .next (trapLanes s is (lanesWhere s is fsrPP) (trapOf 0 0x08)) := by
  cases guarded with
  | plain k isArm => rw [isArm, onNamed_noLane batch noLane]
  | signals k isArm => rw [isArm, onNamed_noLane batch noLane, signalled_noLane batch noLane]

/-- Settles O52: by the instruction's rules. -/
theorem guardsAndPrefixes : Obligations.GuardsAndPrefixes := by
  refine ⟨fun i w s is enc own batch unprefixed noGuard => ?_, fun x h p0 => ?_, fun i w s is enc own batch noLane => ?_⟩
  · rw [(guarded_of_encode enc own).exec_noLane batch ((lanesWhere_unprefixed unprefixed).trans noGuard), unprefixed]
    rfl
  · simp [guardOf, p0, predOf]
  · exact (guarded_of_encode enc own).exec_noLane batch noLane
end Sys2Proof.Proofs

/-!
Taking an exception and returning from one (R290-R294, R366).
-/
namespace Sys2Proof.Proofs

open Machine Claims Laws

/-! ## Taking an exception -/

/-- An exception of a fibre in no wave: its team faults, or its frame is written, at once or when its own accesses let it. -/
theorem takeTrap_outsideWave {s : State} {f : FRef} {pc : Word} {x : Fibre} (hx : getFib (atTrap s f pc) f = some x)
    (outside : outsideWave (atTrap s f pc) f) (t : TrapInfo) :
    takeTrap s f pc t =
      if x.inTrap ∨ x.waits.any entersTrap ∨ (vectorOf (atTrap s f pc) f t.cls).isNone ∨
          (sliceCtl (atTrap s f pc) f.core (sliceOf (atTrap s f pc) f) 0x105).toNat < 64 then
        fibreTeamFault (atTrap s f pc) f (t.cls * 256 + t.detail)
      else if stackHeld (atTrap s f pc) f x true (frameAddr (atTrap s f pc) f) 64 then
        modFib (atTrap s f pc) f fun y => { y with
          waits := y.waits ++ [.stack pc (.frame (frameWords x pc (rawInstr (getCore (atTrap s f pc) f.core) pc) t) t.cls t.detail)] }
      else writeFrame (atTrap s f pc) f (frameWords x pc (rawInstr (getCore (atTrap s f pc) f.core) pc) t) t.cls t.detail := by
  unfold outsideWave at outside
  unfold takeTrap
  unfold atTrap at hx outside ⊢
  simp only [hx]
  cases group : getGroup (modFib (leaveBatch s f.core f.slot [f.lane]) f fun x => { flushPend 9 x with
      pc := pc, next := none, mates := [], sigOnKept := x.sigOn, sigNewKept := x.sigNew }) f.core f.slot with
  | none => rfl
  | some g =>
    cases kind : g.kind with
    | wave n e => exact absurd kind (outside g group n e)
    | _ => simp only [kind]; rfl

theorem takeTrap_faults {s : State} {f : FRef} {pc : Word} {t : TrapInfo} {x : Fibre} (hx : getFib (atTrap s f pc) f = some x)
    (outside : outsideWave (atTrap s f pc) f)
    (unready : x.inTrap = true ∨ vectorOf (atTrap s f pc) f t.cls = none ∨ (sliceCtl (atTrap s f pc) f.core (sliceOf (atTrap s f pc) f) 0x105).toNat < 64) :
    takeTrap s f pc t = fibreTeamFault (atTrap s f pc) f (t.cls * 256 + t.detail) := by
  rw [takeTrap_outsideWave hx outside, if_pos]
  rcases unready with inTrap | noVector | narrow
  · exact .inl inTrap
  · exact .inr (.inr (.inl (by rw [noVector]; rfl)))
  · exact .inr (.inr (.inr narrow))

/-- A fibre with a vector and room for its frame is not at fault. -/
theorem takeTrap_ready {s : State} {f : FRef} {pc : Word} {t : TrapInfo} {x : Fibre} {vec : Word} (hx : getFib (atTrap s f pc) f = some x)
    (outside : outsideWave (atTrap s f pc) f) (notIn : x.inTrap = false) (notEntering : x.waits.any entersTrap = false)
    (vector : vectorOf (atTrap s f pc) f t.cls = some vec) (wide : 64 ≤ (sliceCtl (atTrap s f pc) f.core (sliceOf (atTrap s f pc) f) 0x105).toNat) :
    takeTrap s f pc t =
      if stackHeld (atTrap s f pc) f x true (frameAddr (atTrap s f pc) f) 64 then
        modFib (atTrap s f pc) f fun y => { y with
          waits := y.waits ++ [.stack pc (.frame (frameWords x pc (rawInstr (getCore (atTrap s f pc) f.core) pc) t) t.cls t.detail)] }
      else writeFrame (atTrap s f pc) f (frameWords x pc (rawInstr (getCore (atTrap s f pc) f.core) pc) t) t.cls t.detail := by
  rw [takeTrap_outsideWave hx outside, if_neg]
  simp only [notIn, notEntering, vector, Option.isNone_some, Bool.false_eq_true, false_or]
  omega

/-- A frame whose place may be written is written, and the fibre goes on at the vector. -/
theorem writeFrame_writes {s : State} {f : FRef} {x : Fibre} {vec : Word} {words : List Word} {cls detail : Nat} (hx : getFib s f = some x)
    (vector : vectorOf s f cls = some vec) (writable : rangeFails s f.core (sliceOf s f) (fsrPRV x) .wr (frameAddr s f).toNat 64 = none) :
    writeFrame s f words cls detail = modFib (virtWrite s f.core (sliceOf s f) (fsrPRV x) (frameAddr s f).toNat (bytesOf words) 0) f
      fun y => { y with fsr := y.fsr &&& 0x07FFFFFF#32, pc := vec, next := none, inTrap := true, sigNew := true } := by
  simp only [writeFrame, hx, vector, writable]
  rfl

/-- Settles O54: the frame is written, waits for the fibre's own accesses, or is a fault of the team. -/
theorem trapEntry : Obligations.TrapEntry := by
  refine ⟨fun s f pc t x vec hx outside notIn notEntering vector wide free writable => ?_,
    fun s f pc t x vec hx outside notIn notEntering vector wide held => ?_,
    fun s f pc t x hx outside unready => takeTrap_faults hx outside unready, fun _ _ => rfl, fun _ _ _ _ => ⟨rfl, rfl, rfl, rfl, rfl⟩⟩
  · rw [takeTrap_ready hx outside notIn notEntering vector wide, free, if_neg (by decide), writeFrame_writes hx vector writable]
  · rw [takeTrap_ready hx outside notIn notEntering vector wide, held, if_pos rfl]

end Sys2Proof.Proofs

/-!
Returning from an exception (R294, R366).
-/
namespace Sys2Proof.Proofs

open Machine Claims Laws

/-- Whether the saved PP and PFMT agree: a format number where PP is set, zero where it is clear. -/
def savedPrefixGood (fsr : Word) : Bool :=
  if fsr.getLsbD 31 then decide (1 ≤ fld fsr.toNat 30 27 ∧ fld fsr.toNat 30 27 ≤ 10) else decide (fld fsr.toNat 30 27 = 0)

/-- The FSR after the return, of the fibre's and the frame's. -/
def reloadedFsr (own saved : Word) : Word :=
  (own &&& 0x07FFE9E0#32) ||| ((if savedPrefixGood saved then saved &&& 0xF8000000#32 else 0) ||| (saved &&& 0x0000161F#32))

/-- The masks of the return: FTZ, RM and the flags come from the frame, the fields below PP and PFMT from the fibre. -/
theorem reloaded_masks : (∀ i < 27, (0x0000161F#32).getLsbD i = decide (i = 12 ∨ i = 10 ∨ i = 9 ∨ i < 5) ∧
    (0x07FFE9E0#32).getLsbD i = ! decide (i = 12 ∨ i = 10 ∨ i = 9 ∨ i < 5) ∧ (0xF8000000#32).getLsbD i = false) ∧
    ∀ i < 32, 27 ≤ i → (0x0000161F#32).getLsbD i = false ∧ (0x07FFE9E0#32).getLsbD i = false ∧ (0xF8000000#32).getLsbD i = true := by decide

theorem reloadedFsr_low (own saved : Word) {i : Nat} (hi : i < 27) :
    (reloadedFsr own saved).getLsbD i = if i = 12 ∨ i = 10 ∨ i = 9 ∨ i < 5 then saved.getLsbD i else own.getLsbD i := by
  obtain ⟨loaded, kept, notPrefix⟩ := reloaded_masks.1 i hi
  have noPrefix : (if savedPrefixGood saved then saved &&& 0xF8000000#32 else 0).getLsbD i = false := by
    split
    · rw [BitVec.getLsbD_and, notPrefix, Bool.and_false]
    · exact BitVec.getLsbD_zero
  simp only [reloadedFsr, BitVec.getLsbD_or, BitVec.getLsbD_and, loaded, kept, noPrefix]
  by_cases field : i = 12 ∨ i = 10 ∨ i = 9 ∨ i < 5 <;> simp [field]

/-- A frame without PP has no bit of PFMT where the two agree. -/
theorem prefix_clear {saved : Word} (noPP : saved.getLsbD 31 = false) (zero : saved.toNat / 2 ^ 27 % 16 = 0) {i : Nat} (lo : 27 ≤ i) (hi : i < 32) :
    saved.getLsbD i = false := by
  by_cases top : i = 31
  · rw [top, noPP]
  obtain ⟨j, rfl⟩ : ∃ j, i = 27 + j := ⟨i - 27, by omega⟩
  have shifted : (saved.toNat / 2 ^ 27 % 2 ^ 4).testBit j = saved.toNat.testBit (27 + j) := by
    rw [Nat.testBit_mod_two_pow, Nat.testBit_div_two_pow]
    simp [show j < 4 by omega, Nat.add_comm]
  rw [BitVec.getLsbD, ← shifted, show (2 : Nat) ^ 4 = 16 from rfl, zero, Nat.zero_testBit]

theorem reloadedFsr_prefix (own saved : Word) {i : Nat} (lo : 27 ≤ i) (hi : i < 32) :
    (reloadedFsr own saved).getLsbD i =
      (saved.getLsbD i && saved.getLsbD 31 && decide (1 ≤ saved.toNat / 2 ^ 27 % 16 ∧ saved.toNat / 2 ^ 27 % 16 ≤ 10)) := by
  obtain ⟨notLoaded, notKept, mask⟩ := reloaded_masks.2 i hi lo
  have good : savedPrefixGood saved = if saved.getLsbD 31 then decide (1 ≤ saved.toNat / 2 ^ 27 % 16 ∧ saved.toNat / 2 ^ 27 % 16 ≤ 10)
      else decide (saved.toNat / 2 ^ 27 % 16 = 0) := rfl
  have clear := fun pp zero => prefix_clear (saved := saved) pp zero lo hi
  simp only [reloadedFsr, BitVec.getLsbD_or, BitVec.getLsbD_and, notLoaded, notKept, Bool.and_false, Bool.or_false, Bool.false_or, good]
  generalize saved.toNat / 2 ^ 27 % 16 = format at clear ⊢
  cases pp : saved.getLsbD 31 with
  | true =>
    by_cases inRange : 1 ≤ format ∧ format ≤ 10
    · simp only [inRange, decide_true, and_self, if_true, BitVec.getLsbD_and, mask, Bool.and_true]
    · simp only [inRange, decide_false, if_true, Bool.false_eq_true, if_false, Bool.and_false]
      exact BitVec.getLsbD_zero
  | false =>
    by_cases zero : format = 0
    · simp only [zero, decide_true, if_true, Bool.false_eq_true, if_false, BitVec.getLsbD_and, clear pp zero, Bool.false_and]
    · simp only [zero, decide_false, Bool.false_eq_true, if_false, Bool.and_false, Bool.false_and]
      exact BitVec.getLsbD_zero

/-- What the return loads of the frame into the fibre. -/
def reloaded (x : Fibre) (npc saved : Word) : Fibre :=
  { x with fsr := reloadedFsr x.fsr saved, inTrap := false, pc := npc, next := none }

theorem returnTrap_resumes {s : State} {f : FRef} {x : Fibre} {epc npc saved w3 sg : Word} (hx : getFib s f = some x)
    (resumes : npc = (if w3.toNat % 256 = 11 ∨ w3.toNat % 256 = 12 then nextPc epc else epc)) :
    getFib (returnTrap s f epc npc saved w3 sg) f =
      some { reloaded x npc saved with sig := sg.setWidth 16, sigOn := x.sigOnKept, sigNew := x.sigNewKept } := by
  unfold returnTrap
  simp only [if_pos resumes, getFib_modFib_self]
  rw [show getFib (resumeMatrix s f) f = some x from hx]
  rfl

theorem returnTrap_unmarked {s : State} {f : FRef} {o : CodeObj} {epc npc saved w3 sg : Word}
    (moved : npc ≠ (if w3.toNat % 256 = 11 ∨ w3.toNat % 256 = 12 then nextPc epc else epc)) (code : codeObjOf s f = some o)
    (unmarked : isTarget s f.core o npc.toNat = false) : returnTrap s f epc npc saved w3 sg = fibreTeamFault (resumeMatrix s f) f 0xFF02 := by
  have code' : codeObjOf (resumeMatrix s f) f = some o := code
  have unmarked' : isTarget (resumeMatrix s f) f.core o npc.toNat = false := unmarked
  unfold returnTrap
  simp only [if_neg moved, code', unmarked', Bool.false_eq_true, if_false]

theorem returnTrap_marked {s : State} {f : FRef} {x : Fibre} {o : CodeObj} {epc npc saved w3 sg : Word} (hx : getFib s f = some x)
    (moved : npc ≠ (if w3.toNat % 256 = 11 ∨ w3.toNat % 256 = 12 then nextPc epc else epc)) (code : codeObjOf s f = some o)
    (marked : isTarget s f.core o npc.toNat = true) :
    getFib (returnTrap s f epc npc saved w3 sg) f = some { reloaded x npc saved with sigNew := true } := by
  have code' : codeObjOf (resumeMatrix s f) f = some o := code
  have marked' : isTarget (resumeMatrix s f) f.core o npc.toNat = true := marked
  unfold returnTrap
  simp only [if_neg moved, code', marked', if_true, getFib_modFib_self]
  rw [show getFib (resumeMatrix s f) f = some x from hx]
  rfl

theorem readFrame_returns {s : State} {f : FRef} {x : Fibre} (hx : getFib s f = some x)
    (readable : rangeFails s f.core (sliceOf s f) (fsrPRV x) .rd (frameAddr s f).toNat 64 = none)
    (clean : (virtRead s f.core (sliceOf s f) (fsrPRV x) (frameAddr s f).toNat 64).2 = 0) :
    readFrame s f = returnTrap s f ((wordsOf (virtRead s f.core (sliceOf s f) (fsrPRV x) (frameAddr s f).toNat 64).1).getD 0 0)
      ((wordsOf (virtRead s f.core (sliceOf s f) (fsrPRV x) (frameAddr s f).toNat 64).1).getD 1 0)
      ((wordsOf (virtRead s f.core (sliceOf s f) (fsrPRV x) (frameAddr s f).toNat 64).1).getD 2 0)
      ((wordsOf (virtRead s f.core (sliceOf s f) (fsrPRV x) (frameAddr s f).toNat 64).1).getD 3 0)
      ((wordsOf (virtRead s f.core (sliceOf s f) (fsrPRV x) (frameAddr s f).toNat 64).1).getD 9 0) := by
  simp only [readFrame, hx, readable, clean, ne_eq, not_true_eq_false, if_false]

/-- Settles O55: a return where the NPC stands, to a marked target, and to none; and the frame that it reads. -/
theorem trapReturnReloads : Obligations.TrapReturnReloads := by
  refine ⟨fun s f x epc npc saved w3 sg hx resumes => ⟨_, returnTrap_resumes hx resumes, rfl, rfl, rfl, rfl, rfl, rfl, rfl, rfl,
      fun i hi => reloadedFsr_low x.fsr saved hi, fun i lo hi => reloadedFsr_prefix x.fsr saved lo hi⟩,
    fun s f x o epc npc saved w3 sg _ moved code unmarked => returnTrap_unmarked moved code unmarked,
    fun s f x o epc npc saved w3 sg hx moved code marked => ⟨_, returnTrap_marked hx moved code marked, rfl, rfl, rfl, rfl, rfl⟩,
    fun s f x hx readable clean => ⟨_, rfl, readFrame_returns hx readable clean⟩⟩

end Sys2Proof.Proofs

/-!
Writes of physical memory and of cisterns (R44, R108-R110, R128, R323): the bytes named and no other.
-/
namespace Sys2Proof.Proofs

open Machine Claims Laws

/-! ## Byte lists -/

/-- A byte inside consecutive writes reads as the byte written there. -/
theorem read_writes_inside : ∀ {bytes : List Byte} {m : List Host.Cell} {b a : Nat}, Memory.wf m = true → b ≤ a → a < b + bytes.length →
    Memory.read (Memory.writes m b bytes) a = bytes.getD (a - b) 0
  | [], _, _, _, _, _, _ => by simp only [List.length_nil] at *; omega
  | v :: bytes, m, b, a, hm, lo, hi => by
    rw [Memory.writes]
    by_cases first : a = b
    · subst first
      rw [Memory.read_writes_other (.inl (Nat.lt_succ_self a)), Memory.read_write_same hm, Nat.sub_self]
      rfl
    · rw [read_writes_inside (Memory.write_wf hm) (by omega) (by simp only [List.length_cons] at hi; omega), show a - b = (a - (b + 1)) + 1 by omega]
      rfl

/-- Consecutive writes change the bytes they name and no other. -/
theorem read_writes {m : List Host.Cell} (hm : Memory.wf m = true) (b : Nat) (bytes : List Byte) (a : Nat) :
    Memory.read (Memory.writes m b bytes) a = byteAfter m b bytes a := by
  unfold byteAfter
  split
  case isTrue inside => exact read_writes_inside hm inside.1 inside.2
  case isFalse outside => exact Memory.read_writes_other (by omega)

/-! ## Error reports -/

/-- The states differ in the packets of the mesh and the identities and free values used, and in nothing else. -/
def OnlyReports (s t : State) : Prop := { t with mesh := s.mesh, nextId := s.nextId, free := s.free } = s

theorem OnlyReports.refl (s : State) : OnlyReports s s := rfl

theorem OnlyReports.eq {s t : State} (reports : OnlyReports s t) : t = { s with mesh := t.mesh, nextId := t.nextId, free := t.free } := by
  unfold OnlyReports at reports
  conv_rhs => rw [← reports]

theorem OnlyReports.trans {s t u : State} (first : OnlyReports s t) (second : OnlyReports t u) : OnlyReports s u := by
  rw [second.eq, first.eq]
  rfl

theorem onlyReports_emit (s : State) (vc : VC) (kind src dst flits : Nat) (tags : BitVec 18) (body : Body) : OnlyReports s (emit s vc kind src dst flits tags body) := rfl

theorem onlyReports_logError (s : State) (ekind struct src core stack slice : Nat) (addr : DWord) :
    OnlyReports s (logError s ekind struct src core stack slice addr) := rfl

/-- Reports one after the other. -/
theorem onlyReports_foldl {α : Type} {body : State → α → State} (reports : ∀ s a, OnlyReports s (body s a)) : ∀ (l : List α) (s : State), OnlyReports s (l.foldl body s)
  | [], s => .refl s
  | a :: l, s => (reports s a).trans (onlyReports_foldl reports l _)

/-! ## Physical memory -/

/-- A write within one block of memory is a write of that block. -/
theorem memWrite_of_block {s : State} {pa : Nat} {bytes : List Byte} {poison : Nat} {bcmp : Bool} (inBlock : normPa s pa % 256 + bytes.length ≤ 256) :
    memWrite s pa bytes poison bcmp = if bytes = [] then s else memWriteBlock s (normPa s pa) bytes poison bcmp := by
  have all : min bytes.length (256 - normPa s pa % 256) = bytes.length := by omega
  unfold memWrite
  rw [memWriteFrom]
  by_cases empty : bytes = []
  · rw [if_pos empty, if_pos (by simp [empty])]
  rw [if_neg empty, if_neg (by simpa using empty)]
  simp only [all, List.take_length, List.drop_length]
  cases bytes.length / 256 + 1 <;> rfl

/-- What a block's write is where nothing forbids it. -/
theorem mem_memWriteBlock {s : State} {pa : Nat} {bytes : List Byte} {poison : Nat} {bcmp : Bool} (free : s.ckpt.getLsbD 1 = false ∨ isLocalHbm pa = false)
    (works : channelFailed s pa = false) : (memWriteBlock s pa bytes poison bcmp).mem = Memory.writes s.mem pa bytes := by
  unfold memWriteBlock
  rw [if_neg (fun both => by rcases free with held | remote <;> simp_all), if_neg (by simp [works])]
  dsimp only
  split
  · rfl
  · rw [(onlyReports_foldl (fun _ _ => onlyReports_logError _ _ _ _ _ _ _ _) _ s).eq]

theorem memWriteBlock_held {s : State} {pa : Nat} {bytes : List Byte} {poison : Nat} {bcmp : Bool} (held : s.ckpt.getLsbD 1 = true) (local_ : isLocalHbm pa = true) :
    memWriteBlock s pa bytes poison bcmp = s := by
  unfold memWriteBlock
  rw [if_pos ⟨held, local_⟩]

theorem mem_memWriteBlock_failed {s : State} {pa : Nat} {bytes : List Byte} {poison : Nat} {bcmp : Bool} (failed : channelFailed s pa = true) :
    (memWriteBlock s pa bytes poison bcmp).mem = s.mem := by
  unfold memWriteBlock
  split
  · rfl
  · rfl

/-- The states differ in physical memory, its coding and poison, and in reports. -/
def OnlyMemory (s t : State) : Prop :=
  { t with mem := s.mem, memPoison := s.memPoison, damaged := s.damaged, blockState := s.blockState, mesh := s.mesh, nextId := s.nextId, free := s.free } = s

theorem OnlyMemory.refl (s : State) : OnlyMemory s s := rfl

theorem OnlyMemory.eq {s t : State} (h : OnlyMemory s t) : t = { s with
    mem := t.mem, memPoison := t.memPoison, damaged := t.damaged, blockState := t.blockState, mesh := t.mesh, nextId := t.nextId, free := t.free } := by
  unfold OnlyMemory at h
  conv_rhs => rw [← h]

theorem OnlyMemory.trans {s t u : State} (first : OnlyMemory s t) (second : OnlyMemory t u) : OnlyMemory s u := by
  rw [second.eq, first.eq]
  rfl

theorem OnlyReports.onlyMemory {s t : State} (reports : OnlyReports s t) : OnlyMemory s t := by
  rw [reports.eq]
  rfl

theorem onlyMemory_memWriteBlock (s : State) (pa : Nat) (bytes : List Byte) (poison : Nat) (bcmp : Bool) : OnlyMemory s (memWriteBlock s pa bytes poison bcmp) := by
  unfold memWriteBlock
  split
  · exact .refl s
  split
  · exact (onlyReports_logError _ _ _ _ _ _ _ _).onlyMemory
  dsimp only
  split
  · rfl
  · rw [(onlyReports_foldl (fun _ _ => onlyReports_logError _ _ _ _ _ _ _ _) _ s).eq]
    rfl

theorem onlyMemory_memWriteFrom (poison : Nat) (bcmp : Bool) : ∀ (fuel : Nat) (s : State) (pa : Nat) (bytes : List Byte),
    OnlyMemory s (memWriteFrom poison bcmp fuel s pa bytes)
  | 0, s, _, _ => .refl s
  | fuel + 1, s, pa, bytes => by
    rw [memWriteFrom]
    split
    · exact .refl s
    · exact (onlyMemory_memWriteBlock s pa _ poison bcmp).trans (onlyMemory_memWriteFrom poison bcmp fuel _ _ _)

theorem onlyMemory_memWrite (s : State) (pa : Nat) (bytes : List Byte) (poison : Nat) (bcmp : Bool) : OnlyMemory s (memWrite s pa bytes poison bcmp) :=
  onlyMemory_memWriteFrom _ _ _ _ _ _

/-! ## Cisterns -/

/-- The reports of poison that a write clears unseen. -/
def clearReports (s : State) (core : Nat) (p : Nat → Bool) : State :=
  ((getCore s core).cistPoison.filter fun w => p w && ! (getCore s core).cistSeen.contains w).foldl (fun t w =>
    logError t 0x03 0x01 core core 0xFFFF ((getCore s core).slice.getD 0) (BitVec.ofNat 64 (8 * w))) s

theorem onlyReports_clearReports (s : State) (core : Nat) (p : Nat → Bool) : OnlyReports s (clearReports s core p) :=
  onlyReports_foldl (fun _ _ => onlyReports_logError _ _ _ _ _ _ _ _) _ s

/-- The poison that a clearing leaves in its core. -/
def cleared (p : Nat → Bool) (k : Core) : Core :=
  { k with cistPoison := k.cistPoison.filter fun w => ! p w, cistSeen := k.cistSeen.filter fun w => ! p w }

theorem cistClear_eq (s : State) (core : Nat) (p : Nat → Bool) :
    cistClear s core p = if (getCore s core).cistPoison.any p then modCore (clearReports s core p) core (cleared p) else clearReports s core p := rfl

theorem getCore_clearReports (s : State) (core : Nat) (p : Nat → Bool) (d : Nat) : getCore (clearReports s core p) d = getCore s d := by
  rw [(onlyReports_clearReports s core p).eq]
  rfl

theorem cistern_cistClear (s : State) (core : Nat) (p : Nat → Bool) : (getCore (cistClear s core p) core).cistern = (getCore s core).cistern := by
  rw [cistClear_eq]
  split
  · rw [getCore_modCore_self, getCore_clearReports]
    rfl
  · rw [getCore_clearReports]

theorem cistPoison_cistClear (s : State) (core : Nat) (p : Nat → Bool) :
    (getCore (cistClear s core p) core).cistPoison = (getCore s core).cistPoison.filter fun w => ! p w := by
  rw [cistClear_eq]
  split
  case isTrue => 
    rw [getCore_modCore_self, getCore_clearReports]
    rfl
  case isFalse untouched =>
    rw [getCore_clearReports, eq_comm, List.filter_eq_self]
    intro w hw
    simp only [List.any_eq_true, not_exists, not_and, Bool.not_eq_true] at untouched
    simp [untouched w hw]

theorem getCore_cistClear_ne (s : State) {core d : Nat} (p : Nat → Bool) (other : d ≠ core) : getCore (cistClear s core p) d = getCore s d := by
  rw [cistClear_eq]
  split
  · rw [getCore_modCore_ne _ _ other, getCore_clearReports]
  · exact getCore_clearReports s core p d

/-- The words that a write covers whole. -/
def wholeWords (off n : Nat) : Nat → Bool := fun w => decide ((off + 7) / 8 ≤ w ∧ w < (off + n) / 8)

/-- The words that a write covers or touches. -/
def touchedWords (off n : Nat) : List Nat :=
  ((List.range (n / 8 + 2)).map (off / 8 + ·)).filter fun w => decide (w * 8 < off + n ∧ off < w * 8 + 8)

/-- What a write puts into its core. -/
def written (off : Nat) (bytes : List Byte) (poison : Nat) (k : Core) : Core :=
  { k with
    cistern := Memory.writes k.cistern off bytes
    cistPoison := if poison ≠ 0 then k.cistPoison ++ (touchedWords off bytes.length).filter fun w => ! k.cistPoison.contains w else k.cistPoison }

theorem cistWrite_eq (s : State) (c off : Nat) (bytes : List Byte) (poison : Nat) : cistWrite s c off bytes poison =
    modCore (cistClear (noteBanks s c off bytes.length) c (wholeWords off bytes.length)) c (written off bytes poison) := rfl

theorem getCore_noteBanks (s : State) (c off n d : Nat) : getCore (noteBanks s c off n) d = getCore s d := rfl

theorem cistern_cistWrite (s : State) (c off : Nat) (bytes : List Byte) (poison : Nat) :
    (getCore (cistWrite s c off bytes poison) c).cistern = Memory.writes (getCore s c).cistern off bytes := by
  rw [cistWrite_eq, getCore_modCore_self, written, cistern_cistClear, getCore_noteBanks]

theorem getCore_cistWrite_ne (s : State) {c d : Nat} (off : Nat) (bytes : List Byte) (poison : Nat) (other : d ≠ c) :
    getCore (cistWrite s c off bytes poison) d = getCore s d := by
  rw [cistWrite_eq, getCore_modCore_ne _ _ other, getCore_cistClear_ne _ _ other, getCore_noteBanks]

/-- The states differ in teams, cores and reports. -/
def OnlyCores (s t : State) : Prop :=
  { t with teams := s.teams, cores := s.cores, mesh := s.mesh, nextId := s.nextId, free := s.free } = s

theorem OnlyCores.eq {s t : State} (h : OnlyCores s t) : t = { s with teams := t.teams, cores := t.cores, mesh := t.mesh, nextId := t.nextId, free := t.free } := by
  unfold OnlyCores at h
  conv_rhs => rw [← h]

theorem onlyCores_cistWrite (s : State) (c off : Nat) (bytes : List Byte) (poison : Nat) : OnlyCores s (cistWrite s c off bytes poison) := by
  rw [cistWrite_eq, cistClear_eq]
  split
  · rw [(onlyReports_clearReports _ _ _).eq]
    rfl
  · rw [(onlyReports_clearReports _ _ _).eq]
    rfl

/-- A write where nothing is poisoned reports nothing. -/
theorem mesh_cistWrite {s : State} {c : Nat} (clean : (getCore s c).cistPoison = []) (off : Nat) (bytes : List Byte) (poison : Nat) :
    (cistWrite s c off bytes poison).mesh = s.mesh := by
  have clean' : (getCore (noteBanks s c off bytes.length) c).cistPoison = [] := clean
  rw [cistWrite_eq, cistClear_eq, clearReports, clean']
  rfl

/-- A doubleword written without poison is read without poison. -/
theorem cistRead_cistWrite_clean (s : State) (c : Nat) {off w : Nat} {bytes : List Byte} (whole : bytes.length = 8) (aligned : off = 8 * w) :
    (cistRead (cistWrite s c off bytes 0) c off 8).2 = 0 := by
  subst aligned
  have unpoisoned : (getCore (cistWrite s c (8 * w) bytes 0) c).cistPoison.contains w = false := by
    rw [cistWrite_eq, getCore_modCore_self]
    simp only [written, ne_eq, not_true_eq_false, if_false, cistPoison_cistClear, whole]
    rw [← Bool.not_eq_true, List.contains_iff_mem, List.mem_filter]
    rintro ⟨-, kept⟩
    simp only [wholeWords, Bool.not_eq_true', decide_eq_false_iff_not] at kept
    omega
  have oneWord : (8 * w % 8 + 8 + 7) / 8 = 1 := by omega
  have index : 8 * w / 8 + 0 = w := by omega
  simp only [cistRead, oneWord, List.range_one, List.any_cons, List.any_nil, index, unpoisoned, Bool.or_false, Bool.false_eq_true, if_false]

/-- Reading what is not poisoned marks nothing as seen. -/
theorem cistSeen_clean {s : State} {c off n : Nat} (clean : (cistRead s c off n).2 = 0) : cistSeen s c off n = s := by
  have unpoisoned : ((List.range ((off % 8 + n + 7) / 8)).any fun i => (getCore s c).cistPoison.contains (off / 8 + i)) = false := by
    by_contra poisoned
    rw [Bool.not_eq_false] at poisoned
    rw [cistRead, poisoned] at clean
    exact absurd clean Nat.one_ne_zero
  have nothing : (((List.range ((off % 8 + n + 7) / 8)).map (off / 8 + ·)).filter fun w => (getCore s c).cistPoison.contains w && ! (getCore s c).cistSeen.contains w) = [] := by
    rw [List.filter_eq_nil_iff]
    intro w hw
    obtain ⟨i, hi, rfl⟩ := List.mem_map.mp hw
    have := List.any_eq_false.mp unpoisoned i hi
    simp only [Bool.not_eq_true] at this
    simp only [this, Bool.false_and, Bool.false_eq_true, not_false_eq_true]
  simp only [cistSeen, nothing, List.isEmpty_nil, if_true]

/-- Settles O57: physical memory first, then the cisterns. -/
theorem writesToMemoryAndCisterns : Obligations.WritesToMemoryAndCisterns := by
  refine ⟨fun s pa bytes psn z a inBlock wf free works => ?_, fun s pa bytes psn z inBlock held local_ => ?_, fun s pa bytes psn z inBlock failed => ?_,
    fun s pa bytes psn z => ?_, fun s c off bytes psn a wf => ?_, fun s c off bytes psn d other => getCore_cistWrite_ne s off bytes psn other,
    fun s c off bytes psn => ⟨?_, ?_, ?_, fun clean => mesh_cistWrite clean off bytes psn⟩,
    fun s c off bytes w whole => cistRead_cistWrite_clean s c whole.1 whole.2,
    fun s home q c off place store => ?_, fun s home q c off place load plain => ?_⟩
  · rw [memWrite_of_block inBlock, ← read_writes wf]
    split
    case isTrue empty => rw [empty]; rfl
    case isFalse => rw [mem_memWriteBlock free works]
  · rw [memWrite_of_block inBlock, memWriteBlock_held held local_, ite_self]
  · rw [memWrite_of_block inBlock]
    split
    · rfl
    · exact mem_memWriteBlock_failed failed
  · rw [(onlyMemory_memWrite s pa bytes psn z).eq]
    exact ⟨rfl, rfl, rfl, rfl⟩
  · rw [cistern_cistWrite, read_writes wf]
  · rw [(onlyCores_cistWrite s c off bytes psn).eq]
  · rw [(onlyCores_cistWrite s c off bytes psn).eq]
  · rw [(onlyCores_cistWrite s c off bytes psn).eq]
  · simp only [serveLane, store, place, locWrite, and_self]
  · simp only [serveLane, load, place, plain, locRead, locSeen, List.foldl_nil]
    exact ⟨trivial, cistSeen_clean, trivial, rfl⟩

end Sys2Proof.Proofs

/-!
Stores, loads and atomics at a home with a present piece (R129-R137).
-/
namespace Sys2Proof.Proofs

open Machine Claims Laws

/-! ## The granules of an L2 slice -/

/-- The granule that holds a piece after the piece is put there. -/
def puts (e : Granule) (i : Nat) (bcmp : Bool) (p : Piece) : Granule :=
  { e with bcmp := bcmp, pieces := tput e.pieces i p, kept := e.kept.filter fun j => j ≠ i }

/-- A core with a piece put into a granule that does not keep the piece's place. -/
def putPiece (pc : Nat) (bcmp : Bool) (e : Granule) (p : Piece) (k : Core) : Core :=
  { k with l2 := puts e (pc % 32) bcmp p :: k.l2.filter fun x => x.g ≠ pc / 32 }

theorem getCore_l2Put {s : State} {home pc : Nat} {e : Granule} (tag : l2Tag (getCore s home) (pc / 32) = some e)
    (notKept : e.kept.contains (pc % 32) = false) (bcmp : Bool) (p : Piece) :
    getCore (l2Put s home pc bcmp p) home = putPiece pc bcmp e p (getCore s home) := by
  rw [l2Put, getCore_modCore_self]
  simp only [tag, notKept, Bool.false_eq_true, if_false]
  rfl

/-- A found granule has the number looked for. -/
theorem l2Tag_g {k : Core} {g : Nat} {e : Granule} (tag : l2Tag k g = some e) : e.g = g := by
  simpa using List.find?_some tag

theorem l2Tag_putPiece_same {k : Core} {pc : Nat} {e : Granule} (tag : l2Tag k (pc / 32) = some e) (bcmp : Bool) (p : Piece) :
    l2Tag (putPiece pc bcmp e p k) (pc / 32) = some (puts e (pc % 32) bcmp p) := by
  simp [l2Tag, putPiece, puts, l2Tag_g tag]

theorem l2Tag_putPiece_other {k : Core} {pc g : Nat} {e : Granule} (tag : l2Tag k (pc / 32) = some e) (bcmp : Bool) (p : Piece) (other : g ≠ pc / 32) :
    l2Tag (putPiece pc bcmp e p k) g = l2Tag k g := by
  have apart : (puts e (pc % 32) bcmp p).g ≠ g := by rw [puts, l2Tag_g tag]; exact other.symm
  simp only [l2Tag, putPiece, List.find?_cons, apart, decide_false, List.find?_filter]
  congr 1
  funext x
  by_cases there : x.g = g <;> simp [there, other]

theorem l2Piece_putPiece_same {k : Core} {pc : Nat} {e : Granule} (tag : l2Tag k (pc / 32) = some e) (bcmp : Bool) (p : Piece) :
    l2Piece (putPiece pc bcmp e p k) pc = some p := by
  rw [l2Piece, l2Tag_putPiece_same tag, Option.bind_some, puts, tget_tput_self]

theorem l2Piece_putPiece_other {k : Core} {pc pc' : Nat} {e : Granule} (tag : l2Tag k (pc / 32) = some e) (bcmp : Bool) (p : Piece) (other : pc' ≠ pc) :
    l2Piece (putPiece pc bcmp e p k) pc' = l2Piece k pc' := by
  by_cases granule : pc' / 32 = pc / 32
  · have place : pc' % 32 ≠ pc % 32 := by omega
    rw [l2Piece, l2Piece, granule, l2Tag_putPiece_same tag, tag, Option.bind_some, Option.bind_some, puts, tget_tput_ne _ place]
  · rw [l2Piece, l2Piece, l2Tag_putPiece_other tag _ _ granule]

/-- Only the L2 lines of a core say what its pieces are. -/
theorem l2Piece_congr {k k' : Core} (same : k.l2 = k'.l2) (pc : Nat) : l2Piece k pc = l2Piece k' pc := by
  simp only [l2Piece, l2Tag, same]

/-! ## A store to a present piece -/

/-- The piece after the store. -/
def storedPiece (p : Piece) (pa : Nat) (bytes : List Byte) (wt : Bool) (psn : Nat) : Piece :=
  let psn' := if bytes.length = 64 then psn else orPoison p.poison psn
  { p with data := spliceBytes p.data (pa % 64) bytes, dirty := ! wt || p.dirty, poison := psn', seen := p.seen && decide (psn' = p.poison)
           coding := if p.pin then 0 else codingOf (spliceBytes p.data (pa % 64) bytes) }

/-- The state in which the store puts its piece: a migration has noted the write, and poison that the write ends unseen is reported. -/
def storeReports (s : State) (home pa : Nat) (bytes : List Byte) (p : Piece) : State :=
  if bytes.length = 64 ∧ p.poison ≠ 0 ∧ ¬ p.seen then logPiece (noteMigration s pa) 0x03 p.poison home (pa / 64 * 64) else noteMigration s pa

/-- The state with the piece put there and its coding counted. -/
def storePuts (s : State) (home pa : Nat) (bytes : List Byte) (wt bcmp : Bool) (psn : Nat) (p : Piece) : State :=
  countCoding (l2Put (storeReports s home pa bytes p) home (pa / 64) bcmp (storedPiece p pa bytes wt psn)) home (storedPiece p pa bytes wt psn).coding

theorem homeWrite_present {s : State} {home pa : Nat} {bytes : List Byte} {wt bcmp : Bool} {psn : Nat} {p : Piece}
    (present : l2Piece (getCore s home) (pa / 64) = some p)
    (fits : sectorsOf (if p.pin then 0 else codingOf (spliceBytes p.data (pa % 64) bytes)) ≤ sectorsOf p.coding) :
    homeWrite s home pa bytes wt bcmp psn =
      if wt then memWrite (storePuts s home pa bytes wt bcmp psn p) pa bytes psn bcmp else storePuts s home pa bytes wt bcmp psn p := by
  have present' : l2Piece (getCore (noteMigration s pa) home) (pa / 64) = some p := present
  unfold homeWrite
  simp only [present', Option.isSome_some, true_or, if_true, Option.getD_some, true_and, fits, decide_eq_true_eq]
  rfl

/-- The report and the note of a migration leave the cores and memory. -/
theorem getCore_storeReports (s : State) (home pa : Nat) (bytes : List Byte) (p : Piece) (c : Nat) : getCore (storeReports s home pa bytes p) c = getCore s c := by
  unfold storeReports logPiece
  split_ifs <;> rfl

theorem mem_storeReports (s : State) (home pa : Nat) (bytes : List Byte) (p : Piece) : (storeReports s home pa bytes p).mem = s.mem := by
  unfold storeReports logPiece
  split_ifs <;> rfl

theorem l2_countCoding (s : State) (home : Nat) (c : BitVec 3) : (getCore (countCoding s home c) home).l2 = (getCore s home).l2 := by
  unfold countCoding bump
  split_ifs
  · rfl
  · rw [getCore_modCore_self]

theorem mem_countCoding (s : State) (home : Nat) (c : BitVec 3) : (countCoding s home c).mem = s.mem := by
  unfold countCoding
  split_ifs <;> rfl

/-- The home's lines after the store: those with the piece put there. -/
theorem l2_storePuts {s : State} {home pa : Nat} {e : Granule} (tag : l2Tag (getCore s home) (pa / 64 / 32) = some e)
    (notKept : e.kept.contains (pa / 64 % 32) = false) (bytes : List Byte) (wt bcmp : Bool) (psn : Nat) (p : Piece) :
    (getCore (storePuts s home pa bytes wt bcmp psn p) home).l2 = (putPiece (pa / 64) bcmp e (storedPiece p pa bytes wt psn) (getCore s home)).l2 := by
  have tag' : l2Tag (getCore (storeReports s home pa bytes p) home) (pa / 64 / 32) = some e := by rw [getCore_storeReports]; exact tag
  rw [storePuts, l2_countCoding, getCore_l2Put tag' notKept, getCore_storeReports]

/-- The home's pieces after a store to a present piece are those with the piece put there, with WT set as well. -/
theorem l2Piece_homeWrite {s : State} {home pa : Nat} {bytes : List Byte} {wt bcmp : Bool} {psn : Nat} {p : Piece} {e : Granule}
    (present : l2Piece (getCore s home) (pa / 64) = some p)
    (fits : sectorsOf (if p.pin then 0 else codingOf (spliceBytes p.data (pa % 64) bytes)) ≤ sectorsOf p.coding)
    (tag : l2Tag (getCore s home) (pa / 64 / 32) = some e) (notKept : e.kept.contains (pa / 64 % 32) = false) (pc : Nat) :
    l2Piece (getCore (homeWrite s home pa bytes wt bcmp psn) home) pc =
      l2Piece (putPiece (pa / 64) bcmp e (storedPiece p pa bytes wt psn) (getCore s home)) pc := by
  apply l2Piece_congr
  rw [homeWrite_present present fits, ← l2_storePuts tag notKept]
  split_ifs
  · rw [(onlyMemory_memWrite _ pa bytes psn bcmp).eq]
    rfl
  · rfl

/-- A piece that is present lies in a granule. -/
theorem l2Tag_of_piece {k : Core} {pc : Nat} {p : Piece} (present : l2Piece k pc = some p) : ∃ e, l2Tag k (pc / 32) = some e := by
  obtain ⟨e, tag, -⟩ := Option.bind_eq_some_iff.mp present
  exact ⟨e, tag⟩

/-- With WT clear, memory stays. -/
theorem mem_homeWrite_present {s : State} {home pa : Nat} {bytes : List Byte} {bcmp : Bool} {psn : Nat} {p : Piece}
    (present : l2Piece (getCore s home) (pa / 64) = some p)
    (fits : sectorsOf (if p.pin then 0 else codingOf (spliceBytes p.data (pa % 64) bytes)) ≤ sectorsOf p.coding) :
    (homeWrite s home pa bytes false bcmp psn).mem = s.mem := by
  rw [homeWrite_present present fits, if_neg Bool.false_ne_true, storePuts, mem_countCoding, l2Put]
  exact mem_storeReports s home pa bytes p

/-- Splicing changes the bytes it names and no other. -/
theorem getElem?_spliceBytes {data bytes : List Byte} {off : Nat} (inside : off + bytes.length ≤ data.length) (i : Nat) :
    (spliceBytes data off bytes)[i]? = if off ≤ i ∧ i < off + bytes.length then bytes[i - off]? else data[i]? := by
  have front : (data.take off).length = off := by rw [List.length_take]; omega
  unfold spliceBytes
  rcases Nat.lt_or_ge i off with before | from_
  · rw [if_neg (by omega), List.append_assoc, List.getElem?_append_left (by omega), List.getElem?_take_of_lt before]
  rcases Nat.lt_or_ge i (off + bytes.length) with within | after
  · rw [if_pos ⟨from_, within⟩, List.append_assoc, List.getElem?_append_right (by omega), front, List.getElem?_append_left (by omega)]
  · rw [if_neg (by omega), List.getElem?_append_right (by rw [List.length_append]; omega), List.length_append, front, List.getElem?_drop,
      Nat.add_sub_cancel' after]

/-- Settles O58: the store first, then what a lane's load, store and atomic are. -/
theorem storesAtHome : Obligations.StoresAtHome := by
  refine ⟨fun s home pa bytes wt bcmp psn p present size inPiece fits kept => ⟨?_, ?_, fun pc other => ?_, ?_⟩,
    fun s home q pa place load plain => ?_, fun s home q pa place store => ?_, fun s home q pa place atomic => ?_⟩
  · obtain ⟨e, tag⟩ := l2Tag_of_piece present
    refine ⟨storedPiece p pa bytes wt psn, ?_, rfl, rfl, rfl⟩
    rw [l2Piece_homeWrite present fits tag (kept e tag), l2Piece_putPiece_same tag]
  · exact getElem?_spliceBytes (by omega)
  · obtain ⟨e, tag⟩ := l2Tag_of_piece present
    rw [l2Piece_homeWrite present fits tag (kept e tag), l2Piece_putPiece_other tag _ _ other]
  · rintro rfl
    exact mem_homeWrite_present present fits
  · simp only [serveLane, load, place, plain, locRead, locSeen, List.foldl_nil, and_self]
  · simp only [serveLane, store, place, locWrite]
  · simp only [serveLane, atomic, place, locRead, locSeen, locWrite, if_true, and_self]

end Sys2Proof.Proofs

/-!
One lane of a memory instruction (R49, R71, R193, R391, R433).
-/
namespace Sys2Proof.Proofs

open Machine Claims Laws

/-- A translation used or asked for leaves every fibre and memory. -/
theorem getFib_tlbNote (s : State) (core sl va : Nat) (f : FRef) : getFib (tlbNote s core sl va) f = getFib s f := by
  unfold tlbNote
  split <;> rfl

theorem mem_tlbNote (s : State) (core sl va : Nat) : (tlbNote s core sl va).mem = s.mem := by
  unfold tlbNote
  split <;> rfl

/-- What a lane notes of its address leaves every fibre and memory. -/
theorem getFib_noteAccess (s : State) (f g : FRef) (op : MemOp) : getFib (noteAccess s f op) g = getFib s g := by
  unfold noteAccess
  split
  · rfl
  · exact getFib_tlbNote _ _ _ _ _

theorem mem_noteAccess (s : State) (f : FRef) (op : MemOp) : (noteAccess s f op).mem = s.mem := by
  unfold noteAccess
  split
  · rfl
  · exact mem_tlbNote _ _ _ _

/-- An atomic's identity leaves what the access asks for, every fibre and memory. -/
theorem withRid_keeps (s : State) (core pkg : Nat) (op : MemOp) :
    (withRid s core pkg op).1.kind = op.kind ∧ (withRid s core pkg op).1.data = op.data ∧ (withRid s core pkg op).1.size = op.size ∧
      (withRid s core pkg op).1.dst = op.dst ∧ (∀ f, getFib (withRid s core pkg op).2 f = getFib s f) ∧ (withRid s core pkg op).2.mem = s.mem := by
  unfold withRid
  split
  · split
    · exact ⟨rfl, rfl, rfl, rfl, fun _ => rfl, rfl⟩
    · exact ⟨rfl, rfl, rfl, rfl, fun _ => rfl, rfl⟩
  · exact ⟨rfl, rfl, rfl, rfl, fun _ => rfl, rfl⟩

theorem issueLane_traps {s : State} {is : Issue} {l : Nat} {op : MemOp} {res : Bool} {x : Fibre} {c d : Nat} (hx : getFib s (is.fref l) = some x)
    (rst : fsrRST x = false) (helper : x.origin.helper = false) (fails : checkOp s (is.fref l) x op = .trap c d) :
    issueLane s is l op res = (takeTrap s (is.fref l) is.pc (trapAt c d (eaOf s (is.fref l) op)), .none) := by
  simp only [issueLane, hx, rst, helper, fails, Bool.false_eq_true, false_and, if_false]

theorem issueLane_blend {s : State} {is : Issue} {l : Nat} {op : MemOp} {res : Bool} {x : Fibre} (hx : getFib s (is.fref l) = some x)
    (rst : fsrRST x = true) (blend : op.kind = .blend) : issueLane s is l op res = (takeTrap s (is.fref l) is.pc (trapOf 0 0x0E), .none) := by
  simp only [issueLane, hx, rst, blend, true_or, and_self, if_true]

theorem issueLane_helper {s : State} {is : Issue} {l : Nat} {op : MemOp} {res : Bool} {x : Fibre} (hx : getFib s (is.fref l) = some x)
    (rst : fsrRST x = false) (helper : x.origin.helper = true) (store : op.kind = .store) : issueLane s is l op res = (s, .none) := by
  simp only [issueLane, hx, rst, helper, store, Bool.false_eq_true, false_and, if_false, or_true, and_self, if_true]

/-- The fibre while its access's result is awaited, where it has one. -/
def awaiting (res : Bool) (lid : Nat) (x : Fibre) : Fibre := if res then addLL x lid else x

theorem regs_awaiting (res : Bool) (lid : Nat) (x : Fibre) : (awaiting res lid x).regs = x.regs := by
  unfold awaiting
  split <;> rfl

theorem accs_awaiting (res : Bool) (lid : Nat) (x : Fibre) : (awaiting res lid x).accs = x.accs := by
  unfold awaiting
  split <;> rfl

/-- The state when the lane's identities are given out, and then its request with an identity at a foreign package. -/
def issueStart (s : State) (f : FRef) (op : MemOp) : State := afterId (afterId (noteAccess s f op))

/-- The state in which the lane's result is awaited. -/
def issueAwaits (s : State) (f : FRef) (op : MemOp) (res : Bool) (t : Target) : State :=
  modFib (withRid (issueStart s f op) f.core t.pkg op).2 f (awaiting res ((noteAccess s f op).nextId + 2))

/-- The record of the lane's access. -/
def issueRecord (s : State) (f : FRef) (op : MemOp) (res : Bool) (t : Target) : Acc :=
  accRec (issueAwaits s f op res t) ((noteAccess s f op).nextId + 1) op (some t.loc)

/-- The state with the access recorded. -/
def issueRecords (s : State) (f : FRef) (op : MemOp) (res : Bool) (t : Target) : State :=
  addAcc (issueAwaits s f op res t) f (issueRecord s f op res t)

theorem issueLane_requests {s : State} {is : Issue} {l : Nat} {op : MemOp} {res : Bool} {x : Fibre} {t : Target} (hx : getFib s (is.fref l) = some x)
    (rst : fsrRST x = false) (helper : x.origin.helper = false) (passes : checkOp s (is.fref l) x op = .ok t) :
    ∃ fwd, issueLane s is l op res = (issueRecords s (is.fref l) op res t,
      .req (laneReq x (is.fref l) ((noteAccess s (is.fref l) op).nextId + 1) (if res then (noteAccess s (is.fref l) op).nextId + 2 else 0) t
        (withRid (issueStart s (is.fref l) op) is.core t.pkg op).1 fwd) t.home t.pkg) := by
  simp only [issueLane, hx, rst, helper, passes, Bool.false_eq_true, false_and, if_false]
  exact ⟨_, rfl⟩

theorem getFib_issueRecords {s : State} {f : FRef} {x : Fibre} (hx : getFib s f = some x) (op : MemOp) (res : Bool) (t : Target) :
    ∃ y a, getFib (issueRecords s f op res t) f = some y ∧ y.regs = x.regs ∧ y.accs = x.accs ++ [a] ∧ a.id = (noteAccess s f op).nextId + 1 ∧
      a.loc = some t.loc ∧ a.path = op.path := by
  have before : getFib (withRid (issueStart s f op) f.core t.pkg op).2 f = some x := by
    obtain ⟨-, -, -, -, fibres, -⟩ := withRid_keeps (issueStart s f op) f.core t.pkg op
    rw [fibres]
    exact (getFib_noteAccess s f f op).trans hx
  have awaits : getFib (issueAwaits s f op res t) f = some (awaiting res ((noteAccess s f op).nextId + 2) x) := by
    rw [issueAwaits, getFib_modFib_self, before, Option.map_some]
  refine ⟨_, issueRecord s f op res t, by rw [issueRecords, addAcc, getFib_modFib_self, awaits, Option.map_some], ?_, ?_, rfl, rfl, rfl⟩
  · exact regs_awaiting _ _ _
  · exact congrArg (· ++ _) (accs_awaiting _ _ _)

theorem mem_issueRecords (s : State) (f : FRef) (op : MemOp) (res : Bool) (t : Target) : (issueRecords s f op res t).mem = s.mem := by
  obtain ⟨-, -, -, -, -, mem⟩ := withRid_keeps (issueStart s f op) f.core t.pkg op
  simp only [issueRecords, issueAwaits, addAcc, modFib_mem, mem]
  exact mem_noteAccess s f op

/-- Settles O59: the trap, the request, and the two refusals. -/
theorem laneAccesses : Obligations.LaneAccesses := by
  refine ⟨fun s is l op res x c d hx rst helper fails => issueLane_traps hx rst helper fails,
    fun s is l op res x t hx rst helper passes => ?_, fun s is l op res x hx rst blend => issueLane_blend hx rst blend,
    fun s is l op res x hx rst helper store => issueLane_helper hx rst helper store⟩
  obtain ⟨fwd, issued⟩ := issueLane_requests (res := res) hx rst helper passes
  obtain ⟨kind, data, size, dst, -, -⟩ := withRid_keeps (issueStart s (is.fref l) op) is.core t.pkg op
  exact ⟨_, _, issued, rfl, rfl, kind, data, size, dst, mem_issueRecords s _ op res t, getFib_issueRecords hx op res t⟩

end Sys2Proof.Proofs

/-!
The frame of the lanes that only set waits, records and packets: memory, cisterns, L2 slices and the fibres' data stay (R48, R195).
-/
namespace Sys2Proof.Proofs

open Machine Claims Laws

/-! ## What is kept -/

/-- A fibre's data: its registers, predicates, FSR, return stack and PC. -/
def fibreData (y : Fibre) : List Word × BitVec 16 × Word × List Word × Word := (y.regs, y.preds, y.fsr, y.stack, y.pc)

/-- Memory, every cistern and L2 slice, and every fibre's data are the same. -/
structure DataKept (s t : State) : Prop where
  mem : t.mem = s.mem
  memPoison : t.memPoison = s.memPoison
  blockState : t.blockState = s.blockState
  cores : ∀ c, (getCore t c).cistern = (getCore s c).cistern ∧ (getCore t c).l2 = (getCore s c).l2
  fibres : ∀ f, (getFib t f).map fibreData = (getFib s f).map fibreData

theorem DataKept.refl (s : State) : DataKept s s := ⟨rfl, rfl, rfl, fun _ => ⟨rfl, rfl⟩, fun _ => rfl⟩

theorem DataKept.trans {s t u : State} (a : DataKept s t) (b : DataKept t u) : DataKept s u where
  mem := b.mem.trans a.mem
  memPoison := b.memPoison.trans a.memPoison
  blockState := b.blockState.trans a.blockState
  cores c := ⟨(b.cores c).1.trans (a.cores c).1, (b.cores c).2.trans (a.cores c).2⟩
  fibres f := (b.fibres f).trans (a.fibres f)

section
variable {s t : State}

/-- Another identity changes no data. -/
theorem DataKept.nextId (kept : DataKept s t) (n : Nat) : DataKept s { t with nextId := n } :=
  kept.trans ⟨rfl, rfl, rfl, fun _ => ⟨rfl, rfl⟩, fun _ => rfl⟩

/-- A change of a fibre that leaves its data. -/
theorem DataKept.modFib (kept : DataKept s t) {f : FRef} {g : Fibre → Fibre} (keeps : ∀ x, fibreData (g x) = fibreData x) : DataKept s (modFib t f g) :=
  kept.trans {
    mem := modFib_mem t f g
    memPoison := modFib_memPoison t f g
    blockState := by unfold Machine.modFib; split <;> rfl
    cores := fun c => by rw [getCore_modFib]; exact ⟨rfl, rfl⟩
    fibres := fun f' => by
      by_cases same : f' = f
      · subst same
        rw [getFib_modFib_self, Option.map_map]
        exact congrArg (fun k => Option.map k _) (funext keeps)
      · rw [getFib_modFib_ne _ _ same] }

/-- A fibre put back with the same data. -/
theorem DataKept.putFib (kept : DataKept s t) {f : FRef} {x y : Fibre} (hx : getFib t f = some x) (keeps : fibreData y = fibreData x) :
    DataKept s (putFib t f y) :=
  kept.trans {
    mem := rfl
    memPoison := rfl
    blockState := rfl
    cores := fun _ => ⟨rfl, rfl⟩
    fibres := fun f' => by
      by_cases same : f' = f
      · subst same
        rw [getFib_putFib_self, hx, Option.map_some, Option.map_some, keeps]
      · rw [getFib_putFib_ne _ _ same] }

/-- A change of a core that leaves its cistern and its L2 slice. -/
theorem DataKept.modCore (kept : DataKept s t) {c : Nat} {g : Core → Core} (keeps : ∀ k, (g k).cistern = k.cistern ∧ (g k).l2 = k.l2) :
    DataKept s (modCore t c g) :=
  kept.trans {
    mem := rfl
    memPoison := rfl
    blockState := rfl
    cores := fun d => by
      by_cases same : d = c
      · subst same
        rw [getCore_modCore_self]
        exact keeps _
      · rw [getCore_modCore_ne _ _ same]
        exact ⟨rfl, rfl⟩
    fibres := fun _ => rfl }

/-- Steps one after the other. -/
theorem DataKept.foldl {α : Type} {body : State → α → State} (keeps : ∀ s t a, DataKept s t → DataKept s (body t a)) :
    ∀ (l : List α) {t : State}, DataKept s t → DataKept s (l.foldl body t)
  | [], _, kept => kept
  | a :: l, t, kept => DataKept.foldl keeps l (keeps s t a kept)

/-! ## Buffers, waits, records and packets -/

theorem DataKept.bufAdd (kept : DataKept s t) (core part : Nat) (e : BufEntry) : DataKept s (bufAdd t core part e) := by
  unfold Machine.bufAdd modPart
  exact kept.modCore fun _ => ⟨rfl, rfl⟩

theorem DataKept.waitEntry (kept : DataKept s t) (f : FRef) (eid : Nat) : DataKept s (waitEntry t f eid) := by
  unfold Machine.waitEntry
  exact kept.modFib fun _ => rfl

theorem DataKept.addAcc (kept : DataKept s t) (f : FRef) (a : Acc) : DataKept s (addAcc t f a) := by
  unfold Machine.addAcc
  exact kept.modFib fun _ => rfl

theorem DataKept.newPacket (kept : DataKept s t) (vc : VC) (kind src dst dpkg flits : Nat) (tags : BitVec 18) (body : Body) :
    DataKept s (newPacket t vc kind src dst dpkg flits tags body).2 := kept.nextId _

/-- An entry of the issue buffer for which its fibre waits. -/
theorem DataKept.enters (kept : DataKept s t) (core part : Nat) (e : BufEntry) (f : FRef) (eid : Nat) :
    DataKept s (Machine.waitEntry (Machine.bufAdd t core part e) f eid) := (kept.bufAdd core part e).waitEntry f eid

theorem DataKept.bufPut (kept : DataKept s t) (core part : Nat) (e : BufEntry) : DataKept s (bufPut t core part e) := by
  unfold Machine.bufPut
  exact (kept.bufAdd core part e).modFib fun _ => rfl

theorem DataKept.recorded (kept : DataKept s t) (f : FRef) (res : Bool) (a : Acc) (ll : Nat) : DataKept s (recorded t f res a ll) := by
  unfold Claims.recorded
  refine DataKept.addAcc ?_ f a
  split
  · exact kept.modFib fun _ => rfl
  · exact kept

theorem DataKept.sendSection (kept : DataKept s t) (is : Issue) (eid opc : Nat) (f : FRef) (x : Fibre) (id : Nat) (key : DWord) (seq : Word) :
    DataKept s (sendSection t is eid opc f x id key seq) := by
  unfold Machine.sendSection
  refine DataKept.enters ?_ _ _ _ _ _
  exact kept.nextId _

theorem DataKept.tlbNote (kept : DataKept s t) (core sl va : Nat) : DataKept s (tlbNote t core sl va) := by
  unfold Machine.tlbNote
  split
  · unfold tlbFill
    exact kept.modCore fun _ => ⟨rfl, rfl⟩
  · exact kept.modCore fun _ => ⟨rfl, rfl⟩

theorem DataKept.addCorePend (kept : DataKept s t) (is : Issue) (dist : Nat) (e : CoreEff) : DataKept s (addCorePend t is dist e) := by
  unfold Machine.addCorePend modPart
  exact kept.modCore fun _ => ⟨rfl, rfl⟩

theorem DataKept.sendCtl (kept : DataKept s t) (is : Issue) (eid : Nat) (f : FRef) (id key : Nat) (v : DWord) : DataKept s (sendCtl t is eid f id key v) := by
  unfold Machine.sendCtl
  refine DataKept.enters ?_ _ _ _ _ _
  exact (kept.addAcc f _).nextId _

theorem DataKept.userPacket (kept : DataKept s t) (f : FRef) (cls dst dpkg : Nat) (tag : BitVec 18) (words : List Word) :
    DataKept s (userPacket t f cls dst dpkg tag words).2 := kept.nextId _

theorem DataKept.sendPacket (kept : DataKept s t) (is : Issue) (eid : Nat) (f : FRef) (p : Packet) : DataKept s (sendPacket t is eid f p) := by
  unfold Machine.sendPacket
  split
  · exact kept
  split
  · exact kept.enters _ _ _ _ _
  · exact ((kept.nextId _).addAcc f _).enters _ _ _ _ _

theorem DataKept.rangeSend (kept : DataKept s t) (is : Issue) (eid opc : Nat) (f : FRef) (x : Fibre) (i : Instr) (va : DWord)
    (hs : List (Nat × Nat × Nat × Bool)) : DataKept s (rangeSend t is eid opc f x i va hs) := by
  unfold Machine.rangeSend
  refine DataKept.foldl (fun s t k kept => ?_) _ kept
  dsimp only
  refine DataKept.enters ?_ _ _ _ _ _
  refine DataKept.nextId (t := if opc = 0 then (freshId t).2 else _) ?_ _
  split
  · exact kept.nextId _
  · exact (kept.nextId _).addAcc _ _

/-- Page faults posted: their fibres wait in the mailbox. -/
theorem DataKept.postPageFaults (kept : DataKept s t) (core slot : Nat) (pc : Word) (acc : Nat) (flts : List (Nat × DWord × Nat × Retry)) :
    DataKept s (postPageFaults t core slot pc acc flts) := by
  have waits := DataKept.foldl (body := fun s (e : Nat × DWord × Nat × Retry) => Machine.modFib s ⟨core, slot, e.1⟩ fun x =>
    { x with waits := x.waits ++ [.mailbox pc e.2.1 e.2.2.2] }) (fun s t e kept => kept.modFib fun _ => rfl) flts kept
  exact ⟨waits.mem, waits.memPoison, waits.blockState, waits.cores, waits.fibres⟩

end

/-- Pending results are not data yet. -/
theorem fibreData_addPends (dist : Nat) : ∀ (l : List Eff) (x : Fibre), fibreData (addPends x dist l) = fibreData x
  | [], _ => rfl
  | e :: l, x => (fibreData_addPends dist l (addPend x dist e)).trans rfl

theorem fibreData_wakeFibre (x : Fibre) : fibreData (wakeFibre x) = fibreData x := by
  unfold wakeFibre
  dsimp only
  split <;> rfl

/-! ## Lanes -/

/-- A lane keeps data where what it does keeps them. -/
def KeepsData (s' : State) : LaneAct → Prop
  | .does t => DataKept s' t
  | _ => True

theorem leavesData_of_keepsData {eff : State → Issue → State → Nat → Fibre → LaneAct}
    (keeps : ∀ s is s' l x, getFib s' (is.fref l) = some x → KeepsData s' (eff s is s' l x)) : LeavesData eff := by
  intro s is s' l x t hx does
  have kept := keeps s is s' l x hx
  rw [does] at kept
  exact ⟨kept.mem, kept.memPoison, kept.blockState, kept.cores, kept.fibres⟩

theorem keepsData_pageActAs {s' t : State} (kept : DataKept s' t) (f : FRef) (pc : Word) (va k acc : Nat) (mk : Nat → Acc) (ll : Bool) (i : Instr) (x : Fibre) :
    KeepsData s' (pageActAs t f pc va k acc mk ll i x) := by
  refine DataKept.postPageFaults (DataKept.modFib (DataKept.nextId kept _) fun y => ?_) _ _ _ _ _
  cases ll <;> rfl

theorem keepsData_sentAct {s' t : State} (kept : DataKept s' t) (is : Issue) (eid : Nat) (f : FRef) (p : Packet) (own : Option TrapInfo) :
    KeepsData s' (sentAct t is eid f p own) := by
  unfold sentAct
  split
  · trivial
  split
  · trivial
  split
  · trivial
  split
  · trivial
  · exact kept.sendPacket _ _ _ _

theorem leavesData_branch (tgt) : LeavesData (branchAct tgt) := leavesData_of_keepsData fun s is s' l x hx => by
  unfold branchAct
  split
  · trivial
  split
  · trivial
  split
  · trivial
  split
  · trivial
  · exact DataKept.modFib (.refl s') fun _ => rfl

theorem leavesData_fwait (o) : LeavesData (fwaitAct o) := leavesData_of_keepsData fun s is s' l x hx => by
  unfold fwaitAct
  dsimp only
  split
  · trivial
  split
  · exact DataKept.putFib (DataKept.nextId (.refl s') _) hx rfl
  · exact DataKept.putFib (DataKept.nextId (.refl s') _) hx rfl

theorem leavesData_park (o) : LeavesData (parkAct o) := leavesData_of_keepsData fun s is s' l x hx => by
  refine DataKept.putFib (.refl s') hx ?_
  split <;> rfl

theorem leavesData_wake (o) : LeavesData (wakeAct o) := leavesData_of_keepsData fun s is s' l x hx => by
  unfold wakeAct
  split
  · exact .refl s'
  dsimp only
  split
  · exact DataKept.modFib (.refl s') fibreData_wakeFibre
  · exact .refl s'

theorem leavesData_wakeGrp (o) : LeavesData (wakeGrpAct o) := leavesData_of_keepsData fun s is s' l x hx => by
  unfold wakeGrpAct
  split
  · exact .refl s'
  split
  · exact DataKept.foldl (fun _ _ _ kept => kept.modFib fibreData_wakeFibre) _ (.refl s')
  · exact .refl s'

theorem leavesData_tret : LeavesData tretAct := leavesData_of_keepsData fun s is s' l x hx => by
  unfold tretAct
  dsimp only
  split
  · refine DataKept.enters ?_ _ _ _ _ _
    unfold goTo
    exact DataKept.modFib (.refl s') fun _ => rfl
  · trivial

theorem leavesData_basin (o ns) : LeavesData (basinAct o ns) := leavesData_of_keepsData fun s is s' l x hx =>
  DataKept.enters (.refl s') _ _ _ _ _

theorem leavesData_basinOwn : LeavesData basinOwnAct := leavesData_of_keepsData fun s is s' l x hx => by
  unfold basinOwnAct
  split
  · exact .refl s'
  split
  · trivial
  · exact DataKept.enters (.refl s') _ _ _ _ _

theorem leavesData_ctlrd (h o) : LeavesData (ctlrdAct h o) := leavesData_of_keepsData fun s is s' l x hx => by
  unfold ctlrdAct
  dsimp only
  split
  · exact DataKept.putFib (.refl s') hx (fibreData_addPends 3 _ x)
  · trivial

theorem leavesData_ctlwr (h o) : LeavesData (ctlwrAct h o) := leavesData_of_keepsData fun s is s' l x hx => by
  unfold ctlwrAct
  dsimp only
  split
  · have written := (DataKept.nextId (.refl s') (s'.nextId + 1)).addCorePend is 3 (.ctl (addrKey s' (is.fref l) o.imm)
      (if h.mod = 1#8 then pairOf (regOf x o.a.toNat) (regOf x (o.a.toNat + 1)) else (regOf x o.a.toNat).setWidth 64) (s'.nextId + 1))
    simp only [KeepsData]
    split
    · exact written
    · exact written.sendCtl _ _ _ _ _ _
  · trivial

theorem leavesData_launch (i o) : LeavesData (launchAct i o) := leavesData_of_keepsData fun s is s' l x hx => by
  unfold launchAct
  dsimp only
  split
  · trivial
  split
  · refine DataKept.bufPut ?_ _ _ _
    exact (DataKept.nextId (.refl s') _).modFib fun _ => rfl
  · trivial
  · exact keepsData_pageActAs (.refl s') _ _ _ _ _ _ _ _ _
  · trivial

theorem leavesData_quiesce (o) : LeavesData (quiesceAct o) := leavesData_of_keepsData fun s is s' l x hx => by
  unfold quiesceAct
  dsimp only
  split
  · refine DataKept.modFib ?_ fun _ => rfl
    exact (DataKept.nextId (.refl s') _).modCore fun _ => ⟨rfl, rfl⟩
  · trivial

theorem leavesData_quiesceOpen (o) : LeavesData (quiesceOpenAct o) := leavesData_of_keepsData fun s is s' l x hx => by
  unfold quiesceOpenAct
  dsimp only
  split
  · refine DataKept.modFib ?_ fun _ => rfl
    exact (DataKept.nextId (.refl s') _).modCore fun _ => ⟨rfl, rfl⟩
  · trivial

theorem leavesData_range (i n o) : LeavesData (rangeAct i n o) := leavesData_of_keepsData fun s is s' l x hx => by
  unfold rangeAct
  dsimp only
  split
  · trivial
  split
  · exact DataKept.rangeSend (.refl s') _ _ _ _ _ _ _ _
  · trivial
  · exact keepsData_pageActAs (.refl s') _ _ _ _ _ _ _ _ _
  · trivial

theorem leavesData_migr (i o) : LeavesData (migrAct i o) := leavesData_of_keepsData fun s is s' l x hx => by
  unfold migrAct
  dsimp only
  split
  · trivial
  split
  · trivial
  · exact keepsData_pageActAs (.refl s') _ _ _ _ _ _ _ _ _
  · trivial
  split
  · trivial
  split
  · exact .refl s'
  · refine DataKept.enters ?_ _ _ _ _ _
    exact (DataKept.nextId (.refl s') (s'.nextId + 1)).nextId _

theorem leavesData_copy (i mk) : LeavesData (copyAct i mk) := leavesData_of_keepsData fun s is s' l x hx => by
  unfold copyAct
  dsimp only
  split
  · trivial
  split
  · refine DataKept.enters ?_ _ _ _ _ _
    exact (DataKept.nextId (.refl s') _).addAcc _ _
  · trivial
  · exact keepsData_pageActAs (DataKept.nextId (.refl s') _) _ _ _ _ _ _ _ _ _
  · trivial

theorem leavesData_combine (i o) : LeavesData (combineAct i o) := leavesData_of_keepsData fun s is s' l x hx => by
  unfold combineAct
  dsimp only
  split
  · trivial
  split
  · refine DataKept.enters ?_ _ _ _ _ _
    exact (((DataKept.tlbNote (.refl s') _ _ _).nextId _).recorded _ _ _ _).nextId _
  · trivial
  · exact keepsData_pageActAs (.refl s') _ _ _ _ _ _ _ _ _

theorem leavesData_cmbreg (i o) : LeavesData (cmbregAct i o) := leavesData_of_keepsData fun s is s' l x hx => by
  unfold cmbregAct
  dsimp only
  split
  · trivial
  split
  · split_ifs
    · trivial
    · refine DataKept.enters ?_ _ _ _ _ _
      exact (((DataKept.tlbNote (.refl s') _ _ _).nextId _).recorded _ _ _ _).nextId _
  · trivial
  · exact keepsData_pageActAs (.refl s') _ _ _ _ _ _ _ _ _

theorem leavesData_osent (o) : LeavesData (osentAct o) := leavesData_of_keepsData fun s is s' l x hx => by
  unfold osentAct
  dsimp only
  split
  · trivial
  · refine DataKept.sendSection (DataKept.addAcc ?_ _ _) _ _ _ _ _ _ _ _
    exact (DataKept.nextId (.refl s') _).modFib fun _ => rfl

theorem leavesData_osleave (o) : LeavesData (osleaveAct o) := leavesData_of_keepsData fun s is s' l x hx => by
  unfold osleaveAct
  dsimp only
  split
  · trivial
  · refine DataKept.sendSection (DataKept.addAcc ?_ _ _) _ _ _ _ _ _ _ _
    exact (DataKept.nextId (.refl s') _).modFib fun _ => rfl

theorem leavesData_osskip (o) : LeavesData (osskipAct o) := leavesData_of_keepsData fun s is s' l x hx => by
  refine DataKept.sendSection (DataKept.addAcc ?_ _ _) _ _ _ _ _ _ _ _
  exact (DataKept.nextId (.refl s') _).modFib fun _ => rfl

theorem leavesData_send (o) : LeavesData (sendAct o) := leavesData_of_keepsData fun s is s' l x hx =>
  keepsData_sentAct (DataKept.userPacket (.refl s') _ _ _ _ _ _) _ _ _ _ _

theorem leavesData_sendr (o) : LeavesData (sendrAct o) := leavesData_of_keepsData fun s is s' l x hx => by
  unfold sendrAct
  dsimp only
  split
  · trivial
  split
  · trivial
  split
  · trivial
  · refine DataKept.enters ?_ _ _ _ _ _
    exact ((DataKept.userPacket (.refl s') _ _ _ _ _ _).nextId _).recorded _ _ _ _

theorem leavesData_reply (o) : LeavesData (replyAct o) := leavesData_of_keepsData fun s is s' l x hx => by
  unfold replyAct
  dsimp only
  split
  · exact keepsData_sentAct (DataKept.newPacket (.refl s') _ _ _ _ _ _ _ _) _ _ _ _ _
  · exact keepsData_sentAct (DataKept.newPacket (.refl s') _ _ _ _ _ _ _ _) _ _ _ _ _

theorem leavesData_mbox (o) : LeavesData (mboxAct o) := leavesData_of_keepsData fun s is s' l x hx => by
  unfold mboxAct
  dsimp only
  split
  · trivial
  split
  · exact (DataKept.nextId (.refl s') _).modFib fun _ => rfl
  · refine DataKept.modFib ?_ fun _ => rfl
    exact (DataKept.nextId (.refl s') _).modCore fun _ => ⟨rfl, rfl⟩

theorem leavesData_mboxRp (o) : LeavesData (mboxRpAct o) := leavesData_of_keepsData fun s is s' l x hx => by
  unfold mboxRpAct
  dsimp only
  split
  · trivial
  · refine DataKept.enters ?_ _ _ _ _ _
    refine DataKept.nextId (t := modFib { s' with nextId := s'.nextId + 1 } (is.fref l) _) ?_ _
    exact (DataKept.nextId (.refl s') _).modFib fun _ => rfl

theorem leavesData_emit (o) : LeavesData (emitAct o) := leavesData_of_keepsData fun s is s' l x hx => by
  unfold emitAct
  dsimp only
  split
  · trivial
  · exact keepsData_sentAct (DataKept.newPacket (.refl s') _ _ _ _ _ _ _ _) _ _ _ _ _

/-- Settles O56: each instruction's lanes. -/
theorem issueLeavesData : Obligations.IssueLeavesData :=
  ⟨leavesData_branch, leavesData_fwait, leavesData_park, leavesData_wake, leavesData_wakeGrp, leavesData_tret, leavesData_basin, leavesData_basinOwn,
    leavesData_ctlrd, leavesData_ctlwr, leavesData_launch, leavesData_quiesce, leavesData_quiesceOpen, leavesData_range, leavesData_migr, leavesData_copy,
    leavesData_combine, leavesData_cmbreg, leavesData_osent, leavesData_osleave, leavesData_osskip, leavesData_send, leavesData_sendr, leavesData_reply,
    leavesData_mbox, leavesData_mboxRp, leavesData_emit⟩

end Sys2Proof.Proofs

/-!
Packets at and off their destination (R48, R180, R239, R446).
-/
namespace Sys2Proof.Proofs

open Machine Claims Laws

/-- A step for a packet that is not at its destination changes nothing. -/
theorem exec_packetStep_away : ∀ mk ∈ packetSteps, ∀ (s : State) (id : Nat), arrivedPacket s id = none → exec (mk id) s = .next s := by
  intro mk step s id away
  simp only [packetSteps, List.mem_cons, List.not_mem_nil, or_false] at step
  rcases step with rfl | rfl | rfl | rfl | rfl | rfl | rfl | rfl | rfl | rfl | rfl | rfl | rfl | rfl | rfl | rfl | rfl | rfl | rfl | rfl | rfl | rfl | rfl | rfl | rfl | rfl | rfl | rfl | rfl | rfl | rfl | rfl | rfl | rfl | rfl | rfl | rfl | rfl | rfl <;>
    simp only [exec, execLongLatencyResult, execLaunchMessage, execCodeLine, execShapeStore, execStartMessage, execWorkGraphRecord, execUserMessage,
      execReadRequest, execWriteRequest, execAtomicRequest, execReductionRequest, execRangeRequest, execWriteAcknowledgement, execCombineRequest,
      execSectionRequest, execSectionGrant, execSectionDeadlockProbe, execSectionWaitWithdrawal, execBarrierArrivalPacket, execBarrierCompletion,
      execLeaseRequest, execMatrixCommand, execEngineCompletion, execRayMessage, execHitRecord, execTreeletTransfer, execPumpCommand,
      execPumpInvalidation, execInvalidationAcknowledgement, execMigrationControl, execMigrationBlock, execFaultBatch, execFaultReply, execShootDown,
      execShootDownAcknowledgement, execPromotionRequest, execPromotionAcknowledgement, execErrorLogEntry, execCreditReturn, away]

/-- Settles O18: what each packet's step does at its destination. -/
theorem repliesDelivered : Obligations.RepliesDelivered := by
  refine ⟨exec_packetStep_away, ?_, ?_, ?_, ?_, ?_, ?_, ?_, ?_, ?_, ?_⟩
  · rintro s id p f gen ll acc psn effs ⟨here, body⟩ waits
    change execLongLatencyResult id s = _
    simp only [execLongLatencyResult, here, body, waits, if_true]
  · rintro s id p f gen acc ll effs ⟨here, body⟩ waits
    change execLongLatencyResult id s = _
    simp only [execLongLatencyResult, here, body, waits, if_true]
  · rintro s id p f gen ll acc psn effs (⟨here, body⟩ | ⟨here, body⟩) stale <;>
    · change execLongLatencyResult id s = _
      simp only [execLongLatencyResult, here, body, stale, Bool.false_eq_true, if_false]
  · rintro s id p tag kind ⟨here, body⟩
    change execLongLatencyResult id s = _
    simp only [execLongLatencyResult, here, body]
  · rintro s id p w ⟨here, body⟩ reply
    change execLongLatencyResult id s = _
    simp only [execLongLatencyResult, here, body, reply, if_true]
  · rintro s id p f acc ⟨here, body⟩ waits
    change execWriteAcknowledgement id s = _
    simp only [execWriteAcknowledgement, here, body, waits, if_true]
  · rintro s id p f acc ⟨here, body⟩ stale
    change execWriteAcknowledgement id s = _
    simp only [execWriteAcknowledgement, here, body, stale, Bool.false_eq_true, if_false]
  · rintro s id p team cidx st first acc f ⟨here, body⟩
    change execEngineCompletion id s = _
    simp only [execEngineCompletion, here, body]
  · rintro s id p sl t q n ⟨here, body⟩ some_credit
    change execCreditReturn id s = _
    simp only [execCreditReturn, here, body, if_neg some_credit]
  · rintro s id p stack seq f ⟨here, body⟩ isStack
    change execInvalidationAcknowledgement id s = _
    simp only [execInvalidationAcknowledgement, here, body, if_pos isStack]

end Sys2Proof.Proofs

/-!
Time limits (R273, R282, R410, R492): before a limit a unit's step changes nothing, from it on it acts.
-/
namespace Sys2Proof.Proofs

open Machine Claims Laws

/-- The PARK that a fibre's step finds is the one whose limit is due. -/
theorem find_park_eq_dueWait (s : State) (f : FRef) :
    ((getFib s f).bind fun x => x.waits.find? fun w => match w with | .park _ (some l) => reached s l | _ => false) = dueWait s f parkLimit := by
  unfold dueWait
  refine congrArg (Option.bind (getFib s f)) (funext fun x => congrArg (List.find? · x.waits) (funext fun w => ?_))
  cases w <;> try rfl
  next pc limit => cases limit <;> rfl

/-- The barrier wait that a fibre's step finds is the one whose limit is due. -/
theorem find_barrier_eq_dueWait {s : State} {f : FRef} {x : Fibre} (held : getFib s f = some x) :
    (x.waits.find? fun w => match w with | .barrier _ _ _ (some l) _ _ _ => reached s (l + 1) | _ => false) = dueWait s f barrierLimit := by
  unfold dueWait
  rw [held]
  refine congrArg (List.find? · x.waits) (funext fun w => ?_)
  cases w <;> try rfl
  next pc num parity limit ll dst acc => cases limit <;> rfl

/-- The QUIESCE wait that a fibre's step finds is the one whose limit is due. -/
theorem find_quiesce_eq_dueWait (s : State) (f : FRef) :
    ((getFib s f).bind fun x => x.waits.find? fun w => match w with | .quiesce _ (some l) _ _ => reached s l | _ => false) =
      dueWait s f quiesceLimit := by
  unfold dueWait
  refine congrArg (Option.bind (getFib s f)) (funext fun x => congrArg (List.find? · x.waits) (funext fun w => ?_))
  cases w <;> try rfl
  next c limit ll dst => cases limit <;> rfl

/-- Settles O19: each time limit, before it and from it on. -/
theorem waitsAndWatchdogs : Obligations.WaitsAndWatchdogs := by
  refine ⟨?_, ?_, ?_, ?_, ?_, ?_, ?_, ?_, ?_, ?_, ?_, ?_, ?_, ?_, ?_, ?_⟩
  · intro s core slot lane w due
    change execParkTimeout core slot lane s = _
    rw [← find_park_eq_dueWait] at due
    unfold execParkTimeout
    dsimp only
    erw [due]
  · intro s core slot lane notDue
    change execParkTimeout core slot lane s = _
    rw [← find_park_eq_dueWait] at notDue
    unfold execParkTimeout
    dsimp only
    erw [notDue]
  · intro s core slot lane x pc num par lim ll dst acc held due
    change execBarrierWaitTimeout core slot lane s = _
    rw [← find_barrier_eq_dueWait held] at due
    unfold execBarrierWaitTimeout
    simp only [held]
    erw [due]
  · intro s core slot lane notDue
    change execBarrierWaitTimeout core slot lane s = _
    unfold execBarrierWaitTimeout
    cases held : getFib s ⟨core, slot, lane⟩ with
    | none => simp only [held]
    | some x =>
      rw [← find_barrier_eq_dueWait held] at notDue
      simp only [held]
      erw [notDue]
  · intro s core slot lane c lim ll dst due
    change execQuiesceTimeout core slot lane s = _
    rw [← find_quiesce_eq_dueWait] at due
    unfold execQuiesceTimeout
    dsimp only
    erw [due]
  · intro s core slot lane notDue
    change execQuiesceTimeout core slot lane s = _
    rw [← find_quiesce_eq_dueWait] at notDue
    unfold execQuiesceTimeout
    dsimp only
    erw [notDue]
  · intro s core team t held early
    change execTeamWatchdogExpiry core team s = _
    have stays : (sliceCtl s core t.slice 0x108).toNat = 0 ∨ t.watchdog.toNat < (sliceCtl s core t.slice 0x108).toNat ∨ t.halted = true :=
      early.imp_right Or.inl
    simp only [execTeamWatchdogExpiry, held, if_pos stays]
  · intro s core team t held limited late runs noWaits
    change execTeamWatchdogExpiry core team s = _
    have acts : ¬ ((sliceCtl s core t.slice 0x108).toNat = 0 ∨ t.watchdog.toNat < (sliceCtl s core t.slice 0x108).toNat ∨ t.halted = true) := by
      simp [limited, late, runs]
    have noneParked : ((teamFibres (bump s core 0x044 1) core team).filterMap fun f => (getFib (bump s core 0x044 1) f).bind fun x =>
        (if x.ended then none else x.waits.find? fun w => (watchedWait w).isSome).map fun w =>
          (f, w, x.waits.filter fun w => (watchedWait w).isSome)) = [] := by
      refine List.filterMap_eq_nil_iff.mpr fun f member => ?_
      cases found : getFib (bump s core 0x044 1) f with
      | none => rfl
      | some x =>
        have unwatched : (x.waits.find? fun w => (watchedWait w).isSome) = none :=
          List.find?_eq_none.mpr fun w waits => by simp [noWaits f member x found w waits]
        simp [unwatched]
    simp only [execTeamWatchdogExpiry, held, if_neg acts]
    simp only [noneParked, List.isEmpty_nil, if_true]
  · intro s core n w held isOpen aged nobody
    change execCombinerWaveClose core n s = _
    simp only [execCombinerWaveClose, held]
    rw [if_neg (by simp only [isOpen, nobody, Bool.false_eq_true, or_false, false_or]; omega)]
  · intro s core n w held early
    change execCombinerWaveClose core n s = _
    simp only [execCombinerWaveClose, held, if_pos (Or.inr early : w.closed = true ∨ _)]
  · intro s core n r held old
    change execReplayFilterExpiry core n s = _
    have stale : fresh s r = false := decide_eq_false (by omega)
    simp only [execReplayFilterExpiry, held, stale, Bool.false_eq_true, if_false]
  · intro s core n r held young
    change execReplayFilterExpiry core n s = _
    have isFresh : fresh s r = true := decide_eq_true young
    simp only [execReplayFilterExpiry, held, isFresh, if_true]
  · intro s core bin r rest records aged undue
    change execBasinBinTimeout core bin s = _
    simp only [execBasinBinTimeout, records]
    rw [if_pos ⟨aged, by simp [undue]⟩]
  · intro s core sl t q n last held idle some_credit
    change execCreditIdleReturn core sl t q s = _
    simp only [execCreditIdleReturn, held]
    rw [if_neg (by omega)]
  · intro s core n w e held waiting running period late section_ isHeld
    change execSectionTimeoutProbe core n s = _
    have acts : ¬ (w.skip = true ∨ agePaused s w.f w.gen = true ∨ w.period = 0 ∨ (s.clk.extractLsb' 0 24 - w.wstart).toNat < w.period) := by
      simp only [waiting, running, period, Bool.false_eq_true, false_or, not_lt]
      exact late
    have found : secOf (modCore s core fun k => { k with
        waiters := k.waiters.map fun v => if v = w then { v with wstart := s.clk.extractLsb' 0 24 } else v }) core w.key = some e := by
      unfold secOf
      rw [getCore_modCore_self]
      exact section_
    simp only [execSectionTimeoutProbe, held, if_neg acts, found, isHeld, if_true]
  · intro s core n w held early
    change execSectionTimeoutProbe core n s = _
    have stays : w.skip = true ∨ agePaused s w.f w.gen = true ∨ w.period = 0 ∨ (s.clk.extractLsb' 0 24 - w.wstart).toNat < w.period :=
      .inr (.inr early)
    simp only [execSectionTimeoutProbe, held, if_pos stays]

end Sys2Proof.Proofs

/-!
Forming a batch where the list of fibres names one lane twice: a candidate counts the second entry, the lane is read from the first.
-/
namespace Sys2Proof.Proofs

open Machine Claims

/-- One lane with two entries: the entry in force has ended, the one behind it is ready. -/
def twiceNamed : State := { State.reset with
  fibres := [(⟨0, 0, 0⟩, { newFibre 32 0 0 0 [] Origin.none with ended := true }), (⟨0, 0, 0⟩, newFibre 32 0 0 0 [] Origin.none)] }

theorem twiceNamed_candidates : candidates twiceNamed 0 0 = [(0, 0)] := by decide

/-- No code at the candidate's PC asks for a token. -/
theorem twiceNamed_tokens : runTokens (getCore twiceNamed 0) 24 0 0 = 0 := by decide

/-- The candidate has no lane that is ready, and no batch forms. -/
theorem formBatch_twiceNamed : (getPart (formBatch twiceNamed 0 0) 0 0).batch = none := by decide

/-- Refutes O20: its clause on the next candidate does not ask that every lane has one entry in the list of fibres, and without that a
candidate need not have a ready lane. -/
theorem not_issueAndMessageArrival : ¬ Obligations.IssueAndMessageArrival := by
  unfold Obligations.IssueAndMessageArrival
  rintro ⟨-, -, forms, -⟩
  obtain ⟨t, b, run, batch, -⟩ := forms twiceNamed 0 0 (0, 0) (by decide) (by decide) (by decide) (by decide) (by decide) (by decide) (by decide)
    (by decide) (by decide) (by rw [twiceNamed_candidates]; simpa using twiceNamed_tokens)
  change Host.Outcome.next (formBatch twiceNamed 0 0) = _ at run
  cases run
  exact nomatch formBatch_twiceNamed.symm.trans batch

end Sys2Proof.Proofs

/-!
Requests at their home (R117, R187, R273): from the unheld request to its performance.
-/
namespace Sys2Proof.Proofs

open Machine Claims Laws

/-- A request that nothing at its home stands before is served by its piece. -/
theorem serveRequest_onPiece {s : State} {p : Packet} {l : List LaneReq} {pc : Nat} (kind : Nat) (first : requestBlocked s p = false)
    (room : filterFull s p.dst p l = false) (piece : reqPiece l = some pc) : serveRequest s p l kind = servePiece s p l kind pc := by
  simp only [serveRequest, first, room, Bool.false_eq_true, or_self, if_false, piece]

/-- What an unheld request finds of its piece decides: present, it is performed there unless the core that holds it must give it up;
absent, it waits, asks or is served without it. -/
theorem serveRequest_unheld {s : State} {p : Packet} {l : List LaneReq} {pc : Nat} (kind : Nat) (unheld : Unheld s p l pc) :
    serveRequest s p l kind =
      match l2Piece (getCore s p.dst) pc with
      | none =>
        if pinBefore s p pc then s
        else
          match promoOwing s p.dst pc with
          | some c => askPromotion s p.dst pc c
          | none => if ! (decide (kind = 2) && coversPiece l) && l2CanFill s p.dst pc then awaitFill s p pc else serveAbsent s p l kind pc
      | some x =>
        match promotionNeeded s p x l with
        | some c => askPromotion s p.dst pc c
        | none => servePresent s p l kind pc x := by
  obtain ⟨piece, first, room, alive, untested, alone, running, roomRunning, still⟩ := unheld
  have goes : ¬ ((channelPaused s (pc * 64) = true ∧ ((l2Piece (getCore s p.dst) pc).isNone = true ∨ l.any LaneReq.wt = true)) ∨
      (kind ≠ 1 ∧ evictPaused s p.dst pc = true)) := by
    rintro (held | ⟨-, held⟩)
    · exact running held
    · exact absurd held (by rw [roomRunning]; decide)
  rw [serveRequest_onPiece kind first room piece]
  simp only [servePiece, alive, untested, alone, Bool.false_eq_true, or_self, if_false, if_neg goes, still] <;> rfl

/-- Settles O21: each way a request at its home can go. -/
theorem requestsAtHomes : Obligations.RequestsAtHomes := by
  refine ⟨?_, ?_, ?_, ?_, ?_, ?_, ?_, ?_, ?_, ?_, ?_, ?_⟩
  · rintro s id p l ⟨here, body⟩
    change execReadRequest id s = _
    simp only [execReadRequest, here, body]
  · rintro s id p l ⟨here, body⟩
    change execWriteRequest id s = _
    simp only [execWriteRequest, here, body]
  · rintro s id p l ⟨here, body⟩
    change execAtomicRequest id s = _
    simp only [execAtomicRequest, here, body]
  · rintro s id p l ⟨here, body⟩
    change execReductionRequest id s = _
    simp only [execReductionRequest, here, body]
  · intro s p l kind held
    simp only [serveRequest, if_pos held]
  · intro s p l kind first room unplaced
    simp only [serveRequest, first, room, Bool.false_eq_true, or_self, if_false, unplaced]
    rfl
  · intro s p l kind pc x c unheld present needed
    rw [serveRequest_unheld kind unheld]
    simp only [present, needed]
    rfl
  · intro s p l kind pc x unheld present free noRelease partly firstTry
    have lanes : ¬ (kind = 2 ∧ coversPiece l = true) := by
      rintro ⟨isWrite, whole⟩
      exact partly.elim (· isWrite) fun part => absurd whole (by simp [part])
    rw [serveRequest_unheld kind unheld]
    simp only [present, free, servePresent, if_neg firstTry, if_neg lanes, noRelease, Bool.false_eq_true, if_false]
    rfl
  · intro s p l pc x unheld present free release part firstTry
    rw [serveRequest_unheld 2 unheld]
    simp only [present, free, servePresent, if_neg firstTry, part, Bool.false_eq_true, and_false, if_false, release, if_true]
    rfl
  · intro s p l kind pc unheld absent noPin noOwner partly canFill
    have lanes : (! (decide (kind = 2) && coversPiece l)) = true := by
      rcases partly with notWrite | part
      · simp [notWrite]
      · simp [part]
    rw [serveRequest_unheld kind unheld]
    simp only [absent, noPin, Bool.false_eq_true, if_false, noOwner, lanes, canFill, Bool.and_self, if_true]
  · intro s p l pc unheld absent noPin noOwner whole noRelease again
    rw [serveRequest_unheld 2 unheld]
    simp only [absent, noPin, Bool.false_eq_true, if_false, noOwner, whole, decide_true, Bool.and_self, Bool.not_true, Bool.false_and, serveAbsent, again,
      and_self, if_true, noRelease]
  · intro s p l kind pc first room piece failed
    rw [serveRequest_onPiece kind first room piece]
    simp only [servePiece, failed, if_true]

end Sys2Proof.Proofs

/-!
Homes, hops and walks (R116, R117, R166, R168, R258, R260): fills and range operations, one link of a packet's way, page walks and code lines.
-/
namespace Sys2Proof.Proofs

open Machine Claims Laws

/-- A router that is on a core's column and row is that core's. -/
theorem eq_of_stepXY_none {c d : Nat} (there : stepXY c d = none) : c = d := by
  have x : coreX c = coreX d := by
    unfold stepXY at there
    split_ifs at there
    omega
  have y : coreY c = coreY d := by
    unfold stepXY at there
    split_ifs at there
    omega
  unfold coreX at x
  unfold coreY at y
  omega

theorem coreX_coreAt {x : Nat} (y : Nat) (column : x < 36) : coreX (coreAt x y) = x := by unfold coreX coreAt; omega

theorem coreY_coreAt {x : Nat} (y : Nat) (column : x < 36) : coreY (coreAt x y) = y := by unfold coreY coreAt; omega

theorem coreAt_coreX_coreY (c : Nat) : coreAt (coreX c) (coreY c) = c := by unfold coreAt coreX coreY; omega

theorem coreX_lt (c : Nat) : coreX c < 36 := Nat.mod_lt _ (by decide)

theorem coreY_lt {c : Nat} (core : c < 576) : coreY c < 16 := by unfold coreY; omega

theorem coreAt_lt {x y : Nat} (column : x < 36) (row : y < 16) : coreAt x y < 576 := by unfold coreAt; omega

/-- A link leads to the router one column or one row away. -/
theorem neighbour_cases {c side n : Nat} (isSide : side < 4) (next : neighbour c side = some n) :
    (side = 0 ∧ coreX c ≠ 0 ∧ n = coreAt (coreX c - 1) (coreY c)) ∨ (side = 1 ∧ coreX c ≠ 35 ∧ n = coreAt (coreX c + 1) (coreY c)) ∨
      (side = 2 ∧ coreY c ≠ 0 ∧ n = coreAt (coreX c) (coreY c - 1)) ∨ (side = 3 ∧ coreY c ≠ 15 ∧ n = coreAt (coreX c) (coreY c + 1)) := by
  obtain rfl | rfl | rfl | rfl : side = 0 ∨ side = 1 ∨ side = 2 ∨ side = 3 := by omega
  all_goals
    simp only [neighbour, Option.ite_none_left_eq_some, Option.some.injEq] at next
    simp [next.1, next.2]

/-- Going back over a link leads to where it came from. -/
theorem neighbour_neighbour {c side n : Nat} (core : c < 576) (isSide : side < 4) (next : neighbour c side = some n) :
    n < 576 ∧ neighbour n (oppositeSide side) = some c := by
  have column := coreX_lt c
  have row := coreY_lt core
  have back := coreAt_coreX_coreY c
  rcases neighbour_cases isSide next with ⟨rfl, edge, rfl⟩ | ⟨rfl, edge, rfl⟩ | ⟨rfl, edge, rfl⟩ | ⟨rfl, edge, rfl⟩
  · refine ⟨coreAt_lt (by omega) row, ?_⟩
    simp only [neighbour, oppositeSide, coreX_coreAt _ (by omega : coreX c - 1 < 36), coreY_coreAt _ (by omega : coreX c - 1 < 36)]
    rw [if_neg (by omega), Nat.sub_add_cancel (by omega), back]
  · refine ⟨coreAt_lt (by omega) row, ?_⟩
    simp only [neighbour, oppositeSide, coreX_coreAt _ (by omega : coreX c + 1 < 36), coreY_coreAt _ (by omega : coreX c + 1 < 36)]
    rw [if_neg (by omega), Nat.add_sub_cancel, back]
  · refine ⟨coreAt_lt column (by omega), ?_⟩
    simp only [neighbour, oppositeSide, coreX_coreAt _ column, coreY_coreAt _ column]
    rw [if_neg (by omega), Nat.sub_add_cancel (by omega), back]
  · refine ⟨coreAt_lt column (by omega), ?_⟩
    simp only [neighbour, oppositeSide, coreX_coreAt _ column, coreY_coreAt _ column]
    rw [if_neg (by omega), Nat.add_sub_cancel, back]

/-- A packet of an input buffer that its port takes moves by that port. -/
theorem execPacketHop_granted {s : State} {id : Nat} {p q : Packet} (held : getPacket s id = some p) (here : p.arrived = false) (side : p.side < 6)
    (runs : underTest s 0x08 p.pos = false) (grant : granted s p (nextPort s p) = true) (move : movedBy p (nextPort s p) = some q) :
    execPacketHop id s =
      let t := turnTaken s p (nextPort s p)
      if q.arrived ∧ ! listedKind p.vc p.kind then
        let s := bump (dropPacket t id) p.dst 0x008 1
        .next (match p.body with
          | .user w => (match replyTagOf w with | some t => sendFailed s p.dst p.src p.spkg t 0x07 | none => s)
          | _ => s)
      else
        match (if q.arrived then savedFor t q else none) with
        | some (sl, task) => .next (keepMessage (dropPacket t id) sl task q)
        | none => .next (enterBuffer t q) := by
  have stays : ¬ (p.arrived = true ∨ p.side = 10 ∨ underTest s 0x08 p.pos = true) := by simp [here, runs]; omega
  simp only [execPacketHop, held, if_neg stays, if_neg (by omega : ¬ (p.side = 6 ∨ p.side = 9)), if_neg (by omega : ¬ p.side = 7), grant, Bool.not_true,
    Bool.false_eq_true, if_false, move] <;> rfl

/-- Settles O22: what a home, a router, a page walk and the instruction fetch do with each of their events. -/
theorem homesHopsAndWalks : Obligations.HomesHopsAndWalks := by
  refine ⟨?_, ?_, ?_, ?_, ?_, ?_, ?_, ?_, ?_, ?_, ?_, ?_, ?_, ?_, ?_, ?_, ?_, ?_, ?_, ?_, fun c d _ _ => eq_of_stepXY_none,
    fun c side n => neighbour_neighbour, ?_, ?_, ?_, ?_, ?_, ?_, ?_⟩
  · rintro s u core pc rfl waits running roomRunning untested alive place
    change execL2FillComplete core pc s = _
    have comes : ¬ ((getCore (modCore s core fun k => { k with homeWait := k.homeWait.filter fun n => decide (n ≠ pc) }) core).l2Failed = true ∨
        ((l2Piece (getCore (modCore s core fun k => { k with homeWait := k.homeWait.filter fun n => decide (n ≠ pc) }) core) pc).isNone = true ∧
          (! l2CanFill (modCore s core fun k => { k with homeWait := k.homeWait.filter fun n => decide (n ≠ pc) }) core pc) = true)) := by
      rintro (failed | ⟨absent, full⟩)
      · exact absurd failed (by rw [alive]; decide)
      · rcases place with present | room
        · rw [Option.isNone_iff_eq_none] at absent
          rw [absent] at present
          exact absurd present (by decide)
        · rw [room] at full
          exact absurd full (by decide)
    simp only [execL2FillComplete, waits, running, roomRunning, untested, Bool.not_false, and_self, if_true, if_neg comes]
  · intro s core pc idle
    change execL2FillComplete core pc s = _
    simp only [execL2FillComplete, idle, Bool.false_eq_true, false_and, if_false]
  · rintro s id p opc f acc pcs bcmp ⟨here, body⟩ goes owes alive asked
    change execRangeRequest id s = _
    simp only [execRangeRequest, here, body, goes, owes, alive, Bool.false_eq_true, if_false, if_neg asked]
  · rintro s id p opc f pcs bcmp ⟨here, body⟩ goes owes alive
    change execRangeRequest id s = _
    simp only [execRangeRequest, here, body, goes, owes, alive, Bool.false_eq_true, if_false, if_true]
  · rintro s id p opc f acc pcs bcmp ⟨here, body⟩ held
    change execRangeRequest id s = _
    simp only [execRangeRequest, here, body, held, if_true]
  · rintro s id p home pc again ⟨here, body⟩ done
    change execPromotionRequest id s = _
    simp only [execPromotionRequest, here, body, done, Bool.false_eq_true, if_false]
  · rintro s id p home pc again ⟨here, body⟩ held
    change execPromotionRequest id s = _
    simp only [execPromotionRequest, here, body, held, if_true]
  · rintro s id p pc n ⟨here, body⟩ none
    change execPromotionAcknowledgement id s = _
    simp only [execPromotionAcknowledgement, here, body, if_true, none, List.foldl_nil]
  · rintro s id p pc n ⟨here, body⟩ none
    change execPromotionAcknowledgement id s = _
    unfold tagCleared at none ⊢
    simp only [execPromotionAcknowledgement, here, body, Bool.false_eq_true, if_false, none, List.foldl_nil]
  · rintro s id p pc n q l ⟨here, body⟩ one read
    change execPromotionAcknowledgement id s = _
    unfold tagCleared at one ⊢
    simp only [execPromotionAcknowledgement, here, body, Bool.false_eq_true, if_false, one, List.foldl_cons, List.foldl_nil, read]
  · rintro s id p stack seq f pcs ⟨here, body⟩
    change execPumpInvalidation id s = _
    simp only [execPumpInvalidation, here, body]
  · rintro s id p port c held here side runs rfl grant link next
    change execPacketHop id s = _
    have move : movedBy p (nextPort s p) = some { p with
        pos := c, side := oppositeSide (nextPort s p), yxHalf := p.yxHalf && (p.pinned.isNone || atSource p) } := by
      simp only [movedBy, if_neg (by omega : ¬ nextPort s p = 7), if_neg (by omega : ¬ 4 ≤ nextPort s p), next, Option.map_some]
    rw [execPacketHop_granted held here side runs grant move]
    simp only [here, Bool.false_eq_true, false_and, if_false]
  · intro s id p held side refused
    change execPacketHop id s = _
    simp only [execPacketHop, held, if_neg (by omega : ¬ (p.side = 6 ∨ p.side = 9)), if_neg (by omega : ¬ p.side = 7), refused, Bool.not_false, if_true,
      ite_self]
  · intro s p port notReady
    rcases notReady with later | elsewhere
    · simp [granted, ready, later]
    · simp [granted, ready, elsewhere]
  · intro s p port q move full
    simp [granted, ready, move, full]
  · rintro s id p port held here side runs rfl grant core span kind notSaved
    change execPacketHop id s = _
    have move : movedBy p (nextPort s p) = some { p with side := nextPort s p, arrived := true } := by
      simp only [movedBy, if_neg span, if_pos core]
    rw [execPacketHop_granted held here side runs grant move]
    simp only [kind, Bool.not_true, Bool.false_eq_true, and_false, if_false, if_true, notSaved]
  · rintro s id p port held here side runs rfl grant core span kind notUser
    change execPacketHop id s = _
    have move : movedBy p (nextPort s p) = some { p with side := nextPort s p, arrived := true } := by
      simp only [movedBy, if_neg span, if_pos core]
    rw [execPacketHop_granted held here side runs grant move]
    simp only [kind, Bool.not_false, and_self, if_true]
  · intro s id p held stays
    change execPacketHop id s = _
    simp only [execPacketHop, held, if_pos stays]
  · intro s id p held here side runs
    change execPacketHop id s = _
    have goes : ¬ (p.arrived = true ∨ p.side = 10 ∨ underTest s 0x08 p.pos = true) := by simp [here, runs]; omega
    simp only [execPacketHop, held, if_neg goes, if_pos side]
  · intro s id p held here side runs
    change execPacketHop id s = _
    have goes : ¬ (p.arrived = true ∨ p.side = 10 ∨ underTest s 0x08 p.pos = true) := by simp [here, runs]; omega
    simp only [execPacketHop, held, if_neg goes, if_neg (by omega : ¬ (p.side = 6 ∨ p.side = 9)), if_pos side]
  · intro s core n slice va e walk found
    change execTlbWalkComplete core n s = _
    simp only [execTlbWalkComplete, walk, found]
  · intro s core n noWalk
    change execTlbWalkComplete core n s = _
    simp only [execTlbWalkComplete, noWalk]
  · intro s core line o object good
    change execFetchParityError core line s = _
    simp only [execFetchParityError, object, good, Bool.false_eq_true, if_false]
  · intro s core line o object bad
    change execFetchParityError core line s = _
    simp only [execFetchParityError, object, bad, if_true]
  · intro s core line noObject
    change execFetchParityError core line s = _
    simp only [execFetchParityError, noObject]
  · intro s core line o b bad object read parity
    change execCodeRefetchComplete core line true s = _
    simp only [execCodeRefetchComplete, bad, if_true, object, read, Option.filter_some, parity]
  · intro s core line good idle
    change execCodeRefetchComplete core line good s = _
    simp only [execCodeRefetchComplete, idle, Bool.false_eq_true, if_false]

end Sys2Proof.Proofs

/-!
Shared control registers and the error log (R57, R98, R303).
-/
namespace Sys2Proof.Proofs

open Machine Claims Laws

/-- With no early error to write and a log in place nothing is written ahead of an entry. -/
theorem flushEarly_of_empty {s : State} (early : s.earlyErrors = []) : flushEarly s = s := by
  unfold flushEarly
  split_ifs
  · rfl
  · rw [early]
    cases s
    cases early
    rfl

/-- Settles O23: a broadcast's first, later and last core, and the log's entry. -/
theorem sharedRegistersAndErrorLog : Obligations.SharedRegistersAndErrorLog := by
  refine ⟨?_, ?_, ?_, ?_, ?_, ?_, ?_, ?_⟩
  · rintro s id core p key v f acc ⟨here, body⟩ isCore free
    change execControlRegisterBroadcast id core s = _
    simp only [execControlRegisterBroadcast, here, body, if_neg (by simp [free]; omega :
      ¬ (576 ≤ core ∨ ([] : List Nat).contains core = true ∨ broadcastBlocked s p core = true)), List.isEmpty_nil, if_true, List.length_nil,
      if_neg (by decide : ¬ 0 = 575)]
  · rintro s id core p key v taken f acc ⟨here, body⟩ started isCore new free more
    change execControlRegisterBroadcast id core s = _
    have later : taken.isEmpty = false := by simpa using started
    simp only [execControlRegisterBroadcast, here, body, if_neg (by rw [new, free]; simp; omega :
      ¬ (576 ≤ core ∨ taken.contains core = true ∨ broadcastBlocked s p core = true)), later, Bool.false_eq_true, if_false,
      if_neg (by omega : ¬ taken.length = 575)]
  · rintro s id core p key v taken f acc ⟨here, body⟩ isCore new free last
    change execControlRegisterBroadcast id core s = _
    have later : taken.isEmpty = false := by
      cases taken with
      | nil => cases last
      | cons => rfl
    simp only [execControlRegisterBroadcast, here, body, if_neg (by rw [new, free]; simp; omega :
      ¬ (576 ≤ core ∨ taken.contains core = true ∨ broadcastBlocked s p core = true)), later, Bool.false_eq_true, if_false, if_pos last]
  · rintro s id core p key v taken f acc ⟨here, body⟩ done
    change execControlRegisterBroadcast id core s = _
    simp only [execControlRegisterBroadcast, here, body, if_pos (or_assoc.mp (.inl done) :
      576 ≤ core ∨ taken.contains core = true ∨ broadcastBlocked s p core = true)]
  · rintro s id core p sl n img w f acc ⟨here, body⟩
    change execControlRegisterBroadcast id core s = _
    simp only [execControlRegisterBroadcast, here, body]
  · rintro s id p e ⟨here, body⟩ aged first alone log noEarly
    change execErrorLogEntry id s = _
    have early : (dropPacket s id).earlyErrors = [] := noEarly
    simp only [execErrorLogEntry, here, body, if_neg (by simp [aged, first, alone] :
      ¬ (p.came = s.clk ∨ earlierWaits s p = true ∨ behindSame s p = true)), flushEarly_of_empty early]
    exact congrArg Host.Outcome.next (if_pos log)
  · rintro s id p e ⟨here, body⟩ held
    change execErrorLogEntry id s = _
    simp only [execErrorLogEntry, here, body, if_pos held]
  · rintro s id p e ⟨here, body⟩ aged first alone noLog room
    change execErrorLogEntry id s = _
    have unflushed : flushEarly (dropPacket s id) = dropPacket s id := if_pos noLog
    simp only [execErrorLogEntry, here, body, if_neg (by simp [aged, first, alone] :
      ¬ (p.came = s.clk ∨ earlierWaits s p = true ∨ behindSame s p = true)), unflushed]
    exact congrArg Host.Outcome.next ((if_neg (not_not.mpr noLog)).trans (if_pos room))

end Sys2Proof.Proofs

/-!
Combiner objects, their waves and cluster barriers (R244 to R249, R277, R278).
-/
namespace Sys2Proof.Proofs

open Machine Claims Laws

/-- Looking up a table after each of its entries has changed is changing what the table holds. -/
theorem tget_mapEntries {α β : Type} [DecidableEq α] (f : β → β) (t : Tbl α β) (k : α) : tget (t.map fun e => (e.1, f e.2)) k = (tget t k).map f := by
  induction t with
  | nil => rfl
  | cons e t ih =>
    obtain ⟨a, b⟩ := e
    by_cases same : a = k
    · simp [tget, same]
    · simpa [tget, same] using ih

/-- A core after every core of the table has changed: the table's core changed, or the core that no table entry has. -/
theorem getCore_mapEntries (s : State) (f : Core → Core) (home : Nat) :
    getCore { s with cores := s.cores.map fun e => (e.1, f e.2) } home = if (tget s.cores home).isSome then f (getCore s home) else Core.fresh := by
  unfold getCore tgetD
  rw [tget_mapEntries]
  cases tget s.cores home <;> rfl

/-- An object that the core does not have is added at the end of its table. -/
theorem registerObject_new {s : State} {home pa : Nat} {desc : Word} (index : fld desc.toNat 6 0 ≠ 0)
    (valid : bindV (bindingAt (getCore s home) (fld desc.toNat 6 0)) = true) (new : objectAt (getCore s home) pa = none)
    (room : (getCore s home).objectsTable.length < 64) :
    (registerObject s home pa desc).2 = true ∧ (getCore (registerObject s home pa desc).1 home).objectsTable = (getCore s home).objectsTable ++
      [objectOf pa (bindGen (bindingAt (getCore s home) (fld desc.toNat 6 0))) desc] := by
  have others : (getCore s home).objectsTable.filter (fun e => decide (e.pa ≠ pa)) = (getCore s home).objectsTable :=
    List.filter_eq_self.mpr fun o member => decide_eq_true fun same =>
      absurd (List.find?_eq_none.mp new o member) (by simp [same])
  have accepted : ¬ ((! bindV (bindingAt (getCore s home) (fld desc.toNat 6 0))) = true ∨ fld desc.toNat 6 0 = 0) := by simp [valid, index]
  simp only [registerObject, if_neg accepted, new, Option.isSome_none, Bool.false_eq_true, if_false, if_neg (by omega :
    ¬ 64 ≤ (getCore s home).objectsTable.length), getCore_modCore_self, true_and]
  refine congrArg (· ++ [_]) ?_
  rw [getCore_mapEntries s (fun k => { k with objectsTable := k.objectsTable.filter fun e => decide (e.pa ≠ pa) })]
  split_ifs with known
  · exact others
  · rw [Option.not_isSome_iff_eq_none] at known
    simp [getCore, tgetD, known, Core.fresh]

/-- An object whose binding is not valid or is binding 0, and one that finds the table full, is not registered. -/
theorem registerObject_refused {s : State} {home pa : Nat} {desc : Word}
    (refused : bindV (bindingAt (getCore s home) (fld desc.toNat 6 0)) = false ∨ fld desc.toNat 6 0 = 0 ∨
      (objectAt (getCore s home) pa = none ∧ 64 ≤ (getCore s home).objectsTable.length)) : registerObject s home pa desc = (s, false) := by
  by_cases binding : (! bindV (bindingAt (getCore s home) (fld desc.toNat 6 0))) = true ∨ fld desc.toNat 6 0 = 0
  · simp only [registerObject, if_pos binding]
  · have full : objectAt (getCore s home) pa = none ∧ 64 ≤ (getCore s home).objectsTable.length := by
      rcases refused with invalid | zero | full
      · exact absurd (.inl (by simp [invalid])) binding
      · exact absurd (.inr zero) binding
      · exact full
    simp only [registerObject, if_neg binding, full.1, Option.isSome_none, Bool.false_eq_true, if_false, if_pos full.2]

/-- A request does not fit an object when it brings another number of words or asks for another number of results. -/
theorem shapeMatches_eq_false {o : CombObj} {q : CombReq} : shapeMatches o q = false ↔ q.args.length ≠ o.narg + 1 ∨ q.nres ≠ o.nres + 1 := by
  simp [shapeMatches, ← not_and_or]

/-- A request to an object that this core keeps, or that no core keeps, arrives at the object. -/
theorem execCombineRequest_arrives {s : State} {id : Nat} {p : Packet} {f : FRef} {gen : BitVec 8} {acc ll dst cdst : Nat} {base : DWord} {pa : Nat}
    {args : List Word} {nres : Nat} (here : Arrived s id p (.combine f gen acc ll dst cdst base pa args nres)) (first : combineWaits s p = false)
    (tested : underTest s 0x0C p.dst = false) (alive : (getCore s p.dst).l2Failed = false) (kept : objectKept s p.dst pa = none) :
    execCombineRequest id s = .next (combineArrives s p (combReq f gen acc ll dst cdst base pa args nres)) := by
  obtain ⟨here, body⟩ := here
  simp only [execCombineRequest, here, body, first, tested, alive, kept, Bool.false_eq_true, or_self, if_false]
  rfl

/-- Settles O24: requests to objects, their table and waves, and the packets of a cluster barrier. -/
theorem combinersAndBarrierPackets : Obligations.CombinersAndBarrierPackets := by
  refine ⟨?_, ?_, ?_, ?_, ?_, ?_, ?_, fun s home pa desc => registerObject_new, fun s home pa desc => registerObject_refused, ?_, ?_, ?_, ?_, ?_, ?_, ?_,
    ?_, ?_, ?_, ?_, ?_⟩
  · intro s id p f gen acc ll dst cdst base pa args nres here first tested alive kept absent
    refine (execCombineRequest_arrives here first tested alive kept).trans ?_
    simp only [combineArrives, combReq, absent]
  · intro s id p f gen acc ll dst cdst base pa args nres o here first tested alive kept object bad
    refine (execCombineRequest_arrives here first tested alive kept).trans ?_
    have refused : o.poisoned = true ∨ (! shapeMatches o (combReq f gen acc ll dst cdst base pa args nres)) = true :=
      bad.imp_right fun misfit => by rw [shapeMatches_eq_false.mpr misfit]; rfl
    simp only [combineArrives]
    erw [object]
    exact congrArg Host.Outcome.next (if_pos refused)
  · intro s id p f gen acc ll dst cdst base pa args nres o here first tested alive kept object good inputs results room
    refine (execCombineRequest_arrives here first tested alive kept).trans ?_
    have accepted : ¬ (o.poisoned = true ∨ (! shapeMatches o (combReq f gen acc ll dst cdst base pa args nres)) = true) := by
      simp [shapeMatches, combReq, good, inputs, results]
    simp only [combineArrives]
    erw [object]
    exact congrArg Host.Outcome.next ((if_neg accepted).trans (if_neg (by omega)))
  · rintro s id p f gen acc ll dst cdst base pa args nres c ⟨here, body⟩ first tested alive kept
    change execCombineRequest id s = _
    simp only [execCombineRequest, here, body, first, tested, alive, kept, Bool.false_eq_true, or_self, if_false]
  · rintro s id p f gen acc ll dst cdst base pa args nres ⟨here, body⟩ first tested failed
    change execCombineRequest id s = _
    simp only [execCombineRequest, here, body, first, tested, failed, Bool.false_eq_true, or_self, if_false, if_true]
  · rintro s id p f gen acc ll cdst pa desc ⟨here, body⟩ first alive
    change execCombineRequest id s = _
    simp only [execCombineRequest, here, body, first, alive, Bool.false_eq_true, if_false]
  · rintro s id p f gen acc ll cdst pa desc ⟨here, body⟩ first failed
    change execCombineRequest id s = _
    simp only [execCombineRequest, here, body, first, failed, Bool.false_eq_true, if_false, if_true]
  · intro s core n w held stays
    change execCombinerWaveStart core n s = _
    have waits : (! w.closed || w.running || ((getCore s core).waves.take n).any fun v => decide (v.pa = w.pa)) = true := by
      rcases stays with isOpen | running | behind
      · simp [isOpen]
      · simp [running]
      · rw [behind, Bool.or_true]
    simp only [execCombinerWaveStart, held, waits, if_true]
  · intro s core n w held closed idle first gone
    change execCombinerWaveStart core n s = _
    simp only [execCombinerWaveStart, held, closed, idle, first, Bool.not_true, Bool.or_self, Bool.false_eq_true, if_false]
    rcases gone with noEntry | noObject
    · rw [noEntry]
    · rw [noObject]
      cases w.entry <;> rfl
  · intro s core n w o now slot t held closed idle first entry object good goodNow here valid same few free room team running alive
    change execCombinerWaveStart core n s = _
    simp only [execCombinerWaveStart, held, closed, idle, first, entry, object, good, goodNow, here, valid, same, free, room, team, running, alive,
      if_neg (by omega : ¬ 4 ≤ ((getCore s core).waves.filter fun v => v.running).length), Bool.not_true, Bool.or_self, Bool.false_eq_true, or_self,
      if_false, bne_self_eq_false, Bool.not_false, Bool.and_self, if_true]
  · rintro s id p sl task cl num n t ⟨here, body⟩ team more
    change execBarrierArrivalPacket id s = _
    have counted : leadCounts (barOf s p.dst n num) = ({ barOf s p.dst n num with tcnt := (barOf s p.dst n num).tcnt + 1 }, false) := if_pos more
    simp only [execBarrierArrivalPacket, here, body, team, counted, Bool.false_eq_true, if_false]
    rfl
  · rintro s id p sl task cl num n t ⟨here, body⟩ team last
    change execBarrierArrivalPacket id s = _
    have counted : leadCounts (barOf s p.dst n num) = ({ barOf s p.dst n num with tcnt := 0 }, true) := if_neg (Nat.not_lt.mpr last)
    simp only [execBarrierArrivalPacket, here, body, team, counted, if_true]
    rfl
  · rintro s id p sl task cl num ⟨here, body⟩ noTeam
    change execBarrierArrivalPacket id s = _
    simp only [execBarrierArrivalPacket, here, body, noTeam]
  · intro s lead sl task cl num k b held counted more
    simp only [arriveLead, held, counted, leadCounts, if_pos more, Bool.false_eq_true, if_false]
  · intro s lead sl task cl num gone
    simp only [arriveLead, gone]
  · rintro s id p sl task cl num mask lexp acc f n t ⟨here, body⟩ team
    change execBarrierArrivalPacket id s = _
    simp only [execBarrierArrivalPacket, here, body, team]
    rfl
  · rintro s id p sl task cl num mask lexp acc f ⟨here, body⟩ noTeam starting
    change execBarrierArrivalPacket id s = _
    simp only [execBarrierArrivalPacket, here, body, noTeam, starting, if_true]
  · rintro s id p sl task cl num n t ⟨here, body⟩ team
    change execBarrierCompletion id s = _
    simp only [execBarrierCompletion, here, body, team]
  · rintro s id p sl task cl num ⟨here, body⟩ noTeam
    change execBarrierCompletion id s = _
    simp only [execBarrierCompletion, here, body, noTeam]

end Sys2Proof.Proofs

/-!
Ordered sections (R250, R251, R416, R417, R492): at the home, at the fibre, and on the way of a probe.
-/
namespace Sys2Proof.Proofs

open Machine Claims Laws

/-- A section request in its turn: a leave and an abandonment act at once, an enter and a skip when the section's entry is there. -/
theorem execSectionRequest_inTurn {s : State} {id opc : Nat} {p : Packet} {f : FRef} {gen : BitVec 8} {acc : Nat} {key : DWord} {seq : Word}
    (here : Arrived s id p (.ordered opc f gen acc key seq)) (first : earlierWaits s p = false) (tested : underTest s 0x0C p.dst = false) :
    execSectionRequest id s =
      if opc = 1 then .next (sendAck (homeLeave (dropPacket s id) p.dst key f gen false) p.dst f acc)
      else if opc = 3 then .next (homeLeave (dropPacket s id) p.dst key f gen true)
      else
        (match needEntry s p.dst key with
         | .wait => .next s
         | .full bad =>
           let s := dropPacket s id
           let s := match bad with
             | some va => logError s 0x03 0x0C p.dst p.dst 0xFFFF ((getCore s p.dst).slice.getD 0) (BitVec.ofNat 64 va)
             | none => s
           .next (answerSection s p.dst f gen acc key seq 3)
         | .ready s' e =>
           match (if opc = 0 then enterSection s' p.dst e f gen acc seq else skipSection s' p.dst e f gen acc seq) with
           | some t => .next (settleSection (dropPacket t id) p.dst key)
           | none => .next s) := by
  obtain ⟨here, body⟩ := here
  simp only [execSectionRequest, here, body, first, tested, Bool.false_eq_true, or_self, if_false] <;> rfl

/-- The next number has not passed. -/
theorem seqPassed_next (e : SecEntry) : seqPassed e e.next = false := by simp [seqPassed]

/-- A withdrawal that names no waiter changes nothing. -/
theorem withdrawWaiter_none {s : State} {home : Nat} {f : FRef} {gen : BitVec 8} {key : DWord} {seq : Word}
    (unnamed : ∀ w ∈ (getCore s home).waiters, w.f = f → w.gen = gen → w.key = key → w.seq = seq → w.skip = true) :
    withdrawWaiter s home f gen key seq = s := by
  have notFound : ((getCore s home).waiters.find? fun w =>
      ! w.skip && decide (w.f = f) && decide (w.gen = gen) && decide (w.key = key) && decide (w.seq = seq)) = none := by
    refine List.find?_eq_none.mpr fun w member named => ?_
    simp only [Bool.and_eq_true, Bool.not_eq_true', decide_eq_true_eq] at named
    obtain ⟨⟨⟨⟨waits, isFibre⟩, isGen⟩, isKey⟩, isSeq⟩ := named
    exact absurd (unnamed w member isFibre isGen isKey isSeq) (by rw [waits]; decide)
  simp only [withdrawWaiter, notFound]

/-- Settles O25: a section's home, its answers at the fibre, probes and withdrawals. -/
theorem sectionHomesAndAnswers : Obligations.SectionHomesAndAnswers := by
  refine ⟨?_, ?_, ?_, ?_, ?_, ?_, ?_, ?_, ?_, ?_, ?_, ?_, ?_, ?_, ?_, ?_, fun s home f gen key seq => withdrawWaiter_none, ?_, ?_, ?_⟩
  · intro s id p f gen acc key seq s' e u here first tested ready entered
    refine (execSectionRequest_inTurn here first tested).trans ?_
    simp only [ready, entered, if_true]
    rfl
  · intro s id p f gen acc key seq s' e u here first tested ready skipped
    refine (execSectionRequest_inTurn here first tested).trans ?_
    simp only [ready, skipped]
    rfl
  · intro s id p f gen acc key seq here first tested
    exact execSectionRequest_inTurn here first tested
  · intro s id p f gen acc key seq here first tested
    exact execSectionRequest_inTurn here first tested
  · intro s id p f gen acc key seq here first tested full
    refine (execSectionRequest_inTurn here first tested).trans ?_
    simp only [full]
    rfl
  · intro s home key e held
    simp only [needEntry, held]
  · intro s home e f gen acc n passed
    simp only [enterSection, passed, if_true]
  · intro s home e f gen acc free
    simp only [enterSection, seqPassed_next, free, Bool.false_eq_true, if_false, not_false_eq_true, and_self, if_true]
  · intro s home e f gen acc n due later room
    have waits : ¬ (n = e.next ∧ ¬ e.held = true) := fun ⟨isNext, free⟩ => later.elim (· isNext) free
    simp only [enterSection, due, Bool.false_eq_true, if_false, if_neg waits, room]
  · intro s home key e f gen ab held other
    have notHolder : ¬ (e.held = true ∧ e.holder = f ∧ e.hgen = gen) := by
      rintro ⟨isHeld, isHolder, isGen⟩
      rcases other with free | holder | hgen
      · exact absurd isHeld (by simp [free])
      · exact holder isHolder
      · exact hgen isGen
    simp only [homeLeave, held, if_neg notHolder]
  · rintro s id p f gen acc key seq x pc k n dst ll b ⟨here, body⟩ granted held rfl wait
    change execSectionGrant id s = _
    obtain rfl | rfl : b = 0 ∨ b = 1 := by omega
    all_goals
      simp only [execSectionGrant, here, body, held, if_true, wait]
  · rintro s id p f gen acc key seq x pc k n ⟨here, body⟩ held rfl wait
    change execSectionGrant id s = _
    simp only [execSectionGrant, here, body, held, if_true, wait]
  · rintro s id p f gen acc key seq x pc k n dst ll a ⟨here, body⟩ refusal held rfl wait idle
    change execSectionGrant id s = _
    obtain rfl | rfl | rfl := refusal
    all_goals
      simp only [execSectionGrant, here, body, held, if_true, wait, idle, Bool.false_eq_true, if_false]
  · rintro s id p f gen acc key seq a ⟨here, body⟩ gone granted
    change execSectionGrant id s = _
    simp only [execSectionGrant, here, body, gone, if_pos granted]
  · rintro s id p f gen acc key seq a ⟨here, body⟩ gone refused
    change execSectionGrant id s = _
    simp only [execSectionGrant, here, body, gone, if_neg (by omega : ¬ a < 2)]
  · rintro s id p f gen key seq ⟨here, body⟩
    change execSectionWaitWithdrawal id s = _
    simp only [execSectionWaitWithdrawal, here, body]
  · rintro s id p home key f ws look gen hops chain k ⟨here, body⟩ waits
    change execSectionDeadlockProbe id s = _
    simp only [execSectionDeadlockProbe, here, body, waits]
  · rintro s id p home key f ws look gen hops chain ⟨here, body⟩ free
    change execSectionDeadlockProbe id s = _
    simp only [execSectionDeadlockProbe, here, body, free]
  · rintro s id p home key f ws look gen hops chain next ⟨here, body⟩
    change execSectionDeadlockProbe id s = _
    simp only [execSectionDeadlockProbe, here, body]

end Sys2Proof.Proofs

/-!
Launches (R54 to R60, R269): doorbells, the checks of a record, placement, start and the end of a grid.
-/
namespace Sys2Proof.Proofs

open Machine Claims Laws

/-! ### Tables -/

/-- Looking up a table after the entries of one key have changed. -/
theorem tget_mapAt {α β : Type} [DecidableEq α] (a : α) (f : β → β) (t : Tbl α β) (k : α) :
    tget (t.map fun e => if e.1 = a then (e.1, f e.2) else e) k = if k = a then (tget t k).map f else tget t k := by
  induction t with
  | nil => simp [tget]
  | cons e t ih =>
    obtain ⟨b, v⟩ := e
    by_cases changed : b = a
    · subst changed
      by_cases found : b = k
      · subst found; simp [tget]
      · simpa [tget, found] using ih
    · by_cases found : b = k
      · subst found; simp [tget, changed]
      · simpa [tget, changed, found] using ih

/-- A key that a table lists has an entry. -/
theorem isSome_tget_of_mem {α β : Type} [DecidableEq α] {t : Tbl α β} {e : α × β} (member : e ∈ t) : (tget t e.1).isSome = true := by
  induction t with
  | nil => cases member
  | cons d t ih =>
    obtain ⟨a, b⟩ := d
    by_cases same : a = e.1
    · simp [tget, same]
    · simp only [tget, if_neg same]
      rcases List.mem_cons.mp member with rfl | member
      · exact absurd rfl same
      · exact ih member

/-! ### The checks of a record -/

/-- The tests of a record by their offsets, in the order of R269. -/
theorem badField_passes {r : List Word} (good : badField r = none) :
    recField r 0x11 1 ≠ 0 ∧ recField r 0x11 1 ≤ 32 ∧ recField r 0x12 2 ≠ 0 ∧ recField r 0x12 2 ≤ 2048 ∧ recField r 0x14 1 * recField r 0x15 1 ≤ 12 ∧
      recField r 0x18 2 ≠ 0 ∧ recField r 0x1A 2 ≠ 0 ∧ recField r 0x1C 2 ≠ 0 := by
  unfold badField at good
  dsimp only at good
  rw [Option.map_eq_none_iff, List.find?_eq_none] at good
  have lanes := good (0x11, decide (recField r 0x11 1 = 0 ∨ 32 < recField r 0x11 1)) (by simp)
  have fibres := good (0x12, decide (recField r 0x12 2 = 0 ∨ 2048 < recField r 0x12 2)) (by simp)
  have cluster := good (0x15, decide (recField r 0x15 1 = 0 ∨ 12 < recField r 0x15 1 ∨ 12 < recField r 0x14 1 * recField r 0x15 1)) (by simp)
  have gridX := good (0x18, decide (recField r 0x18 2 = 0)) (by simp)
  have gridY := good (0x1A, decide (recField r 0x1A 2 = 0)) (by simp)
  have gridZ := good (0x1C, decide (recField r 0x1C 2 = 0)) (by simp)
  simp only [decide_eq_true_eq, not_or, not_lt] at lanes fibres cluster gridX gridY gridZ
  exact ⟨lanes.1, lanes.2, fibres.1, fibres.2, cluster.2.2, gridX, gridY, gridZ⟩

/-- The first test of a record is that its code begins at a line. -/
theorem badField_misaligned {r : List Word} (misaligned : recField r 0 8 % 64 ≠ 0) : badField r = some 0x00 := by
  unfold badField
  dsimp only
  rw [List.find?_append, List.find?_append, List.find?_append, List.find?_append, List.find?_cons_of_pos (by simpa using misaligned)]
  rfl

/-- A record that fails a test of its own fields is rejected for it. (`badField` stands as a variable: the kernel would compute it.) -/
theorem rejects_of_badField {s : State} {sl : Nat} {r : List Word} {f : Nat} (bad : badField r = some f) : rejects s sl r = some f := by
  obtain ⟨verdict, isRejects⟩ : ∃ verdict, verdict = rejects := ⟨rejects, rfl⟩
  rw [← isRejects]
  delta rejects at isRejects
  obtain ⟨check, isBadField⟩ : ∃ check, check = badField := ⟨badField, rfl⟩
  rw [← isBadField] at bad isRejects
  simp only [isRejects, bad]

/-! ### What the end of a team keeps of the slices -/

/-- The completion counters of every slice and the numbers of its tasks are kept. -/
def TasksKept (s t : State) : Prop :=
  ∀ sl, (getSlice t sl).dones = (getSlice s sl).dones ∧ ∀ k, (tget (getSlice t sl).tasks k).isSome = (tget (getSlice s sl).tasks k).isSome

theorem TasksKept.trans {s t u : State} (first : TasksKept s t) (second : TasksKept t u) : TasksKept s u := fun sl =>
  ⟨(second sl).1.trans (first sl).1, fun k => ((second sl).2 k).trans ((first sl).2 k)⟩

theorem getSlice_of_slices {s t : State} (same : t.slices = s.slices) (sl : Nat) : getSlice t sl = getSlice s sl := by
  unfold getSlice
  rw [same]

theorem getSlice_dropCredits (s : State) (slice : Nat) (mine : Nat → Nat → Bool) (sl : Nat) :
    getSlice (dropCredits s slice mine) sl = getSlice s sl := getSlice_of_slices rfl sl

theorem tasksKept_of_slices {s t : State} (same : t.slices = s.slices) : TasksKept s t := fun sl => by
  rw [getSlice_of_slices same]
  exact ⟨rfl, fun _ => rfl⟩

theorem tasksKept_foldl {α : Type} (f : State → α → State) (kept : ∀ s a, TasksKept s (f s a)) (l : List α) (s : State) : TasksKept s (l.foldl f s) := by
  induction l generalizing s with
  | nil => exact tasksKept_of_slices rfl
  | cons a l ih => exact (kept s a).trans (ih (f s a))

/-- A team's barriers go to its task's entry, which stays. -/
theorem tasksKept_keepLeads (s : State) (core team : Nat) (t : Team) : TasksKept s (keepLeads s core team t) := by
  intro sl
  by_cases same : sl = t.slice
  · subst same
    unfold keepLeads
    rw [getSlice_modSlice_self]
    refine ⟨rfl, fun k => ?_⟩
    dsimp only
    rw [tget_mapAt t.task (fun v : Task => { v with leads := _ ++ v.leads })]
    split_ifs
    · exact Option.isSome_map
    · rfl
  · unfold keepLeads modSlice
    rw [getSlice_putSlice_ne _ _ same]
    exact ⟨rfl, fun _ => rfl⟩

/-- A group's slot is free again and its registers go back to the pool. -/
def freeGroup (core : Nat) (s : State) (slot : Nat) : State :=
  poolReturn { s with groups := tdel s.groups (core, slot) } core (32 * allotOf s ⟨core, slot, 0⟩)

/-- A team that has no binding, no lease and no group left. -/
def withoutGroups (s : State) (core team : Nat) : State :=
  let s := modCore (freeBindings s core team) core fun k => { k with basinOwner := if k.basinOwner = some team then none else k.basinOwner }
  let s := { s with blocks := s.blocks.map fun e => (e.1, endTeamLeases e.2 core team) }
  (teamSlots s core team).foldl (freeGroup core) s

/-- The lead's barriers go to the task, for the arrivals still on their way. -/
def leadsKept (s : State) (core team : Nat) : State :=
  match getTeam s core team with
  | some t => if t.crank = 0 then keepLeads s core team t else s
  | none => s

theorem endTeam_eq (s : State) (core team : Nat) :
    endTeam s core team = { leadsKept (withoutGroups s core team) core team with
      teams := tdel (leadsKept (withoutGroups s core team) core team).teams (core, team) } := rfl

theorem tasksKept_withoutGroups (s : State) (core team : Nat) : TasksKept s (withoutGroups s core team) :=
  (tasksKept_of_slices rfl).trans (tasksKept_foldl (freeGroup core) (fun _ _ => tasksKept_of_slices rfl) _ _)

theorem tasksKept_leadsKept (s : State) (core team : Nat) : TasksKept s (leadsKept s core team) := by
  unfold leadsKept
  split
  · split_ifs
    · exact tasksKept_keepLeads s core team _
    · exact tasksKept_of_slices rfl
  · exact tasksKept_of_slices rfl

theorem tasksKept_endTeam (s : State) (core team : Nat) : TasksKept s (endTeam s core team) := by
  rw [endTeam_eq]
  exact ((tasksKept_withoutGroups s core team).trans (tasksKept_leadsKept _ core team)).trans (tasksKept_of_slices rfl)

theorem tasksKept_dropTeams (s : State) (slice task : Nat) : TasksKept s (dropTeams s slice task) :=
  have ended := tasksKept_foldl (fun s (e : (Nat × Nat) × Team) => endTeam s e.1.1 e.1.2) (fun u e => tasksKept_endTeam u e.1.1 e.1.2)
    (launchTeams s slice task) s
  ended.trans (tasksKept_of_slices rfl)

/-- A task that has ended leaves its slice's table, and no counter changes. -/
theorem getSlice_dropTask (s : State) (slice task : Nat) :
    tget (getSlice (dropTask s slice task) slice).tasks task = none ∧ (getSlice (dropTask s slice task) slice).dones = (getSlice s slice).dones := by
  have sent : ∀ (l : List PendRec) (t : State),
      (l.foldl (fun s e => sendFailed s hostPort e.src (pkgNum s) e.tags 0x07) t).slices = t.slices := by
    intro l
    induction l with
    | nil => exact fun _ => rfl
    | cons e l ih => exact fun t => ih _
  unfold dropTask
  dsimp only
  rw [getSlice_of_slices (sent _ _), getSlice_dropCredits, getSlice_modSlice_self]
  exact ⟨tget_tdel_self task _, (tasksKept_dropTeams s slice task slice).1⟩

/-- The task of a grid whose record queues still have readers stays, past, with those queues closed. -/
theorem endLaunch_past {s : State} {slice task : Nat} {t : Task} (held : tget (getSlice s slice).tasks task = some t)
    (live : liveQueues s slice task ≠ []) :
    (tget (getSlice (endLaunch s slice task) slice).tasks task).map (fun v => (v.past, v.closedQueues)) = some (true, liveQueues s slice task) := by
  have some_live : (liveQueues s slice task).isEmpty = false := by simpa using live
  unfold endLaunch
  dsimp only
  rw [if_neg (by rw [some_live]; decide), getSlice_dropCredits, getSlice_modSlice_self]
  dsimp only
  rw [tget_mapAt task (fun v : Task => { v with past := true, closedQueues := liveQueues s slice task }), if_pos rfl]
  have stays : (tget (getSlice (dropTeams s slice task) slice).tasks task).isSome = true := by
    rw [(tasksKept_dropTeams s slice task slice).2 task, held]
    rfl
  obtain ⟨v, found⟩ := Option.isSome_iff_exists.mp stays
  have found' : tget (getSlice (forgetRecords (dropTeams s slice task) slice task) slice).tasks task = some v := found
  rw [found']
  rfl

/-- The state after the last team of a grid has ended. -/
def gridEnded (s : State) (slice task : Nat) (t : Task) : State :=
  let n := recField t.record 0x1E 2
  let s := modSlice (endLaunch s slice task) slice fun x => { x with
    dones := if n < 4096 then tput x.dones n (tgetD x.dones n 0 + 1) else x.dones
    recQueues := match t.node with | some d => tdel x.recQueues d | none => x.recQueues }
  let s := match t.node with | some d => dropCredits s slice fun t q => decide ((t, q) = d) | none => s
  { s with msix := s.msix ++ [(slice + 1, 1)] }

theorem execGridEnd_over {s : State} {slice task : Nat} {t : Task} (held : tget (getSlice s slice).tasks task = some t)
    (ended : gridOver s slice task t = true) : execGridEnd slice task s = .next (gridEnded s slice task t) := by
  simp only [execGridEnd, held, ended, Bool.not_true, Bool.false_eq_true, if_false]
  rfl

theorem getSlice_gridEnded (s : State) (slice task : Nat) (t : Task) :
    getSlice (gridEnded s slice task t) slice = { getSlice (endLaunch s slice task) slice with
      dones := if recField t.record 0x1E 2 < 4096 then tput (getSlice (endLaunch s slice task) slice).dones (recField t.record 0x1E 2)
        (tgetD (getSlice (endLaunch s slice task) slice).dones (recField t.record 0x1E 2) 0 + 1) else (getSlice (endLaunch s slice task) slice).dones
      recQueues := match t.node with
        | some d => tdel (getSlice (endLaunch s slice task) slice).recQueues d
        | none => (getSlice (endLaunch s slice task) slice).recQueues } := by
  rw [← getSlice_modSlice_self (endLaunch s slice task) slice (fun x => { x with
    dones := if recField t.record 0x1E 2 < 4096 then tput x.dones (recField t.record 0x1E 2) (tgetD x.dones (recField t.record 0x1E 2) 0 + 1)
      else x.dones
    recQueues := match t.node with | some d => tdel x.recQueues d | none => x.recQueues })]
  refine getSlice_of_slices ?_ slice
  unfold gridEnded
  cases t.node <;> rfl

/-- With no queue whose head may start, none is served. -/
theorem serveQueues_idle {s : State} {sl : Nat}
    (waits : ∀ p q rest, p < 8 → tgetD (getSlice s sl).queues p [] = q :: rest → depsHold s sl q.record = false) : serveQueues s sl = s := by
  have none : ([7, 6, 5, 4, 3, 2, 1, 0].find? fun p => match tgetD (getSlice s sl).queues p [] with
      | q :: _ => depsHold s sl q.record
      | [] => false) = none := by
    refine List.find?_eq_none.mpr fun p priority => ?_
    cases queue : tgetD (getSlice s sl).queues p [] with
    | nil => simp
    | cons q rest =>
      have isQueue : p < 8 := by
        simp only [List.mem_cons, List.not_mem_nil, or_false] at priority
        omega
      simp [waits p q rest isQueue queue]
  unfold serveQueues
  split_ifs
  · rfl
  · erw [none]

/-! ### The start of a team -/

/-- The table of teams is kept. -/
def TeamsKept (s t : State) : Prop := t.teams = s.teams

theorem TeamsKept.getTeam {s t : State} (kept : TeamsKept s t) (core n : Nat) : getTeam t core n = getTeam s core n := congrArg (tget · (core, n)) kept

theorem teamsKept_foldl {α : Type} (f : State → α → State) (kept : ∀ s a, TeamsKept s (f s a)) (l : List α) (s : State) : TeamsKept s (l.foldl f s) := by
  induction l generalizing s with
  | nil => exact rfl
  | cons a l ih => exact (ih (f s a)).trans (kept s a)

theorem teamsKept_startGroup (s : State) (c sl gid : Nat) (t : Team) (pc : Word) (args : List Word) (fibres : Nat) :
    TeamsKept s (startGroup s c sl gid t pc args fibres) :=
  teamsKept_foldl (fun s l => createFibre s ⟨c, sl, l⟩ t.allot pc (fsrNew t.prv false false) args Origin.none) (fun _ _ => rfl) _ (bumpGen s c sl)

/-- The team of a cluster on a core is in the table of teams. -/
theorem getTeam_of_clusterTeam {s : State} {core slice task cluster n : Nat} {t : Team} (team : clusterTeam s core slice task cluster = some (n, t)) :
    ∃ v, getTeam s core n = some v := by
  unfold clusterTeam at team
  obtain ⟨e, found, same⟩ := Option.map_eq_some_iff.mp team
  have listed := isSome_tget_of_mem (List.mem_of_find?_eq_some found)
  have key := List.find?_some found
  simp only [Bool.and_eq_true, decide_eq_true_eq] at key
  obtain ⟨⟨⟨onCore, -⟩, -⟩, -⟩ := key
  cases same
  cases onCore
  exact Option.isSome_iff_exists.mp listed

theorem getTeam_modTeam_self {s : State} {core n : Nat} {v : Team} (held : getTeam s core n = some v) (g : Team → Team) :
    getTeam (modTeam s core n g) core n = some (g v) := by
  unfold modTeam
  rw [held]
  exact tget_tput_self _ _ _

/-- Settles O26: doorbells, launch messages, placement, start messages and the end of a grid. -/
theorem launchesAndPlacement : Obligations.LaunchesAndPlacement := by
  refine ⟨?_, ?_, ?_, ?_, ?_, ?_, ?_, ?_, ?_, ?_, ?_, ?_, ?_, ?_, ?_, ?_, ?_, ?_, ?_, ?_, ?_, ?_⟩
  · intro s fn window w slice lvl good opened idle
    change execLaunchDoorbell fn window s = _
    simp only [execLaunchDoorbell, good, if_true, opened]
    exact if_neg (Bool.eq_false_iff.mp idle)
  · intro s fn window w slice lvl good opened flies
    change execLaunchDoorbell fn window s = _
    simp only [execLaunchDoorbell, good, if_true, opened]
    exact if_pos flies
  · intro s fn window closed
    change execLaunchDoorbell fn window s = _
    have nothing : (if s.imageGood = true then windowOf s fn window else none) = none := by
      rcases closed with bad | noWindow
      · simp [bad]
      · simp [noWindow]
    simp only [execLaunchDoorbell, nothing]
  · rintro s id p sl lvl r window reply ⟨here, body⟩ passes room running
    change execLaunchMessage id s = _
    unfold execLaunchMessage
    obtain ⟨check, isRejects⟩ : ∃ check, check = rejects := ⟨rejects, rfl⟩
    rw [← isRejects] at passes ⊢
    simp only [here, body, passes, room, running, Bool.false_eq_true, ne_eq, not_true_eq_false, or_self, if_false]
  · rintro s id p sl lvl r window reply ⟨here, body⟩ passes full
    change execLaunchMessage id s = _
    unfold execLaunchMessage
    obtain ⟨check, isRejects⟩ : ∃ check, check = rejects := ⟨rejects, rfl⟩
    rw [← isRejects] at passes ⊢
    simp only [here, body, passes, if_pos full]
  · rintro s id p sl lvl r window reply f ⟨here, body⟩ fails
    change execLaunchMessage id s = _
    unfold execLaunchMessage
    obtain ⟨check, isRejects⟩ : ∃ check, check = rejects := ⟨rejects, rfl⟩
    rw [← isRejects] at fails ⊢
    simp only [here, body, fails]
  · intro s sl r f bad
    exact rejects_of_badField bad
  · intro r misaligned
    exact badField_misaligned misaligned
  · intro r f good dimension
    obtain ⟨-, -, -, -, -, gridX, gridY, gridZ⟩ := badField_passes good
    simp only [List.mem_cons, List.not_mem_nil, or_false] at dimension
    obtain rfl | rfl | rfl := dimension
    · exact gridX
    · exact gridY
    · exact gridZ
  · intro r good
    obtain ⟨lanes, lanesMost, fibres, fibresMost, cluster, -⟩ := badField_passes good
    exact ⟨by omega, lanesMost, by omega, fibresMost, cluster⟩
  · intro s sl n t u next
    change execLaunchPlacement sl s = _
    simp only [execLaunchPlacement]
    erw [next]
  · intro s sl u none
    change execLaunchPlacement sl s = _
    simp only [execLaunchPlacement]
    erw [none]
  · intro s sl waits
    exact serveQueues_idle waits
  · rintro s id p sl task line words ⟨here, body⟩ first
    change execCodeLine id s = _
    simp only [execCodeLine, here, body, first, Bool.false_eq_true, if_false]
  · rintro s id p sl task off bytes ⟨here, body⟩ first
    change execShapeStore id s = _
    simp only [execShapeStore, here, body, first, Bool.false_eq_true, if_false]
  · rintro s id p sl task cl rank ⟨here, body⟩ first gone
    change execStartMessage id s = _
    simp only [execStartMessage, here, body, first, Bool.false_eq_true, if_false, gone]
  · rintro s id p sl task cl rank k n t i ⟨here, body⟩ first held team isGrid runs object
    obtain ⟨v, listed⟩ := getTeam_of_clusterTeam team
    change ∃ u, execStartMessage id s = _ ∧ _
    let started := modSlice (dropPacket s id) sl fun x => { x with tasks := tput x.tasks task { k with starting := k.starting - 1 } }
    have team' : clusterTeam started p.dst sl task cl = some (n, t) := team
    have core : getCore started p.dst = getCore s p.dst := rfl
    have runs' : ¬ (k.node.isSome = true ∨ t.halted = true) := by simp [isGrid, runs]
    simp only [execStartMessage, here, body, first, Bool.false_eq_true, if_false, held]
    erw [team']
    refine ⟨_, rfl, ?_⟩
    rw [if_neg runs']
    rw [(teamsKept_foldl _ (fun u x => teamsKept_startGroup u _ _ _ _ _ _ _) _ _).getTeam]
    have listed' : getTeam started p.dst n = some v := listed
    erw [getTeam_modTeam_self listed', Option.map_some]
    rw [core, object]
    rfl
  · intro s sl task t held more
    change execGridEnd sl task s = _
    simp only [execGridEnd, held, more, Bool.not_false, if_true]
  · intro s sl task t held ended isGrid counter dead
    have dropped : endLaunch s sl task = dropTask s sl task := by
      unfold endLaunch
      rw [dead]
      rfl
    obtain ⟨gone, dones⟩ := getSlice_dropTask s sl task
    refine ⟨gridEnded s sl task t, execGridEnd_over held ended, ?_, ?_⟩
    · rw [getSlice_gridEnded, dropped]
      exact gone
    · rw [getSlice_gridEnded, dropped]
      simp only [if_pos counter, tgetD, tget_tput_self, Option.getD_some, dones]
  · intro s sl task t held ended live
    refine ⟨gridEnded s sl task t, execGridEnd_over held ended, ?_⟩
    rw [getSlice_gridEnded]
    exact endLaunch_past held live
  · rintro s sl n v good isSlice isCounter
    change execCompletionCounterWrite sl n v s = _
    simp only [execCompletionCounterWrite, isSlice, isCounter, good, and_self, if_true]
  · rintro s sl n v refused
    change execCompletionCounterWrite sl n v s = _
    simp only [execCompletionCounterWrite, if_neg refused]

end Sys2Proof.Proofs

/-!
Work-graph records, rays and basins (R270, R460 to R467).
-/
namespace Sys2Proof.Proofs

open Machine Claims Laws

/-- A record starts its fibre at a place of its node. -/
def deliverTo (s : State) (target : DWord) (words : List Word) (place : (Nat × Nat) × Team × Nat × Nat × Option Nat) : State :=
  let c := place.1.1
  let t := place.2.1
  let p := place.2.2
  let s := match p.2.2 with
    | some gid => makeGroup s c p.1 { team := place.1.2, gid := gid, allot := t.allot, base := 0, kind := .start }
    | none => bumpGen s c p.1
  let pc := (((getCore s c).objects[t.codeObj]?).bind fun o => regTarget o (target.setWidth 32)).getD 0
  createFibre s ⟨c, p.1, p.2.1⟩ t.allot (BitVec.ofNat 32 pc) (fsrNew t.prv false false) words Origin.none

theorem deliverNode_eq (s : State) (slice node : Nat) (k : Task) (target : DWord) (words : List Word) :
    deliverNode s slice node k target words = (deliveryPlace s slice node k).map (deliverTo s target words) := by
  unfold deliverNode deliveryPlace
  rw [List.map_findSome?]
  refine congrArg (List.findSome? · _) (funext fun e => ?_)
  by_cases away : e.2.halted = true ∨ e.2.stopped = true
  · simp [away]
  · simp only [if_neg away, Option.map_map, Function.comp_apply]
    rfl

/-- A bin that takes a record holds it last, with the clock of its arrival. -/
theorem binOf_enterBin {s : State} {core : Nat} {r : BasinRec} (takes : binTakes (getCore s core) r = true) :
    ∃ n, binFor (getCore s core) r.entry = some n ∧
      (binOf (getCore (enterBin s core r) core) n).records = (binOf (getCore s core) n).records ++ [{ r with arrived := s.clk }] := by
  obtain ⟨-, hasBin⟩ := Bool.and_eq_true_iff.mp takes
  obtain ⟨n, bin⟩ := Option.isSome_iff_exists.mp hasBin
  refine ⟨n, bin, ?_⟩
  simp only [enterBin, bin, highWater, getCore_modCore_self, getCore_putCore_self]
  simp only [binOf, tgetD, tget_tput_self, Option.getD_some]

theorem sameQueue_iff {a b : BasinRec} : sameQueue a b = true ↔ b.slice = a.slice ∧ b.task = a.task ∧ b.queue = a.queue := by
  simp only [sameQueue, Bool.and_eq_true, decide_eq_true_eq, and_assoc]
  exact ⟨fun ⟨slice, task, queue⟩ => ⟨slice.symm, task.symm, queue.symm⟩, fun ⟨slice, task, queue⟩ => ⟨slice.symm, task.symm, queue.symm⟩⟩

/-- The slice's count of records written to their queue goes up. -/
def recordCounted (s : State) (id sl t q : Nat) : State :=
  modSlice (dropPacket s id) sl fun x => { x with
    recQueues := x.recQueues.map fun e => if e.1 = (t, q) then (e.1, { e.2 with written := e.2.written + 1 }) else e }

/-- Settles O27: records, rays and basins. -/
theorem workGraphsAndRays : Obligations.WorkGraphsAndRays := by
  refine ⟨?_, ?_, ?_, ?_, ?_, ?_, ?_, ?_, ?_, ?_, ?_, ?_, ?_, ?_, ?_, fun s core r => binOf_enterBin, ?_, ?_, ?_, ?_⟩
  · rintro s id p sl task q w ⟨here, body⟩ first unsaved gone
    change execWorkGraphRecord id s = _
    simp only [execWorkGraphRecord, here, body, first, Bool.false_eq_true, if_false, unsaved, gone]
  · rintro s id p sl task q w t rq n k u ⟨here, body⟩ first unsaved held queue node running noPending noSpill now
    change execWorkGraphRecord id s = _
    simp only [execWorkGraphRecord, here, body, first, Bool.false_eq_true, if_false, unsaved, held, queue, node, running, noPending, noSpill, Bool.or_self,
      now]
  · rintro s id p sl task q w t rq n k ⟨here, body⟩ first unsaved held queue node running waits
    change execWorkGraphRecord id s = _
    have notNow : (if (((getSlice s sl).pending.any fun d => decide (d.task = task) && decide (d.queue = q)) ||
        (getSlice s sl).pendSpill.contains (some (task, q))) = true then none else deliverNow (dropPacket s id) sl task q w) = none := by
      rcases waits with pending | spilled | full
      · rw [pending, Bool.true_or, if_pos rfl]
      · rw [spilled, Bool.or_true, if_pos rfl]
      · rw [full, ite_self]
    simp only [execWorkGraphRecord, here, body, first, Bool.false_eq_true, if_false, unsaved, held, queue, node, running]
    erw [notNow]
  · intro s sl p e room unspilled
    unfold pendRecord
    exact if_pos ⟨room, by rw [unspilled]; decide⟩
  · intro s sl p e full r
    unfold pendRecord
    refine if_neg fun fits => ?_
    rcases full with long | spilled
    · exact absurd fits.1 (by omega)
    · exact fits.2 spilled
  · intro s sl task q w n k rq node queue started running unsaved
    simp only [deliverNow, node, queue, started, running, unsaved, Bool.false_eq_true, not_false_eq_true, and_self, if_true]
  · intro s sl n k tgt w c team tm sl' lane place
    rw [deliverNode_eq, place]
    rfl
  · intro s sl n k tgt w place
    rw [deliverNode_eq, place]
    rfl
  · rintro s id p w fw best n e ⟨here, body⟩ first free entry
    change execRayMessage id s = _
    simp only [execRayMessage, here, body, first, Bool.false_eq_true, if_false, free, entry, Option.isSome_some, if_true]
  · rintro s id p w fw best n ⟨here, body⟩ first free noEntry
    change execRayMessage id s = _
    simp only [execRayMessage, here, body, first, Bool.false_eq_true, if_false, free, noEntry, Option.isSome_none]
  · rintro s id p w fw best ⟨here, body⟩ full
    change execRayMessage id s = _
    simp only [execRayMessage, here, body, full, ite_self]
  · intro s core n r runs ray done
    change execTraversalNodeVisit core n s = _
    simp only [execTraversalNodeVisit, runs, Bool.false_eq_true, if_false, ray, ne_eq, done, not_false_eq_true, if_true]
  · intro s core n r runs ray live noEntry
    change execTraversalNodeVisit core n s = _
    simp only [execTraversalNodeVisit, runs, Bool.false_eq_true, if_false, ray, ne_eq, live, not_true_eq_false, noEntry]
  · intro s core n r i e runs ray live entry noSet
    change execTraversalNodeVisit core n s = _
    simp only [execTraversalNodeVisit, runs, Bool.false_eq_true, if_false, ray, ne_eq, live, not_true_eq_false, entry, noSet]
  · intro s core n r i e d runs ray live entry set p going same
    change execTraversalNodeVisit core n s = _
    simp only [p] at going same ⊢
    simp only [execTraversalNodeVisit, runs, Bool.false_eq_true, if_false, ray, ne_eq, live, not_true_eq_false, entry, set, going, same, decide_false,
      Bool.false_and]
  · rintro s id p sl t q w ⟨here, body⟩ first takes unspilled
    change ∃ u pos, execHitRecord id s = _
    refine ⟨recordCounted s id sl t q, ((tget (getSlice s sl).recQueues (t, q)).map RecQueue.written).getD 0, ?_⟩
    simp only [execHitRecord, here, first, Bool.false_eq_true, if_false, body]
    refine congrArg Host.Outcome.next (if_neg ?_)
    rintro (waiting | full)
    · obtain ⟨r, member, same⟩ := List.any_eq_true.mp waiting
      exact unspilled r member (sameQueue_iff.mp same)
    · exact full takes
  · rintro s id p sl t q en w cov seq ⟨here, body⟩ first spilled
    change ∃ u pos, execHitRecord id s = _
    refine ⟨recordCounted s id sl t q, ((tget (getSlice s sl).recQueues (t, q)).map RecQueue.written).getD 0, ?_⟩
    simp only [execHitRecord, here, first, Bool.false_eq_true, if_false, body]
    refine congrArg Host.Outcome.next (if_pos ?_)
    obtain ⟨r, member, same⟩ := List.any_eq_true.mp spilled
    refine .inl (List.any_eq_true.mpr ⟨r, member, sameQueue_iff.mpr ?_⟩)
    simpa [and_assoc] using same
  · intro s core n r record full
    change execRingToBasinMove core n s = _
    simp only [execRingToBasinMove, record, full, Bool.false_and, Bool.not_false, Bool.true_or, if_true]
  · intro s core r rest records takes noQueue
    change execRingToBasinMove core 0 s = _
    simp only [execRingToBasinMove, records, List.getElem?_cons_zero, takes, List.take_zero, List.any_nil, Bool.not_false, Bool.and_self, Bool.not_true,
      List.range_zero, Bool.or_self, Bool.false_eq_true, if_false, List.nil_append, Nat.zero_add, List.drop_one, List.tail_cons]
    erw [noQueue]
    rfl

end Sys2Proof.Proofs

/-!
Matrix blocks (R228, R229, R282, R284): leases, commands, steps and the watchdog.
-/
namespace Sys2Proof.Proofs

open Machine Claims Laws

/-! ### Blocks -/

/-- The table of matrix blocks is kept. -/
def BlocksKept (s t : State) : Prop := t.blocks = s.blocks

theorem BlocksKept.getBlock {s t : State} (kept : BlocksKept s t) (q : Nat) : getBlock t q = getBlock s q := congrArg (tgetD · q Block.fresh) kept

theorem blocksKept_foldl {α : Type} (f : State → α → State) (kept : ∀ s a, BlocksKept s (f s a)) (l : List α) (s : State) :
    BlocksKept s (l.foldl f s) := by
  induction l generalizing s with
  | nil => exact rfl
  | cons a l ih => exact (ih (f s a)).trans (kept s a)

theorem blocksKept_logError (s : State) (ekind struct src core stack slice : Nat) (addr : DWord) :
    BlocksKept s (logError s ekind struct src core stack slice addr) := rfl

@[simp] theorem getBlock_putBlock_self (s : State) (q : Nat) (b : Block) : getBlock (putBlock s q b) q = b := by
  simp [getBlock, putBlock, tgetD]

/-! ### Leases -/

/-- A lease that is not ending stays. -/
theorem endLease_live {b : Block} {slot : Nat} (live : ∀ l, tget b.leases slot = some l → l.ending = false) : endLease b slot = b := by
  unfold endLease
  cases held : tget b.leases slot with
  | none => rfl
  | some l => simp [live l held]

/-- With no lease to enter again the block's queue of requests is as it was. -/
theorem queueReentries_none {b : Block} (s : State) (q : Nat) (noReentry : ∀ e ∈ b.leases, e.2.reentry = none) : queueReentries s q b = b := by
  have nothing : b.leases.filter (fun l => reentryDue s b l.1 l.2 && ! ((s.mesh.filter fun p => p.arrived && decide (coreQuad p.dst = q) &&
      (match p.body with | .lease _ _ _ _ _ _ => true | _ => false)).any fun p => leaseBefore p.came (l.2.reentry.getD 0) p.src l.2.core)) = [] := by
    refine List.filter_eq_nil_iff.mpr fun e member => ?_
    simp [reentryDue, noReentry e member]
  unfold queueReentries
  dsimp only
  erw [nothing]
  rfl

/-- Clearing a tile keeps the leases of its block. -/
theorem leases_zeroTile (s : State) (block core slice t : Nat) : (getBlock (zeroTile s block core slice t) block).leases = (getBlock s block).leases := by
  have dropped : (getBlock (dropRows s block core slice t fun _ => true) block).leases = (getBlock s block).leases := by
    unfold dropRows
    dsimp only
    split_ifs
    · rw [getBlock_putBlock_self]
    · rw [(blocksKept_logError _ _ _ _ _ _ _ _).getBlock, getBlock_putBlock_self]
  unfold zeroTile
  dsimp only
  rw [getBlock_putBlock_self]
  exact dropped

theorem leases_foldl {α : Type} (block : Nat) (f : State → α → State) (kept : ∀ s a, (getBlock (f s a) block).leases = (getBlock s block).leases)
    (l : List α) (s : State) : (getBlock (l.foldl f s) block).leases = (getBlock s block).leases := by
  induction l generalizing s with
  | nil => rfl
  | cons a l ih => exact (ih (f s a)).trans (kept s a)

/-- A request for a lease that fits in an idle block is granted in slot 0. -/
theorem execLeaseGrant_idle {s : State} {block : Nat} {r : LeaseReq} {rest : List LeaseReq} (noLeases : (getBlock s block).leases = [])
    (requests : (getBlock s block).requests = r :: rest) (new : r.slot = none) :
    ∃ u, execLeaseGrant block s = .next u ∧ (getBlock u block).requests = rest ∧ (getBlock u block).leases =
      [(0, { core := r.core, team := r.team, first := r.first, count := r.count, acc := 0, queue := [], ending := false, reentry := none, watchdog := 0 })] := by
  have same : queueReentries s block (endLeases (getBlock s block)) = getBlock s block := by
    have live : ∀ slot l, tget (getBlock s block).leases slot = some l → l.ending = false := by
      intro slot l held
      rw [noLeases] at held
      cases held
    rw [endLeases, endLease_live (live 0), endLease_live (live 1)]
    exact queueReentries_none s block (by simp [noLeases])
  simp only [execLeaseGrant, same, requests, new, noLeases, List.all_nil, if_true, tget, Option.isNone_none, List.find?_cons_of_pos]
  refine ⟨_, rfl, ?_, ?_⟩
  · rw [(blocksKept_foldl _ (fun u w => llDone_blocks u _ _ _ _) _ _).getBlock, getBlock_putBlock_self]
  · rw [(blocksKept_foldl _ (fun u w => llDone_blocks u _ _ _ _) _ _).getBlock, getBlock_putBlock_self]
    change tput (getBlock (List.foldl _ _ _) block).leases 0 _ = _
    rw [leases_foldl block _ (fun u t => ?_), getBlock_putBlock_self, noLeases]
    · rfl
    · split_ifs
      · rfl
      · exact leases_zeroTile u block _ _ t

/-- A request whose tiles meet those of another team's lease waits, and the block stays as it was. -/
theorem execLeaseGrant_waits {s : State} {block : Nat} {r : LeaseReq} {rest : List LeaseReq} {l : Lease}
    (one : (getBlock s block).leases = [(0, l)]) (live : l.ending = false) (inside : l.reentry = none)
    (requests : (getBlock s block).requests = r :: rest) (new : r.slot = none) (other : l.core ≠ r.core ∨ l.team ≠ r.team)
    (below : l.first < r.first + r.count) (above : r.first < l.first + l.count) :
    execLeaseGrant block s = .next (putBlock s block (getBlock s block)) := by
  have same : queueReentries s block (endLeases (getBlock s block)) = getBlock s block := by
    have stays : ∀ slot m, tget (getBlock s block).leases slot = some m → m.ending = false := by
      intro slot m held
      rw [one] at held
      simp only [tget] at held
      split_ifs at held
      cases held
      exact live
    rw [endLeases, endLease_live (stays 0), endLease_live (stays 1)]
    exact queueReentries_none s block (by simp [one, inside])
  have meets : ((getBlock s block).leases.all fun l => decide (l.2.core = r.core ∧ l.2.team = r.team) ||
      decide (l.2.first + l.2.count ≤ r.first ∨ r.first + r.count ≤ l.2.first)) = false := by
    have another : ¬ (l.core = r.core ∧ l.team = r.team) := fun ⟨core, team⟩ => other.elim (· core) (· team)
    have apart : ¬ (l.first + l.count ≤ r.first ∨ r.first + r.count ≤ l.first) := by omega
    simp only [one, List.all_cons, List.all_nil, Bool.and_true, decide_eq_false another, decide_eq_false apart, Bool.or_self]
  simp only [execLeaseGrant, same, requests, new, meets, Bool.false_eq_true, if_false]

/-- A block steps the head of the queue whose turn it is, or else of the other one. -/
theorem execMatrixTileStep_eq (block : Nat) (s : State) :
    execMatrixTileStep block s =
      match ((steppable s block ((getBlock s block).turn % 2)).map (Prod.mk ((getBlock s block).turn % 2))).or
        ((steppable s block (((getBlock s block).turn + 1) % 2)).map (Prod.mk (((getBlock s block).turn + 1) % 2))) with
      | none => .next s
      | some (sl, c) => .next (stepOf (turnTo s block sl) block sl c) := by
  have heads : ∀ sl, (if (quadCores block).any (underTest s 0x06) then none else (tget (getBlock s block).leases sl).bind fun l => match l.queue.head? with
      | some c => if canStep s c && (midGroup c || ! (getTeam s c.f.core c.team).any (saving s)) then some (sl, c) else none
      | none => none) = (steppable s block sl).map (Prod.mk sl) := by
    intro sl
    unfold steppable
    split_ifs
    · rfl
    · cases tget (getBlock s block).leases sl with
      | none => rfl
      | some l =>
        simp only [Option.bind_some]
        cases l.queue.head? with
        | none => rfl
        | some c =>
          dsimp only
          split_ifs <;> rfl
  unfold execMatrixTileStep
  dsimp only
  erw [heads, heads] <;> rfl

/-- Settles O28: leases, commands, steps in turn and the watchdog of a matrix block. -/
theorem matrixBlocks : Obligations.MatrixBlocks := by
  refine ⟨?_, ?_, fun s block r rest => execLeaseGrant_idle, ?_, ?_, ?_, ?_, ?_, ?_, ?_, ?_, ?_, ?_⟩
  · rintro s id p core team ws first count sl ⟨here, body⟩ next room
    change execLeaseRequest id s = _
    simp only [execLeaseRequest, here, body, next, Bool.not_false, room, and_self, if_true]
  · rintro s id p core team ws first count sl ⟨here, body⟩ full
    change execLeaseRequest id s = _
    simp only [execLeaseRequest, here, body, if_neg (fun fits => absurd fits.2 (by omega) :
      ¬ ((! earlierLease s p) = true ∧ (getBlock s (coreQuad core)).requests.length < 8))]
  · intro s block r rest l one live inside requests new other below above
    exact ⟨_, execLeaseGrant_waits one live inside requests new other below above, getBlock_putBlock_self _ _ _⟩
  · rintro s id p c ⟨here, body⟩ first noLease
    change execMatrixCommand id s = _
    simp only [execMatrixCommand, here, body]
    refine (if_neg (Bool.eq_false_iff.mp first)).trans ?_
    simp only [noLease]
  · rintro s id p c sl l ⟨here, body⟩ first lease keeps room few inside
    change execMatrixCommand id s = _
    simp only [execMatrixCommand, here, body]
    refine (if_neg (Bool.eq_false_iff.mp first)).trans ?_
    simp only [lease, if_neg keeps, if_neg (by simp [inside]; omega :
      ¬ (32 ≤ l.queue.length ∨ 16 ≤ l.acc ∨ l.reentry.isSome = true)), Nat.reduceEqDiff]
  · rintro s id p c sl l ⟨here, body⟩ lease keeps full
    change execMatrixCommand id s = _
    have waits : 32 ≤ l.queue.length ∨ 16 ≤ l.acc ∨ l.reentry.isSome = true := full.imp_right (Or.imp_right Option.isSome_iff_ne_none.mpr)
    simp only [execMatrixCommand, here, body, lease, if_neg keeps, if_pos waits, ite_self]
  · intro s block c steps
    refine (execMatrixTileStep_eq block s).trans ?_
    rw [steps]
    rfl
  · intro s block c idle steps
    refine (execMatrixTileStep_eq block s).trans ?_
    rw [idle, steps]
    rfl
  · intro s block idle idle'
    refine (execMatrixTileStep_eq block s).trans ?_
    rw [idle, idle']
    rfl
  · intro s block core slice t i j
    unfold zeroTile
    dsimp only
    rw [getBlock_putBlock_self]
    simp [tileWord, tgetD, tget]
  · intro s block sl l c held head early
    change execMatrixWatchdogExpiry block sl s = _
    simp only [execMatrixWatchdogExpiry, held, head]
    exact if_pos early
  · intro s block sl l c held queue late moving uncut u
    change execMatrixWatchdogExpiry block sl s = _
    have acts : ¬ ((sliceCtl s l.core (((getTeam s l.core l.team).map Team.slice).getD 0) 0x109).toNat = 0 ∨
        l.watchdog.toNat < (sliceCtl s l.core (((getTeam s l.core l.team).map Team.slice).getD 0) 0x109).toNat ∨ cmdStuck c = true ∨ c.cut = true) := by
      simp only [moving, uncut, Bool.false_eq_true, or_self, or_false, not_or, not_lt]
      exact late
    simp only [execMatrixWatchdogExpiry, held, queue, List.head?_cons, if_neg acts, List.foldl_cons, List.foldl_nil, u]

end Sys2Proof.Proofs

/-!
Shading waves, credits, treelets, descriptor images and draws (R267, R269, R270, R465, R466).
-/
namespace Sys2Proof.Proofs

open Machine Claims Laws

/-! ### What a shading wave leaves of the bins and of its group -/

/-- The bins of a core and the table of groups are kept. -/
def WaveKept (core : Nat) (s t : State) : Prop := (getCore t core).bins = (getCore s core).bins ∧ t.groups = s.groups

theorem WaveKept.refl (core : Nat) (s : State) : WaveKept core s s := ⟨rfl, rfl⟩

theorem WaveKept.trans {core : Nat} {s t u : State} (first : WaveKept core s t) (second : WaveKept core t u) : WaveKept core s u :=
  ⟨second.1.trans first.1, second.2.trans first.2⟩

theorem WaveKept.binOf {core : Nat} {s t : State} (kept : WaveKept core s t) (bin : Nat) :
    binOf (getCore t core) bin = binOf (getCore s core) bin := congrArg (tgetD · bin Bin.fresh) kept.1

theorem WaveKept.getGroup {core : Nat} {s t : State} (kept : WaveKept core s t) (slot : Nat) : getGroup t core slot = getGroup s core slot :=
  congrArg (tget · (core, slot)) kept.2

theorem waveKept_foldl {α : Type} (core : Nat) (f : State → α → State) (kept : ∀ s a, WaveKept core s (f s a)) (l : List α) (s : State) :
    WaveKept core s (l.foldl f s) := by
  induction l generalizing s with
  | nil => exact .refl core s
  | cons a l ih => exact (kept s a).trans (ih (f s a))

theorem waveKept_modCore (s : State) (core : Nat) (f : Core → Core) (bins : ∀ k, (f k).bins = k.bins) : WaveKept core s (modCore s core f) :=
  ⟨by rw [getCore_modCore_self, bins], rfl⟩

theorem waveKept_perfEvent (s : State) (core evt n : Nat) (sl part : Option Nat) : WaveKept core s (perfEvent s core evt n sl part) := by
  refine waveKept_foldl core _ (fun u i => ?_) _ s
  dsimp only
  split
  · exact ⟨by rw [getCore_putCore_self], rfl⟩
  · exact .refl core u

theorem waveKept_returnCredits (s : State) (core sl t q n : Nat) : WaveKept core s (returnCredits s core sl t q n) := by
  unfold returnCredits
  split
  · exact ⟨rfl, rfl⟩
  · exact .refl core s

/-- A slot holds a group, at whatever place of the register pool. -/
def GroupAt (s : State) (core slot : Nat) (g : Group) : Prop := ∃ b, getGroup s core slot = some { g with base := b }

theorem groupAt_foldl {α β : Type} (state : β → State) (core slot : Nat) (g : Group) (f : β → α → β)
    (kept : ∀ a x, GroupAt (state a) core slot g → GroupAt (state (f a x)) core slot g) (l : List α) (a : β) (here : GroupAt (state a) core slot g) :
    GroupAt (state (l.foldl f a)) core slot g := by
  induction l generalizing a with
  | nil => exact here
  | cons x l ih => exact ih (f a x) (kept a x here)

/-- Packing the pool moves groups and ends none. -/
theorem groupAt_packPool {s : State} {core slot : Nat} {g : Group} (here : GroupAt s core slot g) : GroupAt (packPool s core) core slot g := by
  refine groupAt_foldl Prod.fst core slot g _ (fun a sl held => ?_) _ (s, 0) here
  cases found : getGroup a.1 core sl with
  | none => exact held
  | some h =>
    by_cases same : sl = slot
    · subst same
      obtain ⟨b, isGroup⟩ := held
      obtain rfl := Option.some.inj (found.symm.trans isGroup)
      exact ⟨a.2, tget_tput_self _ _ _⟩
    · obtain ⟨b, isGroup⟩ := held
      exact ⟨b, (tget_tput_ne _ (by simpa using Ne.symm same) _).trans isGroup⟩

/-- A new group stands in its slot. -/
theorem groupAt_makeGroup (s : State) (core slot : Nat) (g : Group) : GroupAt (makeGroup s core slot g) core slot g := by
  have put : getGroup { s with groups := tput s.groups (core, slot) g } core slot = some g := tget_tput_self _ _ _
  have placed : GroupAt (placeAllot { s with groups := tput s.groups (core, slot) g } core slot) core slot g := by
    unfold placeAllot
    split
    · next b _ =>
      unfold modGroup
      rw [put]
      exact ⟨b, tget_tput_self _ _ _⟩
    · exact groupAt_packPool ⟨g.base, put⟩
  exact placed

theorem cores_packPool (s : State) (core : Nat) : (packPool s core).cores = s.cores := by
  unfold packPool
  generalize List.range 64 = l
  generalize 0 = n
  induction l generalizing s n with
  | nil => rfl
  | cons sl l ih =>
    rw [List.foldl_cons, ih]
    split <;> rfl

theorem bins_makeGroup (s : State) (core slot : Nat) (g : Group) : (getCore (makeGroup s core slot g) core).bins = (getCore s core).bins := by
  have cores : ∀ t : State, (placeAllot t core slot).cores = t.cores := by
    intro t
    unfold placeAllot
    split
    · unfold modGroup
      split <;> rfl
    · exact cores_packPool t core
  have core_eq : ∀ t : State, getCore (placeAllot t core slot) core = getCore t core := fun t => congrArg (tgetD · core Core.fresh) (cores t)
  unfold makeGroup bumpGen takeGroup
  rw [getCore_modCore_self, getCore_modCore_self, core_eq]
  rfl

theorem waveKept_createFibre (core : Nat) (s : State) (f : FRef) (allot : Nat) (pc fsr : Word) (args : List Word) (o : Origin) :
    WaveKept core s (createFibre s f allot pc fsr args o) := ⟨rfl, rfl⟩

/-- A wave takes records of one kind from the front of its bin, at most 32 of them. -/
theorem waveRecords_spec (b : Bin) :
    (waveRecords b).length ≤ 32 ∧ (∀ r ∈ waveRecords b, ∀ e ∈ waveRecords b, r.pixel = e.pixel) ∧ waveRecords b <+: b.records := by
  cases records : b.records with
  | nil => simp [waveRecords, records]
  | cons first rest =>
    have wave : waveRecords b = ((first :: rest).takeWhile fun e => e.pixel == first.pixel).take (if first.pixel then 8 else 32) := by
      simp only [waveRecords, records]
    have alike : ∀ r ∈ waveRecords b, r.pixel = first.pixel := by
      intro r member
      rw [wave] at member
      simpa using List.mem_takeWhile_imp (List.mem_of_mem_take member)
    refine ⟨?_, fun r hr e he => (alike r hr).trans (alike e he).symm, ?_⟩
    · rw [wave]
      refine (List.length_take_le _ _).trans ?_
      split_ifs <;> omega
    · rw [wave]
      exact (List.take_prefix _ _).trans (List.takeWhile_prefix _)

/-- A bin that is due has a wave when it has a record. -/
theorem waveRecords_ne_nil {b : Bin} {r : BasinRec} {rs : List BasinRec} (records : b.records = r :: rs) : (waveRecords b).isEmpty = false := by
  have wave : waveRecords b = ((r :: rs).takeWhile fun e => e.pixel == r.pixel).take (if r.pixel then 8 else 32) := by
    simp only [waveRecords, records]
  rw [wave, List.takeWhile_cons_of_pos (by simp)]
  split_ifs <;> rfl

/-- Settles O29: waves, credits, treelets, descriptor images and draws. -/
theorem shadingTreeletsDraws : Obligations.ShadingTreeletsDraws := by
  refine ⟨?_, ?_, waveRecords_spec, ?_, ?_, ?_, ?_, ?_, ?_, ?_, ?_, ?_, ?_, ?_, ?_, ?_, ?_⟩
  · intro s core bin undue
    change execShadingWaveForm core bin s = _
    simp only [execShadingWaveForm, undue, Bool.false_eq_true, if_false]
  · intro s core bin n t slot r rs due owner team free runs going records room
    change ∃ u, execShadingWaveForm core bin s = _ ∧ _
    have acts : ¬ (t.halted = true ∨ t.stopped = true ∨ (waveRecords (binOf (getCore s core) bin)).isEmpty = true ∨
        ¬ admits s core (32 * t.allot) = true) := by
      simp [runs, going, waveRecords_ne_nil records, room]
    simp only [execShadingWaveForm, due, if_true, owner, Option.bind_some, team, Option.map_some, free, if_neg acts, records]
    refine ⟨_, rfl, ?_, ?_⟩
    · rw [(waveKept_perfEvent _ _ _ _ _ _).binOf, (waveKept_foldl core _ (fun u r => waveKept_returnCredits u _ _ _ _ _) _ _).binOf,
        (waveKept_foldl core _ (fun u e => waveKept_createFibre core u _ _ _ _ _ _) _ _).binOf]
      unfold binOf
      rw [bins_makeGroup, getCore_modCore_self]
      simp only [tgetD, tget_tput_self, Option.getD_some]
    · rw [(waveKept_perfEvent _ _ _ _ _ _).getGroup, (waveKept_foldl core _ (fun u r => waveKept_returnCredits u _ _ _ _ _) _ _).getGroup,
        (waveKept_foldl core _ (fun u e => waveKept_createFibre core u _ _ _ _ _ _) _ _).getGroup]
      exact groupAt_makeGroup _ core slot _
  · intro s core sl t q r p asked queue quiet few credits
    change execCreditBatchTake core sl t q s = _
    simp only [execCreditBatchTake, asked, queue, quiet, if_neg (by omega : ¬ r.credits < 8), if_neg (by omega : ¬ 8 < creditsOf s core sl t q),
      Bool.false_eq_true, false_or]
  · intro s core sl t q unasked
    change execCreditBatchTake core sl t q s = _
    simp only [execCreditBatchTake, unasked]
  · intro s core sl t q r p asked queue waits
    change execCreditBatchTake core sl t q s = _
    simp only [execCreditBatchTake, asked, queue, if_pos waits]
  · rintro s id p c off b psn ⟨here, body⟩ image
    change execTreeletTransfer id s = _
    simp only [execTreeletTransfer, here, body, if_pos image]
  · rintro s id p c off b psn ⟨here, body⟩ treelet more
    change execTreeletTransfer id s = _
    simp only [execTreeletTransfer, here, body, if_neg (not_not.mpr treelet), if_pos more]
  · rintro s id p c off b psn ⟨here, body⟩ treelet last
    change ∃ u, execTreeletTransfer id s = _ ∧ _
    simp only [execTreeletTransfer, here, body, if_neg (not_not.mpr treelet), if_neg (by omega : ¬ off + b.length < c.size)]
    refine ⟨_, rfl, ?_⟩
    split
    · exact .inl ⟨_, rfl⟩
    · exact .inr rfl
  · intro s sl off v good aligned low img
    change execDescriptorImageWrite sl off v s = _
    simp only [execDescriptorImageWrite, if_neg (by simp [good, aligned]; omega : ¬ (off % 32 ≠ 0 ∨ 0x300 ≤ off ∨ (! s.imageGood) = true)), if_pos low]
    rfl
  · intro s sl off v good aligned high inside img
    change execDescriptorImageWrite sl off v s = _
    simp only [execDescriptorImageWrite, if_neg (by simp [good, aligned]; omega : ¬ (off % 32 ≠ 0 ∨ 0x300 ≤ off ∨ (! s.imageGood) = true)),
      if_neg (by omega : ¬ off < 0x100)]
    rfl
  · intro s sl off v refused
    change execDescriptorImageWrite sl off v s = _
    exact if_pos (refused.imp_right (Or.imp_right fun bad => by simp [bad]))
  · intro s d idle noSet
    change execDraw d s = _
    simp only [execDraw, idle, noSet]
  · intro s d set q idle held queue kind
    change execDraw d s = _
    simp only [execDraw, idle, held, queue, if_pos kind]
  · intro s d r running other
    change execDraw d s = _
    simp only [execDraw, running, if_neg other]
  · intro s d r q set p ps running same queue recs prims held rate
    change execDraw d s = _
    subst same
    simp only [execDraw, running, if_true, stepDraw, queue, recs, prims, held]
    rfl
  · intro s d r q e rest running same queue recs
    subst same
    have sends : execDraw r.spec s = .next (sendPixel s q r e rest) := by
      simp only [execDraw, running, if_true, stepDraw, queue, recs]
    by_cases credit : creditsOf s (rasterRouter r.spec.die) r.spec.slice r.spec.task r.spec.queue = 0
    · rw [if_pos credit]
      exact sends.trans (congrArg Host.Outcome.next (if_pos credit))
    · rw [if_neg credit]
      refine ⟨_, _, sends.trans (congrArg Host.Outcome.next (if_neg credit)), rfl, ?_⟩
      dsimp only
      rw [List.drop_left' (by simp)]

end Sys2Proof.Proofs

/-!
Pump commands at their stack (R288, R470, R472, R473).
-/
namespace Sys2Proof.Proofs

open Machine Claims Laws

/-! ### The list of self-tests -/

/-- The self-tests asked for and running are kept. -/
def TestsKept (s t : State) : Prop := t.tests = s.tests

theorem TestsKept.trans {s t u : State} (first : TestsKept s t) (second : TestsKept t u) : TestsKept s u := Eq.trans second first

theorem testsKept_foldl {α : Type} (f : State → α → State) (kept : ∀ s a, TestsKept s (f s a)) (l : List α) (s : State) : TestsKept s (l.foldl f s) := by
  induction l generalizing s with
  | nil => exact rfl
  | cons a l ih => exact (kept s a).trans (ih (f s a))

theorem testsKept_emitFrom (block : Bool) (s : State) (vc : VC) (kind src dst flits : Nat) (tags : BitVec 18) (body : Body) :
    TestsKept s (emitFrom block s vc kind src dst flits tags body) := rfl

theorem OnlyMemory.testsKept {s t : State} (memory : OnlyMemory s t) : TestsKept s t := by
  unfold TestsKept
  rw [memory.eq]

theorem testsKept_writeBlocks (fuel : Nat) (s : State) (pa : Nat) (bytes : List Byte) : TestsKept s (writeBlocks fuel s pa bytes) := by
  induction fuel generalizing s pa bytes with
  | zero => exact rfl
  | succ fuel ih =>
    unfold writeBlocks
    split_ifs
    · exact rfl
    · exact (onlyMemory_memWrite s pa _ 0 false).testsKept.trans (ih _ _ _)

/-! ### The end of a command's elements -/

theorem testsKept_pumpEnds (s : State) (stack : Nat) (c : PumpCmd) (status first : Nat) : TestsKept s (pumpEnds s stack c status first).1 := by
  unfold pumpEnds
  rcases pumpWrites s c first with ⟨a, bytes⟩
  unfold TestsKept
  dsimp only
  exact Eq.trans (testsKept_foldl _ (fun u h => testsKept_emitFrom _ u _ _ _ _ _ _ _) _ _) (testsKept_writeBlocks _ s a bytes)

/-- The command's record after its elements: ended, with its status and the first element not done. -/
theorem pumpEnds_command (s : State) (stack : Nat) (c : PumpCmd) (status first : Nat) :
    (pumpEnds s stack c status first).2 =
      { c with status := status, first := first, acks := (pumpEnds s stack c status first).2.acks, finished := true } := by
  unfold pumpEnds
  rcases pumpWrites s c first with ⟨a, bytes⟩
  rfl

/-- What has an entry in a table is listed there. -/
theorem mem_of_tget {α β : Type} [DecidableEq α] {t : Tbl α β} {k : α} {v : β} (held : tget t k = some v) : (k, v) ∈ t := by
  induction t with
  | nil => cases held
  | cons e t ih =>
    obtain ⟨a, b⟩ := e
    unfold tget at held
    split_ifs at held with same
    · cases held
      exact same ▸ List.mem_cons_self
    · exact List.mem_cons_of_mem _ (ih held)

/-- A command behind an earlier one of a fibre that is gone does not start. -/
theorem pumpStartable_follows {s : State} {c d : PumpCmd} (queued : d ∈ (stackAt s (stackOf c.y)).queue) (same : d.f = c.f) (earlier : d.seq < c.seq)
    (gone : getFib s c.f = none) : pumpStartable s c = false := by
  have listed : ∃ k, (stackOf c.y, k) ∈ s.stackUnits ∧ d ∈ k.queue := by
    unfold stackAt tgetD at queued
    cases held : tget s.stackUnits (stackOf c.y) with
    | none => rw [held] at queued; cases queued
    | some k => rw [held] at queued; exact ⟨k, mem_of_tget held, queued⟩
  obtain ⟨k, unit, member⟩ := listed
  have follows : pumpFollows s c = true := by
    unfold pumpFollows
    rw [gone]
    exact List.any_eq_true.mpr ⟨_, unit, List.any_eq_true.mpr ⟨d, member, decide_eq_true ⟨same, earlier⟩⟩⟩
  simp [pumpStartable, follows]

/-- The commands that read a piece whose read failed. -/
def readsFailed (s : State) (stack pa : Nat) : List PumpCmd :=
  (stackAt s stack).queue.filter fun c => c.running && ! c.finished && decide (pumpFirst c (fun t => decide (t = pa / 64)) < c.n)

/-- A command whose operand could not be read ends at that element and is reported. -/
def stopPump (stack pa : Nat) (synd : DWord) (s : State) (c : PumpCmd) : State :=
  let (s, c) := pumpEnds s stack c 1 (pumpFirst c fun t => decide (t = pa / 64) || memPoisoned s (t * 64) 64)
  logPumpError (putCmd s stack c) stack (pa / 64 * 64) c synd

/-- The error of a failed read, as its self-test takes it. -/
def failedRead (s : State) (stack pa : Nat) : ErrorSpec :=
  { struct := 0x09, core := 0xFFFF, stack := stack, addr := pa, part := 0, corrected := false, synd := Config.syndrome (freshFree s).1 }

theorem readsFailed_nil {s : State} {stack pa : Nat}
    (none : ∀ c ∈ (stackAt s stack).queue, c.running = false ∨ c.finished = true ∨ pumpFirst c (fun t => decide (t = pa / 64)) = c.n) :
    readsFailed s stack pa = [] := by
  refine List.filter_eq_nil_iff.mpr fun c member => ?_
  rcases none c member with idle | done | unread
  · simp [idle]
  · simp [done]
  · simp [unread]

/-- A failed read of pump commands asks for a self-test of the stack's channel, unless one is asked for. -/
theorem stopPumps_tests {s : State} {stack pa : Nat} (some_command : readsFailed s stack pa ≠ []) :
    ∃ e : ErrorSpec, (stopPumps s stack pa).tests = (if testJoined s e = true then s.tests else s.tests ++ [{ e := e, started := false }]) ∧
      e.struct = 0x09 ∧ e.core = 0xFFFF ∧ e.stack = stack ∧ e.part = 0 ∧ e.addr = pa ∧ e.corrected = false := by
  have stopped : ∀ (synd : DWord) (l : List PumpCmd) (t : State), TestsKept t (l.foldl (stopPump stack pa synd) t) :=
    fun synd => testsKept_foldl _ fun u c => testsKept_pumpEnds u stack c 1 _
  have acts : ¬ (readsFailed s stack pa).isEmpty = true := by simpa using some_command
  have state : stopPumps s stack pa = addTest ((readsFailed s stack pa).foldl (stopPump stack pa (Config.syndrome (freshFree s).1)) (freshFree s).2)
      (failedRead s stack pa) := if_neg acts
  have joined : ∀ e, testJoined ((readsFailed s stack pa).foldl (stopPump stack pa (Config.syndrome (freshFree s).1)) (freshFree s).2) e = testJoined s e := by
    intro e
    unfold testJoined
    rw [stopped]
    rfl
  refine ⟨failedRead s stack pa, ?_, rfl, rfl, rfl, rfl, rfl, rfl⟩
  rw [state, addTest, joined]
  split_ifs
  · exact stopped _ _ _
  · exact congrArg (· ++ _) (stopped _ _ _)

/-- A running command whose reads are good and free performs its elements. -/
theorem pumpBad_none {s : State} {c : PumpCmd} (good : (pumpFirst c fun t => memPoisoned s (t * 64) 64) = c.n) : pumpBad s c = none := by
  unfold pumpBad
  dsimp only
  rw [good, if_pos (le_refl _)]

/-- Settles O30: pump commands from their queue to their completion. -/
theorem pumpCommands : Obligations.PumpCommands := by
  refine ⟨?_, ?_, ?_, ?_, fun s c d => pumpStartable_follows, ?_, ?_, ?_, fun s st c f k => pumpEnds_command s st c f k, ?_, ?_⟩
  · rintro s id p c ⟨here, body⟩ first copies room
    change execPumpCommand id s = _
    simp only [execPumpCommand, here, body, first, copies, false_and, if_false, Bool.false_eq_true, false_or, if_neg (by omega :
      ¬ 64 ≤ (stackAt s (stackOf (normPa s c.y))).queue.length)]
  · rintro s id p c ⟨here, body⟩ full
    change execPumpCommand id s = _
    simp only [execPumpCommand, here, body]
    exact if_pos (.inr full)
  · intro s st n c queued startable few untested first
    change execPumpCommandStart st n s = _
    simp only [execPumpCommandStart, queued, startable, untested, first, Bool.not_true, Bool.false_eq_true, or_false, false_or, if_neg (by omega :
      ¬ 4 ≤ ((stackAt s st).queue.filter PumpCmd.running).length)]
  · intro s st n c queued waits
    change execPumpCommandStart st n s = _
    have stays : (! pumpStartable s c) = true ∨ 4 ≤ ((stackAt s st).queue.filter PumpCmd.running).length ∨ stackTesting s st = true ∨
        ((stackAt s st).queue.take n).any (pumpStartable s) = true := waits.imp_left fun not => by rw [not]; rfl
    simp only [execPumpCommandStart, queued, if_pos stays]
  · intro s st n c queued running unfinished good free
    change execPumpCommandComplete st n s = _
    simp only [execPumpCommandComplete, queued, running, unfinished, Bool.false_eq_true, not_true_eq_false, if_false, not_false_eq_true, if_true, free,
      lt_irrefl, pumpBad_none good]
  · intro s st n c queued running finished told
    change execPumpCommandComplete st n s = _
    simp only [execPumpCommandComplete, queued, running, finished, told, ne_eq, not_true_eq_false, if_false]
  · intro s st n c queued waits
    change execPumpCommandComplete st n s = _
    rcases waits with idle | ⟨finished, acks⟩
    · simp only [execPumpCommandComplete, queued, idle, Bool.false_eq_true, not_false_eq_true, if_true]
    · simp only [execPumpCommandComplete, queued, finished, not_true_eq_false, if_false, if_pos acks, ite_self]
  · intro s st pa none
    change Host.Outcome.next (stopPumps s st pa) = _
    have nothing : ((stackAt s st).queue.filter fun c => c.running && ! c.finished && decide (pumpFirst c (fun t => decide (t = pa / 64)) < c.n)) = [] :=
      readsFailed_nil none
    simp only [stopPumps, nothing, List.isEmpty_nil, if_true]
  · intro s st pa c queued running unfinished reads
    have some_command : readsFailed s st pa ≠ [] :=
      List.ne_nil_of_mem (List.mem_filter.mpr ⟨queued, by simp [running, unfinished, reads]⟩)
    obtain ⟨e, tests, fields⟩ := stopPumps_tests some_command
    exact ⟨_, e, rfl, tests, fields⟩

end Sys2Proof.Proofs

/-!
Migrations (R261, R404, R405): the place asked for, the passes of blocks, the switch and the last acknowledgement.
-/
namespace Sys2Proof.Proofs

open Machine Claims Laws

/-- A migration that its slice takes up walks the page and looks for a place. -/
theorem execMigrationControl_taken {s : State} {id : Nat} {p : Packet} {sl : Nat} {va : DWord} {pa tg : Nat} {who : Word}
    (here : Arrived s id p (.migrate sl va pa tg who)) (first : earlierWaits s p = false) (alone : behindSame s p = false)
    (idle : (getSlice s sl).migration = none) :
    execMigrationControl id s =
      let n := (freshFree (dropPacket s id)).1
      let s := (freshFree (dropPacket s id)).2
      let refused := postMigration s p.dst sl va 2 who
      .next (match walk s p.dst sl va.toNat with
      | .leaf entry big entryPa =>
        let bytes := if big then 2 ^ 21 else 2 ^ 16
        let old := normPa s (fld entry 47 16 * 2 ^ 16)
        (match migrationPlace s sl tg bytes n with
         | some new =>
           if pagePinned s old bytes then refused
           else
             let m : Migration := {
               va := BitVec.ofNat 64 (va.toNat / bytes * bytes), entryPa := entryPa, oldPa := old, newPa := normPa s new, bytes := bytes, pass := 1
               dirty := [], todo := (List.range (bytes / 256)).map fun i => (old + 256 * i, 256), held := [], who := who, acksLeft := 0
               switched := false }
             let s := modSlice (setEntry s entryPa true none) sl fun x => { x with migration := some m }
             nextBlock (flushPage s m) sl
         | none => refused)
      | _ => refused) := by
  obtain ⟨here, body⟩ := here
  simp only [execMigrationControl, here, body, first, alone, idle, Option.isSome_none, Bool.false_eq_true, or_self, if_false] <;> rfl

/-- A slice's migration that has not switched and has no block on its way: more blocks, the switch, its end, or one more pass. -/
theorem execMigrationPassEnd_running {s : State} {sl : Nat} {m : Migration} (moving : (getSlice s sl).migration = some m) (old : m.switched = false)
    (done : passRunning s sl = false) :
    execMigrationPassEnd sl s =
      if ! m.todo.isEmpty then .next (nextBlock s sl)
      else if pumpNames s m then .next s
      else
        let unit := (faultService s hostPort sl).getD hostPort
        let put := fun (s : State) (m : Option Migration) => modSlice s sl fun x => { x with migration := m }
        if m.dirty.isEmpty then
          let cores := (getSlice s sl).cores
          let s := put (setEntry s m.entryPa false (some m.newPa)) (some { m with switched := true, acksLeft := cores.length })
          .next (cores.foldl (fun s c => emit s .sys 0x05 unit c 1 0 (.shoot sl m.va m.bytes unit)) s)
        else if 4 ≤ m.pass then
          .next (releaseMoving (postMigration (put (setEntry s m.entryPa false none) none) unit sl m.va 3 m.who))
        else
          let s := put (flushPage s m) (some { m with pass := m.pass + 1, dirty := [], todo := m.dirty.map fun pc => (pc * 64, 64) })
          .next (nextBlock s sl) := by
  simp only [execMigrationPassEnd, moving, old, done, Bool.false_eq_true, or_self, if_false]

/-- Settles O31: each step of a migration. -/
theorem migrations : Obligations.Migrations := by
  refine ⟨?_, ?_, ?_, ?_, ?_, ?_, ?_, ?_, ?_, ?_, ?_, ?_, ?_, ?_⟩
  · rintro s id p sl va pa tg who ⟨here, body⟩ busy
    change execMigrationControl id s = _
    simp only [execMigrationControl, here, body, busy, or_true, if_true]
  · intro s id p sl va pa tg who here first alone idle u noLeaf
    refine (execMigrationControl_taken here first alone idle).trans ?_
    dsimp only
    cases page : walk u p.dst sl va.toNat with
    | leaf e big q => exact absurd page (noLeaf e big q)
    | absent => rfl
    | bad => rfl
  · intro s id p sl va pa tg who e big q here first alone idle u bytes old page refused
    refine (execMigrationControl_taken here first alone idle).trans ?_
    dsimp only
    erw [page]
    dsimp only
    rcases refused with noPlace | pinned
    · erw [noPlace]
    · split
      · exact congrArg Host.Outcome.next (if_pos pinned)
      · rfl
  · intro s id p sl va pa tg who e big q new here first alone idle u bytes old m page place free
    refine (execMigrationControl_taken here first alone idle).trans ?_
    dsimp only
    erw [page]
    dsimp only
    erw [place]
    exact congrArg Host.Outcome.next (if_neg (Bool.eq_false_iff.mp free))
  · rintro s id p sl pa b psn ⟨here, body⟩ free
    change execMigrationBlock id s = _
    simp only [execMigrationBlock, here, body, free, Bool.false_eq_true, if_false]
  · intro s sl idle
    change execMigrationPassEnd sl s = _
    simp only [execMigrationPassEnd, idle]
  · intro s sl m moving waits
    change execMigrationPassEnd sl s = _
    simp only [execMigrationPassEnd, moving]
    rcases waits with switched | running | ⟨done, named⟩
    · rw [if_pos (.inl switched)]
    · rw [if_pos (.inr running)]
    · simp only [done, List.isEmpty_nil, Bool.not_true, Bool.false_eq_true, if_false, named, if_true, ite_self]
  · intro s sl m moving old done more
    refine (execMigrationPassEnd_running moving old done).trans ?_
    simp [more]
  · intro s sl m moving old last done unnamed clean
    refine ⟨modSlice (setEntry s m.entryPa false (some m.newPa)) sl fun x => { x with
      migration := some { m with switched := true, acksLeft := (getSlice s sl).cores.length } }, ?_, ?_⟩
    · refine (execMigrationPassEnd_running moving old done).trans ?_
      simp only [last, List.isEmpty_nil, Bool.not_true, Bool.false_eq_true, if_false, unnamed, clean, if_true]
    · rw [getSlice_modSlice_self]
  · intro s sl m moving old last done unnamed dirty passes
    refine (execMigrationPassEnd_running moving old done).trans ?_
    have written : m.dirty.isEmpty = false := by simpa using dirty
    simp only [last, List.isEmpty_nil, Bool.not_true, Bool.false_eq_true, if_false, unnamed, written, if_pos passes]
  · intro s sl m moving old last done unnamed dirty passes
    refine (execMigrationPassEnd_running moving old done).trans ?_
    have written : m.dirty.isEmpty = false := by simpa using dirty
    simp only [last, List.isEmpty_nil, Bool.not_true, Bool.false_eq_true, if_false, unnamed, written, if_neg (by omega : ¬ 4 ≤ m.pass)]
  · rintro s id p sl core m ⟨here, body⟩ moving switched more
    have moving' : (getSlice (dropPacket s id) sl).migration = some m := moving
    change execShootDownAcknowledgement id s = _
    simp only [execShootDownAcknowledgement, here, body, moving', switched, not_true_eq_false, if_false, if_pos more]
  · rintro s id p sl core m ⟨here, body⟩ moving switched last
    have moving' : (getSlice (dropPacket s id) sl).migration = some m := moving
    change execShootDownAcknowledgement id s = _
    simp only [execShootDownAcknowledgement, here, body, moving', switched, not_true_eq_false, if_false, if_neg (by omega : ¬ 1 < m.acksLeft)]
  · rintro s id p sl core ⟨here, body⟩ idle
    have idle' : (getSlice (dropPacket s id) sl).migration = none := idle
    change execShootDownAcknowledgement id s = _
    simp only [execShootDownAcknowledgement, here, body, idle']

end Sys2Proof.Proofs

/-!
The copy engine, the end of a team and the encoders (R41, R401, R474, R475).
-/
namespace Sys2Proof.Proofs

open Machine Claims Laws

/-- A command at the head of the copy engine whose operands pass their checks is done, waits for room, or goes on by a part of a row. -/
theorem execCopyCommandRun_passes {s : State} {core : Nat} {c : CopyCmd} {rest : List CopyCmd} {x : Fibre} (queue : (getCore s core).copyQ = c :: rest)
    (held : getFib s c.f = some x) (passes : copyFails s c.f x c = none) (rows : c.kind ≠ 2 ∨ gathFails s (sliceOf s c.f) (fsrPRV x) c = none) :
    execCopyCommandRun core s =
      let total := (copyRows c).1 * (copyRows c).2
      let done := fun (s : State) => accDone (modCore s core fun k => { k with copyQ := rest }) c.f c.acc
      if total ≤ c.pos then .next (done s)
      else if 96 ≤ shareUsed (getCore s core) false ∨ copyHeld s core (sliceOf s c.f) (fsrPRV x) c then .next s
      else
        let r := copyPart s core (sliceOf s c.f) (fsrPRV x) c
        .next (if total ≤ r.2 then done r.1 else modCore r.1 core fun k => { k with copyQ := { c with pos := r.2 } :: rest }) := by
  have late : (if c.kind = 2 then gathFails s (sliceOf s c.f) (fsrPRV x) c else none) = none := by
    rcases rows with plain | good
    · rw [if_neg plain]
    · rw [good, ite_self]
  simp only [execCopyCommandRun, queue, held, passes, late, Option.map_none, Option.or_none]

/-- A plain copy goes on by at most 64 bytes from where it stands. -/
theorem copyPart_plain {s : State} {core sl prv : Nat} {c : CopyCmd} (plain : c.kind = 0) (inside : c.pos < c.rowBytes)
    (apart : c.dst.toNat + c.rowBytes ≤ c.src.toNat ∨ c.src.toNat + c.rowBytes ≤ c.dst.toNat) :
    copyPart s core sl prv c =
      (copyRow s core sl prv (c.src.toNat + c.pos) (c.dst.toNat + c.pos) (min 64 (c.rowBytes - c.pos)), c.pos + min 64 (c.rowBytes - c.pos)) := by
  have chunk : copyChunk s sl prv c = (c.src.toNat + c.pos, c.dst.toNat + c.pos, min 64 (c.rowBytes - c.pos)) := by
    have rows : (copyRows c).2 = c.rowBytes := by simp [copyRows, plain]
    have place : ∀ r, copyPlace s sl prv c r = (c.src.toNat, c.dst.toNat) := by
      intro r
      simp only [copyPlace, plain]
    have disjoint : ¬ (c.src.toNat < c.dst.toNat + c.rowBytes ∧ c.dst.toNat < c.src.toNat + c.rowBytes) := by omega
    simp only [copyChunk, rows, place, Nat.mod_eq_of_lt inside, if_neg disjoint]
  simp only [copyPart, chunk]

/-- A team without groups that is told to halt leaves the table of groups as it is. -/
theorem groups_haltTeam {s : State} {core team : Nat} (noSlots : teamSlots s core team = []) (noFibres : teamFibres s core team = []) :
    (haltTeam s core team).groups = s.groups := by
  unfold haltTeam
  split
  · rfl
  · dsimp only
    split_ifs
    · rfl
    · simp only [noSlots, noFibres, List.foldl_nil, List.filter_nil]
      exact modTeam_groups s core team _

/-- A team told to end: halted, its bindings freed, its stopped batches gone. -/
def teamEnding (s : State) (core team : Nat) : State :=
  let s := modTeam (freeBindings (haltTeam s core team) core team) core team fun t => { t with ending := true }
  modCore s core fun k => { k with stoppedBatches := k.stoppedBatches.filter fun e => ! ((teamSlots s core team).contains e.2.slot) }

theorem execTeamEnd_eq {s : State} {core team : Nat} {t : Team} (held : getTeam s core team = some t) :
    execTeamEnd core team s =
      let s := (teamFibres (teamEnding s core team) core team).foldl killFibre (teamEnding s core team)
      .next (if (teamFibres s core team).isEmpty then endTeam s core team else s) := by
  simp only [execTeamEnd, held]
  rfl

/-- A team with no group left ends. -/
theorem execTeamEnd_empty {s : State} {core team : Nat} {t : Team} (held : getTeam s core team = some t) (noFibres : teamFibres s core team = [])
    (noSlots : teamSlots s core team = []) : ∃ u, execTeamEnd core team s = .next u ∧ getTeam u core team = none := by
  have groups : (teamEnding s core team).groups = s.groups := by
    unfold teamEnding
    rw [modCore_groups, modTeam_groups]
    exact groups_haltTeam noSlots noFibres
  have slots : teamSlots (teamEnding s core team) core team = [] := by
    unfold teamSlots
    rw [groups]
    exact noSlots
  have fibres : teamFibres (teamEnding s core team) core team = [] := by
    unfold teamFibres
    rw [slots]
    rfl
  refine ⟨endTeam (teamEnding s core team) core team, ?_, tget_tdel_self _ _⟩
  rw [execTeamEnd_eq held, fibres]
  dsimp only [List.foldl_nil]
  rw [fibres]
  rfl

/-- A frame that an encoder takes ends with its bytes, or with status 3 and none. -/
theorem execEncoderFrameComplete_ends {s : State} {e sl : Nat} {x : Slice} {fr : Frame} {rest : List Frame}
    (found : (s.slices.find? fun x => decide (x.2.enc.toNat = 0x80 + e % 8) && ! x.2.frames.isEmpty) = some (sl, x)) (frames : x.frames = fr :: rest) :
    ∃ u st len, (st = 0 ∨ (st = 3 ∧ len = 0)) ∧ execEncoderFrameComplete e s = .next (endFrame u sl fr st len) := by
  simp only [execEncoderFrameComplete, found, frames]
  split
  · exact ⟨_, 3, 0, .inr ⟨rfl, rfl⟩, rfl⟩
  · exact ⟨_, 0, _, .inl rfl, rfl⟩

/-- Settles O32: the copy engine, the end of a team and the encoders. -/
theorem enginesAndTeamEnd : Obligations.EnginesAndTeamEnd := by
  refine ⟨?_, ?_, ?_, ?_, fun s core sl prv c => copyPart_plain, ?_, fun s core team t => execTeamEnd_empty, ?_, ?_⟩
  · intro s core idle
    change execCopyCommandRun core s = _
    simp only [execCopyCommandRun, idle]
  · intro s core c rest x queue held passes rows done
    exact (execCopyCommandRun_passes queue held passes rows).trans (if_pos done)
  · intro s core c rest x queue held passes rows more room free r
    refine (execCopyCommandRun_passes queue held passes rows).trans ?_
    exact (if_neg (by omega)).trans (if_neg (by simp [free]; omega))
  · intro s core c rest x queue held passes rows more waits
    exact (execCopyCommandRun_passes queue held passes rows).trans ((if_neg (by omega)).trans (if_pos waits))
  · intro s core team gone
    change execTeamEnd core team s = _
    simp only [execTeamEnd, gone]
  · intro s e idle
    change execEncoderFrameComplete e s = _
    have nothing : (s.slices.find? fun x => decide (x.2.enc.toNat = 0x80 + e % 8) && ! x.2.frames.isEmpty) = none := by
      refine List.find?_eq_none.mpr fun x member => ?_
      rcases idle x member with other | empty
      · simp [other]
      · simp [empty]
    simp only [execEncoderFrameComplete, nothing]
  · intro s e sl x found
    have waiting := List.find?_some found
    cases frames : x.frames with
    | nil => simp [frames] at waiting
    | cons fr rest =>
      obtain ⟨u, st, len, status, ends⟩ := execEncoderFrameComplete_ends found frames
      exact ⟨fr, rest, u, st, len, rfl, status, ends⟩

end Sys2Proof.Proofs

/-!
Fault batches, the fault service, its replies and shoot-downs (R233 to R235, R297, R298).
-/
namespace Sys2Proof.Proofs

open Machine Claims Laws

/-- The fibre and the group of a handler activation that has just been made. -/
theorem activation_placed {s : State} {core slot : Nat} {g : Group} {f : FRef} {allot : Nat} {pc fsr : Word} {args : List Word} {o : Origin} :
    let u := createFibre (makeGroup s core slot g) f allot pc fsr args o
    (∃ x, getFib u f = some x ∧ x.pc = pc ∧ x.origin = o) ∧ (getGroup u core slot).map Group.team = some g.team := by
  refine ⟨⟨_, tget_tput_self _ _ _, rfl, rfl⟩, ?_⟩
  obtain ⟨b, placed⟩ := groupAt_makeGroup s core slot g
  have kept : getGroup (createFibre (makeGroup s core slot g) f allot pc fsr args o) core slot = getGroup (makeGroup s core slot g) core slot := rfl
  rw [kept, placed]
  rfl

/-- A core whose list of shoot-downs is full drops every translation it holds and marks the runs they name. -/
def shotAll (s : State) (core : Nat) (all : List (Nat × DWord × Nat × Nat)) : State :=
  modCore s core fun k => { markRuns k (all.flatMap fun q => runsNamed (getSlice s q.1) q.1 q.2.1.toNat q.2.2.1) with tlb := [], shootQ := [] }

/-- A core that takes its oldest shoot-down drops the translations of its slice that meet the range. -/
def shotPage (s : State) (core : Nat) (q : Nat × DWord × Nat × Nat) (rest : List (Nat × DWord × Nat × Nat)) : State :=
  modCore s core fun k => { markRuns k (runsNamed (getSlice s q.1) q.1 q.2.1.toNat q.2.2.1) with
    shootQ := rest
    tlb := k.tlb.filter fun e => ! (decide (e.slice = q.1) && rangesMeet (e.vpn * (if e.big then 2 ^ 21 else 2 ^ 16)) (if e.big then 2 ^ 21 else 2 ^ 16)
      q.2.1.toNat q.2.2.1) }

/-- The words an activation of the fault service starts with (R297). -/
def serviceArgs (recs : List FaultRec) : List Word :=
  let r := recs.headD { va := 0, lanes := 0, pc := 0, fkind := 0, acc := 0, det := 0, who := 0, tag := 0 }
  [BitVec.ofNat 32 (0 + (recs.length - 1) * 64), r.who] ++ List.replicate 13 0 ++ [loHalf r.tag]

/-- Where the answer of an activation of the fault service goes. -/
def serviceOrigin (s : State) (recs : List FaultRec) : Origin :=
  let r := recs.headD { va := 0, lanes := 0, pc := 0, fkind := 0, acc := 0, det := 0, who := 0, tag := 0 }
  { Origin.none with binding := 1, word15 := loHalf r.tag, faultSlot := some (0, r.who.toNat % 1024, replySlot s r, BitVec.ofNat 8 (fld r.who.toNat 23 16)) }

/-- Settles O33: fault batches, activations of the fault service, its replies and shoot-downs. -/
theorem faultsAndShootDowns : Obligations.FaultsAndShootDowns := by
  refine ⟨?_, ?_, ?_, ?_, ?_, ?_, ?_, ?_, ?_, ?_, ?_, ?_⟩
  · rintro s id p sl recs ⟨here, body⟩ waits
    change execFaultBatch id s = _
    simp only [execFaultBatch, here, body, if_pos waits]
  · rintro s id p sl recs ⟨here, body⟩ first alone runs room
    have room' : (getCore (dropPacket s id) p.dst).faultQ.length < 64 := room
    refine ⟨modCore (dropPacket s id) p.dst fun k => { k with faultQ := k.faultQ ++ [recs] }, ?_, ?_, rfl, rfl⟩
    · change execFaultBatch id s = _
      simp only [execFaultBatch, here, body, first, alone, runs, Bool.false_eq_true, or_self, if_false, enqueueBatch, if_pos room']
    · rw [getCore_modCore_self]
      rfl
  · intro s core idle
    change execFaultServiceActivation core s = _
    simp only [execFaultServiceActivation, idle]
  · intro s core unbound
    change execFaultServiceActivation core s = _
    unfold execFaultServiceActivation
    obtain ⟨write, isWrite⟩ : ∃ write, write = niWrite := ⟨niWrite, rfl⟩
    rw [← isWrite]
    simp only [unbound, Bool.false_eq_true, not_false_eq_true, true_or, if_true]
    split <;> rfl
  · intro s core recs rest slot t queue slots free w bound team running going room v written
    have acts : ¬ (¬ bindV w = true ∨ ¬ (match getTeam s core (bindTeam w) with | some t => ! t.halted && ! t.stopped | none => false) = true ∨
        ¬ admits s core (32 * (8 * bindAreg w)) = true) := by
      simp [bound, team, running, going, room]
    have free' : (List.range 64).find? (fun j => ! ([] : List Nat).contains j) = some 0 := rfl
    let g : Group := { team := bindTeam w, gid := 64 + slot, allot := 8 * bindAreg w, base := 0, kind := .handler 1 }
    let made := makeGroup (modCore v core fun k => { k with faultSlots := k.faultSlots ++ [0] }) core slot g
    have run : execFaultServiceActivation core s = .next (createFibre made ⟨core, slot, 0⟩ (8 * bindAreg w) (bindPc w)
        (fsrNew (((getTeam v core (bindTeam w)).map Team.prv).getD 0) true (bindRst w)) (serviceArgs recs) (serviceOrigin made recs)) := by
      unfold execFaultServiceActivation
      obtain ⟨write, isWrite⟩ : ∃ write, write = niWrite := ⟨niWrite, rfl⟩
      rw [← isWrite] at written ⊢
      simp only [queue, slots, free', free]
      refine (if_neg acts).trans ?_
      simp only [Nat.mul_zero, Nat.add_zero]
      erw [written]
      rfl
    obtain ⟨⟨x, placed, pc, origin⟩, group⟩ := activation_placed (s := modCore v core fun k => { k with faultSlots := k.faultSlots ++ [0] }) (core := core)
      (slot := slot) (g := g) (f := ⟨core, slot, 0⟩) (allot := 8 * bindAreg w) (pc := bindPc w)
      (fsr := fsrNew (((getTeam v core (bindTeam w)).map Team.prv).getD 0) true (bindRst w)) (args := serviceArgs recs) (o := serviceOrigin made recs)
    exact ⟨_, x, run, placed, pc, by rw [origin]; rfl, group⟩
  · rintro s id p slot gen w0 w1 ⟨here, body⟩ inside known fits takers idle
    change execFaultReply id s = _
    have good : decide (w0.toNat % 4 = 3 ∨ w0.toNat / 2 ^ 14 ≠ 0) = false := decide_eq_false (by omega)
    have fibreSlot : slot ≠ sumpReply := by unfold sumpReply; omega
    have some_taker : (replyTakers s p.dst slot gen w1).isEmpty = false := by simpa using takers
    simp only [execFaultReply, here, body, good, if_neg (by omega : ¬ (64 ≤ slot ∧ slot ≠ sumpReply)), if_neg fibreSlot, Bool.false_eq_true, if_false, false_or]
    erw [some_taker]
    simp only [Bool.not_false, if_true]
    exact (if_neg Bool.false_ne_true).trans ((if_neg (Bool.eq_false_iff.mp idle)).trans rfl)
  · rintro s id p slot gen w0 w1 ⟨here, body⟩ inside bad
    change execFaultReply id s = _
    have refused : decide (w0.toNat % 4 = 3 ∨ w0.toNat / 2 ^ 14 ≠ 0) = true := decide_eq_true (by omega)
    simp only [execFaultReply, here, body, refused, if_neg (by omega : ¬ (64 ≤ slot ∧ slot ≠ sumpReply)), true_or, if_true, List.isEmpty_nil]
  · rintro s id p sl va bytes req ⟨here, body⟩ behind
    change execShootDown id s = _
    simp only [execShootDown, here, body, behind, if_true]
  · rintro s id p sl va bytes req ⟨here, body⟩ alone room
    change execShootDown id s = _
    simp only [execShootDown, here, body, alone, Bool.false_eq_true, if_false, if_pos room]
  · rintro s id p sl va bytes req ⟨here, body⟩ alone full
    refine ⟨_, shotAll (dropPacket s id) p.dst ((getCore s p.dst).shootQ ++ [(sl, va, bytes, req)]), ?_, ?_, ?_, rfl, rfl⟩
    · change execShootDown id s = _
      simp only [execShootDown, here, body, alone, Bool.false_eq_true, if_false, if_neg (by omega : ¬ (getCore s p.dst).shootQ.length < 8)]
      rfl
    · rw [shotAll, getCore_modCore_self]
    · rw [shotAll, getCore_modCore_self]
  · intro s core idle
    change execShootDownProcess core s = _
    simp only [execShootDownProcess, idle]
  · intro s core q rest queue
    refine ⟨shotPage s core q rest, ?_, ?_, rfl, fun e => ?_⟩
    · change execShootDownProcess core s = _
      simp only [execShootDownProcess, queue]
      rfl
    · rw [shotPage, getCore_modCore_self]
    · rw [shotPage, getCore_modCore_self]
      simp only [List.mem_filter, rangesMeet, ← Bool.decide_and, Bool.not_eq_true', decide_eq_false_iff_not]

end Sys2Proof.Proofs

/-!
Errors, self-tests and the upkeep of HBM4 (R303 to R308).
-/
namespace Sys2Proof.Proofs

open Machine Claims Laws

theorem onlyReports_logErrorWith (s : State) (ekind struct src core stack slice : Nat) (addr synd : DWord) (detail : List Word) :
    OnlyReports s (logErrorWith s ekind struct src core stack slice addr synd detail) := rfl

theorem time_logSpec (s : State) (ekind : Nat) (e : ErrorSpec) : (logSpec s ekind e).time = s.time := by
  dsimp only [logSpec]
  split <;> rfl

theorem stackAt_modStack_self (s : State) (n : Nat) (g : Stack → Stack) : stackAt (modStack s n g) n = g (stackAt s n) := by
  simp [stackAt, modStack, tgetD]

/-- A report and a test that is asked for leave the stacks as they are. -/
theorem stackUnits_addTest (s : State) (e : ErrorSpec) : (addTest s e).stackUnits = s.stackUnits := by
  unfold addTest
  split <;> rfl

/-- The state in which an alert is counted: the alert is reported and the channel's test asked for. -/
def alerted (s : State) (stack channel : Nat) : State :=
  addTest (logErrorWith s 0x07 0x0A (stackRouter stack) 0xFFFF stack (stackSlice s stack) 0 0 (List.replicate 8 0))
    { struct := 0x0A, core := 0, stack := stack, addr := 0, part := channel, corrected := true, synd := 0 }

/-- An alert is counted at its channel; the third in a row retires the channel. -/
def countAlert (channel : Nat) (replayed : Bool) (k : Stack) : Stack :=
  let n := if replayed then 0 else tgetD k.alerts channel 0 + 1
  { k with
    alerts := tput k.alerts channel (if n = 3 then 0 else n)
    failed := if n = 3 ∧ ! k.failed.contains channel then k.failed ++ [channel] else k.failed }

theorem stackAt_alerted (s : State) (stack channel n : Nat) : stackAt (alerted s stack channel) n = stackAt s n := by
  unfold stackAt alerted
  rw [stackUnits_addTest]
  rfl

theorem alerts_countAlert (channel : Nat) (replayed : Bool) (k : Stack) :
    tgetD (countAlert channel replayed k).alerts channel 0 =
      (if (if replayed then 0 else tgetD k.alerts channel 0 + 1) = 3 then 0 else if replayed then 0 else tgetD k.alerts channel 0 + 1) := by
  simp [countAlert, tgetD]

theorem failed_countAlert (channel : Nat) (replayed : Bool) (k : Stack) :
    (countAlert channel replayed k).failed.contains channel =
      (k.failed.contains channel || decide ((if replayed then 0 else tgetD k.alerts channel 0 + 1) = 3)) := by
  unfold countAlert
  by_cases third : (if replayed then 0 else tgetD k.alerts channel 0 + 1) = 3
  · by_cases known : channel ∈ k.failed <;> simp [third, known]
  · simp [third]

theorem any_channel_eq_true {paused : List (Nat × Nat)} {channel : Nat} {e : Nat × Nat} (mem : e ∈ paused) (at_ : e.1 = channel) :
    (paused.any fun e => decide (e.1 = channel)) = true :=
  List.any_eq_true.2 ⟨e, mem, decide_eq_true at_⟩

theorem any_channel_eq_false {paused : List (Nat × Nat)} {channel : Nat} (none : ∀ e ∈ paused, e.1 ≠ channel) :
    (paused.any fun e => decide (e.1 = channel)) = false :=
  List.any_eq_false.2 fun e mem => by simpa using none e mem

/-- A pin's repair takes one spare of its channel and pauses it. -/
theorem repairPin_pauses (s : State) (stack channel pin : Nat) :
    tgetD (repairPin s stack channel pin).spares (9, stack, channel) 0 = tgetD s.spares (9, stack, channel) 0 + 1 ∧
      (channel, pin) ∈ (stackAt (repairPin s stack channel pin) stack).paused := by
  let taken := { s with spares := tput s.spares (9, stack, channel) (tgetD s.spares (9, stack, channel) 0 + 1) }
  constructor
  · change tgetD (tput s.spares _ _) _ 0 = _
    simp [tgetD]
  · have paused : (stackAt (repairPin s stack channel pin) stack).paused = (stackAt s stack).paused ++ [(channel, pin)] :=
      congrArg Stack.paused (stackAt_modStack_self taken stack fun k => { k with
        paused := k.paused ++ [(channel, pin)]
        pins := k.pins.filter fun e => ! (decide (e.1 = channel) && decide (e.2.1 = pin)) })
    rw [paused]
    exact List.mem_append_right _ (List.mem_singleton_self _)

/-- Settles O34: errors by class, self-tests and spares, alerts, lane repair. -/
theorem errorsAndSelfTest : Obligations.ErrorsAndSelfTest := by
  refine ⟨?_, ?_, ?_, ?_, ?_, ?_, ?_, ?_, ?_, ?_, ?_, ?_, ?_, ?_, ?_, ?_, ?_⟩
  · intro s e other
    change execErrorDetected e s = _
    rw [execErrorDetected, if_pos other]
  · intro s e low high notChannel notLink fixed
    change execErrorDetected e s = _
    simp only [execErrorDetected, if_neg (by omega : ¬ (e.struct = 0 ∨ 0x0E < e.struct)), fixed, if_true, if_neg notChannel, if_neg notLink]
  · intro s e channel fixed
    change execErrorDetected e s = _
    simp only [execErrorDetected, if_neg (by omega : ¬ (e.struct = 0 ∨ 0x0E < e.struct)), fixed, if_true, if_pos channel, time_logSpec]
  · intro s e link fixed
    change execErrorDetected e s = _
    simp only [execErrorDetected, if_neg (by omega : ¬ (e.struct = 0 ∨ 0x0E < e.struct)), fixed, if_true, if_neg (by omega : ¬ e.struct = 9), if_pos link]
  · intro s e low high broken
    change execErrorDetected e s = _
    simp only [execErrorDetected, if_neg (by omega : ¬ (e.struct = 0 ∨ 0x0E < e.struct)), broken, Bool.false_eq_true, if_false]
  · intro s e
    constructor
    · intro joined
      rw [addTest, if_pos joined]
    · intro alone
      rw [addTest, if_neg (by simp [alone])]
  · intro s n beyond
    have none : s.tests[n]? = .none := List.getElem?_eq_none beyond
    refine ⟨?_, fun r => ?_⟩
    · change execSelfTestStart n s = _
      simp only [execSelfTestStart, none]
    · change execSelfTestComplete n r s = _
      simp only [execSelfTestComplete, none]
  · intro s n t test waiting
    refine ⟨?_, fun r => ?_⟩
    · change execSelfTestStart n s = _
      simp only [execSelfTestStart, test, waiting, Bool.false_eq_true, if_false]
    · change execSelfTestComplete n r s = _
      simp only [execSelfTestComplete, test, waiting, Bool.false_eq_true, not_false_eq_true, if_true]
  · intro s n t test started
    constructor
    · change execSelfTestStart n s = _
      simp only [execSelfTestStart, test, started, if_true]
    · change execSelfTestComplete n .pass s = _
      simp only [execSelfTestComplete, test, started, not_true_eq_false, if_false]
  · intro s n t test started other u used
    change execSelfTestComplete n .fail s = _
    simp only [execSelfTestComplete, test, started, not_true_eq_false, if_false, if_neg other]
    by_cases left : used < (sparesOf t.e).1
    · rw [if_pos left]
      exact if_neg (Nat.not_le.2 left)
    · rw [if_neg left]
      exact if_pos (Nat.le_of_not_lt left)
  · intro s n t test started channel u
    change execSelfTestComplete n .fail s = _
    have spares : sparesOf t.e = (2, (9, t.e.stack, Config.channelOf (blockOf t.e.addr))) := by simp only [sparesOf, channel]
    simp only [execSelfTestComplete, test, started, not_true_eq_false, if_false, if_pos channel, spares]
    by_cases left : tgetD u.spares (9, t.e.stack, Config.channelOf (blockOf t.e.addr)) 0 < 2
    · rw [if_pos left]
      exact if_neg (Nat.not_le.2 left)
    · rw [if_neg left]
      exact if_pos (Nat.le_of_not_lt left)
  · intro s stack channel replayed known
    have run : execHbmParityAlert stack channel replayed s = .next (modStack (alerted s stack channel) stack (countAlert channel replayed)) :=
      if_neg (Nat.not_le.2 known)
    refine ⟨_, run, ?_⟩
    rw [stackAt_modStack_self, stackAt_alerted]
    exact ⟨alerts_countAlert _ _ _, failed_countAlert _ _ _⟩
  · intro s stack channel replayed other
    change execHbmParityAlert stack channel replayed s = _
    rw [execHbmParityAlert, if_pos other]
  · intro s stack channel pin idle
    change execLaneRepair stack channel pin s = _
    refine if_pos ?_
    rcases idle with early | spent
    · exact .inr (.inl (by simp [early]))
    · exact .inr (.inr (.inr spent))
  · intro s stack channel pin known due left free
    refine ⟨repairPin s stack channel pin, if_neg ?_, repairPin_pauses s stack channel pin⟩
    simp [due, any_channel_eq_false free]
    omega
  · intro s stack channel e mem at_
    change execLaneRepairComplete stack channel s = _
    rw [execLaneRepairComplete, if_pos (any_channel_eq_true mem at_)]
  · intro s stack channel free
    change execLaneRepairComplete stack channel s = _
    rw [execLaneRepairComplete, any_channel_eq_false free, if_neg Bool.false_ne_true]

end Sys2Proof.Proofs

/-!
The commands of the context-control page and the debugger.
-/
namespace Sys2Proof.Proofs

open Machine Claims Laws

theorem getPart_modPart_self (s : State) (core part : Nat) (g : Partition → Partition) :
    getPart (modPart s core part g) core part = g (getPart s core part) := by
  unfold getPart modPart
  rw [getCore_modCore_self]
  simp [tgetD]

theorem getPart_endCmd (s : State) (sl n task core part : Nat) : getPart (endCmd s sl n task) core part = getPart s core part := rfl

/-- No area of the task is still being saved. -/
theorem any_incomplete_eq_false {saved : List Saved} {task : Nat} (done : ∀ v ∈ saved, v.task = task → v.complete = true) :
    (saved.any fun v => decide (v.task = task) && ! v.complete) = false :=
  List.any_eq_false.2 fun v mem => by
    by_cases same : v.task = task
    · simp [done v mem same]
    · simp [same]

/-- A task is restored where its areas are whole, its cores are free and its leases too. -/
theorem not_restorable {s : State} {sl : Nat} {v : Saved}
    (blocked : v.complete = false ∨ leasesFree s v = false ∨ ∃ e ∈ v.cores, coreFree s sl v e.1 e.2 = false) :
    ¬ (v.complete = true ∧ (v.cores.all fun e => coreFree s sl v e.1 e.2) = true ∧ leasesFree s v = true) := by
  rintro ⟨complete, cores, leases⟩
  rcases blocked with saving | leased | ⟨e, mem, taken⟩
  · simp [saving] at complete
  · simp [leased] at leases
  · have free := List.all_eq_true.1 cores e mem
    rw [taken] at free
    cases free

/-- A fibre stands inside a stopped batch at most where an entry of the list says so. -/
def insideStopped (s : State) (f : FRef) : Bool :=
  (getCore s f.core).stoppedBatches.any fun e => decide (e.2.slot = f.slot) && e.2.lanes.contains f.lane && ! e.2.atPacket

theorem debugLand_outside {s : State} {f : FRef} (outside : insideStopped s f = false) (es : List Eff) :
    debugLand s f es = modFib s f fun x => es.foldl land x := by
  change (modFib s f fun x => if insideStopped s f then _ else _) = _
  simp only [outside, Bool.false_eq_true, if_false]

theorem debugLand_inside {s : State} {f : FRef} (inside : insideStopped s f = true) (es : List Eff) :
    debugLand s f es = modFib s f fun x => { x with pend := (es.map fun e => ⟨1, e⟩) ++ x.pend } := by
  change (modFib s f fun x => if insideStopped s f then _ else _) = _
  simp only [inside, if_true]

/-- The batch is put back in its partition to issue one packet. -/
def stepOne (s : State) (core slot : Nat) (b : Batch) : State :=
  modPart (modCore s core fun k => { k with stoppedBatches := k.stoppedBatches.filter fun e => decide (e.2 ≠ b) }) core (slotPart slot)
    fun p => { p with batch := some { b with stepped := true }, single := true }

/-- Settles O35: pre-emption, resumption, the stops and steps of the debugger, and its accesses. -/
theorem contextControl : Obligations.ContextControl := by
  refine ⟨?_, ?_, ?_, ?_, ?_, ?_, ?_, ?_, ?_, ?_, ?_, ?_, ?_, ?_, ?_, ?_, ?_, ?_, ?_⟩
  · intro s sl idle
    have none : ∀ n, ccmdAt s sl n = none := fun n => by simp only [ccmdAt, idle]; rfl
    refine ⟨?_, ?_, ?_, ?_, ?_⟩
    · change execCcmdPreempt sl s = _
      simp only [execCcmdPreempt, none]
    · change execCcmdResume sl s = _
      simp only [execCcmdResume, none]
    · change execCcmdDebugStop sl s = _
      simp only [execCcmdDebugStop, none]
    · change execCcmdDebugResume sl s = _
      simp only [execCcmdDebugResume, none]
    · change execCcmdSingleStep sl s = _
      simp only [execCcmdSingleStep, none]
  · intro s sl task fid core t asked done known unsaved started settled
    change execCcmdPreempt sl s = _
    simp only [execCcmdPreempt, asked, any_incomplete_eq_false done, known, unsaved, Bool.false_eq_true, if_false, started, settled, and_self, if_true]
  · intro s sl task fid core asked done unknown
    change execCcmdPreempt sl s = _
    simp only [execCcmdPreempt, asked, any_incomplete_eq_false done, unknown, Bool.false_eq_true, if_false]
  · intro s sl v found ready
    change execPreemptionSaveComplete sl s = _
    simp only [execPreemptionSaveComplete, found, ready, if_true]
  · intro s sl v found busy
    change execPreemptionSaveComplete sl s = _
    simp only [execPreemptionSaveComplete, found, busy, Bool.false_eq_true, if_false]
  · intro s sl done
    change execPreemptionSaveComplete sl s = _
    have none : ((getSlice s sl).saved.find? fun v => ! v.complete) = none := List.find?_eq_none.2 fun v mem => by simp [done v mem]
    simp only [execPreemptionSaveComplete, none]
  · intro s sl task fid core v asked found complete cores leases
    change execCcmdResume sl s = _
    simp only [execCcmdResume, asked, found]
    exact if_pos ⟨complete, List.all_eq_true.2 cores, leases⟩
  · intro s sl task fid core v asked found blocked
    change execCcmdResume sl s = _
    simp only [execCcmdResume, asked, found]
    exact if_neg (not_restorable blocked)
  · intro s sl task fid core n t asked attached focus
    change execCcmdDebugStop sl s = _
    simp only [execCcmdDebugStop, asked, attached, if_true, focus]
  · intro s sl task fid core asked detached
    change execCcmdDebugStop sl s = _
    simp only [execCcmdDebugStop, asked, detached, Bool.false_eq_true, if_false]
  · intro s sl task fid core n t asked focus stopped unsaved
    change execCcmdDebugResume sl s = _
    simp only [execCcmdDebugResume, asked, focus, stopped, unsaved, Bool.not_true, Bool.or_self, Bool.false_eq_true, if_false]
  · intro s sl task fid core n t slot b asked focus stopped alive unsaved named batch free idle fits
    have chosen : ((focusTeam s sl task core).bind fun e => if e.2.stopped && ! e.2.halted && ! saving s e.2 then gidSlot s core e.1 (fid / 32) else none) = some slot := by
      rw [focus]
      simpa [stopped, alive, unsaved] using named
    have goes : ¬ ((getPart s core (slotPart slot)).batch.isSome = true ∨ ((! (getCore s core).stoppedBatches.any fun e => decide (e.2 = b)) = true ∧ b.tokens ≠ 0 ∧
        (¬ s.tokenQ.isEmpty = true ∨ (ctlHome s 0x003).toNat < s.tokensUsed + b.tokens))) := by
      rw [free, idle]
      rintro (held | ⟨-, -, waiting | beyond⟩)
      · cases held
      · exact waiting rfl
      · omega
    have run : ∃ u, execCcmdSingleStep sl s = .next u ∧ getPart u core (slotPart slot) = getPart (stepOne s core slot b) core (slotPart slot) := by
      simp only [execCcmdSingleStep, asked, chosen, batch]
      exact ⟨_, if_neg goes, rfl⟩
    obtain ⟨u, run, part⟩ := run
    refine ⟨u, run, ?_, ?_⟩
    · rw [part, stepOne, getPart_modPart_self]
    · rw [part, stepOne, getPart_modPart_self]
  · intro s core slot lane v held
    refine ⟨congrArg _ (if_pos held), fun p => congrArg _ (if_pos held), congrArg _ (if_pos held), fun n inside => congrArg _ (if_pos ⟨held, inside⟩)⟩
  · intro s f es apart
    refine debugLand_outside (List.any_eq_false.2 fun e mem here => apart e mem ?_) es
    simpa [and_assoc] using here
  · intro s f es e mem slot lane mid
    refine debugLand_inside (List.any_eq_true.2 ⟨e, mem, ?_⟩) es
    simp [slot, lane, mid]
  · intro s core slot lane v unheld
    have not_held : ¬ (debugTeam s core slot).isSome = true := by simp [unheld]
    exact ⟨congrArg _ (if_neg not_held), fun p => congrArg _ (if_neg not_held), congrArg _ (if_neg not_held),
      fun n => congrArg _ (if_neg fun both => not_held both.1)⟩
  · intro s core line words wrong
    exact congrArg _ (if_neg fun both => wrong both.1)
  · intro s core line words e o whole mem at_ stopped attached code low high
    refine congrArg _ (if_pos ⟨whole, List.any_eq_true.2 ⟨e, mem, ?_⟩⟩)
    simp [at_, stopped, attached, code, low, high]
  · intro s sl known
    constructor
    · refine ⟨_, congrArg Host.Outcome.next (if_pos known), ?_⟩
      rw [getSlice_modSlice_self]
    · refine ⟨_, congrArg Host.Outcome.next (if_pos known), ?_⟩
      rw [getSlice_modSlice_self]

end Sys2Proof.Proofs

/-!
The exchange of the attestation responder.
-/
namespace Sys2Proof.Proofs

open Machine Claims Laws

/-- An answer is one more entry, it begins with the bytes asked for, and the responder goes on at the next request. -/
theorem spdmAnswer_appends (s : State) (request : Nat) (bytes : List Byte) (next : Spdm) :
    (spdmAnswer s request bytes next).spdm = next ∧
      ∃ a : Answer, (spdmAnswer s request bytes next).answers = s.answers ++ [a] ∧ bytes <+: a.bytes :=
  ⟨rfl, _, rfl, List.prefix_append _ _⟩

theorem length_answers_spdmAnswer (s : State) (request : Nat) (bytes : List Byte) (next : Spdm) :
    (spdmAnswer s request bytes next).answers.length = s.answers.length + 1 := by
  obtain ⟨-, a, answers, -⟩ := spdmAnswer_appends s request bytes next
  rw [answers, List.length_append, List.length_singleton]

/-- Settles O37: each request is answered in its turn and in no other state. -/
theorem attestation : Obligations.Attestation := by
  refine ⟨?_, ?_, ?_, ?_, ?_⟩
  · intro s
    exact ⟨_, rfl, rfl, length_answers_spdmAnswer _ _ _ _⟩
  · intro s turn
    exact ⟨_, congrArg Host.Outcome.next (if_pos turn), rfl, length_answers_spdmAnswer _ _ _ _⟩
  · intro s offer turn
    refine ⟨_, congrArg Host.Outcome.next (if_pos turn), length_answers_spdmAnswer _ _ _ _, ?_⟩
    change (if (offer.contains .sm2 && offer.contains .sm3) = true then Spdm.negotiated else .capabilities) = _
    simp only [Bool.and_eq_true, List.contains_iff_mem]
  · intro s turn
    refine ⟨?_, fun o n => ?_, fun n => ?_, fun i => ?_⟩
    · obtain ⟨-, a, answers, begins⟩ := spdmAnswer_appends s 0x81 ((List.range 32).map Config.digestByte) .negotiated
      exact ⟨_, a, congrArg Host.Outcome.next (if_pos turn), answers, begins⟩
    · obtain ⟨-, a, answers, begins⟩ :=
        spdmAnswer_appends s 0x82 ((((List.range Config.certificateLength).drop o).take n).map Config.certificateByte) .negotiated
      exact ⟨_, a, congrArg Host.Outcome.next (if_pos turn), answers, begins⟩
    · exact ⟨_, congrArg Host.Outcome.next (if_pos turn), length_answers_spdmAnswer _ _ _ _⟩
    · obtain ⟨-, a, answers, begins⟩ :=
        spdmAnswer_appends s 0xE0 ((List.range (Config.measurementLength s.imageId i)).map (Config.measurementByte s.imageId i)) .negotiated
      exact ⟨_, a, congrArg Host.Outcome.next (if_pos turn), answers, begins⟩
  · intro s other
    exact ⟨congrArg Host.Outcome.next (if_neg other), fun o n => congrArg _ (if_neg other), fun n => congrArg _ (if_neg other), fun i => congrArg _ (if_neg other)⟩

end Sys2Proof.Proofs

/-!
What the host reads and writes, the resets, checkpoints and the links (R1 to R4, R320 to R326).
-/
namespace Sys2Proof.Proofs

open Machine Claims Laws

/-! ## Host accesses -/

/-- The sizes an access of the host may have. -/
theorem sizes_contains {size : Nat} (known : size = 1 ∨ size = 2 ∨ size = 4 ∨ size = 8) : [1, 2, 4, 8].contains size = true := by
  rcases known with rfl | rfl | rfl | rfl <;> rfl

theorem sizes_not_contains {size : Nat} (other : size ≠ 1 ∧ size ≠ 2 ∧ size ≠ 4 ∧ size ≠ 8) : [1, 2, 4, 8].contains size = false := by
  obtain ⟨one, two, four, eight⟩ := other
  simp [one, two, four, eight]

/-- The bytes of a number, lowest first, are the bytes that the host reads. -/
theorem leBytes_eq_map_readByte : ∀ n v : Nat, leBytes n v = (List.range n).map (readByte v)
  | 0, _ => rfl
  | n + 1, v => by
    rw [leBytes, leBytes_eq_map_readByte n, List.range_succ_eq_map, List.map_cons, List.map_map]
    congr 1
    · simp [readByte]
    · refine List.map_congr_left fun i _ => ?_
      simp only [Function.comp, readByte, Nat.succ_eq_add_one, pow_succ', Nat.div_div_eq_div_mul]

/-- An access that finds the bytes of `v` reads `v`. -/
theorem hostRead_eq_of_bytes {s : State} {fn off size v : Nat} (known : fn ≤ 8) (sized : size = 4 ∨ size = 8) (aligned : off % size = 0) (fits : v < 256 ^ size ∨ size = 8)
    (bytes : ∀ i < size, (if fn = 0 then packageByte s (off + i) else if off + i < 0x400000 then sliceByte s (fn - 1) (off + i) else 0) = readByte v i) :
    hostRead s fn off size = BitVec.ofNat 64 v := by
  have allowed : ¬ (8 < fn ∨ (! [1, 2, 4, 8].contains size) = true ∨ off % size ≠ 0) := by
    simp only [sizes_contains (by omega : size = 1 ∨ size = 2 ∨ size = 4 ∨ size = 8)]
    simp [aligned]
    omega
  rw [hostRead, if_neg allowed, List.map_congr_left (g := readByte v) fun i mem => bytes i (List.mem_range.1 mem), ← leBytes_eq_map_readByte, leNat_leBytes]
  rcases fits with fits | rfl
  · rw [Nat.mod_eq_of_lt fits]
  · apply BitVec.eq_of_toNat_eq
    simp

theorem hostRead_package {s : State} {off size v : Nat} (sized : size = 4 ∨ size = 8) (aligned : off % size = 0) (fits : v < 256 ^ size ∨ size = 8)
    (bytes : ∀ i < size, packageByte s (off + i) = readByte v i) : hostRead s 0 off size = BitVec.ofNat 64 v :=
  hostRead_eq_of_bytes (Nat.zero_le _) sized aligned fits fun i inside => by rw [if_pos rfl, bytes i inside]

theorem hostRead_slice {s : State} {k off size v : Nat} (low : 1 ≤ k) (high : k ≤ 8) (sized : size = 4 ∨ size = 8) (aligned : off % size = 0)
    (fits : v < 256 ^ size ∨ size = 8) (space : off < 0x400000) (bytes : ∀ i < size, sliceByte s (k - 1) (off + i) = readByte v i) :
    hostRead s k off size = BitVec.ofNat 64 v :=
  hostRead_eq_of_bytes high sized aligned fits fun i inside => by
    rw [if_neg (by omega), if_pos (by rcases sized with rfl | rfl <;> omega), bytes i inside]

theorem packageByte_ctl (s : State) {num i : Nat} (known : num < 0x100) (inside : i < 8) : packageByte s (8 * num + i) = readByte (hostCtlValue s 0 num) i := by
  rw [packageByte, if_pos (by omega), show (8 * num + i) / 8 = num by omega, show (8 * num + i) % 8 = i by omega]

theorem sliceByte_ctl (s : State) (slice : Nat) {num i : Nat} (known : num < 0x1000) (inside : i < 8) :
    sliceByte s slice (8 * num + i) = readByte (hostCtlValue s slice num) i := by
  simp only [sliceByte, if_pos (by omega : 8 * num + i < 0x8000), show (8 * num + i) / 8 = num by omega, show (8 * num + i) % 8 = i by omega]

theorem sliceByte_context (s : State) (slice : Nat) {a : Nat} (inside : a < 0x1000) : sliceByte s slice (0x20000 + a) = contextByte (getSlice s slice) a := by
  simp only [sliceByte, if_neg (by omega : ¬ 0x20000 + a < 0x8000), if_neg (by omega : ¬ 0x20000 + a < 0x9000),
    if_neg (by omega : ¬ (0xC000 ≤ 0x20000 + a ∧ 0x20000 + a < 0x10000)), if_neg (by omega : ¬ (0x10000 ≤ 0x20000 + a ∧ 0x20000 + a < 0x19000)),
    if_pos (by omega : 0x20000 ≤ 0x20000 + a ∧ 0x20000 + a < 0x21000), Nat.add_sub_cancel_left]

theorem sliceByte_counter (s : State) (slice : Nat) {c a : Nat} (known : c < 576) (inside : a < 0x1000) :
    sliceByte s slice (0x100000 + c * 0x1000 + a) = if (getCore s c).slice = some slice then counterByte s c a else 0 := by
  simp only [sliceByte, if_neg (by omega : ¬ 0x100000 + c * 0x1000 + a < 0x8000), if_neg (by omega : ¬ 0x100000 + c * 0x1000 + a < 0x9000),
    if_neg (by omega : ¬ (0xC000 ≤ 0x100000 + c * 0x1000 + a ∧ 0x100000 + c * 0x1000 + a < 0x10000)),
    if_neg (by omega : ¬ (0x10000 ≤ 0x100000 + c * 0x1000 + a ∧ 0x100000 + c * 0x1000 + a < 0x19000)),
    if_neg (by omega : ¬ (0x20000 ≤ 0x100000 + c * 0x1000 + a ∧ 0x100000 + c * 0x1000 + a < 0x21000)),
    if_pos (by omega : 0x100000 ≤ 0x100000 + c * 0x1000 + a ∧ 0x100000 + c * 0x1000 + a < 0x100000 + 576 * 0x1000),
    show (0x100000 + c * 0x1000 + a - 0x100000) / 0x1000 = c by omega, show (0x100000 + c * 0x1000 + a) % 0x1000 = a by omega]

theorem readByte_zero (i : Nat) : readByte 0 i = 0 := by simp [readByte]

/-- The number of present pieces has 32 bits in its counter. -/
theorem readByte_mod (v : Nat) {i : Nat} (inside : i < 4) : readByte (v % 2 ^ 32) i = readByte v i := by
  apply BitVec.eq_of_toNat_eq
  simp only [readByte, BitVec.toNat_ofNat]
  rw [show (2 : Nat) ^ 32 = 256 ^ i * 256 ^ (4 - i) by rw [← pow_add, Nat.add_sub_cancel' (by omega)]; norm_num, Nat.mod_mul_right_div_self]
  exact Nat.mod_mod_of_dvd _ (dvd_pow_self 256 (by omega))

theorem counterByte_at (s : State) (c : Nat) {off i : Nat} (aligned : off % 4 = 0) (known : off < 0x50) (inside : i < 4) :
    counterByte s c (off + i) = readByte (if off = 0x18 then l2Sectors (getCore s c) % 2 ^ 32 else (tgetD (getCore s c).counters off 0).toNat) i := by
  have byte : (off + i) % 4 = i := by omega
  by_cases sectors : off = 0x18
  · simp only [counterByte, if_pos (by omega : 0x18 ≤ off + i ∧ off + i < 0x1C), if_pos sectors, byte, readByte_mod _ inside]
  · simp only [counterByte, if_neg (by omega : ¬ (0x18 ≤ off + i ∧ off + i < 0x1C)), if_neg sectors, if_pos (by omega : off + i < 0x50), byte,
      show (off + i) / 4 * 4 = off by omega]

/-! ## Resets -/

/-- The fibres and the teams of a state are those of another. -/
def StandingKept (s t : State) : Prop := t.fibres = s.fibres ∧ t.teams = s.teams

theorem StandingKept.refl (s : State) : StandingKept s s := ⟨rfl, rfl⟩

theorem StandingKept.trans {s t u : State} (first : StandingKept s t) (second : StandingKept t u) : StandingKept s u :=
  ⟨second.1.trans first.1, second.2.trans first.2⟩

theorem standingKept_foldl {α : Type} {body : State → α → State} (kept : ∀ s a, StandingKept s (body s a)) : ∀ (l : List α) (s : State), StandingKept s (l.foldl body s)
  | [], s => .refl s
  | a :: l, s => (kept s a).trans (standingKept_foldl kept l _)

theorem OnlyMemory.standingKept {s t : State} (memory : OnlyMemory s t) : StandingKept s t := by
  rw [memory.eq]
  exact ⟨rfl, rfl⟩

theorem standingKept_modCore (s : State) (c : Nat) (f : Core → Core) : StandingKept s (modCore s c f) := ⟨rfl, rfl⟩

theorem standingKept_ite {p : Prop} [Decidable p] {s t u : State} (yes : StandingKept s t) (no : StandingKept s u) : StandingKept s (if p then t else u) := by
  split <;> assumption

theorem onlyReports_logPiece (s : State) (ekind struct home pa : Nat) : OnlyReports s (logPiece s ekind struct home pa) := by
  dsimp only [logPiece]
  split <;> exact onlyReports_logError _ _ _ _ _ _ _ _

theorem standingKept_notePoison (s : State) (home pa : Nat) (p : Piece) : StandingKept s (notePoison s home pa p) := by
  unfold notePoison
  split
  · exact (onlyReports_logPiece _ _ _ _ _).onlyMemory.standingKept
  · exact .refl s

theorem standingKept_writeBackPieces (s : State) (e : Granule) (is : List Nat) : StandingKept s (writeBackPieces s e is) := by
  refine standingKept_foldl (fun s q => ?_) _ s
  dsimp only
  split
  · exact (onlyMemory_memWrite _ _ _ _ _).standingKept
  · exact standingKept_foldl (fun s i => (onlyMemory_memWrite _ _ _ _ _).standingKept) _ s

theorem standingKept_writeBackTag (s : State) (home : Nat) (e : Granule) : StandingKept s (writeBackTag s home e) := by
  refine (standingKept_foldl (fun s i => ?_) _ s).trans (standingKept_writeBackPieces _ _ _)
  split
  · exact standingKept_notePoison _ _ _ _
  · exact .refl s

theorem standingKept_reassignCore (s : State) (c : Nat) (slice : Option Nat) : StandingKept s (reassignCore s c slice) :=
  (standingKept_foldl (fun s e => standingKept_writeBackTag s c e) _ s).trans (standingKept_modCore _ _ _)

theorem standingKept_setSumpBinding (s : State) (core : Nat) : StandingKept s (setSumpBinding s core) := by
  unfold setSumpBinding
  split
  · exact .refl s
  · exact standingKept_ite (.refl s) (standingKept_modCore _ _ _)

theorem standingKept_resetBlock (s : State) (cs : List Nat) (q : Nat) : StandingKept s (resetBlock s cs q) := ⟨rfl, rfl⟩

theorem standingKept_clearSlice (s : State) (slice : Nat) : StandingKept s (clearSlice s slice) := ⟨rfl, rfl⟩

/-- Nothing stands on the cores of the list. -/
def NoneOn (cs : List Nat) (s : State) : Prop := (∀ e ∈ s.fibres, ¬ e.1.core ∈ cs) ∧ ∀ e ∈ s.teams, ¬ e.1.1 ∈ cs

theorem StandingKept.noneOn {cs : List Nat} {s t : State} (kept : StandingKept s t) (none : NoneOn cs s) : NoneOn cs t := by
  obtain ⟨fibres, teams⟩ := kept
  rw [NoneOn, fibres, teams]
  exact none

/-- Taking every fibre and every team of the cores away leaves nothing on them. -/
theorem noneOn_filter {cs : List Nat} {s t : State} (fibres : t.fibres = s.fibres.filter fun e => ! cs.contains e.1.core)
    (teams : t.teams = s.teams.filter fun e => ! cs.contains e.1.1) : NoneOn cs t := by
  rw [NoneOn, fibres, teams]
  exact ⟨fun e mem => by simpa using (List.mem_filter.1 mem).2, fun e mem => by simpa using (List.mem_filter.1 mem).2⟩

theorem standingKept_setSumps (s : State) (cs : List Nat) : StandingKept s (setSumps s cs) := standingKept_foldl standingKept_setSumpBinding _ _

theorem standingKept_reclaimTokens (s : State) : StandingKept s (reclaimTokens s) := ⟨rfl, rfl⟩

theorem noneOn_sliceReset (s : State) (sl : Nat) : ∃ u, execSliceReset sl s = .next u ∧ NoneOn (getSlice s sl).cores u := by
  refine ⟨_, rfl, (standingKept_setSumps _ _).noneOn ((standingKept_reclaimTokens _).noneOn ?_)⟩
  refine (standingKept_clearSlice _ _).noneOn ((standingKept_foldl (fun s c => standingKept_reassignCore s c (some sl)) _ _).noneOn ?_)
  exact noneOn_filter rfl rfl

theorem ckpt_ite (p : Prop) [Decidable p] {s t : State} (whole : s.ckpt = 3) (begun : t.ckpt = 1) :
    (if p then s else t).ckpt.getLsbD 0 = true := by
  split
  · rw [whole]
    rfl
  · rw [begun]
    rfl

theorem resetPackage_empty (s : State) (good : Bool) : (resetPackage s good).fibres = [] ∧ (resetPackage s good).teams = [] := by
  cases good <;> exact ⟨rfl, rfl⟩

/-! ## The cores of a slice -/

/-- The cores that a slice's new configuration takes away. -/
def removedCores (s : State) (sl : Nat) : List Nat := (getSlice s sl).cores.filter fun c => ! (getSlice s sl).newCores.contains c

/-- The cores that it adds. -/
def addedCores (s : State) (sl : Nat) : List Nat := (getSlice s sl).newCores.filter fun c => ! (getSlice s sl).cores.contains c

/-- The slice has its new configuration. -/
def configured (s : State) (sl : Nat) : State :=
  modSlice ((addedCores s sl).foldl (fun s c => reassignCore s c (some sl)) ((removedCores s sl).foldl (fun s c => reassignCore s c none) s)) sl
    fun x => { x with cores := x.newCores, stackMask := x.newStacks, head := x.newHead, enc := x.newEnc }

theorem execSliceApply_eq {s : State} {sl : Nat} (known : sl < 8) (good : s.imageGood = true) : execSliceApply sl s =
    if ((s.slices.any fun e => decide (e.1 ≠ sl) && configMeets (getSlice s sl) e.2) || ! ((removedCores s sl).all (coreEmptied s))) = true then
      .next { s with pkgWindow := { s.pkgWindow with cause := 4, field := BitVec.ofNat 16 sl } }
    else .next (setSumps (ctlSetAll (clearSlice (configured s sl) sl) (ctlKey 0x100 sl) (BitVec.ofNat 64 ((getSlice s sl).newCores.foldl min 0x3FF))) (addedCores s sl)) :=
  if_neg (by simp [good]; omega)

/-! ## Ports -/

/-- The port is trained with the package at its far end. -/
def portTrained (s : State) (port pkg : Nat) : State :=
  { s with trainedPorts := (s.trainedPorts.filter fun p => decide (p.1 ≠ port)) ++ [(port, pkg % 16)] }

theorem mem_portTrained (s : State) (port pkg : Nat) : (port, pkg % 16) ∈ (portTrained s port pkg).trainedPorts :=
  List.mem_append_right _ (List.mem_singleton_self _)

/-! ## The statement -/

/-- Settles O36: host accesses, resets, checkpoints, slices and links. -/
theorem hostWritesAndResets : Obligations.HostWritesAndResets := by
  refine ⟨?_, ?_, ?_, ?_, ?_, ?_, ?_, ?_, ?_, ?_, ?_, ?_, ?_, ?_, ?_, ?_, ?_, ?_, ?_, ?_, ?_, ?_, ?_, ?_, ?_, ?_, ?_, ?_⟩
  · intro s off v good aligned space
    refine (if_neg ?_).trans ((if_neg (by decide)).trans (if_pos space))
    simp [good, aligned]
  · intro s k off v good low high aligned space
    refine (if_neg ?_).trans ((if_pos low).trans (congrArg Host.Outcome.next (if_pos space)))
    simp [good, aligned, high]
  · intro s fn off size v refused
    refine if_pos ?_
    rcases refused with space | other | misaligned | bad
    · exact .inl space
    · exact .inr (.inl (by rw [sizes_not_contains other]; rfl))
    · exact .inr (.inr (.inl misaligned))
    · exact .inr (.inr (.inr (by simp [bad])))
  · intro s v
    exact rfl
  · intro s sl off size v pa good known sized aligned space va found
    change execApertureAccess sl off size (some v) s = _
    have allowed : ¬ (8 ≤ sl ∨ (! [1, 2, 4, 8].contains size) = true ∨ off % size ≠ 0 ∨ 2 ^ 34 ≤ off ∨ ((some v).isSome = true ∧ (! s.imageGood) = true)) := by
      rw [sizes_contains sized, good]
      simp [aligned]
      omega
    rw [execApertureAccess, if_neg allowed]
    simp only [Option.isSome_some, if_true]
    erw [found]
  · intro s sl off size pa known sized aligned space va found
    change execApertureAccess sl off size none s = _
    have allowed : ¬ (8 ≤ sl ∨ (! [1, 2, 4, 8].contains size) = true ∨ off % size ≠ 0 ∨ 2 ^ 34 ≤ off ∨ ((none : Option (BitVec 64)).isSome = true ∧ (! s.imageGood) = true)) := by
      rw [sizes_contains sized]
      simp [aligned]
      omega
    rw [execApertureAccess, if_neg allowed]
    simp only [Option.isSome_none, Bool.false_eq_true, if_false]
    erw [found]
  · intro s sl off size known sized aligned space absent
    refine ⟨_, ?_, rfl⟩
    change execApertureAccess sl off size none s = _
    have allowed : ¬ (8 ≤ sl ∨ (! [1, 2, 4, 8].contains size) = true ∨ off % size ≠ 0 ∨ 2 ^ 34 ≤ off ∨ ((none : Option (BitVec 64)).isSome = true ∧ (! s.imageGood) = true)) := by
      rw [sizes_contains sized]
      simp [aligned]
      omega
    rw [execApertureAccess, if_neg allowed]
    simp only [Option.isSome_none, Bool.false_eq_true, if_false]
  · intro s off size sized aligned space awake
    constructor
    · change execPhysicalWindowAccess off size none s = _
      refine if_neg ?_
      rw [sizes_contains sized, awake]
      simp [aligned]
      omega
    · intro good v
      change execPhysicalWindowAccess off size (some v) s = _
      refine if_neg ?_
      rw [sizes_contains sized, awake, good]
      simp [aligned]
      omega
  · intro s sl off size v bad
    exact ⟨if_pos (by simp [bad]), if_pos (by simp [bad])⟩
  · intro s sl bad
    exact if_pos (by simp [bad])
  · rintro s sl known good ⟨c, mem, leaves, busy⟩
    refine (execSliceApply_eq known good).trans (if_pos ?_)
    have blocked : (removedCores s sl).all (coreEmptied s) = false :=
      List.all_eq_false.2 ⟨c, List.mem_filter.2 ⟨mem, by rw [leaves]; rfl⟩, by simp [busy]⟩
    rw [blocked]
    exact Bool.or_true _
  · intro s sl known good emptied apart
    refine ⟨_, configured s sl, (execSliceApply_eq known good).trans (if_neg ?_), rfl, ?_, ?_⟩
    · have meets : (s.slices.any fun e => decide (e.1 ≠ sl) && configMeets (getSlice s sl) e.2) = false := List.any_eq_false.2 fun e mem => by
        rcases apart e mem with own | clear
        · simp [own]
        · simp [clear]
      have free : (removedCores s sl).all (coreEmptied s) = true := List.all_eq_true.2 fun c mem => by
        obtain ⟨mem, leaves⟩ := List.mem_filter.1 mem
        exact emptied c mem (by simpa using leaves)
      rw [meets, free]
      exact Bool.false_ne_true
    · rw [configured, getSlice_modSlice_self]
    · rw [configured, getSlice_modSlice_self]
  · intro s held
    exact if_pos held
  · intro s free
    exact ⟨_, if_neg (by rw [free]; exact Bool.false_ne_true), ckpt_ite _ rfl rfl⟩
  · intro s
    rfl
  · intro s g
    refine ⟨rfl, rfl, _, rfl, rfl, ?_, ?_⟩
    · exact (resetPackage_empty s g).1
    · exact (resetPackage_empty s g).2
  · intro s
    exact ⟨rfl, rfl, rfl, rfl⟩
  · intro s sl
    obtain ⟨u, run, fibres, teams⟩ := noneOn_sliceReset s sl
    exact ⟨u, run, fibres, teams⟩
  · intro s
    rfl
  · intro s port pkg t known
    by_cases first : pkg % 16 = 0 ∧ pkgNum s ≠ 0
    · have run : execSpanPortTrained port pkg t s = .next { portTrained s port pkg with time := t, timeSub := 0, timeFollows := true } :=
        (if_neg (by omega)).trans (congrArg Host.Outcome.next (if_pos first))
      exact ⟨_, run, mem_portTrained s port pkg, (if_pos first).symm, fun _ _ => rfl⟩
    · have run : execSpanPortTrained port pkg t s = .next (portTrained s port pkg) :=
        (if_neg (by omega)).trans (congrArg Host.Outcome.next (if_neg first))
      exact ⟨_, run, mem_portTrained s port pkg, (if_neg first).symm, fun zero follows => absurd ⟨zero, follows⟩ first⟩
  · intro s port known
    exact ⟨_, if_neg (by omega), rfl, rfl⟩
  · intro s port pkg t other
    exact ⟨if_pos other, if_pos other⟩
  · intro s num known
    exact hostRead_package (.inr rfl) (by omega) (.inr rfl) fun i inside => packageByte_ctl s known inside
  · intro s fn off size refused
    refine if_pos ?_
    rcases refused with space | other | misaligned
    · exact .inl space
    · exact .inr (.inl (by rw [sizes_not_contains other]; rfl))
    · exact .inr (.inr misaligned)
  · intro s k num low high known
    exact hostRead_slice low high (.inr rfl) (by omega) (.inr rfl) (by omega) fun i inside => sliceByte_ctl s (k - 1) known inside
  · intro s
    refine ⟨?_, ?_, ?_, ?_, ?_⟩
    · refine hostRead_package (.inr rfl) rfl (.inr rfl) fun i inside => ?_
      simp only [packageByte, if_neg (by omega : ¬ 0x9108 + i < 0x800), if_neg (by omega : ¬ (0x1000 ≤ 0x9108 + i ∧ 0x9108 + i < 0x4000)),
        if_neg (by omega : ¬ (0x8000 ≤ 0x9108 + i ∧ 0x9108 + i < 0x8008)), if_pos (by omega : 0x9000 ≤ 0x9108 + i ∧ 0x9108 + i < 0xA000),
        show (0x9108 + i) % 0x1000 = 0x108 + i by omega, windowByte, if_neg (by omega : ¬ 0x108 + i < 0x100),
        if_pos (by omega : 0x108 ≤ 0x108 + i ∧ 0x108 + i < 0x110), Nat.add_sub_cancel_left]
    · refine hostRead_package (.inr rfl) rfl (.inr rfl) fun i inside => ?_
      simp only [packageByte, if_neg (by omega : ¬ 0x8000 + i < 0x800), if_neg (by omega : ¬ (0x1000 ≤ 0x8000 + i ∧ 0x8000 + i < 0x4000)),
        if_pos (by omega : 0x8000 ≤ 0x8000 + i ∧ 0x8000 + i < 0x8008), Nat.add_sub_cancel_left]
    · refine (hostRead_package (off := 0xA000) (v := s.ckpt.toNat) (.inr rfl) rfl (.inr rfl) fun i inside => ?_).trans (BitVec.ofNat_toNat _ _)
      simp only [packageByte, if_neg (by omega : ¬ 0xA000 + i < 0x800), if_neg (by omega : ¬ (0x1000 ≤ 0xA000 + i ∧ 0xA000 + i < 0x4000)),
        if_neg (by omega : ¬ (0x8000 ≤ 0xA000 + i ∧ 0xA000 + i < 0x8008)), if_neg (by omega : ¬ (0x9000 ≤ 0xA000 + i ∧ 0xA000 + i < 0xA000)),
        if_pos (by omega : 0xA000 ≤ 0xA000 + i ∧ 0xA000 + i < 0xA008), Nat.add_sub_cancel_left]
    · refine (hostRead_package (off := 0xB000) (v := s.tokGr.toNat) (.inl rfl) rfl (.inl (BitVec.isLt _)) fun i inside => ?_).trans (BitVec.ofNat_toNat _ _)
      simp only [packageByte, if_neg (by omega : ¬ 0xB000 + i < 0x800), if_neg (by omega : ¬ (0x1000 ≤ 0xB000 + i ∧ 0xB000 + i < 0x4000)),
        if_neg (by omega : ¬ (0x8000 ≤ 0xB000 + i ∧ 0xB000 + i < 0x8008)), if_neg (by omega : ¬ (0x9000 ≤ 0xB000 + i ∧ 0xB000 + i < 0xA000)),
        if_neg (by omega : ¬ (0xA000 ≤ 0xB000 + i ∧ 0xB000 + i < 0xA008)), if_neg (by omega : ¬ (0xA008 ≤ 0xB000 + i ∧ 0xB000 + i < 0xA010)),
        if_pos (by omega : 0xB000 ≤ 0xB000 + i ∧ 0xB000 + i < 0xB004), show (0xB000 + i) % 4 = i by omega]
    · refine (hostRead_package (off := 0xB004) (v := s.tokWait.toNat) (.inl rfl) rfl (.inl (BitVec.isLt _)) fun i inside => ?_).trans (BitVec.ofNat_toNat _ _)
      simp only [packageByte, if_neg (by omega : ¬ 0xB004 + i < 0x800), if_neg (by omega : ¬ (0x1000 ≤ 0xB004 + i ∧ 0xB004 + i < 0x4000)),
        if_neg (by omega : ¬ (0x8000 ≤ 0xB004 + i ∧ 0xB004 + i < 0x8008)), if_neg (by omega : ¬ (0x9000 ≤ 0xB004 + i ∧ 0xB004 + i < 0xA000)),
        if_neg (by omega : ¬ (0xA000 ≤ 0xB004 + i ∧ 0xB004 + i < 0xA008)), if_neg (by omega : ¬ (0xA008 ≤ 0xB004 + i ∧ 0xB004 + i < 0xA010)),
        if_neg (by omega : ¬ (0xB000 ≤ 0xB004 + i ∧ 0xB004 + i < 0xB004)), if_pos (by omega : 0xB004 ≤ 0xB004 + i ∧ 0xB004 + i < 0xB008),
        show (0xB004 + i) % 4 = i by omega]
  · intro s k low high
    refine ⟨?_, ?_, ?_⟩
    · refine hostRead_slice (v := 0) low high (.inr rfl) rfl (.inr rfl) (by norm_num) fun i inside => ?_
      rw [sliceByte_context _ _ (by omega), readByte_zero, contextByte, if_neg (by omega), if_neg (by omega)]
    · refine (hostRead_slice (v := (getSlice s (k - 1)).cdesc.toNat) low high (.inr rfl) rfl (.inr rfl) (by norm_num) fun i inside => ?_).trans (BitVec.ofNat_toNat _ _)
      rw [show 0x20008 + i = 0x20000 + (8 + i) by omega, sliceByte_context _ _ (by omega), contextByte, if_pos (by omega), Nat.add_sub_cancel_left]
    · refine (hostRead_slice (v := (getSlice s (k - 1)).cstat.toNat) low high (.inl rfl) rfl (.inl (BitVec.isLt _)) (by norm_num) fun i inside => ?_).trans (BitVec.ofNat_toNat _ _)
      rw [show 0x20010 + i = 0x20000 + (16 + i) by omega, sliceByte_context _ _ (by omega), contextByte, if_neg (by omega), if_pos (by omega), Nat.add_sub_cancel_left]
  · intro s k c off low high known aligned space
    by_cases own : (getCore s c).slice = some (k - 1)
    · rw [if_neg (not_not_intro own)]
      have bytes : ∀ i < 4, sliceByte s (k - 1) (0x100000 + c * 0x1000 + off + i) =
          readByte (if off = 0x18 then l2Sectors (getCore s c) % 2 ^ 32 else (tgetD (getCore s c).counters off 0).toNat) i := fun i inside => by
        rw [Nat.add_assoc, sliceByte_counter s _ known (by omega), if_pos own, counterByte_at s c aligned space inside]
      refine (hostRead_slice low high (.inl rfl) (by omega) (.inl ?_) (by omega) bytes).trans ?_
      · split
        · exact Nat.mod_lt _ (by norm_num)
        · exact BitVec.isLt _
      · split
        · rfl
        · exact BitVec.ofNat_toNat _ _
    · rw [if_pos own]
      refine hostRead_slice (v := 0) low high (.inl rfl) (by omega) (.inl (by norm_num)) (by omega) fun i inside => ?_
      rw [Nat.add_assoc, sliceByte_counter s _ known (by omega), if_neg own, readByte_zero]

end Sys2Proof.Proofs

/-!
Every instruction and every step answers a next state (R282).
-/
namespace Sys2Proof.Proofs

open Machine Claims Laws

/-- The outcome is a next state. -/
def Answers (o : Host.Outcome State Fault Refusal) : Prop := ∃ t, o = .next t

theorem answers_next (t : State) : Answers (.next t) := ⟨t, rfl⟩

/-! ## Instructions -/

theorem answers_onNamed (s : State) (h : Head) (ops : Named) (k : Issue → List Nat → State → State) : Answers (onNamed s h ops k) := by
  dsimp only [onNamed]
  repeat' split
  all_goals exact answers_next _

theorem Answers.signalled {o : Host.Outcome State Fault Refusal} (answers : Answers o) (s : State) (h : Head) : Answers (signalled s h o) := by
  obtain ⟨t, rfl⟩ := answers
  dsimp only [Machine.signalled]
  split <;> exact answers_next _

theorem answers_convLanes (s : State) (h : Head) (chk : Option Nat → Option Nat) (ops : Option Nat → Named)
    (k : State → Issue → Nat → Fibre → Option Nat → List Eff) : Answers (convLanes s h chk ops k) := by
  dsimp only [convLanes, onPrefixed]
  repeat' split
  all_goals exact answers_next _

theorem Guarded.answers {i : Instr} {h : Head} {ops : Named} (guarded : Guarded i h ops) (s : State) : Answers (exec i s) := by
  cases guarded with
  | plain k isArm => exact isArm s ▸ answers_onNamed s h ops k
  | signals k isArm => exact isArm s ▸ (answers_onNamed s h ops k).signalled s h

theorem answers_sigmark (h : Head) (o : BodyS) (s : State) : Answers (execSigmark h o s) := by
  dsimp only [execSigmark]
  repeat' split
  all_goals exact answers_next _

/-- The instructions with rules of their own. -/
theorem answers_of_ownRules {i : Instr} (own : ownRules i = true) (s : State) : Answers (exec i s) := by
  cases i <;> cases own
  case nop => exact answers_next s
  case sigmark h o => exact answers_sigmark h o s
  case cvt | cvtn | cvtw =>
    dsimp only [exec, execCvt, execCvtn, execCvtw]
    exact answers_convLanes _ _ _ _ _

theorem answers_of_encode {i : Instr} {w : Bits96} (enc : encode i = some w) (s : State) : Answers (exec i s) := by
  cases own : ownRules i with
  | false => exact (guarded_of_encode enc own).answers s
  | true => exact answers_of_ownRules own s

/-! ## Steps of the devices -/

/-- The verdict on a launch record is one of two. -/
theorem launchMessage_answers (id : Nat) (s : State) : Answers (execLaunchMessage id s) := by
  unfold execLaunchMessage
  obtain ⟨verdict, isVerdict⟩ : ∃ verdict, verdict = rejects := ⟨rejects, rfl⟩
  rw [← isVerdict]
  dsimp only
  repeat' split
  all_goals exact answers_next _

/-- The batch's records are written, or the batch is lost. -/
theorem faultServiceActivation_answers (core : Nat) (s : State) : Answers (execFaultServiceActivation core s) := by
  unfold execFaultServiceActivation
  obtain ⟨write, isWrite⟩ : ∃ write, write = niWrite := ⟨niWrite, rfl⟩
  rw [← isWrite]
  dsimp only
  repeat' split
  all_goals exact answers_next _

/-- A step of a device ends in a next state on every branch. -/
theorem answers_of_noWord {i : Instr} (noWord : encode i = none) (s : State) : Answers (exec i s) := by
  cases i <;> cases noWord
  case batchForm | tokenGrant | claimGrant | completionCounterWrite | pumpReadError | debuggerAttach | debuggerDetach | ctlTimebaseWrite | ckptEnd |
    coldReset | warmReset | thermalTrip | sliceReset | junctionTemperature105 | getVersion | getCapabilities | negotiateAlgorithms | getDigests |
    getCertificate | challenge | getMeasurements => exact ⟨_, rfl⟩
  case leaseRequest | leaseGrant | matrixCommand | matrixTileStep | matrixWatchdogExpiry | issueBufferAccept | longLatencyResult |
    writeAcknowledgement | engineCompletion | parkTimeout | barrierWaitTimeout | quiesceTimeout | teamWatchdogExpiry | teamEnd =>
    dsimp only [exec, execLeaseRequest, execLeaseGrant, execMatrixCommand, execMatrixTileStep, execMatrixWatchdogExpiry, execIssueBufferAccept,
      execLongLatencyResult, execWriteAcknowledgement, execEngineCompletion, execParkTimeout, execBarrierWaitTimeout, execQuiesceTimeout,
      execTeamWatchdogExpiry, execTeamEnd]
    repeat' split
    all_goals exact ⟨_, rfl⟩
  case userMessage | loopbackTransfer | sendQueueInject | handlerGroupForm | copyCommandRun | packetHop | readRequest | writeRequest |
    atomicRequest | reductionRequest | l2FillComplete | rangeRequest | promotionRequest | promotionAcknowledgement =>
    dsimp only [exec, execUserMessage, execLoopbackTransfer, execSendQueueInject, execHandlerGroupForm, execCopyCommandRun, execPacketHop,
      execReadRequest, execWriteRequest, execAtomicRequest, execReductionRequest, execL2FillComplete, execRangeRequest, execPromotionRequest,
      execPromotionAcknowledgement]
    repeat' split
    all_goals exact ⟨_, rfl⟩
  case tlbWalkComplete | fetchParityError | codeRefetchComplete | replayFilterExpiry | errorLogEntry | controlRegisterBroadcast | combineRequest |
    combinerWaveClose | combinerWaveStart | sectionRequest | sectionGrant | sectionTimeoutProbe | sectionDeadlockProbe | sectionWaitWithdrawal =>
    dsimp only [exec, execTlbWalkComplete, execFetchParityError, execCodeRefetchComplete, execReplayFilterExpiry, execErrorLogEntry,
      execControlRegisterBroadcast, execCombineRequest, execCombinerWaveClose, execCombinerWaveStart, execSectionRequest, execSectionGrant,
      execSectionTimeoutProbe, execSectionDeadlockProbe, execSectionWaitWithdrawal]
    repeat' split
    all_goals exact ⟨_, rfl⟩
  case barrierArrivalPacket | barrierCompletion | launchDoorbell | codeLine | shapeStore | startMessage | workGraphRecord | launchPlacement |
    gridEnd | rayMessage | traversalNodeVisit | hitRecord | ringToBasinMove | basinBinTimeout =>
    dsimp only [exec, execBarrierArrivalPacket, execBarrierCompletion, execLaunchDoorbell, execCodeLine, execShapeStore, execStartMessage,
      execWorkGraphRecord, execLaunchPlacement, execGridEnd, execRayMessage, execTraversalNodeVisit, execHitRecord, execRingToBasinMove,
      execBasinBinTimeout]
    repeat' split
    all_goals exact ⟨_, rfl⟩
  case shadingWaveForm | creditBatchTake | creditIdleReturn | creditReturn | treeletTransfer | descriptorImageWrite | draw | pumpCommand |
    pumpCommandStart | pumpCommandComplete | pumpInvalidation | invalidationAcknowledgement | migrationControl | migrationBlock =>
    dsimp only [exec, execShadingWaveForm, execCreditBatchTake, execCreditIdleReturn, execCreditReturn, execTreeletTransfer,
      execDescriptorImageWrite, execDraw, execPumpCommand, execPumpCommandStart, execPumpCommandComplete, execPumpInvalidation,
      execInvalidationAcknowledgement, execMigrationControl, execMigrationBlock]
    repeat' split
    all_goals exact ⟨_, rfl⟩
  case migrationPassEnd | encoderFrameComplete | faultBatch | faultReply | shootDown | shootDownProcess | shootDownAcknowledgement | errorDetected |
    selfTestStart | selfTestComplete | hbmParityAlert | laneRepair | laneRepairComplete | ccmdPreempt =>
    dsimp only [exec, execMigrationPassEnd, execEncoderFrameComplete, execFaultBatch, execFaultReply, execShootDown, execShootDownProcess,
      execShootDownAcknowledgement, execErrorDetected, execSelfTestStart, execSelfTestComplete, execHbmParityAlert, execLaneRepair,
      execLaneRepairComplete, execCcmdPreempt]
    repeat' split
    all_goals exact ⟨_, rfl⟩
  case preemptionSaveComplete | ccmdResume | ccmdDebugStop | ccmdDebugResume | ccmdSingleStep | debuggerStateWrite | hostRegisterWrite |
    apertureAccess | physicalWindowAccess | sliceApply | ckptStart | spanPortTrained | spanLinkLoss =>
    dsimp only [exec, execPreemptionSaveComplete, execCcmdResume, execCcmdDebugStop, execCcmdDebugResume, execCcmdSingleStep, execDebuggerStateWrite,
      execHostRegisterWrite, execApertureAccess, execPhysicalWindowAccess, execSliceApply, execCkptStart, execSpanPortTrained, execSpanLinkLoss]
    repeat' split
    all_goals exact ⟨_, rfl⟩
  case launchMessage id => exact launchMessage_answers id s
  case faultServiceActivation core => exact faultServiceActivation_answers core s

theorem exec_answers (i : Instr) (s : State) : Answers (exec i s) := by
  cases word : encode i with
  | none => exact answers_of_noWord word s
  | some w => exact answers_of_encode word s

/-! ## Steps of the package -/

theorem Answers.finish {o : Host.Outcome State Fault Refusal} (answers : Answers o) : Answers (finish o) := by
  obtain ⟨t, rfl⟩ := answers
  exact answers_next _

theorem Answers.afterInstr {o : Host.Outcome State Fault Refusal} (answers : Answers o) (core part : Nat) (i : Instr) (raw : Bits96) :
    Answers (afterInstr core part i raw o) := by
  obtain ⟨t, rfl⟩ := answers
  exact answers_next _

theorem answers_issueStep (s : State) : Answers (issueStep s) := by
  dsimp only [issueStep]
  split
  · exact exec_answers _ _
  split
  · exact answers_next _
  split
  · exact answers_next _
  split
  · exact answers_next _
  split
  · exact answers_next _
  · exact (exec_answers _ _).afterInstr _ _ _ _

theorem step_answers (s : State) : Answers (step s) := by
  unfold step
  split
  · exact (answers_issueStep _).finish
  · exact (exec_answers _ _).finish

/-- Settles O44: no arm of the model faults or refuses. -/
theorem nothingStops : Obligations.NothingStops := ⟨exec_answers, step_answers⟩

end Sys2Proof.Proofs

/-!
A register at or above the allotment (R76). An instruction that takes an issue-buffer entry takes none for its trapped lanes: a trap takes its
lane out of its batch and nothing that a trap does puts a lane into one.
-/
namespace Sys2Proof.Proofs

open Machine Claims Laws

/-! ## The lanes that a core's batches hold -/

/-- A batch of the core holds the lane of the group. -/
def holdsLane (k : Core) (slot lane : Nat) : Bool :=
  (tgetD k.parts (slotPart slot) Partition.idle).batch.any (fun b => decide (b.slot = slot) && b.lanes.contains lane) ||
    k.stoppedBatches.any fun e => decide (e.2.slot = slot) && e.2.lanes.contains lane

theorem inBatch_eq_holdsLane (s : State) (f : FRef) : inBatch s f = holdsLane (getCore s f.core) f.slot f.lane := rfl

/-- The batches of `l` hold no lane that those of `k` do not. -/
def FewerLanes (k l : Core) : Prop := ∀ slot lane, holdsLane l slot lane = true → holdsLane k slot lane = true

theorem FewerLanes.refl (k : Core) : FewerLanes k k := fun _ _ held => held

/-- The same batches at the same places. -/
def SameBatches (k l : Core) : Prop :=
  (∀ n, (tgetD l.parts n Partition.idle).batch = (tgetD k.parts n Partition.idle).batch) ∧ l.stoppedBatches = k.stoppedBatches

theorem SameBatches.fewer {k l : Core} (same : SameBatches k l) : FewerLanes k l := fun slot lane held => by
  obtain ⟨batch, stopped⟩ := same
  rw [holdsLane, batch, stopped] at held
  exact held

theorem sameBatches_of_eq {k l : Core} (parts : l.parts = k.parts) (stopped : l.stoppedBatches = k.stoppedBatches) : SameBatches k l :=
  ⟨fun n => by rw [parts], stopped⟩

/-- Changing the issue buffers alone changes no batch. -/
theorem batch_mapParts (parts : Tbl Nat Partition) {g : Partition → Partition} (kept : ∀ p, (g p).batch = p.batch) (n : Nat) :
    (tgetD (parts.map fun p => (p.1, g p.2)) n Partition.idle).batch = (tgetD parts n Partition.idle).batch := by
  unfold tgetD
  rw [tget_mapEntries]
  cases tget parts n with
  | none => rfl
  | some p => exact kept p

/-! ## The lanes that the batches of a state hold -/

/-- No batch of `t` holds a lane that none of `s` holds. -/
def NoNewLanes (s t : State) : Prop := ∀ c, FewerLanes (getCore s c) (getCore t c)

theorem NoNewLanes.refl (s : State) : NoNewLanes s s := fun _ => .refl _

theorem NoNewLanes.trans {s t u : State} (first : NoNewLanes s t) (second : NoNewLanes t u) : NoNewLanes s u :=
  fun c slot lane held => first c slot lane (second c slot lane held)

theorem NoNewLanes.inBatch {s t : State} (fewer : NoNewLanes s t) {f : FRef} (out : inBatch s f = false) : inBatch t f = false := by
  rw [inBatch_eq_holdsLane] at out ⊢
  exact Bool.eq_false_iff.2 fun held => Bool.eq_false_iff.1 out (fewer _ _ _ held)

theorem noNewLanes_of_cores {s t : State} (cores : t.cores = s.cores) : NoNewLanes s t := fun c => by
  have core : getCore t c = getCore s c := congrArg (tgetD · c Core.fresh) cores
  rw [core]
  exact .refl _

theorem OnlyMemory.noNewLanes {s t : State} (memory : OnlyMemory s t) : NoNewLanes s t := by
  rw [memory.eq]
  exact noNewLanes_of_cores rfl

theorem OnlyReports.noNewLanes {s t : State} (reports : OnlyReports s t) : NoNewLanes s t := reports.onlyMemory.noNewLanes

theorem noNewLanes_foldl {α : Type} {body : State → α → State} (fewer : ∀ s a, NoNewLanes s (body s a)) : ∀ (l : List α) (s : State), NoNewLanes s (l.foldl body s)
  | [], s => .refl s
  | a :: l, s => (fewer s a).trans (noNewLanes_foldl fewer l _)

theorem noNewLanes_ite {p : Prop} [Decidable p] {s t u : State} (yes : NoNewLanes s t) (no : NoNewLanes s u) : NoNewLanes s (if p then t else u) := by
  split <;> assumption

theorem noNewLanes_modCore (s : State) (c : Nat) {g : Core → Core} (fewer : FewerLanes (getCore s c) (g (getCore s c))) : NoNewLanes s (modCore s c g) := fun d => by
  by_cases same : d = c
  · rw [same, getCore_modCore_self]
    exact fewer
  · rw [getCore_modCore_ne _ _ same]
    exact .refl _

/-- A change of a core that leaves its partitions and its stopped batches alone. -/
theorem noNewLanes_modCore_kept (s : State) (c : Nat) {g : Core → Core} (parts : (g (getCore s c)).parts = (getCore s c).parts)
    (stopped : (g (getCore s c)).stoppedBatches = (getCore s c).stoppedBatches) : NoNewLanes s (modCore s c g) :=
  noNewLanes_modCore s c (sameBatches_of_eq parts stopped).fewer

/-- The same for every core at once. -/
theorem noNewLanes_mapCores (s : State) {g : Core → Core} (same : ∀ k, SameBatches k (g k)) :
    NoNewLanes s { s with cores := s.cores.map fun e => (e.1, g e.2) } := fun c => by
  rw [getCore_mapEntries s g]
  split_ifs with known
  · exact (same _).fewer
  · rw [Option.not_isSome_iff_eq_none] at known
    have fresh : getCore s c = Core.fresh := by simp [getCore, tgetD, known]
    rw [fresh]
    exact .refl _

theorem noNewLanes_modFib (s : State) (f : FRef) (g : Fibre → Fibre) : NoNewLanes s (modFib s f g) := noNewLanes_of_cores (modFib_cores s f g)

/-! ## Leaving a batch -/

/-- A batch without the lanes, where it is the group's. -/
def cutLanes (slot : Nat) (lanes : List Nat) (b : Batch) : Batch :=
  if b.slot = slot then { b with lanes := b.lanes.filter fun l => ! lanes.contains l } else b

/-- A batch that has been cut holds what it held, and of the group no lane that was cut. -/
theorem holds_cutLanes {slot : Nat} {lanes : List Nat} {b : Batch} {at_ lane : Nat}
    (held : (decide ((cutLanes slot lanes b).slot = at_) && (cutLanes slot lanes b).lanes.contains lane) = true) :
    (decide (b.slot = at_) && b.lanes.contains lane) = true ∧ ¬ (at_ = slot ∧ lane ∈ lanes) := by
  unfold cutLanes at held
  split at held
  next own =>
    simp only [Bool.and_eq_true, decide_eq_true_eq, List.mem_filter, Bool.not_eq_true', List.contains_eq_mem, decide_eq_false_iff_not] at held ⊢
    exact ⟨⟨held.1, held.2.1⟩, fun both => held.2.2 both.2⟩
  next other =>
    refine ⟨held, fun both => other ?_⟩
    simp only [Bool.and_eq_true, decide_eq_true_eq] at held
    rw [held.1, both.1]

theorem any_map_cutLanes {slot : Nat} {lanes : List Nat} {at_ lane : Nat} : ∀ {o : Option Batch},
    ((o.map (cutLanes slot lanes)).any fun b => decide (b.slot = at_) && b.lanes.contains lane) = true →
      (o.any fun b => decide (b.slot = at_) && b.lanes.contains lane) = true ∧ ¬ (at_ = slot ∧ lane ∈ lanes)
  | none, held => by cases held
  | some _, held => holds_cutLanes held

/-- The part of leaving a batch that concerns the batch in its partition. -/
def leavePart (s : State) (core slot : Nat) (lanes : List Nat) : State :=
  match (getPart s core (slotPart slot)).batch with
  | some b => if b.slot = slot then modPart s core (slotPart slot) fun p => { p with batch := some (cutLanes slot lanes b) } else s
  | none => s

theorem batch_leavePart (s : State) (core slot : Nat) (lanes : List Nat) (n : Nat) :
    (getPart (leavePart s core slot lanes) core n).batch =
      if n = slotPart slot then (getPart s core n).batch.map (cutLanes slot lanes) else (getPart s core n).batch := by
  unfold leavePart
  by_cases here : n = slotPart slot
  · subst here
    rw [if_pos rfl]
    cases batch : (getPart s core (slotPart slot)).batch with
    | none => exact batch
    | some b =>
      dsimp only
      split_ifs with own
      · rw [getPart_modPart_self]
        rfl
      · rw [batch, Option.map_some, cutLanes, if_neg own]
  · rw [if_neg here]
    split
    · split_ifs
      · simp only [getPart, modPart, getCore_modCore_self, tgetD, tget_tput_ne _ here]
      · rfl
    · rfl

theorem stopped_leavePart (s : State) (core slot : Nat) (lanes : List Nat) :
    (getCore (leavePart s core slot lanes) core).stoppedBatches = (getCore s core).stoppedBatches := by
  unfold leavePart
  split
  · split_ifs
    · rw [modPart, getCore_modCore_self]
    · rfl
  · rfl

/-- Where no stopped batch is the group's, cutting lanes changes none. -/
theorem map_cutLanes_eq_self {stopped : List (Nat × Batch)} {slot : Nat} (lanes : List Nat) (other : (stopped.any fun e => decide (e.2.slot = slot)) = false) :
    stopped.map (fun e => (e.1, cutLanes slot lanes e.2)) = stopped := by
  conv_rhs => rw [← List.map_id stopped]
  refine List.map_congr_left fun e mem => ?_
  have apart : ¬ e.2.slot = slot := by simpa using List.any_eq_false.1 other e mem
  rw [cutLanes, if_neg apart]
  rfl

theorem leaveBatch_eq (s : State) (core slot : Nat) (lanes : List Nat) : leaveBatch s core slot lanes =
    if ((getCore (leavePart s core slot lanes) core).stoppedBatches.any fun e => decide (e.2.slot = slot)) = true then
      modCore (leavePart s core slot lanes) core fun k => { k with stoppedBatches := k.stoppedBatches.map fun e => (e.1, cutLanes slot lanes e.2) }
    else leavePart s core slot lanes := rfl

theorem stopped_leaveBatch (s : State) (core slot : Nat) (lanes : List Nat) :
    (getCore (leaveBatch s core slot lanes) core).stoppedBatches = (getCore s core).stoppedBatches.map fun e => (e.1, cutLanes slot lanes e.2) := by
  rw [leaveBatch_eq]
  split_ifs with own
  · rw [getCore_modCore_self]
    dsimp only
    rw [stopped_leavePart]
  · rw [stopped_leavePart] at own ⊢
    rw [map_cutLanes_eq_self lanes (Bool.eq_false_iff.2 own)]

theorem batch_leaveBatch (s : State) (core slot : Nat) (lanes : List Nat) (n : Nat) :
    (getPart (leaveBatch s core slot lanes) core n).batch =
      if n = slotPart slot then (getPart s core n).batch.map (cutLanes slot lanes) else (getPart s core n).batch := by
  rw [← batch_leavePart, leaveBatch_eq]
  split_ifs
  · rw [getPart, getCore_modCore_self]
    rfl
  · rfl

/-- After the lanes have left, what is held was held, and they are not. -/
theorem holdsLane_leaveBatch {s : State} {core slot : Nat} {lanes : List Nat} {at_ lane : Nat}
    (held : holdsLane (getCore (leaveBatch s core slot lanes) core) at_ lane = true) :
    holdsLane (getCore s core) at_ lane = true ∧ ¬ (at_ = slot ∧ lane ∈ lanes) := by
  unfold holdsLane at held ⊢
  rw [Bool.or_eq_true] at held ⊢
  rcases held with inPart | inStopped
  · change ((getPart (leaveBatch s core slot lanes) core (slotPart at_)).batch.any _) = true at inPart
    rw [batch_leaveBatch] at inPart
    split_ifs at inPart with here
    · obtain ⟨before, out⟩ := any_map_cutLanes inPart
      exact ⟨.inl before, out⟩
    · exact ⟨.inl inPart, fun both => here (congrArg slotPart both.1)⟩
  · rw [stopped_leaveBatch] at inStopped
    obtain ⟨e, mem, holds⟩ := List.any_eq_true.1 inStopped
    obtain ⟨old, member, rfl⟩ := List.mem_map.1 mem
    obtain ⟨before, out⟩ := holds_cutLanes holds
    exact ⟨.inr (List.any_eq_true.2 ⟨old, member, before⟩), out⟩

theorem noNewLanes_leavePart_ne (s : State) {core c : Nat} (slot : Nat) (lanes : List Nat) (other : c ≠ core) :
    getCore (leaveBatch s core slot lanes) c = getCore s c := by
  have part : getCore (leavePart s core slot lanes) c = getCore s c := by
    unfold leavePart
    split
    · split_ifs
      · exact getCore_modCore_ne _ _ other
      · rfl
    · rfl
  rw [leaveBatch_eq]
  split_ifs
  · rw [getCore_modCore_ne _ _ other, part]
  · exact part

theorem noNewLanes_leaveBatch (s : State) (core slot : Nat) (lanes : List Nat) : NoNewLanes s (leaveBatch s core slot lanes) := fun c => by
  by_cases same : c = core
  · subst same
    exact fun at_ lane held => (holdsLane_leaveBatch held).1
  · rw [noNewLanes_leavePart_ne s slot lanes same]
    exact .refl _

/-- A lane that leaves its batch is in none. -/
theorem not_inBatch_leaveBatch (s : State) (f : FRef) : inBatch (leaveBatch s f.core f.slot [f.lane]) f = false := by
  rw [inBatch_eq_holdsLane]
  exact Bool.eq_false_iff.2 fun held => (holdsLane_leaveBatch held).2 ⟨rfl, List.mem_singleton_self _⟩

end Sys2Proof.Proofs

/-!
Nothing that a trap does puts a lane into a batch.
-/
namespace Sys2Proof.Proofs

open Machine Claims Laws

/-! ## Stores to memory -/

theorem noNewLanes_writeBackPieces (s : State) (e : Granule) (is : List Nat) : NoNewLanes s (writeBackPieces s e is) :=
  noNewLanes_foldl (fun s _ => noNewLanes_ite (onlyMemory_memWrite s _ _ _ _).noNewLanes
    (noNewLanes_foldl (fun s _ => (onlyMemory_memWrite s _ _ _ _).noNewLanes) _ s)) _ s

theorem noNewLanes_notePoison (s : State) (home pa : Nat) (p : Piece) : NoNewLanes s (notePoison s home pa p) :=
  noNewLanes_ite (onlyReports_logPiece _ _ _ _ _).noNewLanes (.refl s)

theorem noNewLanes_writeBackTag (s : State) (home : Nat) (e : Granule) : NoNewLanes s (writeBackTag s home e) := by
  refine (noNewLanes_foldl (fun s i => ?_) _ s).trans (noNewLanes_writeBackPieces _ _ _)
  split
  · exact noNewLanes_notePoison _ _ _ _
  · exact .refl s

theorem noNewLanes_evictTag (s : State) (home : Nat) (e : Granule) : NoNewLanes s (evictTag s home e) :=
  (noNewLanes_writeBackTag s home e).trans (noNewLanes_modCore_kept _ _ rfl rfl)

theorem noNewLanes_evictUnpinned (s : State) (home : Nat) (e : Granule) : NoNewLanes s (evictUnpinned s home e) :=
  (noNewLanes_writeBackTag s home _).trans (noNewLanes_modCore_kept _ _ rfl rfl)

/-- Where there is a state, no batch of it holds a new lane. -/
def RoomKept (s : State) (o : Option State) : Prop := ∀ t, o = some t → NoNewLanes s t

theorem RoomKept.trans {s t : State} {o : Option State} (first : NoNewLanes s t) (room : RoomKept t o) : RoomKept s o :=
  fun u made => first.trans (room u made)

theorem roomKept_some {s t : State} (fewer : NoNewLanes s t) : RoomKept s (some t) := fun u made => by
  cases made
  exact fewer

theorem roomKept_none (s : State) : RoomKept s none := fun _ made => by cases made

theorem roomKept_ite {p : Prop} [Decidable p] {s : State} {a b : Option State} (yes : RoomKept s a) (no : RoomKept s b) : RoomKept s (if p then a else b) := by
  split <;> assumption

/-- Room for a piece is made by evictions alone. -/
theorem roomKept_l2Room : ∀ (fuel : Nat) (s : State) (home pc want : Nat), RoomKept s (l2Room fuel s home pc want)
  | 0, s, _, _, _ => roomKept_none s
  | fuel + 1, s, home, pc, want => by
    unfold l2Room
    extract_lets
    refine roomKept_ite (roomKept_some (.refl s)) ?_
    extract_lets
    split
    · exact .trans (noNewLanes_evictTag _ _ _) (roomKept_l2Room _ _ _ _ _)
    refine roomKept_ite (roomKept_none s) ?_
    split
    · exact .trans (noNewLanes_evictUnpinned _ _ _) (roomKept_l2Room _ _ _ _ _)
    · exact roomKept_none s

theorem noNewLanes_l2Put (s : State) (home pc : Nat) (bcmp : Bool) (p : Piece) : NoNewLanes s (l2Put s home pc bcmp p) :=
  noNewLanes_modCore_kept s home rfl rfl

theorem noNewLanes_bump (s : State) (core off n : Nat) : NoNewLanes s (bump s core off n) := noNewLanes_modCore_kept s core rfl rfl

theorem noNewLanes_countCoding (s : State) (home : Nat) (c : BitVec 3) : NoNewLanes s (countCoding s home c) :=
  noNewLanes_ite (.refl s) (noNewLanes_bump _ _ _ _)

theorem noNewLanes_l2Drop (s : State) (home pc : Nat) : NoNewLanes s (l2Drop s home pc) := by
  refine noNewLanes_modCore_kept s home ?_ ?_
  · dsimp only
    split <;> rfl
  · dsimp only
    split <;> rfl

theorem noNewLanes_l2Fill (s : State) (home pc : Nat) (bcmp : Bool) : NoNewLanes s (l2Fill s home pc bcmp) := by
  dsimp only [l2Fill]
  split
  · exact noNewLanes_modCore_kept s home rfl rfl
  split
  next room => exact (roomKept_l2Room _ _ _ _ _ _ room).trans ((noNewLanes_l2Put _ _ _ _ _).trans (noNewLanes_countCoding _ _ _))
  next => exact noNewLanes_bump _ _ _ _

theorem noNewLanes_memWrite (s : State) (pa : Nat) (bytes : List Byte) (poison : Nat) (bcmp : Bool) : NoNewLanes s (memWrite s pa bytes poison bcmp) :=
  (onlyMemory_memWrite s pa bytes poison bcmp).noNewLanes

theorem noNewLanes_logPiece (s : State) (ekind struct home pa : Nat) : NoNewLanes s (logPiece s ekind struct home pa) :=
  (onlyReports_logPiece s ekind struct home pa).noNewLanes

/-- What a home does with a write of a piece that it has, or of a whole piece. -/
def writePiece (s : State) (home pa : Nat) (bytes : List Byte) (wt bcmp : Bool) (poison : Nat) (old : Option Piece) : State :=
  let base : Piece := old.getD { data := List.replicate 64 0, dirty := false, poison := 0, seen := false, pin := false, coding := 0b001, promo := 0x3FF }
  let data := spliceBytes base.data (pa % 64) bytes
  let s := if decide (bytes.length = 64) ∧ base.poison ≠ 0 ∧ ¬ base.seen then logPiece s 0x03 base.poison home (pa / 64 * 64) else s
  let psn := if decide (bytes.length = 64) then poison else orPoison base.poison poison
  let c := if base.pin then 0 else codingOf data
  match (if old.isSome ∧ sectorsOf c ≤ sectorsOf base.coding then some s else l2Room 64 s home (pa / 64) (sectorsOf c)) with
  | some t =>
    let u := countCoding (l2Put t home (pa / 64) bcmp { base with
      data := data, dirty := ! wt || base.dirty, poison := psn, seen := base.seen && decide (psn = base.poison), coding := c }) home c
    if wt then memWrite u pa bytes poison bcmp else u
  | none =>
    let t := bump (l2Drop s home (pa / 64)) home 0x00C 1
    let t := if ¬ decide (bytes.length = 64) ∧ base.poison ≠ 0 then logPiece t 0x03 base.poison home (pa / 64 * 64) else t
    if old.isSome then memWrite t (pa / 64 * 64) data psn bcmp else memWrite t pa bytes poison bcmp

theorem noNewLanes_writePiece (s : State) (home pa : Nat) (bytes : List Byte) (wt bcmp : Bool) (poison : Nat) (old : Option Piece) :
    NoNewLanes s (writePiece s home pa bytes wt bcmp poison old) := by
  unfold writePiece
  extract_lets base data reported psn c dropped noted
  have first : NoNewLanes s reported := noNewLanes_ite (noNewLanes_logPiece _ _ _ _ _) (.refl _)
  have second : NoNewLanes reported dropped := (noNewLanes_l2Drop _ _ _).trans (noNewLanes_bump _ _ _ _)
  have third : NoNewLanes dropped noted := noNewLanes_ite (noNewLanes_logPiece _ _ _ _ _) (.refl _)
  refine first.trans ?_
  clear_value reported dropped noted psn c data base
  split
  next room =>
    refine (roomKept_ite (roomKept_some (.refl _)) (roomKept_l2Room _ _ _ _ _) _ room).trans ?_
    exact ((noNewLanes_l2Put _ _ _ _ _).trans (noNewLanes_countCoding _ _ _)).trans (noNewLanes_ite (noNewLanes_memWrite _ _ _ _ _) (.refl _))
  next => exact (second.trans third).trans (noNewLanes_ite (noNewLanes_memWrite _ _ _ _ _) (noNewLanes_memWrite _ _ _ _ _))

/-- The home with the piece filled in, where the write needs it. -/
def filledFor (s : State) (home pa : Nat) (bytes : List Byte) (bcmp : Bool) : State :=
  if (l2Piece (getCore (noteMigration s pa) home) (pa / 64)).isSome ∨ decide (bytes.length = 64) then noteMigration s pa
  else l2Fill (noteMigration s pa) home (pa / 64) bcmp

theorem noNewLanes_filledFor (s : State) (home pa : Nat) (bytes : List Byte) (bcmp : Bool) : NoNewLanes s (filledFor s home pa bytes bcmp) := by
  have noted : NoNewLanes s (noteMigration s pa) := noNewLanes_of_cores rfl
  exact noted.trans (noNewLanes_ite (.refl _) (noNewLanes_l2Fill _ _ _ _))

theorem noNewLanes_homeWrite (s : State) (home pa : Nat) (bytes : List Byte) (wt bcmp : Bool) (poison : Nat) :
    NoNewLanes s (homeWrite s home pa bytes wt bcmp poison) := by
  refine (noNewLanes_filledFor s home pa bytes bcmp).trans ?_
  change NoNewLanes _ (match l2Piece (getCore (filledFor s home pa bytes bcmp) home) (pa / 64), decide (bytes.length = 64) with
    | none, false => memWrite (filledFor s home pa bytes bcmp) pa bytes poison bcmp
    | _, _ => writePiece (filledFor s home pa bytes bcmp) home pa bytes wt bcmp poison (l2Piece (getCore (filledFor s home pa bytes bcmp) home) (pa / 64)))
  split
  · exact noNewLanes_memWrite _ _ _ _ _
  · exact noNewLanes_writePiece _ _ _ _ _ _ _ _

theorem noNewLanes_cistClear (s : State) (core : Nat) (p : Nat → Bool) : NoNewLanes s (cistClear s core p) :=
  (noNewLanes_foldl (fun s _ => (onlyReports_logError s _ _ _ _ _ _ _).noNewLanes) _ s).trans
    (noNewLanes_ite (noNewLanes_modCore_kept _ _ rfl rfl) (.refl _))

theorem noNewLanes_cistWrite (s : State) (core off : Nat) (bytes : List Byte) (poison : Nat) : NoNewLanes s (cistWrite s core off bytes poison) := by
  have noted : NoNewLanes s (noteBanks s core off bytes.length) := noNewLanes_of_cores rfl
  exact noted.trans ((noNewLanes_cistClear _ _ _).trans (noNewLanes_modCore_kept _ _ rfl rfl))

theorem noNewLanes_targetWrite (s : State) (t : Target) (bytes : List Byte) (poison : Nat) : NoNewLanes s (targetWrite s t bytes poison) := by
  unfold targetWrite
  split
  · exact noNewLanes_homeWrite _ _ _ _ _ _ _
  · exact noNewLanes_cistWrite _ _ _ _ _

theorem noNewLanes_virtWrite (s : State) (core slice prv va : Nat) (bytes : List Byte) (poison : Nat) :
    NoNewLanes s (virtWrite s core slice prv va bytes poison) := by
  refine noNewLanes_foldl (fun s p => ?_) _ s
  split
  · exact noNewLanes_targetWrite _ _ _ _
  · exact .refl s

/-! ## The end of a fibre -/

theorem noNewLanes_emit (s : State) (vc : VC) (kind src dst flits : Nat) (tags : BitVec 18) (body : Body) :
    NoNewLanes s (emit s vc kind src dst flits tags body) := noNewLanes_of_cores rfl

theorem noNewLanes_returnCredits (s : State) (core sl t q n : Nat) : NoNewLanes s (returnCredits s core sl t q n) := by
  unfold returnCredits
  split
  · exact noNewLanes_emit _ _ _ _ _ _ _ _
  · exact .refl s

theorem noNewLanes_combineReply (s : State) (home : Nat) (q : CombReq) (fault : Bool) (words : List Word) :
    NoNewLanes s (combineReply s home q fault words) := noNewLanes_of_cores rfl

theorem noNewLanes_oweReply (s : State) (f : FRef) (p : Packet) : NoNewLanes s (oweReply s f p) := by
  unfold oweReply
  split
  · exact noNewLanes_of_cores rfl
  · exact .refl s

/-! ## The end of a fibre -/

theorem noNewLanes_commitHeld (s : State) (f : FRef) : NoNewLanes s (commitHeld s f) := by
  unfold commitHeld
  extract_lets owed
  have first : NoNewLanes s owed := by
    refine noNewLanes_foldl (fun s e => ?_) _ s
    exact noNewLanes_oweReply s f e.packet
  clear_value owed
  exact first.trans (noNewLanes_modCore_kept _ _ rfl rfl)

/-- A change of the issue buffers of a core's partitions. -/
def mapBuffers (h : List BufEntry → List BufEntry) (k : Core) : Core :=
  { k with parts := k.parts.map fun p => (p.1, { p.2 with buffer := h p.2.buffer }) }

theorem fewerLanes_mapBuffers (h : List BufEntry → List BufEntry) (k : Core) : FewerLanes k (mapBuffers h k) :=
  SameBatches.fewer ⟨fun n => batch_mapParts k.parts (g := fun p => { p with buffer := h p.buffer }) (fun _ => rfl) n, rfl⟩

/-- A change of a core that changes, of its partitions, the issue buffers, and no stopped batch. -/
theorem noNewLanes_modBuffers (s : State) (c : Nat) {g : Core → Core} (h : List BufEntry → List BufEntry)
    (parts : (g (getCore s c)).parts = (mapBuffers h (getCore s c)).parts) (stopped : (g (getCore s c)).stoppedBatches = (getCore s c).stoppedBatches) :
    NoNewLanes s (modCore s c g) :=
  noNewLanes_modCore s c fun slot lane held => fewerLanes_mapBuffers h _ slot lane ((sameBatches_of_eq (k := mapBuffers h (getCore s c)) parts stopped).fewer slot lane held)

theorem noNewLanes_dropHeld (s : State) (f : FRef) : NoNewLanes s (dropHeld s f) := by
  unfold dropHeld
  extract_lets mine dropped
  have first : NoNewLanes s dropped := noNewLanes_modBuffers s f.core
    (fun b => b.filter fun e => ! (decide (e.f = f) && match e.cmd with | .packet _ held => held | _ => false)) rfl rfl
  clear_value dropped
  refine first.trans (noNewLanes_foldl (fun s e => ?_) _ _)
  split
  · exact noNewLanes_returnCredits _ _ _ _ _ _
  · exact .refl s

theorem noNewLanes_finishWave (s : State) (core wid : Nat) : NoNewLanes s (finishWave s core wid) := by
  unfold finishWave
  split
  · exact .trans (noNewLanes_modCore_kept s core rfl rfl) (noNewLanes_foldl (fun s _ => noNewLanes_combineReply s _ _ _ _) _ _)
  · exact .refl s

theorem noNewLanes_poolReturn (s : State) (core n : Nat) : NoNewLanes s (poolReturn s core n) := noNewLanes_modCore_kept s core rfl rfl

theorem noNewLanes_keepLeads (s : State) (core team : Nat) (t : Team) : NoNewLanes s (keepLeads s core team t) := noNewLanes_of_cores rfl

theorem noNewLanes_endTeam (s : State) (core team : Nat) : NoNewLanes s (endTeam s core team) := by
  unfold endTeam
  extract_lets freed unleased returned led
  have first : NoNewLanes s freed := .trans (noNewLanes_modCore_kept s core rfl rfl) (noNewLanes_modCore_kept _ core rfl rfl)
  have second : NoNewLanes freed unleased := noNewLanes_of_cores rfl
  have third : NoNewLanes unleased returned := noNewLanes_foldl
    (fun s sl => .trans (t := { s with groups := tdel s.groups (core, sl) }) (noNewLanes_of_cores rfl) (noNewLanes_poolReturn _ _ _)) _ _
  have fourth : NoNewLanes returned led := by
    unfold led
    split
    · exact noNewLanes_ite (noNewLanes_keepLeads _ _ _ _) (.refl _)
    · exact .refl _
  clear_value freed unleased returned led
  exact ((first.trans second).trans (third.trans fourth)).trans (noNewLanes_of_cores rfl)

theorem noNewLanes_endIfEmpty (s : State) (core team : Nat) : NoNewLanes s (endIfEmpty s core team) := by
  unfold endIfEmpty
  split
  · exact noNewLanes_ite (.refl s) (noNewLanes_endTeam s core team)
  · exact .refl s

theorem noNewLanes_removeLane (s : State) (f : FRef) : NoNewLanes s (removeLane s f) := by
  unfold removeLane
  extract_lets settled freed gone
  have first : NoNewLanes s settled := noNewLanes_ite (noNewLanes_commitHeld s f) (noNewLanes_dropHeld s f)
  have second : NoNewLanes settled freed := .trans (t := { settled with fibres := tdel settled.fibres f }) (noNewLanes_of_cores rfl) (noNewLanes_modCore_kept _ _ rfl rfl)
  have third : NoNewLanes freed gone := noNewLanes_of_cores rfl
  clear_value settled freed gone
  refine (first.trans second).trans ?_
  split
  · refine noNewLanes_ite ?_ (.refl _)
    extract_lets finished unclaimed
    have fourth : NoNewLanes gone finished := by
      unfold finished
      split
      · exact noNewLanes_finishWave _ _ _
      · exact .refl _
    have fifth : NoNewLanes finished unclaimed := noNewLanes_modCore_kept _ _ rfl rfl
    clear_value finished unclaimed
    exact ((third.trans fourth).trans fifth).trans (noNewLanes_ite (.refl _) (.trans (noNewLanes_poolReturn _ _ _) (noNewLanes_endIfEmpty _ _ _)))
  · exact .refl _

theorem noNewLanes_abandonSections (s : State) (f : FRef) : NoNewLanes s (abandonSections s f) := by
  unfold abandonSections
  split
  · exact .trans (noNewLanes_foldl (fun s _ => noNewLanes_emit s _ _ _ _ _ _ _) _ s) (noNewLanes_modFib _ _ _)
  · exact .refl s

theorem noNewLanes_endFibre (s : State) (f : FRef) : NoNewLanes s (endFibre s f) := by
  unfold endFibre
  extract_lets left
  have first : NoNewLanes s left := (noNewLanes_abandonSections s f).trans (noNewLanes_leaveBatch _ _ _ _)
  clear_value left
  refine first.trans ?_
  split
  · exact noNewLanes_ite (noNewLanes_removeLane _ _) (noNewLanes_of_cores rfl)
  · exact .refl _

/-- What becomes of a core's waiters when one fibre's are taken away. -/
def withoutWaiters (mine : Waiter → Bool) (kill : Bool) (k : Core) : Core :=
  if ! k.waiters.any mine then k
  else
    let ws := (k.waiters.filter fun w => w.skip || ! mine w).map fun w => if w.skip ∧ mine w ∧ kill then { w with abn := true } else w
    { k with
      waiters := ws
      sections := k.sections.filter fun x => x.held || decide (x.next ≠ 0) || x.abn || ws.any fun w => decide (w.key = x.key) }

theorem noNewLanes_freeWaiters (s : State) (f : FRef) (kill : Bool) : NoNewLanes s (freeWaiters s f kill) := by
  have cores : (freeWaiters s f kill).cores =
      s.cores.map fun e => (e.1, withoutWaiters (fun w => decide (w.f = f) && decide (w.gen = fibGen s f)) kill e.2) := by
    refine List.map_congr_left fun e _ => ?_
    unfold withoutWaiters
    split <;> rfl
  refine .trans (t := { s with cores := (freeWaiters s f kill).cores }) ?_ (noNewLanes_of_cores rfl)
  rw [cores]
  refine noNewLanes_mapCores s fun k => ?_
  unfold withoutWaiters
  split <;> exact sameBatches_of_eq rfl rfl

theorem noNewLanes_settleFences (s : State) (core : Nat) : NoNewLanes s (settleFences s core) := noNewLanes_of_cores rfl

theorem noNewLanes_stopFibre (s : State) (f : FRef) (kill : Bool) : NoNewLanes s (stopFibre s f kill) := by
  unfold stopFibre
  extract_lets held dropped lost cleared
  have first : NoNewLanes s dropped := noNewLanes_dropHeld s f
  have second : NoNewLanes dropped lost := noNewLanes_modFib _ _ _
  have third : NoNewLanes lost cleared := noNewLanes_modBuffers lost f.core
    (fun b => b.filter fun e => ! (decide (e.f = f) && match e.cmd with | .refill | .frameRead => true | _ => false)) rfl rfl
  clear_value dropped lost cleared
  refine ((first.trans second).trans third).trans ?_
  exact (noNewLanes_freeWaiters _ _ _).trans ((noNewLanes_settleFences _ _).trans (noNewLanes_endFibre _ _))

/-! ## Faults -/

theorem noNewLanes_waveFault (s : State) (core slot : Nat) : NoNewLanes s (waveFault s core slot) := by
  unfold waveFault
  split
  · exact .refl s
  split
  · extract_lets fs returned k bodies lost keep flying dropped lanes unwaved answered left
    have first : NoNewLanes s returned := noNewLanes_of_cores rfl
    have second : NoNewLanes returned flying := noNewLanes_of_cores rfl
    have third : NoNewLanes flying dropped := noNewLanes_modBuffers flying core (fun b => b.filter fun e => ! fs.contains e.f) rfl rfl
    have fourth : NoNewLanes dropped unwaved := noNewLanes_modCore_kept _ _ rfl rfl
    have fifth : NoNewLanes unwaved answered := noNewLanes_foldl (fun s _ => noNewLanes_combineReply s _ _ _ _) _ _
    have sixth : NoNewLanes answered left := noNewLanes_leaveBatch _ _ _ _
    clear_value returned flying dropped unwaved answered left
    refine ((first.trans second).trans (third.trans fourth)).trans ((fifth.trans sixth).trans ?_)
    exact noNewLanes_foldl (fun s f => .trans (noNewLanes_modFib _ _ _) (noNewLanes_stopFibre _ _ _)) _ _
  · exact .refl s

theorem noNewLanes_postFaults (s : State) (core slice : Nat) (recs : List FaultRec) : NoNewLanes s (postFaults s core slice recs) := by
  unfold postFaults postFaultsFrom
  split
  · exact noNewLanes_ite (.refl s) (noNewLanes_of_cores rfl)
  · exact .refl s

/-- A partition that loses its batch. -/
theorem noNewLanes_emptyPart (s : State) (core part : Nat) : NoNewLanes s (modPart s core part fun p => { p with batch := none }) := by
  refine noNewLanes_modCore s core fun slot lane held => ?_
  unfold holdsLane at held ⊢
  rw [Bool.or_eq_true] at held ⊢
  refine held.imp_left fun inPart => ?_
  by_cases here : slotPart slot = part
  · simp [tgetD, here] at inPart
  · rwa [tgetD, tget_tput_ne _ here] at inPart

/-- Stopped batches that are taken away. -/
theorem fewerLanes_filterStopped (k : Core) (p : Nat × Batch → Bool) : FewerLanes k { k with stoppedBatches := k.stoppedBatches.filter p } := fun slot lane held => by
  unfold holdsLane at held ⊢
  rw [Bool.or_eq_true] at held ⊢
  refine held.imp_right fun inStopped => ?_
  obtain ⟨e, mem, holds⟩ := List.any_eq_true.1 inStopped
  exact List.any_eq_true.2 ⟨e, (List.mem_filter.1 mem).1, holds⟩

theorem noNewLanes_modTeam (s : State) (core team : Nat) (g : Team → Team) : NoNewLanes s (modTeam s core team g) := by
  unfold modTeam
  split
  · exact noNewLanes_of_cores rfl
  · exact .refl s

theorem noNewLanes_haltTeam (s : State) (core team : Nat) : NoNewLanes s (haltTeam s core team) := by
  unfold haltTeam
  split
  · exact .refl s
  refine noNewLanes_ite (.refl s) ?_
  extract_lets fs slots halted emptied aside granted unclaimed untaken gone lost freed returned waved
  have first : NoNewLanes s halted := noNewLanes_modTeam _ _ _ _
  have second : NoNewLanes halted emptied := by
    refine noNewLanes_foldl (fun s sl => ?_) _ _
    split
    · exact noNewLanes_ite (.trans (noNewLanes_emptyPart _ _ _) (noNewLanes_of_cores rfl)) (.refl s)
    · exact .refl s
  have third : NoNewLanes emptied unclaimed := noNewLanes_modCore _ _ fun slot lane held =>
    fewerLanes_filterStopped (getCore emptied core) (fun e => ! slots.contains e.2.slot) slot lane held
  have fourth : NoNewLanes unclaimed untaken := noNewLanes_of_cores rfl
  have fifth : NoNewLanes untaken freed := noNewLanes_of_cores rfl
  have sixth : NoNewLanes freed returned := noNewLanes_of_cores rfl
  have seventh : NoNewLanes returned waved := noNewLanes_foldl (fun s sl => noNewLanes_waveFault s core sl) _ _
  clear_value halted emptied unclaimed untaken freed returned waved
  refine ((first.trans second).trans (third.trans fourth)).trans (((fifth.trans sixth).trans seventh).trans ?_)
  exact noNewLanes_foldl (fun s f => (noNewLanes_abandonSections s f).trans (noNewLanes_freeWaiters _ _ _)) _ _

theorem noNewLanes_teamFault (s : State) (core team : Nat) (f : FRef) (pc : Word) (det : Nat) : NoNewLanes s (teamFault s core team f pc det) := by
  unfold teamFault
  split
  · exact .refl s
  · exact noNewLanes_ite (.refl s) ((noNewLanes_haltTeam _ _ _).trans (noNewLanes_postFaults _ _ _ _))

theorem noNewLanes_fibreTeamFault (s : State) (f : FRef) (det : Nat) : NoNewLanes s (fibreTeamFault s f det) := by
  unfold fibreTeamFault
  split
  · exact noNewLanes_teamFault _ _ _ _ _ _
  · exact (noNewLanes_postFaults _ _ _ _).trans (noNewLanes_endFibre _ _)

theorem noNewLanes_postPageFaults (s : State) (core slot : Nat) (pc : Word) (acc : Nat) (flts : List (Nat × DWord × Nat × Retry)) :
    NoNewLanes s (postPageFaults s core slot pc acc flts) := by
  unfold postPageFaults
  extract_lets waiting
  have first : NoNewLanes s waiting := noNewLanes_foldl (fun s _ => noNewLanes_modFib s _ _) _ _
  exact first.trans (noNewLanes_of_cores rfl)

theorem noNewLanes_writeFrame (s : State) (f : FRef) (words : List Word) (cls detail : Nat) : NoNewLanes s (writeFrame s f words cls detail) := by
  unfold writeFrame
  split
  · extract_lets a written
    have first : NoNewLanes s written := noNewLanes_virtWrite _ _ _ _ _ _ _
    clear_value written
    split
    · exact noNewLanes_postPageFaults _ _ _ _ _ _
    · exact noNewLanes_fibreTeamFault _ _ _
    · exact first.trans (noNewLanes_modFib _ _ _)
  · exact noNewLanes_fibreTeamFault _ _ _

/-! ## Traps -/

/-- After a lane of a trap has left its batch, nothing puts a lane into one. -/
theorem noNewLanes_takeTrap (s : State) (f : FRef) (pc : Word) (t : TrapInfo) : NoNewLanes (leaveBatch s f.core f.slot [f.lane]) (takeTrap s f pc t) := by
  unfold takeTrap
  extract_lets left stopped inWave
  have first : NoNewLanes (leaveBatch s f.core f.slot [f.lane]) stopped := noNewLanes_modFib _ _ _
  clear_value stopped
  refine first.trans ?_
  split
  · exact .refl _
  · refine noNewLanes_ite (noNewLanes_waveFault _ _ _) (noNewLanes_ite (noNewLanes_fibreTeamFault _ _ _) ?_)
    exact noNewLanes_ite (noNewLanes_modFib _ _ _) (noNewLanes_writeFrame _ _ _ _ _)

theorem not_inBatch_takeTrap (s : State) (f : FRef) (pc : Word) (t : TrapInfo) : inBatch (takeTrap s f pc t) f = false :=
  (noNewLanes_takeTrap s f pc t).inBatch (not_inBatch_leaveBatch s f)

theorem noNewLanes_trapLanes (s : State) (is : Issue) (lanes : List Nat) (t : TrapInfo) : NoNewLanes s (trapLanes s is lanes t) :=
  noNewLanes_foldl (fun s l => (noNewLanes_leaveBatch _ _ _ _).trans (noNewLanes_takeTrap s (is.fref l) is.pc t)) _ _

/-- Lanes that have trapped are in no batch. -/
theorem not_inBatch_trapLanes (is : Issue) (t : TrapInfo) : ∀ (lanes : List Nat) (s : State), ∀ l ∈ lanes, inBatch (trapLanes s is lanes t) (is.fref l) = false
  | [], _, _, mem => by cases mem
  | a :: lanes, s, l, mem => by
    rcases List.mem_cons.1 mem with rfl | later
    · exact (noNewLanes_trapLanes (takeTrap s (is.fref l) is.pc t) is lanes t).inBatch (not_inBatch_takeTrap s (is.fref l) is.pc t)
    · exact not_inBatch_trapLanes is t lanes (takeTrap s (is.fref a) is.pc t) l later

/-- Lanes that have trapped take no issue-buffer entry. -/
theorem signalEntry_trapLanes (s : State) (is : Issue) (act : List Nat) (t : TrapInfo) :
    signalEntry (trapLanes s is act t) is act = trapLanes s is act t := by
  have none : (act.filter fun l => inBatch (trapLanes s is act t) (is.fref l)) = [] :=
    List.filter_eq_nil_iff.2 fun l mem => by rw [not_inBatch_trapLanes is t act s l mem]; exact Bool.false_ne_true
  unfold signalEntry
  rw [none]
  rfl

end Sys2Proof.Proofs

/-!
The register-range trap (R76).
-/
namespace Sys2Proof.Proofs

open Machine Claims Laws

/-- A register out of range, where no lane is prefixed: the lanes that act trap. -/
theorem onNamed_outOfRange {s : State} {h : Head} {ops : Named} {is : Issue} {n : Nat} (batch : issuing s = some is) (unprefixed : lanesWhere s is fsrPP = [])
    (acts : lanesWhere s is (guardOf h) ≠ []) (range : outOfRange (allotOf s (is.fref 0)) ops = some n) (k : Issue → List Nat → State → State) :
    onNamed s h ops k = .next (trapLanes s is (lanesWhere s is (guardOf h)) ⟨1, 0, n, 0, 0⟩) := by
  have some_lane : (lanesWhere s is fun x => ! fsrPP x && guardOf h x).isEmpty = false := by
    rw [lanesWhere_unprefixed unprefixed]
    simpa using acts
  unfold onNamed
  rw [batch]
  dsimp only
  rw [unprefixed, some_lane, if_neg Bool.false_ne_true, lanesWhere_unprefixed unprefixed]
  change (match outOfRange (allotOf s (is.fref 0)) ops with
    | some o => _
    | none => _) = _
  rw [range] <;> rfl

theorem Guarded.exec_outOfRange {i : Instr} {h : Head} {ops : Named} (guarded : Guarded i h ops) {s : State} {is : Issue} {n : Nat} (batch : issuing s = some is)
    (unprefixed : lanesWhere s is fsrPP = []) (acts : lanesWhere s is (guardOf h) ≠ []) (range : outOfRange (allotOf s (is.fref 0)) ops = some n) :
    exec i s = .next (trapLanes s is (lanesWhere s is (guardOf h)) ⟨1, 0, n, 0, 0⟩) := by
  cases guarded with
  | plain k isArm => rw [isArm, onNamed_outOfRange batch unprefixed acts range]
  | signals k isArm =>
    rw [isArm, onNamed_outOfRange batch unprefixed acts range]
    dsimp only [signalled]
    rw [batch]
    dsimp only
    rw [lanesWhere_unprefixed unprefixed, signalEntry_trapLanes]

/-- Where one operand's registers reach beyond the allotment: its position and the first register of it that does. -/
theorem beyond_of_outOfRange {a n : Nat} {ops : Named} (small : a ≤ 255) (range : outOfRange a ops = some n) :
    ∃ p ∈ ops, p.1 = n / 256 ∧ p.2.1.toNat < 0x100 ∧ p.2.1.toNat ≤ n % 256 ∧ n % 256 < p.2.1.toNat + p.2.2 ∧ a ≤ n % 256 := by
  obtain ⟨p, mem, found⟩ := List.exists_of_findSome?_eq_some range
  dsimp only at found
  split_ifs at found with beyond
  obtain ⟨wide, register, above⟩ := beyond
  cases found
  exact ⟨p, mem, by omega, register, by omega, by omega, by omega⟩

theorem outOfRange_eq_none_iff (a : Nat) (ops : Named) :
    outOfRange a ops = none ↔ ∀ p ∈ ops, p.2.2 = 0 ∨ 0x100 ≤ p.2.1.toNat ∨ p.2.1.toNat + p.2.2 ≤ a := by
  unfold outOfRange
  rw [List.findSome?_eq_none_iff]
  refine forall₂_congr fun p _ => ?_
  dsimp only
  split_ifs with beyond
  · simp only [false_iff]
    omega
  · simp only [true_iff]
    omega

/-- Settles O53: by the instruction's rules and the arithmetic of its register operands. -/
theorem registerRangeTraps : Obligations.RegisterRangeTraps := by
  refine ⟨fun i w s is act n enc own batch unprefixed lanes acts range => ?_, fun a ops n => beyond_of_outOfRange, outOfRange_eq_none_iff⟩
  subst lanes
  exact (guarded_of_encode enc own).exec_outOfRange batch unprefixed acts range

end Sys2Proof.Proofs
